-- ==== Sys2Proof/Word.lean ====
section
/-! DEFINITION. The word types of the GZA-7160 model and their plainest arithmetic. -/

namespace Sys2Proof

/-- A byte; multi-byte values are little-endian (R18). -/
abbrev Byte := BitVec 8
/-- A register word. -/
abbrev Word := BitVec 32
/-- A logical mill index (R4). -/
abbrev MillIx := BitVec 11
/-- A port index (R11). -/
abbrev PortIx := BitVec 5
/-- A flex-site number (R10); 12 to 15 name no site. -/
abbrev SiteIx := BitVec 4
/-- A queue ID (R283). -/
abbrev QueueIx := BitVec 15
/-- A plot index: 0 to 15 for W0 to W15, 16 to 31 for E0 to E15 (R398). -/
abbrev PlotIx := BitVec 5
/-- A group slot (R197). -/
abbrev SlotIx := BitVec 3
/-- A stream address (R255). -/
abbrev StreamAddr := BitVec 48

/-- Bits `[lo + w - 1 : lo]` of a number. -/
def field (x lo w : Nat) : Nat := x / 2 ^ lo % 2 ^ w

/-- Bit `i` of a number. -/
def bitOf (x i : Nat) : Bool := x / 2 ^ i % 2 == 1

/-- A Boolean as the number 0 or 1. -/
def bn (b : Bool) : Nat := if b then 1 else 0

end Sys2Proof
end

