-- ==== Sys2Proof/Types.lean ====
section
/-! DEFINITION. The operand types of the commands: dies, writers, engine operations, bundles,
stream and packet contents. Engine binary encodings are private to a generation (R647), so an engine
operation arrives as its operation and operands. -/

namespace Sys2Proof

/-- The two compute dies (R4): W is 0, E is 1. -/
inductive Die where
  | w | e
  deriving DecidableEq, Repr

/-- The number of a die. -/
def Die.num : Die → Nat
  | .w => 0
  | .e => 1

/-- The five writers of R561. -/
inductive Writer where
  | hostP | hostU | reeveW | reeveE | debug
  deriving DecidableEq, Repr

/-- The writer code of HP_CWF1.writer (R582). -/
def Writer.code : Writer → Nat
  | .hostP => 0
  | .hostU => 1
  | .reeveW => 2
  | .reeveE => 3
  | .debug => 4

/-- The writer is one of the reeves. -/
def Writer.reeve : Writer → Bool
  | .reeveW => true
  | .reeveE => true
  | _ => false

/-- A writer that reaches the privileged aperture (R12, R561). -/
def Writer.priv : Writer → Bool
  | .hostU => false
  | _ => true

/-- The assembly options of R1. -/
inductive Option3 where
  | m | b | l
  deriving DecidableEq, Repr

/-- The status codes of R301. -/
inductive Status where
  | ok | cancelled | aborted | superseded | faultInteg | absent | denied | faultPage | faultSched
  | timeout | mismatch
  deriving DecidableEq, Repr

/-- The number of a status code (R301, Table 6). -/
def Status.code : Status → Nat
  | .ok => 0
  | .cancelled => 1
  | .aborted => 2
  | .superseded => 3
  | .faultInteg => 4
  | .absent => 5
  | .denied => 6
  | .faultPage => 7
  | .faultSched => 8
  | .timeout => 9
  | .mismatch => 10

/-- The status of a code; codes above 10 are never written (R301). -/
def Status.ofCode : Nat → Option Status
  | 0 => some .ok
  | 1 => some .cancelled
  | 2 => some .aborted
  | 3 => some .superseded
  | 4 => some .faultInteg
  | 5 => some .absent
  | 6 => some .denied
  | 7 => some .faultPage
  | 8 => some .faultSched
  | 9 => some .timeout
  | 10 => some .mismatch
  | _ => none

/-- The five engines of a mill (R8, R79). -/
inductive Eng where
  | st | mx | sv | ca | cb
  deriving DecidableEq, Repr

/-- Engine numbers of the schedule-fault record (R108): 0 ST, 1 MX, 2 SV, 3 CA, 4 CB. -/
def Eng.num : Eng → Nat
  | .st => 0
  | .mx => 1
  | .sv => 2
  | .ca => 3
  | .cb => 4

/-- The engine of a number. -/
def Eng.ofNum : Nat → Option Eng
  | 0 => some .st
  | 1 => some .mx
  | 2 => some .sv
  | 3 => some .ca
  | 4 => some .cb
  | _ => none

/-- Bytes of each engine's instruction memory (03 Table 1). -/
def Eng.imemBytes : Eng → Nat
  | .st => 16384
  | .mx => 8192
  | .sv => 8192
  | .ca => 4096
  | .cb => 4096

/-- The quern element formats of 02 Table 1. -/
inductive Fmt where
  | e2m1 | e2m3 | e3m2 | e4m3 | e5m2 | int8 | bf16 | fp16
  deriving DecidableEq, Repr

/-- A steward or carter source operand: a general register, an argument register (R82) or an immediate. -/
inductive Src where
  | reg (r : BitVec 5)
  | arg (i : BitVec 3)
  | imm (v : Word)
  deriving DecidableEq, Repr

/-- The second operand of an alu operation: a source or a 16-bit immediate (03 Table 2). -/
inductive AluSrc where
  | src (a : Src)
  | imm16 (v : BitVec 16)
  deriving DecidableEq, Repr

/-- Comparisons of compare, cmp and the branches. -/
inductive Cond where
  | eq | ne | lt | ge | le | gt | ltu | geu
  deriving DecidableEq, Repr

/-- The alu functions of 03 Table 2. -/
inductive AluFn where
  | add | sub | and | or | xor | shl | shr | sar
  | cmp (c : Cond)
  deriving DecidableEq, Repr

/-- The alu operations: a function of two operands, or a select by a condition register (R650). -/
inductive AluOp where
  | fn (f : AluFn) (rd : BitVec 5) (a : Src) (b : AluSrc)
  | select (rd : BitVec 5) (c : BitVec 5) (a b : Src)
  deriving DecidableEq, Repr

/-- A sync increment named by an operation (R89, R95). -/
structure Inc where
  counter : BitVec 4
  amount : Src
  deriving DecidableEq, Repr

/-- The yoke shapes of R42. -/
inductive Shape where
  | s1 | s2 | s4 | s48
  deriving DecidableEq, Repr

/-- A yoke: its shape and its top-left quern. -/
structure Yoke where
  shape : Shape
  row : BitVec 2
  col : BitVec 3
  deriving DecidableEq, Repr

/-- A yoke partition (R76): the modes of both halves and the 2×2 groups. -/
structure Partition where
  west : BitVec 2 := 0
  east : BitVec 2 := 0
  g2 : BitVec 8 := 0
  deriving DecidableEq, Repr

/-- A loft layout of a matrix operand. Layouts are part of the Sminas exchange form, which the spec does not
give, so an operation carries its own: element (i, j) starts at bit 8·base + i·rowBits + j·elemBits. -/
structure Layout where
  base : Nat
  rowBits : Nat
  elemBits : Nat
  deriving DecidableEq, Repr

/-- A layout of E8M0 scales: the scale of line i and block j is the byte at base + i·line + j·block. -/
structure ScaleLayout where
  base : Nat
  line : Nat
  block : Nat
  deriving DecidableEq, Repr

/-- Where a yoke operation writes (R87): a loft span, or the sieve's X (false) or Y (true) bank. -/
inductive YokeDst where
  | loft (off : Nat)
  | bank (y : Bool) (off : Nat)
  deriving DecidableEq, Repr

/-- The operands of lds (03 Table 3). -/
structure LdsArgs where
  yoke : Yoke
  src : Layout
  fmt : Fmt
  scales : Option ScaleLayout
  deriving DecidableEq, Repr

/-- The operands of mmr and mmc (03 Table 3). With `afifo`, each group of four rows takes its base from AF.MX. -/
structure MmArgs where
  yoke : Yoke
  src : Layout
  afifo : Bool
  scales : Option ScaleLayout
  rows : Nat
  dst : YokeDst
  acc : Bool
  fmtA : Fmt
  fmtB : Fmt
  readInc : Option Inc
  writeInc : Option Inc
  deriving DecidableEq, Repr

/-- One end of a mov (03 Table 4, R120). -/
inductive MovEnd where
  | loft (off : Nat)
  | bank (y : Bool) (off : Nat)
  | cstore (off : Nat)
  | fifo
  deriving DecidableEq, Repr

/-- The operands of mov. -/
structure MovArgs where
  src : MovEnd
  dst : MovEnd
  len : Nat
  afifo : Bool
  inc : Option Inc
  deriving DecidableEq, Repr

/-- The operands of agen: base, up to four counts and strides, the first pair varying fastest (03 Table 2). -/
structure AgenArgs where
  base : Src
  dims : List (Word × Word)
  deriving DecidableEq, Repr

/-- The address FIFOs of R92. -/
inductive Af where
  | mx | ca | cb
  deriving DecidableEq, Repr

/-- The number of an address FIFO; its scoreboard resource is 60 plus this (R100). -/
def Af.num : Af → Nat
  | .mx => 0
  | .ca => 1
  | .cb => 2

/-- The consumer of an address FIFO. -/
def Af.eng : Af → Eng
  | .mx => .mx
  | .ca => .ca
  | .cb => .cb

/-- A carter of a mill. -/
inductive Carter where
  | ca | cb
  deriving DecidableEq, Repr

/-- The engine of a carter. -/
def Carter.eng : Carter → Eng
  | .ca => .ca
  | .cb => .cb

/-- The address FIFO of a carter. -/
def Carter.af : Carter → Af
  | .ca => .ca
  | .cb => .cb

/-! ## The sieve's bundles (chapter 04) -/

/-- A sieve scalar operand: an E register, a 16-bit immediate, or half of an argument register. -/
inductive ESrc where
  | e (i : BitVec 3)
  | imm (v : BitVec 16)
  | arg (i : BitVec 3) (hi : Bool)
  deriving DecidableEq, Repr

/-- A sieve address: an offset, plus an E register where one is named. -/
structure SvAddr where
  base : Option (BitVec 3)
  off : BitVec 20
  deriving DecidableEq, Repr

/-- The place of a vector move: the bank of the move's own bus, a loft span, or the output FIFO. -/
inductive SvPlace where
  | bank (a : SvAddr)
  | loft (a : SvAddr)
  | fifo
  deriving DecidableEq, Repr

/-- The vector formats of ldc and stc (04 Table 5). -/
inductive SvFmt where
  | fp32 | bf16 | fp16 | e4m3 | e5m2 | e2m3 | e3m2 | e2m1
  deriving DecidableEq, Repr

/-- The moves of 04 Table 2. -/
inductive SvMove where
  | ld (src : SvPlace) (k : BitVec 3) (bx : Option (BitVec 3))
  | ldc (src : SvPlace) (fmt : SvFmt) (k : BitVec 3) (bx : Option (BitVec 3)) (scale : Option (BitVec 3))
  | ldx (a : SvAddr) (bytes : BitVec 3) (signed : Bool) (i : BitVec 3)
  | st (dst : SvPlace) (k : BitVec 3)
  | stc (dst : SvPlace) (fmt : SvFmt) (k : BitVec 3) (scale : Option (BitVec 3))
  | stx (a : SvAddr) (bytes : BitVec 3) (i : BitVec 3)
  deriving DecidableEq, Repr

/-- The sieve's two operand buses that carry moves. -/
inductive Bus where
  | x | y
  deriving DecidableEq, Repr

/-- Lane functions of 04 Table 3. -/
inductive LaneFn where
  | add | sub | min | max | abs | neg | and | or | xor
  | cmp (c : Cond)
  deriving DecidableEq, Repr

/-- The second operand of a lane function. -/
inductive LaneSrc where
  | d (j : BitVec 3)
  | imm (v : BitVec 16)
  deriving DecidableEq, Repr

/-- mul, mac and msub. -/
inductive MacFn where
  | mul | mac | msub
  deriving DecidableEq, Repr

/-- The second operand of mul, mac and msub: a D register, a C-bus word, or a C-bus vector; both C-bus forms
take their exponent from an E register (R127). -/
inductive MacSrc where
  | d (j : BitVec 3)
  | cword (a : SvAddr) (e : BitVec 3)
  | cvec (a : SvAddr) (e : BitVec 3)
  deriving DecidableEq, Repr

/-- A shift count of norm. -/
inductive NormCount where
  | val (s : ESrc)
  | auto
  deriving DecidableEq, Repr

/-- The destination of rsum and rfin: a bank or the output FIFO. -/
inductive RedDst where
  | bank (y : Bool) (a : SvAddr)
  | fifo
  deriving DecidableEq, Repr

/-- The scalar functions of xop. -/
inductive XopFn where
  | add | sub | min | max | move
  | cmp (c : Cond)
  deriving DecidableEq, Repr

/-- The tests of brc. -/
inductive BrTest where
  | zero | nonzero | neg | nonneg
  deriving DecidableEq, Repr

/-- What a bundle of a repeat body holds, as far as R131 asks. -/
inductive BodyForm where
  | plain | branch | forbidden
  deriving DecidableEq, Repr

/-- The compute operations of 04 Table 3. -/
inductive SvOp where
  | none
  | lane (f : LaneFn) (k i : BitVec 3) (b : LaneSrc)
  | sel (k c a b : BitVec 3)
  | mac (f : MacFn) (a : BitVec 2) (i : BitVec 3) (b : MacSrc)
  | aclr (a : BitVec 2) (ex : ESrc)
  | rnd (a : BitVec 2) (j : BitVec 3) (bx : Option (BitVec 3))
  | lsc (k j : BitVec 3)
  | maxe (k e : BitVec 3)
  | normD (k j : BitVec 3) (c : NormCount)
  | normA (a : BitVec 2) (c : NormCount)
  | poly (k j : BitVec 3) (a : SvAddr)
  | rexp (bus : Bus) (a : SvAddr) (e : BitVec 3)
  | ralign (bus : Bus) (a : SvAddr) (e : BitVec 3)
  | rsum (xa ya : SvAddr) (dst : RedDst)
  | rfin (bus : Bus) (a : SvAddr) (e : BitVec 3) (dst : RedDst)
  | xop (f : XopFn) (d : BitVec 3) (a b : ESrc)
  | br (target : Word)
  | brc (t : BrTest) (e : BitVec 3) (target : Word)
  | rpt (n : ESrc) (b : Nat) (body : List BodyForm)
  | sinc (c : BitVec 4) (amount : ESrc)
  | swait (c : BitVec 4) (v : ESrc)
  | endInv
  deriving DecidableEq, Repr

/-- A sieve bundle: one compute operation and up to two moves, each on its bus (R121). -/
structure Bundle where
  op : SvOp
  moves : List (Bus × SvMove)
  deriving DecidableEq, Repr

/-! ## Engine operations -/

/-- An operation of an engine, as an engine holds it while it waits. -/
inductive EngOp where
  | alu (op : AluOp)
  | mul (signed : Bool) (rd : BitVec 5) (a b : Src)
  | br (test : Option (Cond × Src × Src)) (target : Word)
  | call (target : Word)
  | ret
  | ldl (rd : BitVec 5) (base : Src) (off : Word) (wide : Bool)
  | stl (rs : BitVec 5) (base : Src) (off : Word) (wide : Bool)
  | rbell (rd rc : BitVec 5)
  | awr (f : Af) (v : Src)
  | agen (f : Af) (a : AgenArgs)
  | post (dest : Eng) (entry : Src) (args : List Src)
  | done (v : Src)
  | sinc (c : BitVec 4) (amount : Src)
  | swait (c : BitVec 4) (v : Src)
  | endInv
  | lds (a : LdsArgs)
  | mm (col : Bool) (a : MmArgs)
  | rshp (p : Partition)
  | strm (list : StreamAddr) (inc : Option Inc)
  | mov (a : MovArgs)
  | ctake (ring : QueueIx) (rd : BitVec 5)
  | cput (ring : QueueIx) (rs : BitVec 5)
  | bundle (b : Bundle)
  deriving DecidableEq, Repr

/-- What the device sends out of the block, as the outbox records it. -/
inductive OutKind where
  | bellFrame | haltNotice | parcel | laneControl | laneFrame | torusPacket | hostWrite | hostRead
  | hostPacket | hostControl | chainFrame | message | userPacket | crossItem | regReadFail | bookedFrame | ringMessage
  | bootResult | granaryCommand | probePin | debugResult | injected | writeAck
  deriving DecidableEq, Repr

/-- One thing sent: its kind, the port, mill or node it leaves by, an address and its bytes; of a packet that a router passes on,
also the cycle at which it is at the far end of its link, and the payload flits that did not come through, one bit each (R253). -/
structure Out where
  kind : OutKind
  unit : Nat
  addr : Nat
  data : List Byte
  cycle : Nat := 0
  lost : Nat := 0
  deriving DecidableEq, Repr

/-- The header of a lane frame (R434, R435). -/
inductive LaneHdr where
  | data | control | bell | invalid
  deriving DecidableEq, Repr

/-- A command entry as it stood when it was taken: its submission queue, index, tag and completion queue. -/
structure EntryRef where
  sq : QueueIx
  idx : BitVec 17
  tag : BitVec 64
  cq : Option QueueIx
  deriving DecidableEq, Repr

/-- What an X7 or X8 crossing loses after three failed resends (R568). -/
inductive CrossLoss where
  | registerRead
  | ringMessage
  | command (c : EntryRef)
  | work (m : MillIx) (e : Eng)
  deriving DecidableEq, Repr

/-- What user logic does with its tap as a stage of cart rings (R382): take a cart to read or to fill, put the held cart `i`
back, write or read the held cart's buffer, or run a stream of its own by device virtual address. -/
inductive TapOp where
  | take (ring : QueueIx) (reading : Bool)
  | put (i : Nat)
  | write (i : Nat) (off : BitVec 24) (data : List Byte)
  | read (i : Nat) (off len : BitVec 24)
  | streamStart (tag : Byte)
  | streamWrite (tag : Byte) (va : BitVec 40) (data : List Byte)
  | streamEnd (tag : Byte)
  deriving DecidableEq, Repr

/-- The path of a ledger update (R355): the host's registers, or a reeve's message with its term, ctl and frame. -/
inductive LedgerPath where
  | host (w : Writer)
  | reeve (term ctl frame : Word)
  deriving DecidableEq, Repr

/-- The path of a power or reset request (R513, R520): a committed register write, or the leader's message with its term. -/
inductive ReqPath where
  | reg (w : Writer)
  | reeve (term : Word)
  deriving DecidableEq, Repr

/-- A tally counter: MCm_n by mill · 8 + n, DCd_k by die · 64 + k (R583). -/
inductive TalCtr where
  | mc (i : BitVec 14)
  | dc (i : BitVec 7)
  deriving DecidableEq, Repr

/-- A word whose parity can fail (R572): a counter, or a word of a probe-buffer entry. -/
inductive TalWord where
  | counter (c : TalCtr)
  | probe (i : BitVec 16) (w : BitVec 2)
  deriving DecidableEq, Repr

/-- The first-error records that a write of their valid bit clears. -/
inductive ErrRecId where
  | slip | xflt | cwf | hp | qs | sxt
  | tor (d : Die)
  | grn (s : SiteIx)
  deriving DecidableEq, Repr

/-! ## Almanacs (chapter 06). The binary form is private (R192); the model holds the bookings. -/

/-- A granary command that an almanac books (R330). -/
structure GrnCmd where
  site : SiteIx
  write : Bool
  addr : BitVec 36
  data : List Byte
  deriving DecidableEq, Repr

/-- A frame slot within its tick (R457): logical lane and starting LANE_TX cycle. -/
structure FrameSlot where
  lane : BitVec 3
  start : BitVec 13
  deriving DecidableEq, Repr

/-- A frame slot of a port. -/
structure PortSlot where
  port : PortIx
  slot : FrameSlot
  deriving DecidableEq, Repr

/-- Where the frame of a booked slot comes from: a cart ring, or the port it came in by. -/
inductive FrameSrc where
  | ring (q : QueueIx)
  | port (p : PortIx)
  deriving DecidableEq, Repr

/-- What a booking fixes (R193, Table 2). -/
inductive Action where
  | post (m : MillIx) (e : Eng) (entry : Word) (args : List Word)
  | strm (m : MillIx) (c : Carter) (list : StreamAddr) (inc : Option Inc)
  | mov (m : MillIx) (c : Carter) (a : MovArgs)
  | slot (d : Die) (x y : BitVec 5) (out : BitVec 3) (lane : Bool) (inp : BitVec 3)
  | tap (p : PlotIx) (ring : QueueIx) (deliver : Bool)
  | send (p : PortIx) (at_ : FrameSlot) (src : FrameSrc)
  | expect (p : PortIx) (at_ : FrameSlot) (ring : QueueIx)
  | transit (p : PortIx) (at_ : FrameSlot) (dst : PortIx)
  | granary (c : GrnCmd)
  | idle (m : MillIx) (ticks : Nat)
  | reshape (m : MillIx) (p : Partition)
  | power (domain : BitVec 7) (target : BitVec 2)
  deriving DecidableEq, Repr

/-- A booking: its position and action, and whether it is a restore booking of a mark (R191, R215). -/
structure Booking where
  tick : Nat
  cycle : Nat
  act : Action
  restore : Option Nat
  deriving DecidableEq, Repr

/-- A checkpoint mark (R215): position, restore window, sync values per mill, and the posts at the resume tick. -/
structure MarkDef where
  num : Nat
  pos : Nat
  window : Nat
  sync : List (Nat × List (BitVec 16))
  posts : List Booking
  deriving DecidableEq, Repr

/-- Which placement a seat sets an epoch of (R219, R220). -/
inductive Placement where
  | mill (m : MillIx)
  | plot (p : PlotIx)
  | ring (q : QueueIx)
  deriving DecidableEq, Repr

/-- An almanac (R191 to R195): group, span, cadence, hop budgets, members' mills and plots, bookings, marks,
placement epochs, pages it touches and granary masks it was compiled for (R324). -/
structure Almanac where
  group : BitVec 16
  lgSpan : Nat
  hot : Bool
  ports : List (PortIx × Nat)
  mills : List MillIx
  plots : List PlotIx
  bookings : List Booking
  marks : List MarkDef
  epochs : List (Placement × BitVec 8)
  pages : List Nat
  masks : List (SiteIx × Nat × BitVec 40)
  hops : Nat
  deriving DecidableEq, Repr, Inhabited

end Sys2Proof
end

