-- ==== Sys2Proof/Syntax.lean ====
section
/-! DEFINITION. The commands of the device: one constructor per row of spec/opcode_table.json, in its order. -/

namespace Sys2Proof

/-- A command. Each constructor's docstring gives its row's rule and summary. -/
inductive Instr where
  /-- REGISTER_WRITE (R12): A host, reeve or debug-port write to a register field that has no behaviour of its own sets the field as its access type states, or is discarded at an unoccupied offset. -/
  | registerWrite (w : Writer) (off : BitVec 28) (val : Word)
  /-- CW_PENDING_WRITE (R561): A write to the +0 word of a CW register sets that writer's pending value; a second +0 write while a value is pending is a kind 3 complement failure. -/
  | cwPendingWrite (w : Writer) (off : BitVec 28) (val : Word)
  /-- CW_PENDING_TIMEOUT (R562): No complement word arrives within 100 µs of a +0 write, so the pending value is cleared as a kind 4 complement failure. -/
  | cwPendingTimeout (w : Writer) (off : BitVec 28)
  /-- ERROR_RECORD_CLEAR (R185): Writing 1 to the valid bit of a first-error record clears every word of that record. -/
  | errorRecordClear (w : Writer) (r : ErrRecId)
  /-- ST_ALU (R650): The steward executes an alu operation, compare or select. -/
  | stAlu (m : MillIx) (op : AluOp)
  /-- ST_MUL (R650): The steward forms a signed or unsigned 64-bit product in an even register pair, or stops with MISMATCH when the pair is odd. -/
  | stMul (m : MillIx) (signed : Bool) (rd : BitVec 5) (a b : Src)
  /-- ST_BRANCH (R79): The steward executes br and takes or skips the branch. -/
  | stBranch (m : MillIx) (test : Option (Cond × Src × Src)) (target : Word)
  /-- ST_CALL (R650): The steward pushes its return address onto the return stack, or stops with MISMATCH when the stack is full. -/
  | stCall (m : MillIx) (target : Word)
  /-- ST_RET (R650): The steward pops its return address, or stops with MISMATCH when the stack is empty. -/
  | stRet (m : MillIx)
  /-- LDL (R85): The steward loads 4 or 8 bytes from the loft. -/
  | ldl (m : MillIx) (rd : BitVec 5) (base : Src) (off : Word) (wide : Bool)
  /-- STL (R102): The steward stores 4 or 8 bytes to the loft, landing 2 cycles after issue. -/
  | stl (m : MillIx) (rs : BitVec 5) (base : Src) (off : Word) (wide : Bool)
  /-- RBELL (R79): The steward reads the low tick count and the cycle within the tick. -/
  | rbell (m : MillIx) (rd rc : BitVec 5)
  /-- AWR (R92): The steward writes one word to an address FIFO. -/
  | awr (m : MillIx) (f : Af) (v : Src)
  /-- AGEN (R93): The steward starts an address pattern that emits words into an address FIFO. -/
  | agen (m : MillIx) (f : Af) (a : AgenArgs)
  /-- POST (R84): The steward posts an invocation to its own queue or to the queue of another engine of its mill. -/
  | post (m : MillIx) (dest : Eng) (entry : Src) (args : List Src)
  /-- DONE (R297): The steward's done sets the status of its work item's completion; a second done is counted in done_extra. -/
  | done (m : MillIx) (v : Src)
  /-- SINC (R95): An engine increments a sync counter; an amount outside 1 to 255 stops the engine with MISMATCH. -/
  | sinc (m : MillIx) (e : Eng) (c : BitVec 4) (amount : Src)
  /-- SWAIT (R96): An engine waits on a sync counter and subtracts the value when it succeeds; in tilled mode a failure is a schedule fault. -/
  | swait (m : MillIx) (e : Eng) (c : BitVec 4) (v : Src)
  /-- SWAIT_SATISFIED (R97): In common mode a held swait succeeds once the counter reaches its value. -/
  | swaitSatisfied (m : MillIx) (e : Eng)
  /-- END (R82): An engine ends its invocation, and its next queued invocation starts. -/
  | endInv (m : MillIx) (e : Eng)
  /-- INVOCATION_START (R84): The first instruction of an invocation posted to an empty queue of an idle engine issues 4 cycles after the post. -/
  | invocationStart (m : MillIx) (e : Eng)
  /-- LDS (R58): The matrix engine loads a stationary operand into a yoke, stalling the yoke for 4R cycles. -/
  | lds (m : MillIx) (a : LdsArgs)
  /-- MMR (R63): The matrix engine issues a row-side yoke operation. -/
  | mmr (m : MillIx) (a : MmArgs)
  /-- MMC (R64): The matrix engine issues a column-side yoke operation. -/
  | mmc (m : MillIx) (a : MmArgs)
  /-- YOKE_READ_POINT (R89): The cycle after a yoke operation's last streaming group entered, its read-point increment takes effect. -/
  | yokeReadPoint (m : MillIx) (y : Yoke)
  /-- YOKE_WRITE_POINT (R89): A yoke operation's last results are written, and its write-point increment takes effect. -/
  | yokeWritePoint (m : MillIx) (y : Yoke)
  /-- RSHP (R44): The matrix engine issues a reshape, which waits for the next epoch boundary. -/
  | rshp (m : MillIx) (p : Partition)
  /-- RESHAPE_TAKES_EFFECT (R44): At an epoch boundary a pending reshape changes the yoke partition and zeroes the altered stationary operands, or waits a further epoch while work is in flight. -/
  | reshapeTakesEffect (m : MillIx)
  /-- STRM (R263): A carter starts a stream on a descriptor list, or re-arms a list that is already in flight. -/
  | strm (m : MillIx) (c : Carter) (list : StreamAddr) (inc : Option Inc)
  /-- MOV (R90): A carter starts a local move between loft and sieve banks. -/
  | mov (m : MillIx) (c : Carter) (a : MovArgs)
  /-- CARTER_SLOT_FREE (R90): In common mode a strm or mov that waited for a free carter slot starts. -/
  | carterSlotFree (m : MillIx) (c : Carter)
  /-- CTAKE (R275): A carter takes a cart from a ring into its registers. -/
  | ctake (m : MillIx) (e : Eng) (ring : QueueIx) (rd : BitVec 5)
  /-- CPUT (R275): A carter puts a cart on a ring. -/
  | cput (m : MillIx) (e : Eng) (ring : QueueIx) (rs : BitVec 5)
  /-- CART_RING_WAIT_ENDS (R275): In common mode a ctake on an empty ring or a cput on a full ring proceeds once the ring allows it. -/
  | cartRingWaitEnds (m : MillIx) (e : Eng)
  /-- ADDRESS_FIFO_WAIT_ENDS (R93): In common mode a consumer waiting on an empty address FIFO, or a steward waiting on a full one, proceeds. -/
  | addressFifoWaitEnds (m : MillIx) (e : Eng)
  /-- HAZARD_INTERLOCK_ISSUE (R104): In common mode an operation held by the scoreboard issues once its hazard is gone. -/
  | hazardInterlockIssue (m : MillIx) (e : Eng)
  /-- AUDIT_STALL_WRITE (R112): A write of MILL_SB_CTL.audit_stall takes effect only at debug level 2 or 3. -/
  | auditStallWrite (w : Writer) (m : MillIx) (v : Bool)
  /-- SFR_CLR (R112): Writing MILL_SB_CTL.sfr_clr clears the schedule-fault record. -/
  | sfrClr (w : Writer) (m : MillIx)
  /-- SV_BUNDLE (R121): The sieve issues one bundle of a compute operation and up to two bus moves, or stops with MISMATCH when a bus is named twice. -/
  | svBundle (m : MillIx) (b : Bundle)
  /-- OUTPUT_FIFO_HOLD_ENDS (R132): In common mode a bundle held for output-FIFO room issues once its stores fit. -/
  | outputFifoHoldEnds (m : MillIx)
  /-- STOP_REQUEST_ACCEPTED (R133): A halt, step, breakpoint or management stop request takes effect at the sieve's next accepted point. -/
  | stopRequestAccepted (m : MillIx)
  /-- QUERN_SELF_TEST (R70): Built-in self-test of quern rows runs on a mill in an idle window. -/
  | quernSelfTest (m : MillIx) (failing : List (BitVec 5 × BitVec 3))
  /-- BELL_TICK (R167): The bell reaches cycle 0 of a new tick, and the tick strobe restarts every island's cycle count. -/
  | bellTick
  /-- BELL_FRAME_RECEIVE (R172): A bell frame is released on a port; it is checked and discarded, or its marker, request or reply is used. -/
  | bellFrameReceive (p : PortIx) (frame : List Byte)
  /-- MARKER_TIMEOUT (R176): No valid marker arrives in 4 consecutive ticks, raising a bell slip of kind 3. -/
  | markerTimeout
  /-- BELL_LOCKED (R179): After 16 matching markers the follower enters the locked state at cycle 0 of the next tick. -/
  | bellLocked
  /-- RELOCK (R178): A committed BELL_CTL.relock moves a follower to calibrating, returns a source from holdover, or is refused. -/
  | relock (w : Writer) (v : Word)
  /-- BELL_ROLE_SET (R178): A committed write of BELL_CTL sets the role, tag and upstream port; becoming source keeps the count. -/
  | bellRoleSet (w : Writer) (v : Word)
  /-- BELL_NOW_CAPTURE (R170): A read of BELL_NOW0 captures the whole bell for the following reads of BELL_NOW1 and BELL_NOW2. -/
  | bellNowCapture
  /-- REFCLK_LOST (R158): The monitor declares REFCLK lost, switches to the oscillator, holds the PLLs and raises a bell slip of kind 5. -/
  | refclkLost
  /-- REFCLK_RETURN (R158): REFCLK returns and the PLLs lock to it again while the bell stays in holdover. -/
  | refclkReturn
  /-- CROSSING_RELEASE (R164): A fixed-latency crossing releases an item at its release cycle. -/
  | crossingRelease (xid : BitVec 16) (c : BitVec 13) (item : List Byte)
  /-- CROSSING_FAULT (R165): An item becomes visible after its release cycle; it is delivered and a crossing fault is recorded. -/
  | crossingFault (xid : BitVec 16) (c arrival : BitVec 13) (item : List Byte)
  /-- CROSSING_RESEND (R568): An X7 or X8 crossing resends an item whose parity failed, and loses it after three failed resends. -/
  | crossingResend (d : Die) (fails : Nat) (lost : CrossLoss)
  /-- BOOKING_TAKES_EFFECT (R192): A booking of a running group acts at its position in the round: a post, a stream issue, a slot or a granary command. -/
  | bookingTakesEffect (g : SlotIx) (i : Nat)
  /-- GROUP_SEAT (R200): FLD_GRPg_SEAT action 1 seats a group for a target epoch and mark, or is refused with a seat_err. -/
  | groupSeat (w : Writer) (g : SlotIx) (epoch : BitVec 16) (mark : BitVec 4)
  /-- GROUP_UNSEAT (R199): FLD_GRPg_SEAT action 2 is accepted for a halted group and waits for the next epoch boundary. -/
  | groupUnseat (w : Writer) (g : SlotIx)
  /-- UNSEAT_BOUNDARY (R199): At the epoch boundary an unseated slot returns to Loaded and its slots are released. -/
  | unseatBoundary (g : SlotIx)
  /-- HOST_HALT (R228): FLD_GRPg_SEAT action 3 raises halt cause 12 for a running group. -/
  | hostHalt (w : Writer) (g : SlotIx)
  /-- SEAT_BOUNDARY (R201): At the target boundary a seated group enters Restoring, or Running for a fresh start, and caches and placement epochs are set. -/
  | seatBoundary (g : SlotIx)
  /-- GROUP_RESUME (R217): At the resume tick after the restore window, the group enters Running at the mark's position. -/
  | groupResume (g : SlotIx)
  /-- CHECKPOINT_MARK_COMMIT (R215): At a mark's position a running member records the mark and its tick. -/
  | checkpointMarkCommit (g : SlotIx) (mark : BitVec 3)
  /-- GROUP_HALT (R208): At the first cycle of the tick after a halt cause, the member freezes the group's mills and plots, stops booked frames and alerts the host. -/
  | groupHalt (g : SlotIx)
  /-- HALT_NOTICE_RECEIVE (R209): A member releases a halt notice and halts the group at the next tick, or discards a duplicate or invalid notice. -/
  | haltNoticeReceive (p : PortIx) (payload : List Byte)
  /-- BOOKED_FRAME_RECEIVE (R204): A booked frame is corrected and released in its cycle, or discarded with cause 3 or 6. -/
  | bookedFrameReceive (p : PortIx) (at_ : FrameSlot) (groups : List (BitVec 10))
  /-- BOOKED_FRAME_MISSING (R202): A booked frame is absent from its slot, raising halt cause 5. -/
  | bookedFrameMissing (at_ : PortSlot)
  /-- PARCEL_FORWARD (R223): A parcel's first frame arrives; the device forwards it on hop 0, delivers it, or discards it with route_err. -/
  | parcelForward (p : PortIx)
  /-- ROUTER_PACKET_RECEIVE (R242): A router takes a packet, corrects it, and forwards it or discards a refused or uncorrectable header. -/
  | routerPacketReceive (d : Die) (x y : BitVec 5) (inp : BitVec 3) (hdr data : List Byte) (soft : Nat) (badHdr : Bool) (owner : Option (MillIx × BitVec 3)) (badFlits : List (BitVec 2))
  /-- P0_FORCE_GRANT (R245): An output's count of grants made while P0 waits reaches 63, and the next free cycle grants P0. -/
  | p0ForceGrant (d : Die) (x y : BitVec 5) (out : BitVec 3)
  /-- WRITE_PACKET_ARRIVE (R219): A write packet reaches its destination and lands, or is discarded by the placement-epoch check. -/
  | writePacketArrive (hdr data : List Byte)
  /-- READ_REQUEST_ARRIVE (R241): A read request reaches its destination and a read response is sent. -/
  | readRequestArrive (hdr : List Byte)
  /-- READ_RESPONSE_ARRIVE (R263): Read data reaches the requesting carter or unit. -/
  | readResponseArrive (m : MillIx) (k : BitVec 3)
  /-- CART_DELIVERY_ARRIVE (R275): A kind 3 cart packet makes a cart visible on its ring 4 cycles after release. -/
  | cartDeliveryArrive (ring : QueueIx)
  /-- SYNC_INCREMENT_ARRIVE (R241): A kind 4 packet increments a sync counter of its destination mill. -/
  | syncIncrementArrive (m : MillIx) (c : BitVec 4) (amount : Byte)
  /-- CONTROL_MESSAGE_ARRIVE (R342): A kind 6 control message reports ABSENT or an uncorrectable read to the requester, ending its transfer. -/
  | controlMessageArrive (m : MillIx) (k : BitVec 3) (absent : Bool)
  /-- DESCRIPTOR_BURST_ARRIVE (R262): A burst of up to 32 descriptors arrives at the carter. -/
  | descriptorBurstArrive (m : MillIx) (k : BitVec 3)
  /-- TRANSFER_START (R257): A carter starts a transfer and checks its descriptor, ending the stream with MISMATCH on a failure. -/
  | transferStart (m : MillIx) (k : BitVec 3)
  /-- STREAM_PAGE_FAULT (R267): A stream's translation meets a non-present or non-writable page; the slot saves its position and completes with FAULT_PAGE. -/
  | streamPageFault (m : MillIx) (k : BitVec 3)
  /-- TRANSFER_COMPLETE (R265): A transfer's last write lands; its completion posts and the stream's increment or shadow follows. -/
  | transferComplete (m : MillIx) (k : BitVec 3)
  /-- STREAM_RESUME (R268): A committed MILL_STREAM_RESUME resume bit continues a halted slot from its saved position. -/
  | streamResume (w : Writer) (m : MillIx) (v : Word)
  /-- STREAM_ABANDON (R268): A committed MILL_STREAM_RESUME abandon bit ends a halted transfer with ABORTED and cancels the rest of its list. -/
  | streamAbandon (w : Writer) (m : MillIx) (slots : Byte)
  /-- FIELD_PORT_CART_SEND (R277): A field port consumes a cart and sends its fill bytes as class-0 parcels. -/
  | fieldPortCartSend (p : PortIx) (ring : QueueIx)
  /-- FIELD_PORT_CART_RETURN (R277): After the last parcel is acknowledged, or after its frame slot, the port returns the cart to its return ring. -/
  | fieldPortCartReturn (p : PortIx)
  /-- CLASS0_PARCEL_DELIVER (R278): A class-0 parcel is written into a cart of a field-ingress ring, or refused with DENIED or MISMATCH. -/
  | class0ParcelDeliver (p : PortIx)
  /-- DENIED_REPLY_RECEIVE (R279): A DENIED, TIMEOUT or MISMATCH reply from a field neighbour ends the sender's stream. -/
  | deniedReplyReceive (p : PortIx) (ring : BitVec 16) (st : Status)
  /-- INGRESS_WAIT_END (R280): A first parcel held for an empty cart proceeds when a cart frees. -/
  | ingressWaitEnd (p : PortIx)
  /-- INGRESS_WAIT_TIMEOUT (R280): No cart frees within 100 µs, so the parcels are discarded and TIMEOUT is replied. -/
  | ingressWaitTimeout (p : PortIx)
  /-- DOORBELL (R287): A doorbell commits and moves the host-owned count of a queue, or is discarded. -/
  | doorbell (w : Writer) (q : QueueIx) (count : BitVec 17)
  /-- REEVE_DOORBELL (R289): A reeve rings a reeve queue through the management-side path. -/
  | reeveDoorbell (q : QueueIx) (count : BitVec 17)
  /-- SQ_BURST_ARRIVE (R293): A burst of submission entries arrives and is checked, or a fetch fault sets the queue's fetch-fault state. -/
  | sqBurstArrive (q : QueueIx)
  /-- DISPATCH_PLACE (R303): The dispatcher places a run entry on a named or least-loaded eligible mill, or completes it ABSENT or MISMATCH. -/
  | dispatchPlace (d : Die)
  /-- PENDING_COMPLETION_POST (R299): A completion waiting in the pending store posts once its CQ has room. -/
  | pendingCompletionPost (d : Die)
  /-- FENCE (R306): The fence command waits until the named mills' invocations and streams have ended. -/
  | fence (d : Die)
  /-- FENCE_COMPLETE (R306): The last work covered by a fence ends and the fence completes OK. -/
  | fenceComplete (q : QueueIx)
  /-- WITHDRAW (R307): The withdraw command disables an SQ or makes a mill ineligible and cancels work not started. -/
  | withdraw (d : Die)
  /-- WITHDRAW_LIMIT_EXPIRY (R307): A forced withdraw reaches its limit and stops started work with ABORTED. -/
  | withdrawLimitExpiry (q : QueueIx)
  /-- WITHDRAW_COMPLETE (R308): The last item covered by a withdraw ends and the command completes with its counts. -/
  | withdrawComplete (q : QueueIx)
  /-- MIGRATE (R306): The migrate command advances the placement epoch of a mill, plot or ring when it equals from. -/
  | migrate (d : Die)
  /-- RING_SETUP (R306): The ring setup command writes and enables a cart ring's record, or completes MISMATCH. -/
  | ringSetup (d : Die)
  /-- STREAM_RESUME_COMMAND (R306): Command op 6 has the effect of a committed write of MILL_STREAM_RESUME. -/
  | streamResumeCommand (d : Die)
  /-- QUEUE_ENABLE (R311): QS_QCTL en = 1 enables a queue, with clr setting both counts to 0 and clearing its fault state. -/
  | queueEnable (w : Writer) (q : QueueIx) (clr : Bool)
  /-- QUEUE_DISABLE (R311): QS_QCTL en = 0 disables a queue after its fetched entries are placed. -/
  | queueDisable (w : Writer) (q : QueueIx)
  /-- OVF_CLR (R299): QS_QCTL ovf_clr clears the ovf state of a CQ. -/
  | ovfClr (w : Writer) (q : QueueIx) (en : Bool)
  /-- QUEUE_RECORD_WRITE (R312): A write of QS_QRq commits into the queue record only while the queue is disabled. -/
  | queueRecordWrite (w : Writer) (q : BitVec 13) (i : BitVec 3) (v : Word)
  /-- GRANARY_REQUEST_ARRIVE (R325): A read or write request enters a pseudo-channel controller's queue, forwarding from a full matching write. -/
  | granaryRequestArrive (site : SiteIx) (addr : BitVec 36) (src : BitVec 16) (tag : Byte) (write : Bool) (mask : BitVec 64) (data : List Byte)
  /-- GRANARY_COMMAND_ISSUE (R327): A controller issues a read or write to the stack, a masked write as read, merge and write. -/
  | granaryCommandIssue (site : SiteIx) (pc : BitVec 6) (write : Bool) (i : BitVec 6)
  /-- GRANARY_READ_RETURN (R342): Read data returns from the stack, corrected and sent, or replaced by a control message when uncorrectable. -/
  | granaryReadReturn (site : SiteIx) (pc : BitVec 6)
  /-- BOOKED_GRANARY_COMMAND (R330): In a booked cycle the controller issues exactly the booked command, or issues late and raises a crossing fault. -/
  | bookedGranaryCommand (site : SiteIx) (late : Option (BitVec 16 × BitVec 13 × BitVec 13))
  /-- REFRESH_WINDOW (R333): At a cadence tick every controller opens a 540-cycle window with precharge, REFab and owed RFM. -/
  | refreshWindow
  /-- REFRESH_WINDOW_END (R335): A refresh window or training slot ends and waiting requests are issued. -/
  | refreshWindowEnd
  /-- TRAINING_SLOT (R334): A tick that is a multiple of 2^10 opens a two-tick training slot. -/
  | trainingSlot
  /-- TEMPERATURE_READING (R337): Every 256 ticks each controller reads its stack's temperature, which may raise a thermal-cadence fault. -/
  | temperatureReading (site : SiteIx) (temp : Byte)
  /-- CADENCE_CHANGE (R336): A pending cadence change takes effect at an epoch boundary. -/
  | cadenceChange
  /-- GRN_CAD_WRITE (R338): A committed write of GRN_CAD is accepted for the next epoch boundary, or refused. -/
  | grnCadWrite (w : Writer) (hot : Bool)
  /-- GRN_OPEN (R344): A committed write of GRN_CTL.open = 1 opens a ready site and discards staged hash halves. -/
  | grnOpen (w : Writer) (site : SiteIx)
  /-- GRN_HASH_WRITE (R346): A committed half of GRN_HASHh is staged, and the second half commits both or fails both. -/
  | grnHashWrite (w : Writer) (site : SiteIx) (h : BitVec 4) (high : Bool) (v : Word)
  /-- TRAINING_RUN_START (R341): Firmware starts a training helper run through junction 5, discarded on an open site outside a slot. -/
  | trainingRunStart (site : SiteIx) (lg : BitVec 5) (pattern : BitVec 2) (dir pc : Bool) (ch : BitVec 5)
  /-- TRAINING_RUN_DONE (R341): A training run finishes or is cut at the slot end, leaving its error counts. -/
  | trainingRunDone (site : SiteIx) (errs : List (BitVec 16))
  /-- TRAINING_DELAY_WRITE (R341): Firmware writes lane delay codes, taking effect at the slot's last cycle or discarded when they move too far. -/
  | trainingDelayWrite (site : SiteIx) (lane : BitVec 6) (wr rd : BitVec 7)
  /-- SOFT_ROW_REPAIR (R343): Firmware repairs a granary row by soft post-package repair within an idle window. -/
  | softRowRepair (site : SiteIx) (addr : BitVec 36)
  /-- LEDGER_UPDATE (R356): A committed ledger update from the host or a reeve is refused or written to both copies, with invalidations sent. -/
  | ledgerUpdate (path : LedgerPath) (page : BitVec 19)
  /-- LEDGER_UPDATE_COMPLETE (R360): Every cache has dropped the page and every old access has finished, so the update completes. -/
  | ledgerUpdateComplete (reeve : Bool)
  /-- PLOT_CLOSE (R386): At fabric cycle 0 of a tick a live plot closes its hedges, stops writes and its clock, and ends its tap stages. -/
  | plotClose (p : PlotIx)
  /-- PLOT_RELEASE (R389): A configured plot opens its hedges at fabric cycle 0 of the tick after its release commits. -/
  | plotRelease (p : PlotIx)
  /-- PLOT_RELEASE_STAGE (R389): 16 fabric cycles after opening the plot's writes turn on, and 32 after opening its user resets release. -/
  | plotReleaseStage (p : PlotIx)
  /-- TAP_PACKET_ARRIVE (R384): A packet reaches a fabric tap and is served, or answered ABSENT when the plot is not live. -/
  | tapPacketArrive (d : Die) (t : BitVec 6) (space3 : Bool) (hdr data : List Byte)
  /-- TAP_VIRTUAL_ACCESS (R382): User logic issues a read or write by device virtual address through the tap cache. -/
  | tapVirtualAccess (p : PlotIx) (va : BitVec 40) (len : BitVec 12) (data : Option (List Byte))
  /-- LOAD_START (R409): CFG_LOAD src 1 starts a load from the host window. -/
  | loadStart (w : Writer)
  /-- CHAIN_ARM (R409): CFG_LOAD src 2 arms the device for a chain load on AW3. -/
  | chainArm (w : Writer)
  /-- LOAD_ABORT (R418): CFG_LOAD.abort ends the running load with reason 12 and sends a chain abort. -/
  | loadAbort (w : Writer)
  /-- SHEAF_WINDOW_WRITE (R412): Sheaf bytes written into CFG_WIN in order feed the loader, or fail the load with reason 11. -/
  | sheafWindowWrite (off : BitVec 20) (data : List Byte)
  /-- STAGE_A_DONE (R410): Checks of header, table and signature pass or fail the load, and on pass load steps 1 and 2 run. -/
  | stageADone
  /-- LOAD_COMMIT (R411): After the last body, stage C runs and the ledger, rings, group slots, clocks and releases are applied. -/
  | loadCommit
  /-- LOAD_SEQUENCE_TIMEOUT (R407): No sheaf byte for 10 ms fails the load with reason 11. -/
  | loadSequenceTimeout
  /-- CHAIN_START_RECEIVE (R415): An armed device accepts a chain start frame and takes its position, or discards it. -/
  | chainStartReceive (payload : List Byte)
  /-- CHAIN_DATA_RECEIVE (R414): A chain data frame carries 64 stream bytes to the loader or onward on AE3. -/
  | chainDataReceive (data : List Byte)
  /-- CHAIN_END_RECEIVE (R415): A chain end frame ends the stream and is forwarded. -/
  | chainEndReceive
  /-- CHAIN_ABORT_RECEIVE (R415): A chain abort fails the device's load with reason 10 and is passed on. -/
  | chainAbortReceive (payload : List Byte)
  /-- CONF_ERR_RELEASE (R417): Writing 1 to CFG_STAT0.err releases CONF_ERR_N when full_ok is 1 and no load runs. -/
  | confErrRelease (w : Writer)
  /-- CFG_REL (R419): A committed CFG_REL requests release of each configured plot whose bit is set. -/
  | cfgRel (w : Writer) (v : Word)
  /-- FRAME_READBACK (R420): A committed CFG_RBA copies a frame into CFG_RBD within 1 µs, or withholds it. -/
  | frameReadback (w : Writer) (fa : Word)
  /-- SEXTON_PASS_START (R421): Every 52,084 ticks the sexton starts a pass over the configuration frames in use. -/
  | sextonPassStart
  /-- SEXTON_FRAME_CHECK (R422): Every 48 SEXTON cycles the sexton reads a frame and corrects it or reports it uncorrectable. -/
  | sextonFrameCheck (upsets : List (BitVec 12)) (second : Bool)
  /-- SEXTON_LATCH_REPAIR (R426): The sexton's voted latches or frame table disagree and are repaired, restarting the pass if needed. -/
  | sextonLatchRepair (restart : Bool)
  /-- LANE_SIGNAL_DETECT (R441): A lane detects signal and recovers clock, moving from DOWN to COMMA_HUNT. -/
  | laneSignalDetect (p : PortIx) (l : BitVec 4)
  /-- LANE_SIGNAL_LOSS (R441): A lane loses signal or clock recovery and returns to DOWN. -/
  | laneSignalLoss (p : Option PortIx) (l : BitVec 4)
  /-- COMMA_DETECT (R441): Three K28.5 at one alignment fix the symbol boundary and the lane enters FRAME_HUNT. -/
  | commaDetect (p : PortIx) (l : BitVec 4)
  /-- FRAME_RECEIVE (R439): A lane delivers a 72-symbol frame, which is decoded and corrected, discarded, or advances the alignment state machine. -/
  | frameReceive (p : PortIx) (l : BitVec 4) (header : BitVec 10) (groups : List (BitVec 10))
  /-- PORT_ENABLE (R443): LANE_CTLp.en = 1 starts the port up the rate ladder. -/
  | portEnable (w : Writer) (p : PortIx) (v : Word)
  /-- PORT_DISABLE (R463): LANE_CTLp.en = 0 returns the port's lanes to idle frames at 2.5 Gbaud. -/
  | portDisable (w : Writer) (p : PortIx) (v : Word)
  /-- CAPABILITY_RECEIVE (R443): A capability frame fixes the target rate and the leading end. -/
  | capabilityReceive (p : PortIx) (payload : List Byte) (far : BitVec 10)
  /-- STEP_FRAME_RECEIVE (R443): A step frame is echoed, and at countdown 0 both ends switch to the next rate. -/
  | stepFrameReceive (p : PortIx) (rate countdown : Byte)
  /-- LADDER_STEP_TIMEOUT (R444): A step not complete within 2 ms returns the port to the previous rate and records step_fail. -/
  | ladderStepTimeout (p : PortIx)
  /-- LADDER_RETRY (R444): A port that cannot hold 2.5 Gbaud retries the ladder every 10 ms. -/
  | ladderRetry (p : PortIx)
  /-- EQ_PEAK_WRITE (R445): A write of LANE_EQp_l.peak sets the peaking, limited to 20 dB, at the next frame boundary. -/
  | eqPeakWrite (w : Writer) (p : PortIx) (l : BitVec 4) (v : Word)
  /-- ACK_RECEIVE (R452): An ack frame acknowledges frames, returns credits and triggers resends on a nak. -/
  | ackReceive (p : PortIx) (payload : List Byte)
  /-- ACK_SEND (R451): A receiver sends an ack when 32 frames are unacknowledged, a nak is pending or 256 slots have passed. -/
  | ackSend (p : PortIx)
  /-- REPLAY_TIMEOUT (R452): A frame unacknowledged for 4 µs is resent from the oldest. -/
  | replayTimeout (p : PortIx)
  /-- BLOCK_END (R455): At the end of each block, or after a bell jump, each lane sends a block-end frame and its filler. -/
  | blockEnd (p : PortIx)
  /-- SPARE_REQUEST_RECEIVE (R459): A spare request makes the sender duplicate the failed logical lane on the spare from the next tick. -/
  | spareRequestReceive (p : PortIx) (n : BitVec 3)
  /-- SPARE_SWITCH (R459): After 64 valid headers and deskew the receiver reads the lane from the spare and sends done. -/
  | spareSwitch (p : PortIx)
  /-- SPARE_DONE_RECEIVE (R459): A spare done frame makes the sender send idle frames on the failed lane. -/
  | spareDoneReceive (p : PortIx) (n : BitVec 3)
  /-- LANE_RESTORED_AS_SPARE (R461): A failed lane that holds lock for 2^20 clean frames becomes the spare. -/
  | laneRestoredAsSpare (p : PortIx) (l : BitVec 4)
  /-- LINK_PACKET_RECEIVE (R472): A host-port link packet is accepted in sequence, or discarded with a nak. -/
  | linkPacketReceive (bytes : List Byte) (uncorrectable : Bool)
  /-- LINK_INIT_RECEIVE (R472): A link init frame sets the credits of each pool. -/
  | linkInitReceive (rate : BitVec 3) (payload : List Byte)
  /-- HP_ACK_RECEIVE (R472): A host-port ack frame acknowledges packets, returns credits and triggers resends on a nak. -/
  | hpAckReceive (payload : List Byte)
  /-- HP_ACK_SEND (R472): A host-port receiver sends an ack at 32 unacknowledged packets, a pending nak or 1 µs. -/
  | hpAckSend
  /-- HP_REPLAY_TIMEOUT (R472): A host-port packet unacknowledged for 4 µs is resent. -/
  | hpReplayTimeout
  /-- RETRAIN (R492): HP_CTL.retrain fails the link with cause 5 and restarts the ladder. -/
  | retrain (w : Writer) (v : Word)
  /-- WINDOW_READ (R477): A host read through the memory window is translated and checked and completes with data or a status. -/
  | windowRead (tag : BitVec 16) (addr : BitVec 64) (len : BitVec 16)
  /-- WINDOW_WRITE (R477): A host write through the memory window lands, or is discarded and recorded. -/
  | windowWrite (addr : BitVec 64) (data : List Byte)
  /-- WINDOW_READ_TIMEOUT (R479): A window read not completed by 7.0 µs completes with TIMEOUT. -/
  | windowReadTimeout (tag : BitVec 16)
  /-- HP_FLUSH_READ (R482): A read of HP_FLUSH reports whether all earlier posted writes and doorbells have taken effect. -/
  | hpFlushRead (tag : BitVec 16)
  /-- DEVICE_READ_COMPLETION (R481): A completion for a device read of host memory arrives and its transfer continues or fails. -/
  | deviceReadCompletion (tag : BitVec 16) (status : Byte) (data : List Byte)
  /-- DEVICE_READ_DEADLINE (R479): The control node does not complete a device read within 8 µs; the link fails with cause 3. -/
  | deviceReadDeadline
  /-- MANAGEMENT_MESSAGE (R486): A management message is delivered to a mailbox and completes. -/
  | managementMessage (tag : BitVec 16) (box : BitVec 64) (data : List Byte)
  /-- MAILBOX_TIMEOUT (R487): A message that finds its mailbox full for 1.5 µs completes with TIMEOUT. -/
  | mailboxTimeout
  /-- ALERT_ACKNOWLEDGED (R484): The link acknowledges the packet that carried an alert, which leaves the alert queue. -/
  | alertAcknowledged
  /-- HOST_ALERT_PIN_UPDATE (R485): HOST_ALERT_N is asserted or released as the link's 100 µs up-time and the alert queue change. -/
  | hostAlertPinUpdate
  /-- RELAY_REQUEST (R488): The relay head sends a relayed request as a class-1 parcel, or refuses it. -/
  | relayRequest (req : List Byte)
  /-- RELAY_PARCEL_RECEIVE (R489): A target serves a class-1 parcel from its latched head and returns the completion, or discards it. -/
  | relayParcelReceive (p : PortIx)
  /-- RELAY_COMPLETION_RECEIVE (R491): A relayed completion reaches the head and is sent to the host, or discarded as late. -/
  | relayCompletionReceive (p : PortIx)
  /-- RELAY_TIMEOUT (R491): No relayed completion arrives by 7.0 µs, so the head completes with TIMEOUT. -/
  | relayTimeout (tag : BitVec 16)
  /-- RELAY_FALLBACK (R490): 50 ms after cold reset without an Atvex link, the boot ROM enables every fitted field port. -/
  | relayFallback
  /-- BOOT_BEGIN (R499): A begin boot message starts an image of the stated size. -/
  | bootBegin (d : Die) (tag : BitVec 16) (seq : Word) (total : BitVec 64)
  /-- BOOT_DATA (R500): A data boot message adds image bytes in order, or fails with MISMATCH and discards the image. -/
  | bootData (d : Die) (tag : BitVec 16) (seq : Word) (off : BitVec 64) (data : List Byte)
  /-- BOOT_END (R500): An end boot message completes the image for verification. -/
  | bootEnd (d : Die) (tag : BitVec 16) (seq : Word) (off : BitVec 64)
  /-- IMAGE_VERIFY_DONE (R500): Within 5 ms of the end message the image runs or is discarded with img_err. -/
  | imageVerifyDone (d : Die)
  /-- REEVE_SELF_TEST_DONE (R501): A reeve's self-test ends and the reeve becomes Leader, Follower or Failed. -/
  | reeveSelfTestDone (d : Die) (passed : Bool)
  /-- SWAP (R502): A reeve's swap request advances the term after the new term is latched everywhere, or is refused. -/
  | swap (d : Die) (expected : Word)
  /-- LEASE_RENEWAL (R504): The leader renews its lease at the bellwether. -/
  | leaseRenewal (d : Die)
  /-- LEASE_EXPIRY (R504): 500 µs without renewal lets another reeve's swap succeed. -/
  | leaseExpiry
  /-- LEADER_HOLD_TIMEOUT (R504): A leader with no renewal acknowledged for 400 µs stops privileged changes and enters Hold. -/
  | leaderHoldTimeout (d : Die)
  /-- HEARTBEAT (R505): A running reeve sends a heartbeat to the other every 10 µs. -/
  | heartbeat (d : Die)
  /-- PEER_LOST (R505): 100 µs without a heartbeat makes a reeve declare the other lost. -/
  | peerLost (d : Die)
  /-- FOLLOWER_SWAP_RETRY (R506): A follower whose leader is lost requests a swap every 100 µs. -/
  | followerSwapRetry (d : Die)
  /-- FOLLOWER_HOLD_TIMEOUT (R506): No bellwether answer for 500 µs while the leader is lost sends the follower to Hold. -/
  | followerHoldTimeout (d : Die)
  /-- HOLD_ANSWER (R506): The bellwether answers a reeve in Hold, which becomes Leader or Follower. -/
  | holdAnswer (d : Die)
  /-- NO_LIVE_REEVE (R508): No reeve renews or answers for 500 µs, so the bellwether raises event 8. -/
  | noLiveReeve
  /-- LEADER_YIELD (R510): The follower reports it holds the state; the leader completes its changes and ends its lease. -/
  | leaderYield (d : Die)
  /-- REEVE_RESTART (R527): A committed REEVE_CTL restart bit restarts one reeve into Boot. -/
  | reeveRestart (w : Writer) (v : Word)
  /-- POWER_REQUEST (R514): A power request asks every block of a domain and changes its state, waits, or fails. -/
  | powerRequest (path : ReqPath) (v : Word)
  /-- POWER_DELAY_EXPIRY (R514): The largest DELAY passes; a forced request stops the remaining work and an unforced one fails. -/
  | powerDelayExpiry
  /-- POWER_BOUNDARY (R515): A request on a tilled domain is carried out at an epoch boundary that the almanac marks idle. -/
  | powerBoundary
  /-- POWER_RETURN_STEP (R517): A step of the return to ON starts when the previous step's ready bit is set. -/
  | powerReturnStep
  /-- POWER_RETURN_TIMEOUT (R517): A return step not ready within its limit sends the domain back to OFF. -/
  | powerReturnTimeout
  /-- IDLE_WAKE (R516): An access or invocation to an IDLE domain wakes it without a handshake. -/
  | idleWake (i : BitVec 7)
  /-- COLD_RESET (R622): PORST_N low for at least 10 µs puts the device in cold reset. -/
  | coldReset
  /-- PORST_RELEASE (R621): The release of PORST_N starts the power-on sequence to the bell start and self-test. -/
  | porstRelease (tj : Byte)
  /-- WARM_RESET (R623): WRST_N low for at least 1 µs begins a warm reset. -/
  | warmReset
  /-- WARM_RESET_RELEASE (R623): The release of WRST_N lets the warm reset complete within 2 ms. -/
  | warmResetRelease
  /-- PWR_RST_WARM (R520): PWR_RST scope 1 requests a warm reset. -/
  | pwrRstWarm (path : ReqPath)
  /-- PWR_RST_DIE (R520): PWR_RST scope 2 resets one die, or is refused. -/
  | pwrRstDie (path : ReqPath) (target : BitVec 11)
  /-- PWR_RST_PLOT (R520): PWR_RST scope 3 resets one plot, or is refused. -/
  | pwrRstPlot (path : ReqPath) (target : BitVec 11)
  /-- PWR_RST_MILL (R520): PWR_RST scope 4 resets one mill, or is refused. -/
  | pwrRstMill (path : ReqPath) (target : BitVec 11)
  /-- PWR_RST_STREAM (R521): PWR_RST scope 5 ends one carter slot's stream and its shadow. -/
  | pwrRstStream (path : ReqPath) (target : BitVec 11) (slot : BitVec 3)
  /-- RESET_WAIT_ENDS (R524): A reset request that waited for another reset starts once that reset completes. -/
  | resetWaitEnds
  /-- SPARE_COLUMN_SUBSTITUTION (R526): In an idle window the leader moves logical columns onto the spare column and updates the mill map. -/
  | spareColumnSubstitution (term : Word) (d : Die) (x : BitVec 5)
  /-- CHALLENGE (R546): SEC_CMD op 1 draws a fresh nonce. -/
  | challenge (w : Writer)
  /-- SIGNED_DEBUG_LEVEL_2 (R546): A verified signed request of op 1 raises the debug level to 2. -/
  | signedDebugLevel2 (w : Writer)
  /-- SIGNED_DEBUG_LEVEL_3 (R550): A verified signed request of op 2 zeroes memories, blows the kill fuse, erases keys and sets level 3. -/
  | signedDebugLevel3 (w : Writer)
  /-- SIGNED_PROGRAM_SLOT (R546): A verified signed request of op 3 programs the lowest empty owner slot. -/
  | signedProgramSlot (w : Writer)
  /-- SIGNED_REVOKE_SLOT (R546): A verified signed request of op 4 revokes an active owner slot. -/
  | signedRevokeSlot (w : Writer)
  /-- SIGNED_REVOKE_FRAREL_KEY0 (R541): A verified signed request of op 5 revokes Frarel key 0 for good. -/
  | signedRevokeFrarelKey0 (w : Writer)
  /-- ATTEST (R552): SEC_CMD op 3 writes a signed attestation report into SEC_MBX. -/
  | attest (w : Writer)
  /-- LOWER_LEVEL (R548): SEC_CMD op 4 lowers the debug level and applies the effects of the drop. -/
  | lowerLevel (w : Writer) (l : BitVec 2)
  /-- CLAIM_SLOT_0 (R544): SEC_CMD op 5 programs owner slot 0 while all slots are empty. -/
  | claimSlot0 (w : Writer)
  /-- SEC_MBX_WRITE (R551): A write of SEC_MBX stores bytes, or is discarded while a command is busy. -/
  | secMbxWrite (w : Writer) (i : BitVec 10) (v : Word)
  /-- L1_ALLOW_WRITE (R548): A committed SEC_DBG_CTL.l1_allow write allows level 1, or clearing it drops level 1 to 0. -/
  | l1AllowWrite (w : Writer) (allow : Bool)
  /-- KEY_STORE_REDERIVE (R571): An uncorrectable key-store error makes the engine derive its keys again within 5 ms. -/
  | keyStoreRederive (loadKey : Bool)
  /-- REEVE_MEMORY_UNCORRECTABLE (R570): An uncorrectable reeve memory error restarts that reeve into Boot. -/
  | reeveMemoryUncorrectable (d : Die)
  /-- LOFT_PATROL (R567): The patrol reads a loft line on a free port cycle and writes back a corrected word or reports an uncorrectable one. -/
  | loftPatrol (m : MillIx)
  /-- FAULT_REPORT (R578): The report collector takes a fault report, passes it to the leader and queues alert code 5 or 13. -/
  | faultReport
  /-- TALLY_SELECT_WRITE (R590): A write of a counter's selection register clears its count and ovf and selects the new source. -/
  | tallySelectWrite (w : Writer) (c : TalCtr) (v : Word)
  /-- TALLY_CLEAR (R592): TAL_CTL.clr clears every counter and ovf bit. -/
  | tallyClear (w : Writer) (freeze : Bool)
  /-- TALLY_LO_READ (R591): A read of a counter's LO register captures the whole count and ovf for that reader. -/
  | tallyLoRead (w : Writer) (c : TalCtr)
  /-- TALLY_PARITY_FAIL (R572): A counter or probe-buffer word fails parity and is reset to zero. -/
  | tallyParityFail (t : TalWord)
  /-- PROBE_BUFFER_RUN (R595): Setting DBG_PB_CTL.run from 0 to 1 empties the buffer and starts capture. -/
  | probeBufferRun (w : Writer) (v : Word)
  /-- PROBE_TRIGGER (R596): The first sample at or after the trigger cycle is stored as the trigger entry and capture stops after post entries. -/
  | probeTrigger
  /-- TAP_RESET (R598): Test-Logic-Reset or DBG_TRST_N resets the TAP and the DBGACC result only. -/
  | tapReset
  /-- DBGACC (R599): Update-DR with a nonzero op starts a debug access, checked against the level. -/
  | dbgacc (op space : BitVec 4) (addr : BitVec 40) (data : Word)
  /-- DBGACC_TIMEOUT (R600): A debug access not done in time completes with TIMEOUT. -/
  | dbgaccTimeout
  /-- DEBUG_LEVEL_1_REQUEST (R610): A write of DBG_LREQ.l1 enters level 1, or is DENIED when l1_allow is 0. -/
  | debugLevel1Request
  /-- ENGINE_HALT (R603): DBG_ECTL.halt stops an engine, or halts its tilled group with cause 11. -/
  | engineHalt (x : BitVec 13)
  /-- ENGINE_STEP (R603): DBG_ECTL.step lets a halted engine issue one instruction or sieve step. -/
  | engineStep (x : BitVec 13)
  /-- ENGINE_RESUME (R603): DBG_ECTL.resume lets a halted engine run on. -/
  | engineResume (x : BitVec 13)
  /-- BREAKPOINT_HIT (R605): An address or bell breakpoint hits and acts as a halt. -/
  | breakpointHit (x : BitVec 13) (k : BitVec 2)
  /-- INPUT_POWER_RISE (R618): The input rises through 58.0 V and the device precharges its converters. -/
  | inputPowerRise
  /-- INPUT_POWER_SHUTDOWN (R619): Undervoltage or overvoltage turns off every converter and die, and all state is lost. -/
  | inputPowerShutdown
  /-- JUNCTION_HOT (R629): The junction reads above 105 °C, setting PWR_MON1.hot and queuing alert 13. -/
  | junctionHot
  /-- THERMAL_TRIP (R629): The junction reaches 115 °C; THERM_TRIP_N is asserted and the device shuts down. -/
  | thermalTrip
  /-- POWER_MONITOR_UPDATE (R634): Every 100 µs PWR_MON readings update and set the voltage flags and alerts. -/
  | powerMonitorUpdate (vin iin : BitVec 10) (tjMax tjW tjE : Byte)
  /-- TAP_USER_PACKET_SEND (R382): User logic of a live plot sends a packet through its fabric tap, which checks it under R242 and stamps it with the plot's placement epoch (R383). -/
  | tapUserPacketSend (d : Die) (t : BitVec 6) (hdr data : List Byte)
  /-- TAP_CART_STAGE (R382): A fabric tap acting as a cart stage (stage code 3) puts or takes a cart under R275 and reads or writes its buffer, or runs a stream its user logic started. -/
  | tapCartStage (p : PlotIx) (op : TapOp)
  /-- BLOCK_MEMORY_USER_PORT_READ (R381): A user-port read of a block memory is corrected and counted, or, when uncorrectable, delivers the word as read, raises the error output, sets FAB_PLOT_STATp.ue and sends a fault report. -/
  | blockMemoryUserPortRead (p : PlotIx) (b : Byte) (portB : Bool) (w : BitVec 12)
  /-- PROBE_BUFFER_SAMPLE (R595): In each FABRIC cycle of the die that clkdie names, while capture runs, the probe buffer samples both probe buses, stores an entry as chg directs, and stops when full with ring = 0. -/
  | probeBufferSample
  /-- PROBE_PIN_UPDATE (R397): Every n fabric cycles the selected byte of a die's probe bus is driven onto PROBE[7:0], or the pins float when FAB_PRB_PIN.en is 0 or user I/O is disabled. -/
  | probePinUpdate
  /-- EXTEST_UPDATE (R598): Under the EXTEST instruction at debug level 2 or 3, an Update-DR drives PROBE[7:0], their enable and the status outputs from the boundary register; at other levels it acts as BYPASS. -/
  | extestUpdate (cells : BitVec 15)
  /-- GRANARY_TRAINING_COMPLETE (R340): Firmware finishes full training of a granary, writes its latencies to the mode registers, and the site's GRN_STAT.state becomes 2 (ready) or 5 (training failed). -/
  | granaryTrainingComplete (site : SiteIx) (passed : Bool) (latencies : List (BitVec 16))
  deriving DecidableEq, Repr

end Sys2Proof
end

