-- ==== Sys2Proof/Machine/Table.lean ====
section
/-! DEFINITION. Sparse tables in one canonical form: keys strictly rising, no entry equal to what an
unlisted key reads as. Memory, registers banks and every other keyed store of the model use them. -/

namespace Sys2Proof.Machine

/-- A sparse table: keys strictly rising, no entry equal to the default. -/
abbrev Table (α : Type) := List (Nat × α)

/-- What the table holds at `k`; `d` where nothing is listed. -/
def Table.get {α : Type} (d : α) : Table α → Nat → α
  | [], _ => d
  | (j, v) :: t, k => if j = k then v else Table.get d t k

/-- Remove every entry of `k`. -/
def Table.erase {α : Type} : Table α → Nat → Table α
  | [], _ => []
  | (j, v) :: t, k => if j = k then Table.erase t k else (j, v) :: Table.erase t k

/-- Insert or replace the entry of `k`, keeping the keys rising. -/
def Table.insert {α : Type} : Table α → Nat → α → Table α
  | [], k, x => [(k, x)]
  | (j, v) :: t, k, x =>
    if k < j then (k, x) :: (j, v) :: t
    else if j = k then (k, x) :: t
    else (j, v) :: Table.insert t k x

/-- Store `x` at `k`; storing the default removes the entry. -/
def Table.put {α : Type} [DecidableEq α] (d : α) (t : Table α) (k : Nat) (x : α) : Table α :=
  if x = d then Table.erase t k else Table.insert t k x

/-- Keys strictly rising from `lo`, and no entry equal to the default. -/
def Table.wfFrom {α : Type} [DecidableEq α] (d : α) : Nat → Table α → Bool
  | _, [] => true
  | lo, (j, v) :: t => decide (lo ≤ j) && !(decide (v = d)) && Table.wfFrom d (j + 1) t

/-- The canonical form of a table. -/
def Table.wf {α : Type} [DecidableEq α] (d : α) (t : Table α) : Bool := Table.wfFrom d 0 t

/-- Change the entry of `k` by a function. -/
def Table.upd {α : Type} [DecidableEq α] (d : α) (t : Table α) (k : Nat) (f : α → α) : Table α :=
  Table.put d t k (f (Table.get d t k))

end Sys2Proof.Machine
end

