-- ==== Sys2Proof/Machine/State.lean ====
section
/-! DEFINITION. The state of the device: every register, store, queue, mode and pin the spec gives it,
as plain data, and the queue of waiting commands. Resets are the field defaults. -/

namespace Sys2Proof.Machine

open Sys2Proof

/-- Why a step stops with a fault. No meaning of this model faults: every failure the spec describes is a
status, a record or an engine stop, which is state. -/
inductive Fault where
  /-- Raised by nothing; kept so that the type is inhabited. Safe: it never occurs. -/
  | none
  deriving DecidableEq, Repr

/-- Why a step is refused. -/
inductive Refusal where
  /-- Raised by Dispatch alone, for a command that has no meaning yet. Safe: the machine stops. -/
  | notModelled (mnemonic : String)
  deriving DecidableEq, Repr

/-! ## Integrity and identity (chapters 18, 21) -/

/-- A pending value of a CW register for one writer (R561). -/
structure PendingCw where
  off : Nat
  writer : Writer
  value : Word
  at_ : Nat
  deriving DecidableEq, Repr

/-- The four classes of R576. -/
inductive ErrClass where
  | corrected | contained | group | device
  deriving DecidableEq, Repr

/-- The schedule-fault record (R108). -/
structure SchedRec where
  tick : BitVec 64
  cycle : Nat
  mill : Nat
  engine : Nat
  kind : Nat
  resource : Nat
  more : Bool
  audit : Bool
  pc : Word
  seq : Word
  stamp : Word
  early : Word
  deriving DecidableEq, Repr

/-- Where a first-error record stands: four words, of which the second or the last holds valid and more. -/
structure ErrRec where
  w0 : Word := 0
  w1 : Word := 0
  w2 : Word := 0
  w3 : Word := 0
  deriving DecidableEq, Repr

/-- A fault report on its way through junction 2 (R578). `addrKind` and `addr` as R579; `page` holds the
alert-5 detail of a stream page-fault report; `covered` says that another alert code covers the event. -/
structure Report where
  block : Nat
  unit : Nat
  cls : ErrClass
  status : Nat
  tick : BitVec 64
  addrKind : Nat
  addr : Nat
  page : Option (List Byte)
  covered : Bool
  /-- The quern and physical row of a failed residue check (R69). -/
  row : Option (Nat × Nat) := none
  /-- The schedule-fault record that the report carries (R108). -/
  sched : Option SchedRec := none
  /-- The first-error record that the report carries (R166, R254). -/
  record : Option ErrRec := none
  deriving DecidableEq, Repr

/-- What the device was built as (R1, R2) and the substitutions made (R643, R644, R646). `rowsW` and `rowsE` give the physical row of
each present logical row of a die. -/
structure Identity where
  option : Option3 := .m
  grade2 : Bool := false
  rowsW : List Nat := List.range 24
  rowsE : List Nat := List.range 24
  qsub : Nat := 0
  spareW : Option (BitVec 5) := none
  spareE : Option (BitVec 5) := none
  oos : Nat := 0
  gen : Word := 0
  /-- The physical rows that a self-test has found failing, as mill, quern and row: the test of the next cold reset finds them again
  (R70). -/
  found : List (Nat × Nat × Nat) := []
  deriving DecidableEq, Repr

/-! ## Time (chapters 00, 05) -/

/-- The clock: `now` counts arithmetic cycles and never jumps; the bell's tick and cycle may (R167, R180). -/
structure Clock where
  now : Nat := 0
  tick : BitVec 64 := 0
  cyc : Nat := 0
  deriving DecidableEq, Repr

/-! ## Mills: arrays and engines (chapters 02, 03) -/

/-- A stationary operand of a yoke: its codes by depth·32 + width, and E8M0 scales by column·2 + block (R57). -/
structure Tile where
  fmt : Fmt := .e4m3
  codes : Table Nat := []
  scaled : Bool := false
  scales : Table Nat := []
  deriving DecidableEq, Repr

/-- The busy marks of one quern: the first cycles in which the next load or operation may issue (R58, R62, R65); `load` is the yoke
whose load is in flight on it. -/
structure QuernBusy where
  stream : Nat := 0
  drain : Nat := 0
  col : Bool := false
  load : Option Nat := none
  deriving DecidableEq, Repr

/-- A stationary load in flight (R58): its operands, the cycle it issued in and the next logical row. -/
structure LoadFlight where
  args : LdsArgs
  issue : Nat
  row : Nat := 0
  deriving DecidableEq, Repr

/-- A yoke operation in flight. Groups enter one per cycle and results leave `lat` cycles later (R59, R60).
`waits` counts cycles lost to an empty AF.MX. -/
structure YokeFlight where
  col : Bool
  args : MmArgs
  issue : Nat
  waits : Nat
  entered : Nat
  tile : Tile
  /-- Groups that have entered and whose results are not written: rows of element codes and scale codes, with
  the cycle each entered in. -/
  groups : List (Nat × List (List Nat × List Nat))
  written : Nat
  readAmt : Nat
  writeAmt : Nat
  readDone : Bool
  writeDone : Bool
  /-- Audit-stall has recorded the hazard that its next group waits for (R107). -/
  audited : Bool := false
  deriving DecidableEq, Repr

/-- The spare state of one quern (R77). -/
structure QSpare where
  used : Bool := false
  dead : Bool := false
  row : BitVec 2 := 0
  deriving DecidableEq, Repr

/-- The submission entry a work item comes from (R292, R295). -/
structure Work where
  sq : Nat
  idx : BitVec 17
  tag : BitVec 64
  cq : Option Nat
  placed : Bool
  deriving DecidableEq, Repr

/-- An invocation (R82) and when it was posted (R84). -/
structure Invocation where
  entry : Word
  args : List Word
  work : Option Work := none
  posted : Nat := 0
  toIdle : Bool := false
  deriving DecidableEq, Repr

/-- A fault of an engine: its status, and for a schedule fault the kind, resource and stamp of R108; the loft offset of R566; the
quern and physical row of R69; the cycle it arose in; and the kind, resource and stamp of a schedule fault raised beside one of
another status (R108). -/
structure EngFault where
  status : Status
  kind : Nat := 0
  resource : Nat := 0
  stamp : Option Nat := none
  addr : Option Nat := none
  quern : Option (Nat × Nat) := none
  at_ : Nat := 0
  also : Option (Nat × Nat × Option Nat) := none
  deriving DecidableEq, Repr

/-- Debug halt state of an engine (R610). -/
inductive DbgHalt where
  | none | pending | halted
  deriving DecidableEq, Repr

/-- A breakpoint (R605, R610). -/
structure Breakpoint where
  val : Word := 0
  en : Bool := false
  bell : Bool := false
  cycle : BitVec 11 := 0
  deriving DecidableEq, Repr

/-- The debug registers of an engine or reeve (R610). -/
structure Dbg where
  halt : DbgHalt := .none
  why : BitVec 2 := 0
  bp : BitVec 2 := 0
  step : Bool := false
  bps : Table Breakpoint := []
  deriving DecidableEq, Repr

/-- One engine of a mill (R79, R82, R113, R650). -/
structure Engine where
  regs : Table Word := []
  ready : Table Nat := []
  args : List Word := []
  pc : Word := 0
  queue : List Invocation := []
  running : Option Invocation := none
  begun : Word := 0
  ended : Nat := 0
  stack : List Word := []
  held : Option EngOp := none
  heldAt : Nat := 0
  /-- The kind and resource of what the held operation waits for. -/
  heldFor : Nat × Nat := (0, 0)
  /-- The kind and resource of the hazard of the next operation that audit-stall has recorded (R107). -/
  audited : Option (Nat × Nat) := none
  nextIssue : Nat := 0
  deferred : Option EngFault := none
  stopped : Option Status := none
  done : Option Word := none
  dbg : Dbg := {}
  deriving DecidableEq, Repr

/-- A scoreboard mark (R101, R102): ready stamp, writes in flight with no stamp, read-busy stamp, and reads
in flight with no stamp. Stamps are cycles of the model's clock. -/
structure Mark where
  ready : Nat := 0
  pending : Nat := 0
  busy : Nat := 0
  reading : Nat := 0
  deriving DecidableEq, Repr

/-- An address pattern still emitting (R93): the next cycle it emits in, and its position. -/
structure AgenRun where
  base : Word
  dims : List (Word × Word)
  idx : Nat
  total : Nat
  next : Nat
  deriving DecidableEq, Repr

/-- An address FIFO: its words, each with the cycle from which it is visible (R92, R93). -/
structure Fifo where
  words : List (Nat × Word) := []
  agen : Option AgenRun := none
  deriving DecidableEq, Repr

/-- An increment that has completed, or will at `at_`, and becomes visible two cycles later (R95). -/
structure PendingInc where
  at_ : Nat
  counter : Nat
  amount : Nat
  eng : Eng
  deriving DecidableEq, Repr

/-- A result on its way: when it lands and what it does. Register results read from their cycle on; stores
are read in later cycles (R85, R122, R125). -/
inductive Land where
  | d (k : Nat) (lanes : List (BitVec 24))
  | bx (k : Nat) (v : BitVec 10)
  | a (k : Nat) (lanes : List (BitVec 56)) (ax : BitVec 10)
  | acc (k : Nat) (lanes : List (BitVec 56))
  | e (k : Nat) (v : BitVec 16)
  | elo (k : Nat) (v : Byte)
  | sat (bits : BitVec 5)
  | bank (y : Bool) (off : Nat) (bytes : List Byte)
  | loft (off : Nat) (bytes : List Byte) (eng : Eng)
  | cst (off : Nat) (bytes : List Byte)
  | fifo (bytes : List Byte)
  deriving DecidableEq, Repr

/-- The repeat state of the sieve (R130); `cached` says that the repeat cache holds the body. -/
structure Rpt where
  start : Word
  body : Nat
  pos : Nat
  left : Nat
  branch : Bool
  cached : Bool := false
  deriving DecidableEq, Repr

/-- The delay-slot state of the sieve (R128). -/
structure Delay where
  left : Nat
  target : Option Word
  deriving DecidableEq, Repr

/-- What waits for an accepted point of the sieve (R133). -/
inductive StopReq where
  | halt (why : Nat) (bp : Nat)
  | withdraw
  | mill
  deriving DecidableEq, Repr

/-- The sieve's registers and output FIFO (R116, R120). Lanes are keyed register·16 + lane. -/
structure Sieve where
  d : Table (BitVec 24) := []
  bx : Table (BitVec 10) := []
  a : Table (BitVec 56) := []
  ax : Table (BitVec 10) := []
  e : Table (BitVec 16) := []
  fifo : List Byte := []
  rpt : Option Rpt := none
  delay : Option Delay := none
  stat : BitVec 5 := 0
  req : Option (Nat × StopReq) := none
  deriving DecidableEq, Repr

/-! ## The bell (chapter 05) -/

/-- What the bell keeps per field port: BELL_HOPp, the recorded round trip, the echo request sent and the one to answer
(R174, R187). -/
structure BellPort where
  valid : Bool := false
  txadj : Bool := false
  hop : Nat := 0
  rt : Option Nat := none
  /-- The requests that have no answer yet, with the cycles of their launch (R174). -/
  reqs : List (Nat × Nat) := []
  answer : Option (Nat × Nat) := none
  deriving DecidableEq, Repr

/-- The bell states of 05 Table 5. -/
inductive BellState where
  | standalone | calibrating | locked | holdover | source
  deriving DecidableEq, Repr

/-- The 25 clock domains of 05 Table 1; a lane's domains run at the rate of its port. -/
inductive Domain where
  | arith (d : Die)
  | fabric (d : Die)
  | ctrl (d : Die)
  | seam
  | granary (d : Die)
  | hbmCmd
  | reeve (d : Die)
  | sexton | awCore | aeCore | linkDie
  | laneTx (p : Nat)
  | laneRx (p : Nat)
  | hostPort | security | bell | alwaysOn | pwr | debug | trace
  deriving DecidableEq, Repr

/-- A crossing that configuration sets up (R161 to R165): its type, its source and destination domains, its delay, whether a tilled
path fixes it, the group slot of that path, the power domain of its destination island, and the unit whose frames set it up. -/
structure Crossing where
  typ : Nat
  src : Domain
  dst : Domain
  delay : Nat
  fixed : Bool
  gslot : Option Nat
  island : Option Nat := none
  owner : Nat := 0
  deriving DecidableEq, Repr

/-- An item that waits in a fixed-latency crossing (R165): its release cycle in destination cycles, and the cycle of the model that
this is. -/
structure CrossItem where
  xid : Nat
  release : Nat
  due : Nat
  item : List Byte
  deriving DecidableEq, Repr

/-- The bell, its tree and its calibration. `jumped` holds the matches since the jump of a calibration. -/
structure Bell where
  tag : BitVec 16 := 0
  upPort : BitVec 5 := 0
  role : BitVec 2 := 0
  down : Word := 0
  state : BellState := .standalone
  depth : Byte := 0
  xfltBit : Bool := false
  refused : Bool := false
  refLoss : Bool := false
  slipBit : Bool := false
  capCycle : Nat := 0
  capTick : BitVec 64 := 0
  slip : ErrRec := {}
  xflt : ErrRec := {}
  ports : Table BellPort := []
  seq : Nat := 1
  refclk : Bool := true
  plls : Bool := true
  seen : Bool := false
  missed : Nat := 0
  h : Option Nat := none
  jumped : Option Nat := none
  lockNext : Option (BitVec 64) := none
  /-- The depth that the last marker of a calibration named. -/
  upDepth : Nat := 0
  crossings : Table Crossing := []
  store : List CrossItem := []
  deriving DecidableEq, Repr

/-! ## Tilled groups (chapter 06) -/

/-- The group states of R198. -/
inductive GroupState where
  | empty | loaded | seated | restoring | running | halted
  deriving DecidableEq, Repr

/-- A halt record (R232). -/
structure HaltRec where
  haltTick : BitVec 64
  originTick : BitVec 64
  originCycle : Nat
  originNode : Nat
  cause : Nat
  here : Bool
  more : Bool
  detail : Nat
  dist : Nat
  pos : Nat
  deriving DecidableEq, Repr

/-- A halt that falls due at the next tick (R208, R209). -/
structure HaltDue where
  cause : Nat
  detail : Nat
  originTick : BitVec 64
  originCycle : Nat
  originNode : Nat
  originCause : Nat
  dist : Nat
  more : Bool
  deriving DecidableEq, Repr

/-- One group slot. -/
structure Group where
  state : GroupState := .empty
  seatErr : BitVec 4 := 0
  mark : BitVec 4 := 0xF
  cause : Byte := 0
  markT : BitVec 64 := 0
  halt : Option HaltRec := none
  almanac : Option Almanac := none
  base : BitVec 64 := 0
  target : BitVec 64 := 0
  seatMark : BitVec 4 := 0
  unseat : Bool := false
  resume : BitVec 64 := 0
  due : Option HaltDue := none
  dueTick : BitVec 64 := 0
  noticed : Bool := false
  /-- Bookings whose complement fails when they are read for use, and in how many of their copies (R569). -/
  badBook : List (Nat × Nat) := []
  deriving DecidableEq, Repr

/-! ## Routes and routers (chapters 06, 07) -/

/-- A route of the sheaf's route table (R277): hops left, the 96-bit hop field and the destination node. -/
structure Route where
  left : Nat
  hops : Nat
  node : Nat
  deriving DecidableEq, Repr

/-- The rows that anchor ports inject at, by input port · 32 + output port (R238), and the routes that a ring's arg
names (R277). -/
structure Routes where
  rows : Table Nat := []
  paths : Table Route := []
  deriving DecidableEq, Repr

/-- A packet in a router (R244): its input port, output, header, payload and virtual channel, the cycle at which it reaches the
output (R251), and the payload flits that did not come through (R253). -/
structure Waiting where
  inp : Nat
  out : Nat
  hdr : List Byte
  data : List Byte
  vc : Bool
  ready : Nat
  lost : Nat
  deriving DecidableEq, Repr

/-- A router: its packets in order of arrival, the P0 counts of its outputs (R245), when each flit lane of each output is free, the
flits it has in the buffers of its neighbours, and the credits on their way back: a cycle, a buffer and flits (R248). A lane's key is
output · 2 + lane, a buffer's is output · 16 + priority · 2 + channel. -/
structure Router where
  queue : List Waiting := []
  counts : Table Nat := []
  freeAt : Table Nat := []
  used : Table Nat := []
  returns : List (Nat × Nat × Nat) := []
  deriving DecidableEq, Repr

/-! ## Streams, carts and rings (chapter 08) -/

/-- A stream descriptor as fetched: its 64 bytes (R256). -/
abbrev DescBytes := List Byte

/-- The position of a transfer (R267): counters, byte offset in the row, bytes written. -/
structure Pos where
  c1 : Nat := 0
  c2 : Nat := 0
  c3 : Nat := 0
  off : Nat := 0
  bytes : Nat := 0
  deriving DecidableEq, Repr

/-- A cart held by a stream (R272): its 16 bytes, how far it is filled or read, and whether its buffer is marked (R102). -/
structure HeldCart where
  cart : List Byte
  done : Nat
  marked : Bool := false
  deriving DecidableEq, Repr

/-- What runs in a carter slot: a stream on a list, or a local move (R90). -/
inductive SlotWork where
  | stream (list : Nat)
  | move (a : MovArgs)
  deriving DecidableEq, Repr

/-- A stream or move in a carter slot (R262 to R271). `descs` are the descriptors fetched and not yet ended,
`fetched` how many of the list have arrived, `more` whether the list may go on, `asked` whether a burst is
outstanding. `run` says that the transfer at the head of `descs` has started, `fin` that its data has all moved, `halted` that it stands on a
page fault; `row` is the row address taken from the address FIFO. -/
structure Slot where
  work : SlotWork
  inc : Option (Nat × Nat) := none
  descs : List DescBytes := []
  fetched : Nat := 0
  ended : Nat := 0
  more : Bool := true
  asked : Bool := false
  run : Bool := false
  fin : Bool := false
  wrote : Bool := false
  halted : Bool := false
  firstGen : Option Nat := none
  pos : Pos := {}
  row : Option Nat := none
  inCart : Option HeldCart := none
  outCart : Option HeldCart := none
  shadow : Option (Option (Nat × Nat) × List DescBytes) := none
  heldRearm : Bool := false
  /-- The stream is over, and the slot waits for the first burst of its held re-arm (R269). -/
  isOver : Bool := false
  /-- Re-arms that were refused before their first descriptor arrived (R269). -/
  refused : Nat := 0
  start : Nat := 0
  /-- The cycle in which the first burst arrived (R263). -/
  arrived : Nat := 0
  /-- Row addresses taken from the address FIFO for the block being read (R91). -/
  rows : List Nat := []
  /-- The transposed block being written: how much of it is written, and its bytes (R259). -/
  block : Option (Nat × List Byte) := none
  /-- The kind and resource of the hazard of its next transfer that audit-stall has recorded (R107). -/
  audited : Option (Nat × Nat) := none
  deriving DecidableEq, Repr

/-- A stream-state record (R281, Table 9). -/
structure Ssr where
  desc : Nat := 0
  gen : Nat := 0
  state : Nat := 0
  pos : Pos := {}
  faultAddr : Nat := 0
  flags : Nat := 0
  deriving DecidableEq, Repr

/-- A cart put and not yet visible (R275): its ring, when it becomes visible for a local put, the placement epoch a
packet carries (R219), and the mill and engine, or the mill and carter slot, that put it. -/
structure CartFlight where
  ring : Nat
  cart : List Byte
  at_ : Nat
  local_ : Bool
  epoch : Option Nat := none
  src : Option (Nat × Eng) := none
  slot : Option (Nat × Nat) := none
  deriving DecidableEq, Repr

/-- A field port's sending of one cart (R277): the frame number after its last frame, and whether it went in booked slots. -/
structure PortSend where
  ring : Nat
  cart : List Byte
  sent : Nat
  booked : Bool
  deriving DecidableEq, Repr

/-- The cart a field-ingress ring is being filled into (R278). -/
structure Ingress where
  ring : Nat
  cart : List Byte
  next : Nat
  src : Nat
  deriving DecidableEq, Repr

/-! ## Queues and dispatch (chapter 09) -/

/-- A stored count and its one's complement (R285). -/
structure Count where
  v : BitVec 17 := 0
  n : BitVec 17 := 0x1FFFF
  deriving DecidableEq, Repr

/-- One hardware queue (R283 to R286, R274, R312): its record bytes, counts and states. `written` says that a
ring record was written; `alertSent` holds off further alerts until the occupancy has been 0 (R300). -/
structure Queue where
  record : BitVec 192 := 0
  written : Bool := false
  head : Count := {}
  tail : Count := {}
  en : Bool := false
  fault : Bool := false
  ovf : Bool := false
  wdr : Bool := false
  fetch : Bool := false
  alertSent : Bool := false
  disabling : Bool := false
  /-- Entries read ahead of the head, each with its 64 bytes (R293). -/
  fetched : List (List Byte) := []
  /-- The head entry waits under R304 since this cycle. -/
  waiting : Option Nat := none
  deriving DecidableEq, Repr

/-- A completion (R295). -/
structure Completion where
  cq : Nat
  status : Status
  kind : Nat
  placed : Bool := false
  partial_ : Bool := false
  gen : Nat := 0
  sq : Nat := 0xFFFF
  sqidx : Nat := 0
  tag : BitVec 64 := 0
  mill : Nat := 0xFFFF
  detail : Word := 0
  deriving DecidableEq, Repr

/-- A command entry carried on after it was placed (R306): its SQ, index, tag and completion queue. -/
structure CmdRef where
  sq : Nat
  idx : BitVec 17
  tag : BitVec 64
  cq : Option Nat
  mill : Nat
  deriving DecidableEq, Repr

/-- A fence in progress (R306): `engs` names each engine (mill·5 + engine) that had invocations queued or
running when the fence was placed, with the count of ended invocations it must reach. -/
structure FenceRun where
  ref : CmdRef
  first : Nat
  count : Nat
  engs : List (Nat × Nat)
  deriving DecidableEq, Repr

/-- A withdraw in progress (R307, R308). -/
structure WithdrawRun where
  ref : CmdRef
  sq : Option Nat
  mill : Option Nat
  force : Bool
  deadline : Nat
  cancelled : Nat
  aborted : Nat
  expired : Bool
  deriving DecidableEq, Repr

/-- The dispatcher of a die (R303, R305). -/
structure Dispatcher where
  ptr : Nat := 0
  lastSq : Nat := 0
  left : Nat := 0
  next : Nat := 0
  deriving DecidableEq, Repr

/-- The queue store and dispatchers. -/
structure QueueStore where
  queues : Table Queue := []
  err : ErrRec := {}
  pendW : List Completion := []
  pendE : List Completion := []
  dspW : Dispatcher := {}
  dspE : Dispatcher := {}
  fences : List FenceRun := []
  withdraws : List WithdrawRun := []
  flights : List CartFlight := []
  deriving DecidableEq, Repr

/-! ## The whole mill -/

/-- A word of a mill's control state that carries parity or a complement (R565): lanes and exponents of sieve registers, instruction
queues, address FIFOs, carter slots, sync counters and scoreboard stamps. -/
inductive ParWord where
  | d (k : Nat) | bx (k : Nat) | a (k : Nat) | ax (k : Nat) | e (k : Nat)
  | queue (g : Eng) | fifo (f : Af) | slot (k : Nat) | counter (c : Nat) | stamp (r : Nat)
  deriving DecidableEq, Repr

/-- One mill: its arrays, engines, sieve, carters and scoreboard. Byte stores (loft, banks, C store,
instruction memories) stand in the device's memory. -/
structure Mill where
  part : Partition := {}
  reshape : Option Partition := none
  tiles : Table Tile := []
  flights : List YokeFlight := []
  busy : Table QuernBusy := []
  qspare : Table QSpare := []
  arith : BitVec 4 := 0
  oos : Bool := false
  configured : Bool := false
  program : Bool := false
  tilled : Bool := false
  gslot : Option Nat := none
  sealed : Bool := false
  cap : Byte := 0
  syncInit : List (BitVec 16) := []
  held : BitVec 8 := 0
  accepted : BitVec 8 := 0
  auditStall : Bool := false
  st : Engine := {}
  mx : Engine := {}
  sv : Engine := {}
  ca : Engine := {}
  cb : Engine := {}
  sieve : Sieve := {}
  sync : Table (BitVec 16) := []
  incs : List PendingInc := []
  marks : Table Mark := []
  fifos : Table Fifo := []
  lands : List (Nat × Land) := []
  slots : Table (Option Slot) := []
  ssr : Table Ssr := []
  sfr : Option SchedRec := none
  stopped : Option Status := none
  frozen : Bool := false
  patrolLine : Nat := 0
  patrolNext : Nat := 0
  /-- Words whose parity or complement fails at their next use (R565). -/
  parity : List ParWord := []
  /-- Querns and physical rows whose residue check fails while the row is active (R69). -/
  resid : List (Nat × Nat) := []
  /-- Ports and counters that operations of commands have used: the cycle, the key and the engine's place in the order (R86, R98). -/
  ports : List (Nat × Nat × Nat) := []
  /-- Stationary loads in flight (R58). -/
  loads : List LoadFlight := []
  /-- The slot that a carter served last in rotation (R90). -/
  turn : Table Nat := []
  /-- The cycle from which a carter's 256 bytes per cycle are free for the next piece of a stream (R261). -/
  moveFree : Table Nat := []
  /-- The mill has had work since the last epoch boundary (R70). -/
  worked : Bool := false
  deriving DecidableEq, Repr

/-! ## Granaries (chapter 10) -/

/-- One queued granule request of a pseudo-channel (R325, R326): its byte offset in the stack, where it came
from, and for a write its mask and data; `seq` numbers a queue's writes, `waits` the masked write a read waits for (R328). -/
structure GrnReq where
  addr : Nat
  src : Nat
  tag : Nat
  write : Bool
  mask : BitVec 64
  data : List Byte
  seq : Nat := 0
  waits : Option Nat := none
  deriving DecidableEq, Repr

/-- A read that has been issued or answered and whose data has not left, and the cycle of its release where it is booked (R328, R331,
R342). -/
structure GrnRead where
  pc : Nat
  req : GrnReq
  data : List Byte
  code : Nat
  due : Nat := 0
  deriving DecidableEq, Repr

/-- The queues of one pseudo-channel (R325). -/
structure PcQueues where
  rd : List GrnReq := []
  wr : List GrnReq := []
  next : Nat := 0
  deriving DecidableEq, Repr

/-- A training-helper run (R341, R348). -/
structure TrainRun where
  lg : Nat
  pattern : Nat
  dir : Bool
  pc : Nat
  ch : Nat
  deriving DecidableEq, Repr

/-- A delay code pair of a lane (R349). -/
structure Delay2 where
  wr : BitVec 7 := 0x40
  rd : BitVec 7 := 0x40
  deriving DecidableEq, Repr

/-- One site's granary and its GRN block. `state` is GRN_STAT.state, 0 until the power-on sequence starts the training of a fitted site; `hash` holds the masks that
differ from 10 Table 3; `stageL` and `stageH` the staged halves (R346); `window` when the window or slot ends, `slot` that it is a training slot;
`rows` the row that common traffic left open in a bank (R330). -/
structure Granary where
  state : Nat := 0
  opened : Bool := false
  hot : Bool := false
  temp : Byte := 0
  hash : Table (BitVec 40) := []
  stageL : Table Word := []
  stageH : Table Word := []
  err : ErrRec := {}
  trn : TrainRun := { lg := 0, pattern := 0, dir := false, pc := 0, ch := 0 }
  busy : Bool := false
  cut : Bool := false
  done : Bool := false
  errs : Table (BitVec 16) := []
  delays : Table Delay2 := []
  newDelays : Table (Option Delay2) := []
  queues : Table PcQueues := []
  reads : List GrnRead := []
  window : Option Nat := none
  slot : Bool := false
  modes : List (BitVec 16) := []
  repairs : List (Nat × Nat) := []
  rows : Table Nat := []
  openBefore : Bool := false
  before : Nat := 0
  booked : List GrnCmd := []
  deriving DecidableEq, Repr

/-- The cadence unit and GRN_CAD (R336 to R338, R350): true is hot. -/
structure Cadence where
  hot : Bool := false
  next : Option Bool := none
  refused : Bool := false
  tcf : Bool := false
  site : BitVec 4 := 0
  deriving DecidableEq, Repr

/-! ## The page ledger (chapter 11) -/

/-- One copy of a ledger entry (R352), with its check mark: false when its SEC-DED fails (R353). -/
structure LedgerEntry where
  ctl : Word := 0
  ctlN : Word := 0xFFFFFFFF
  frame : Word := 0
  codeOk : Bool := true
  deriving DecidableEq, Repr

/-- The translation caches of R359. -/
inductive CacheId where
  | mill (m : Nat)
  | queue (d : Die)
  | tap (d : Die)
  | window
  deriving DecidableEq, Repr

/-- One cache: pages with the entries they hold, most recently used first. -/
structure Cache where
  id : CacheId
  lines : List (Nat × LedgerEntry)
  deriving DecidableEq, Repr

/-- An update that has committed and not completed (R355, R360). -/
structure LedgerUpdate where
  page : Nat
  old : LedgerEntry
  fresh : LedgerEntry
  zero : List Nat
  term : Option Word
  deriving DecidableEq, Repr

/-- The ledger: both copies, seal map, caches, updates in progress per path, and PGL registers. -/
structure Ledger where
  copyW : Table LedgerEntry := []
  copyE : Table LedgerEntry := []
  seals : Table Nat := []
  pages : Table (List Nat) := []
  caches : List Cache := []
  host : Option LedgerUpdate := none
  reeve : Option LedgerUpdate := none
  upd0 : Word := 0
  upd1 : Word := 0
  upd2 : Word := 0
  usrc : Bool := false
  ustatus : Nat := 0
  upage : Nat := 0
  rdidx : Nat := 0
  deriving DecidableEq, Repr

/-! ## Word fabric and plots (chapter 12) -/

/-- The plot states of R385. -/
inductive PlotState where
  | blank | writing | configured | releasing | live | retained | stopped | idle
  deriving DecidableEq, Repr

/-- A block memory's configuration and registers (R377 to R381, R383): what its user ports deliver, with the error output, and what the
last cycle read on each of them, for the optional output register. -/
structure Bram where
  aspect : BitVec 2 := 0
  portBUser : Bool := false
  portA : BitVec 72 := 0
  portB : BitVec 72 := 0
  err : Bool := false
  nextA : BitVec 72 × Bool := (0, false)
  nextB : BitVec 72 × Bool := (0, false)
  deriving DecidableEq, Repr

/-- How a plot's image connects a user port of one of its block memories (R378 to R381): port A or B, the nets of its address, write data
and write enable, the nets that its read data drives, sixteen bits each, its error output, and whether it has the output register. -/
structure BramPort where
  mem : Nat
  portB : Bool
  addr : Nat
  din : List Nat
  we : Option Nat
  dout : List Nat
  err : Option Nat
  outReg : Bool
  deriving DecidableEq, Repr

/-- The declared value of a hedge (R391). -/
inductive Declared where
  | zero | one | hold
  deriving DecidableEq, Repr

/-- A hedge into a plot: the plot and net it comes from, its declared value, whether the sheaf names it as a clock enable
(R391, R393). -/
structure Hedge where
  plot : Nat := 0
  net : Nat := 0
  declared : Declared := .zero
  clockEn : Bool := false
  deriving DecidableEq, Repr

/-- A cart held by a tap stage (R382, R387): the ring it came from, its bytes, bytes written, being read. -/
structure TapCart where
  ring : Nat
  cart : List Byte
  wrote : Nat
  reading : Bool
  deriving DecidableEq, Repr

/-- A stream that user logic started through the tap (R387). -/
structure TapStream where
  tag : Nat
  bytes : Nat
  deriving DecidableEq, Repr

/-- Word-cell operations (R372). -/
inductive CellOp where
  | add (carry : Bool) | sub (carry : Bool) | abs | neg
  | and | or | xor | andn | not
  | shl | shr | sar
  | eq | ne | lt (signed : Bool) | le (signed : Bool)
  | sel | min (signed : Bool) | max (signed : Bool) | mul8 | pass
  deriving DecidableEq, Repr

/-- An operand selection of a cell. -/
inductive CellSel where
  | a | b | h0 | h1
  | const (v : BitVec 16)
  deriving DecidableEq, Repr

/-- The output selection of a cell. -/
inductive CellOut where
  | result | h0 | h1
  deriving DecidableEq, Repr

/-- An entry of a cell's instruction register. -/
structure CellEntry where
  op : CellOp
  x : CellSel
  y : CellSel
  wr0 : Bool
  wr1 : Bool
  out : CellOut
  deriving DecidableEq, Repr

/-- A configured cell: its number (croft · 16 + position), its entries, the nets of its inputs and outputs, whether it is fixed. -/
structure CellCfg where
  num : Nat
  entries : List CellEntry
  inA : Option Nat
  inB : Option Nat
  inF : Option Nat
  outNet : Nat
  flagNet : Nat
  fixed : Bool
  init0 : BitVec 16
  init1 : BitVec 16
  deriving DecidableEq, Repr

/-- The registers of a cell. -/
structure CellRegs where
  h0 : BitVec 16 := 0
  h1 : BitVec 16 := 0
  flag : Bool := false
  deriving DecidableEq, Repr

/-- Where a croft takes its context from (R374): a constant, or the bit nets of the plot. -/
inductive CroftCtx where
  | const (v : BitVec 3)
  | nets (b0 b1 b2 : Nat)
  deriving DecidableEq, Repr

/-- What a plot's frames configure in it (R402): cells, contexts, hedges, block memories with their user ports and initial contents, resets, the
placement epoch and the group slot. -/
structure PlotImage where
  cells : List CellCfg := []
  ctx : Table CroftCtx := []
  hedges : Table Hedge := []
  brams : Table Bram := []
  ports : List BramPort := []
  resets : List Nat := []
  contents : Table Byte := []
  pepoch : BitVec 8 := 0
  gslot : Option (BitVec 3) := none
  deriving DecidableEq, Repr, Inhabited

/-- One plot. `hold` keeps the values last driven through its hedges (R391). -/
structure Plot where
  state : PlotState := .blank
  pepoch : BitVec 8 := 0
  accepted : BitVec 8 := 0
  sealed : Bool := false
  tilled : Bool := false
  gslot : BitVec 3 := 0
  ue : Bool := false
  closing : Option PlotState := none
  asked : BitVec 64 := 0
  releaseAt : Option (BitVec 64) := none
  stage : Nat := 0
  stageAt : Nat := 0
  writesOn : Bool := false
  resetsOn : Bool := true
  image : PlotImage := {}
  brams : Table Bram := []
  regs : Table CellRegs := []
  nets : Table (BitVec 16) := []
  hold : Table (BitVec 16) := []
  carts : List TapCart := []
  streams : List TapStream := []
  deriving DecidableEq, Repr

/-- The fabric registers and probe pins. -/
structure Fabric where
  clkW : BitVec 3 := 0
  clkE : BitVec 3 := 0
  plots : Table Plot := []
  prbSel : Table Word := []
  prbCtlW : Word := 0
  prbCtlE : Word := 0
  prbPin : Word := 0
  pins : Option Byte := none
  deriving DecidableEq, Repr

/-! ## Configuration (chapter 13) -/

/-- A stored frame (R402): its 400 bytes, CRC-32 and syndrome; `enc` says that an encrypted section of a tilled group wrote it. -/
structure FrameRec where
  data : List Byte
  crc : Word
  syn : BitVec 12
  enc : Bool := false
  deriving DecidableEq, Repr

/-- What a mill's frames configure (R402). -/
structure MillImage where
  part : Partition := {}
  cap : Byte := 0
  syncInit : List (BitVec 16) := []
  pepoch : BitVec 8 := 0
  tilled : Bool := false
  gslot : BitVec 3 := 0
  crossings : Table Crossing := []
  deriving DecidableEq, Repr, Inhabited

/-- What the die frames and route sections configure (R238, R274, R402): crossings, route rows, field routes. -/
structure DieImage where
  crossings : Table Crossing := []
  rows : Table Nat := []
  paths : Table Route := []
  deriving DecidableEq, Repr, Inhabited

/-- A running load (R409 to R412): its source, whether it still waits for a chain start, its chain position, the sheaf bytes
received, whether stage A has passed, the bodies processed, the key section, the plain bodies by section, and when the last byte
came. -/
structure LoadRun where
  src : Nat
  armed : Bool := false
  hop : Nat := 0
  rx : List Byte := []
  passed : Bool := false
  secs : Nat := 0
  keys : Option (List Byte) := none
  bodies : Table (List Byte) := []
  lastAt : Nat := 0
  deriving DecidableEq, Repr

/-- A chain stream (R414, R415): the hop of this device, the bytes that the chain start announced, the stream bytes received, whether
forwarding has begun, forwarded bytes that wait for a full frame, and the bytes forwarded of a host load. -/
structure ChainRun where
  hop : Nat
  follow : Option Nat := none
  got : Nat := 0
  started : Bool := false
  buf : List Byte := []
  fwd : List Byte := []
  deriving DecidableEq, Repr

/-- The sexton (R421 to R426, R430): the frame a pass stands at, the tick of the last start, and the SXT registers. -/
structure Sexton where
  ptr : Option Nat := none
  start : Option (BitVec 64) := none
  passes : Word := 0
  corr : Word := 0
  repair : Word := 0
  ue : ErrRec := {}
  deriving DecidableEq, Repr

/-- The loader, the CFG registers and configuration memory. `frames2` holds the second copies of die frames (R425). -/
structure Cfg where
  fullOk : Bool := false
  err : Bool := false
  chainPos : Byte := 0
  state : BitVec 3 := 0
  reason : BitVec 4 := 0
  faddrHi : BitVec 16 := 0
  sect : BitVec 12 := 0
  sheafId : Word := 0
  pos : BitVec 64 := 0
  run : Option LoadRun := none
  chain : Option ChainRun := none
  aw3 : Bool := false
  ae3 : Bool := false
  frames : Table FrameRec := []
  frames2 : Table FrameRec := []
  rba : Word := 0
  rbDone : Bool := false
  rbDenied : Bool := false
  rbd : Option FrameRec := none
  sxt : Sexton := {}
  deriving DecidableEq, Repr

/-! ## Field lanes and ports (chapter 14) -/

/-- One physical receive lane: its alignment (R441), the logical lane it serves where that has changed (R465), its equaliser
and the peaking in force from a frame boundary (R445), and what the alignment and sparing rules count. -/
structure PhysLane where
  align : BitVec 2 := 0
  role : Option (BitVec 4) := none
  peak : BitVec 5 := 8
  force : BitVec 5 := 8
  ew : Byte := 0
  eh : Byte := 0
  groups : List Bool := []
  heads : List Bool := []
  good : Nat := 0
  clean : Nat := 0
  /-- The running disparity of what the lane receives (R433): positive, or negative. -/
  rd : Bool := false
  deriving DecidableEq, Repr

/-- A frame that waits for its booked slot on an output port: its number, where it comes from, whether it is a parcel's first, and its payload. -/
structure BookedTx where
  no : Nat
  src : FrameSrc
  first : Bool
  data : List Byte
  deriving DecidableEq, Repr

/-- A booked parcel of which frames have yet to come: its route and delivery header, its bytes so far, and the frames left. -/
structure BookedRx where
  group : Nat
  hdr : List Byte
  data : List Byte
  left : Nat
  deriving DecidableEq, Repr

/-- A sequenced frame that is not acknowledged (R450 to R452): frame k of the port travels on logical lane k mod 8 with
seq k / 8 modulo 128. -/
structure TxFrame where
  no : Nat
  first : Bool
  data : List Byte
  at_ : Nat := 0
  resends : Nat := 0
  deriving DecidableEq, Repr

/-- One logical lane's receive state: the next seq expected, a pending nak and the naks sent without progress, frames received
and not acknowledged, frames in order that wait for the merge, and the recent uncorrectable frames (R450 to R452, R458). -/
structure LinkLane where
  expect : Nat := 0
  nak : Bool := false
  naks : Nat := 0
  unacked : Nat := 0
  frames : Nat := 0
  bad : List Nat := []
  inbox : List (Bool × List Byte) := []
  deriving DecidableEq, Repr

/-- The port states of R464. -/
inductive PortState where
  | idle | ladder | up
  deriving DecidableEq, Repr

/-- A parcel that has been delivered to this device and waits for its class's handling (R223). -/
structure Parcel where
  hdr : List Byte
  data : List Byte
  since : Nat
  deriving DecidableEq, Repr

/-- One field port. -/
structure Port where
  en : Bool := false
  maxRate : BitVec 3 := 4
  state : PortState := .idle
  rate : Nat := 0
  stepFail : Bool := false
  failRate : Nat := 0
  lost : Bool := false
  credit : Nat := 0
  lanes : Table PhysLane := []
  spareLog : Option Nat := none
  sparePhys : Option Nat := some 8
  sub : Option (Nat × Nat) := none
  txDup : Option Nat := none
  txServes : Option Nat := none
  links : Table LinkLane := []
  frameNo : Nat := 0
  takeNo : Nat := 0
  replay : List TxFrame := []
  waiting : List TxFrame := []
  stream : List (Bool × List Byte) := []
  held : Nat := 0
  give : Nat := 0
  ackFrom : Nat := 0
  target : Option Nat := none
  limit : Option Nat := none
  leading : Bool := false
  prev : Nat := 0
  deadline : Option Nat := none
  tiebreak : BitVec 64 := 0
  sends : List PortSend := []
  ingress : List Ingress := []
  arrived : List Parcel := []
  parked : Option Parcel := none
  jumpPending : Bool := false
  /-- The first LANE_TX symbol of each logical lane that is not yet given to a frame, by the device's count of symbols (R454). -/
  lanesAt : Table Nat := []
  bookedTx : List BookedTx := []
  bookedNo : Nat := 0
  bookedRx : List BookedRx := []
  deriving DecidableEq, Repr

/-! ## The Atvex host port (chapter 15) -/

/-- An alert (R483): its code, serial, tick, detail bytes, whether alerts were dropped before it, and the number of the link packet
that carries it. -/
structure Alert where
  code : Nat
  ovf : Bool
  serial : Word
  tick : BitVec 64
  detail : List Byte
  seq : Option Nat := none
  deriving DecidableEq, Repr

/-- A link packet kept for resending (R472): its number, bytes, first-send time and resends. -/
structure SentPkt where
  seq : Nat
  bytes : List Byte
  at_ : Nat
  resends : Nat
  deriving DecidableEq, Repr

/-- A credit count per pool (R473): window writes, register writes, reads, messages. -/
structure Credits where
  w : Nat := 0
  r : Nat := 0
  n : Nat := 0
  m : Nat := 0
  deriving DecidableEq, Repr

/-- The way a host transaction came: the device's own link, or a relay head with its return route and node (R489). -/
structure Via where
  left : Nat
  hops : Nat
  head : Nat
  deriving DecidableEq, Repr

/-- A host window read not yet completed (R478, R479). -/
structure HostRead where
  tag : Nat
  va : Nat
  len : Nat
  at_ : Nat
  via : Option Via
  deriving DecidableEq, Repr

/-- A posted write or doorbell of the host that has not taken effect (R478): its host address and payload, and whether
it came from a relay head. -/
structure Posted where
  bell : Bool
  addr : Nat
  data : List Byte
  relayed : Bool := false
  deriving DecidableEq, Repr

/-- A read of host memory for a stream slot (R481), with its data once the completion has arrived. -/
structure DevRead where
  tag : Nat
  addr : Nat
  len : Nat
  at_ : Nat
  mill : Nat
  slot : Nat
  data : Option (List Byte)
  deriving DecidableEq, Repr

/-- A management message in a mailbox, or waiting for one (R486, R487). -/
structure Msg where
  tag : Nat
  data : List Byte
  at_ : Nat
  via : Option Via
  deriving DecidableEq, Repr

/-- A relayed request outstanding at the head (R491). -/
structure RelayReq where
  tag : Nat
  node : Nat
  read : Bool
  at_ : Nat
  deriving DecidableEq, Repr

/-- The states of the host link (R493). -/
inductive LinkState where
  | down | ladder | up
  deriving DecidableEq, Repr

/-- The host port. `waitSend` holds transactions that wait for a credit or for the link, each with its pool (4: none). -/
structure HostPort where
  relayEn : Bool := false
  maxRate : BitVec 3 := 4
  accept : Bool := false
  head : BitVec 10 := 0
  latch : Bool := false
  fell : Bool := false
  coldAt : Nat := 0
  rt : Table Word := []
  fails : Nat := 0
  cause : Nat := 0
  state : LinkState := .down
  rate : Nat := 0
  upSince : Option Nat := none
  err : ErrRec := {}
  nextSend : Nat := 0
  sent : List SentPkt := []
  waitSend : List (Nat × List Byte) := []
  nextRecv : Nat := 0
  nak : Bool := false
  unacked : Nat := 0
  firstUnacked : Nat := 0
  credit : Credits := {}
  held : Credits := { w := 256, r := 32, n := 64, m := 16 }
  give : Credits := {}
  reads : List HostRead := []
  posted : List Posted := []
  devReads : List DevRead := []
  nextTag : Nat := 0
  alerts : List Alert := []
  serial : Word := 0
  alertOvf : Bool := false
  alertPin : Bool := false
  box0 : List Msg := []
  box1 : List Msg := []
  box2 : List Msg := []
  boxWait : List (Nat × Msg) := []
  relays : List RelayReq := []
  home : Option Via := none
  deriving DecidableEq, Repr

/-! ## The reeves and the bellwether (chapter 16) -/

/-- The reeve states of 16 Table 4. -/
inductive ReeveState where
  | boot | failed | follower | leader | hold
  deriving DecidableEq, Repr

/-- An image that comes in boot messages (R499, R500): its bytes in all, the bytes that have come and the last seq. -/
structure ImageUp where
  total : Nat
  got : Nat
  seq : Nat
  deriving DecidableEq, Repr

/-- One reeve. `up` and `verify` are an image that comes and one whose end message has come; `testing` says that a verified image
runs its self-test; `term` is the term it holds; the times are of its last acknowledged renewal, its last heartbeat, the last
heartbeat it heard, its last swap request, the last answer of the bellwether, and when it declared the other lost. -/
structure Reeve where
  state : ReeveState := .boot
  imgErr : Bool := false
  peerLost : Bool := false
  ver : BitVec 64 := 0
  digest : List Byte := []
  up : Option ImageUp := none
  verify : Option Nat := none
  testing : Bool := false
  term : Word := 0
  renewed : Nat := 0
  beat : Nat := 0
  heard : Nat := 0
  swapAt : Nat := 0
  answered : Nat := 0
  lostAt : Nat := 0
  quiet : Bool := false
  dbg : Dbg := {}
  deriving DecidableEq, Repr

/-- The bellwether (R502 to R504, R508): the term and leader, when the lease was last renewed unless it has ended, and when a reeve
last renewed or answered a heartbeat. -/
structure Bellwether where
  term : Word := 0
  lead : Option Die := none
  lease : Option Nat := none
  alive : Option Nat := none
  deriving DecidableEq, Repr

/-! ## Power domains and resets (chapter 16) -/

/-- The power controller (R512 to R517): the state of each domain (0 ON, 1 IDLE, 2 RETAIN, 3 OFF), the request in progress, what the
last one came to, the deadline of a DELAY, and the step of a return with its ready bits and start. -/
structure Power where
  dom : Table (BitVec 2) := []
  /-- The domains that have woken since the last tick strobe (R160). -/
  fresh : List Nat := []
  busy : Bool := false
  result : Nat := 0
  block : Nat := 0
  domain : Nat := 0
  target : BitVec 2 := 0
  force : Bool := false
  delay : Option Nat := none
  step : Nat := 0
  stepAt : Nat := 0
  ready : BitVec 4 := 0
  deriving DecidableEq, Repr

/-- A reset request (R532): scope, target and carter slot. -/
structure RstReq where
  scope : Nat
  target : Nat
  slot : Nat
  deriving DecidableEq, Repr

/-- The reset controller (R520 to R524): a warm reset held by WRST_N, a request that waits, and what the last request came to. -/
structure Resets where
  warm : Bool := false
  waiting : List RstReq := []
  result : Nat := 0
  last : RstReq := { scope := 0, target := 0, slot := 0 }
  deriving DecidableEq, Repr

/-! ## Secrecy (chapter 17) -/

/-- An owner slot (R544): its hash, and whether it has been revoked. -/
structure OwnerSlot where
  hash : List Byte
  revoked : Bool := false
  deriving DecidableEq, Repr

/-- The security engine. `slots`, `frarel0` (Frarel key 0 revoked) and `killed` stand in fuses. `used` is the nonce that the last op 2 consumed, `cmd` the command that runs;
`loaded` says that a load has completed since the last cold reset (R546). -/
structure Sec where
  slots : List OwnerSlot := []
  frarel0 : Bool := false
  killed : Bool := false
  max : BitVec 2 := 0
  l1Allow : Bool := false
  nonce : Option (List Byte) := none
  used : Option (List Byte) := none
  mbx : Table Byte := []
  cmd : Option (BitVec 4 × BitVec 2) := none
  done : Bool := false
  reason : Nat := 0
  status : Nat := 0
  op : BitVec 4 := 0
  log : Table (List Byte) := []
  head : List Byte := List.replicate 32 0
  count : Word := 0
  loaded : Bool := false
  deriving DecidableEq, Repr

/-! ## The board side (chapter 20) -/

/-- Power input and reset pins (R618 to R623, R629, R634): the converters are on, the device is held in cold reset, PORST_N has been low
for 10 µs since the input returned, THERM_TRIP_N is asserted, CONF_ERR_N is asserted, and the PWR_MON readings with their last
update. -/
structure Board where
  powered : Bool := true
  held : Bool := false
  low : Bool := true
  trip : Bool := false
  vin : BitVec 10 := 0
  iin : BitVec 10 := 0
  tjMax : Byte := 0
  tjW : Byte := 0
  tjE : Byte := 0
  vinLo : Bool := false
  vinHi : Bool := false
  hot : Bool := false
  monAt : Nat := 0
  deriving DecidableEq, Repr

/-! ## Tally counters (chapter 19) -/

/-- A tally counter (R583, R593, R594): selection, count, ovf, whether it counted a sealed mill's S event since
its last clear (R588), and the captures of the five readers (R591). -/
structure Counter where
  sel : Word := 0x7FF00
  count : BitVec 48 := 0
  ovf : Bool := false
  sealedSeen : Bool := false
  caps : List (Writer × BitVec 48 × Bool) := []
  deriving DecidableEq, Repr

/-- All tally counters: MC keyed mill·8 + n, DC keyed die·64 + k; TAL_CTL.freeze. -/
structure Tallies where
  freeze : Bool := false
  mc : Table Counter := []
  dc : Table Counter := []
  deriving DecidableEq, Repr


/-! ## The probe buffer and the debug port (chapter 19) -/

/-- The probe buffer (R595, R596, R609): its registers, the entries by index, how many it holds, the oldest, what the last entry
stored, entries left after the trigger, and whether a sample of a sealed plot is in it (R597). -/
structure ProbeBuf where
  ctl : Word := 0
  trig0 : Word := 0
  trig1 : Word := 0
  trig : Bool := false
  stopped : Bool := false
  entries : Table (List Byte) := []
  count : Nat := 0
  oldest : Nat := 0
  last : Option (Word × Word × BitVec 4) := none
  left : Nat := 0
  sealed : Bool := false
  deriving DecidableEq, Repr

/-- A debug access that has not completed (R599, R600). -/
structure DbgRun where
  op : BitVec 4
  space : BitVec 4
  addr : BitVec 40
  data : Word
  at_ : Nat
  deriving DecidableEq, Repr

/-- The test access port (R598, R599): the instruction, the boundary value that EXTEST drives, the access in progress, and op, status,
address and data of the last access. -/
structure DebugPort where
  ir : Byte := 1
  extest : Option (BitVec 15) := none
  run : Option DbgRun := none
  op : BitVec 4 := 0
  status : BitVec 4 := 0
  addr : BitVec 40 := 0
  data : Word := 0
  deriving DecidableEq, Repr
/-! ## The device -/

/-- The state of the device. -/
structure State where
  pending : List Instr := []
  free : Nat := 0
  outbox : List Out := []
  clock : Clock := {}
  ident : Identity := {}
  cwPend : List PendingCw := []
  cwf : ErrRec := {}
  mem : List Host.Cell := []
  bad : Table Bool := []
  reports : List Report := []
  collector : List Report := []
  mills : Table Mill := []
  qs : QueueStore := {}
  hostSeen : List Host.Cell := []
  ledger : Ledger := {}
  hp : HostPort := {}
  tally : Tallies := {}
  level : BitVec 2 := 0
  soft : Table Bool := []
  granaries : Table Granary := []
  cadence : Cadence := {}
  fab : Fabric := {}
  groups : Table Group := []
  node : BitVec 10 := 0
  bell : Bell := {}
  ports : Table Port := []
  routes : Routes := {}
  routers : Table Router := []
  torW : ErrRec := {}
  torE : ErrRec := {}
  cfg : Cfg := {}
  bw : Bellwether := {}
  reeveW : Reeve := {}
  reeveE : Reeve := {}
  pwr : Power := {}
  rst : Resets := {}
  sec : Sec := {}
  board : Board := {}
  pb : ProbeBuf := {}
  dbg : DebugPort := {}
  /-- CW registers whose stored pair disagrees, and whether their check latch passes its parity (R564). -/
  cwUpset : Table Bool := []
  /-- The committed words of CW registers that no other state holds, by the register's offset (R12, R560). -/
  cwHeld : Table Word := []
  /-- The W1C bits that events have set in the present cycle, by 32·offset + bit, each with the cycle after it (R13). -/
  w1c : Table Nat := []
  deriving DecidableEq, Repr

/-- The machine right after a cold reset has completed. -/
def State.reset : State := {}

end Sys2Proof.Machine
end

