-- ==== Sys2Proof/Config.lean ====
section
/-! DEFINITION. What the spec leaves open: free values and functions of outside standards, each an opaque
constant with no value that a proof can use. -/

namespace Sys2Proof.Config

open Sys2Proof.Machine

/-- The free value number `n`: a value the spec leaves open after an operation that goes on. -/
opaque freeBits : Nat → Nat

/-- Whether a 16-bit immediate of the steward's alu is sign-extended; the spec does not say (03 Table 2). -/
opaque imm16Signed : Bool

/-- Whether a 16-bit immediate of a sieve lane operation is sign-extended; the spec does not say (04 Table 3). -/
opaque laneImmSigned : Bool

/-- What host memory holds at an address the device has neither written nor been sent. -/
opaque hostByte : Nat → Byte

/-- The flag of a word cell's shift by 0, which shifts no bit out (12 Table 2). -/
opaque shiftFlag : BitVec 16 → Bool

/-- SHA3-256 (FIPS 202), an outside standard. -/
opaque sha3 : List Byte → List Byte

/-- ML-DSA-44 verification (FIPS 204), an outside standard: public key, digest, signature. -/
opaque mlDsaVerify : List Byte → List Byte → List Byte → Bool

/-- The device's ML-DSA-44 signature of a digest under its identity key (R540). -/
opaque identitySign : List Byte → List Byte

/-- The Frarel public keys 0 (false) and 1 (true) of the boot ROM (R540). -/
opaque frarelKey : Bool → List Byte

/-- The identity public key of the device (R540). -/
opaque identityPub : List Byte

/-- The encapsulation key of the device (R540). -/
opaque encapPub : List Byte

/-- The syndrome of a frame's words and CRC (R402): the code's matrix is not in the spec. -/
opaque frameSyn : List Byte → BitVec 12

/-- The bit of words and CRC that a difference of syndromes names, where it names one (R402, R422). -/
opaque frameBit : BitVec 12 → Option Nat

/-- Key `i` of a key section, unwrapped in the security engine; none where the unwrap fails its integrity check (R542, R543). -/
opaque sectionKey : List Byte → Nat → Option (List Byte)

/-- AES-256-GCM decryption, an outside standard: key, additional data, nonce, tag, ciphertext; none where the tag does not verify. -/
opaque gcmOpen : List Byte → List Byte → List Byte → List Byte → List Byte → Option (List Byte)

/-- The almanac of an almanac section's body, whose binary form is private (R192). -/
opaque almanac : List Byte → Almanac

/-- What a plot's frames configure, by frame number; the form of frames is private to the compiler. -/
opaque plotImage : List (Nat × List Byte) → PlotImage

/-- What a mill's frames configure. -/
opaque millImage : List (Nat × List Byte) → MillImage

/-- What a die's frames configure. -/
opaque dieImage : List (Nat × List Byte) → DieImage

/-- What a route section configures. -/
opaque routeImage : List Byte → DieImage

/-- A register of the sieve as the debug port reaches it: a lane of D, a block exponent, half of a lane of A, an exponent of A, a scalar. -/
inductive SieveReg where
  | d (k l : Nat)
  | bx (k : Nat)
  | a (k l : Nat) (hi : Bool)
  | ax (k : Nat)
  | e (k : Nat)
  deriving DecidableEq, Repr

/-- The sieve register of a debug register index; the spec numbers none (R600). -/
opaque sieveReg : Nat → Option SieveReg

end Sys2Proof.Config
end

