-- ==== Sys2Proof/Machine/Ops.lean ====
section
/-! DEFINITION. Named operations over the state: memory, time, tallies, alerts, fault reports. -/

namespace Sys2Proof.Machine

open Sys2Proof

/-! ## Outcomes and free values -/

/-- The outcome of a meaning. -/
abbrev Res := Host.Outcome State Fault Refusal

/-- Draw the next free value. -/
def State.draw (s : State) : Nat × State :=
  (Config.freeBits s.free, { s with free := s.free + 1 })

/-- Record something sent out of the block. -/
def State.send (s : State) (o : Out) : State := { s with outbox := s.outbox ++ [o] }

/-! ## Numbers and bytes (R18: little-endian) -/

/-- The number that little-endian bytes stand for. -/
def leNat : List Byte → Nat
  | [] => 0
  | b :: t => b.toNat + 256 * leNat t

/-- The `n` little-endian bytes of a number. -/
def toLe : Nat → Nat → List Byte
  | 0, _ => []
  | n + 1, x => BitVec.ofNat 8 x :: toLe n (x / 256)

/-- Bytes `[off, off + n)` of a list, as a number; missing bytes read 0. -/
def leAt (l : List Byte) (off n : Nat) : Nat := leNat ((l.drop off).take n)

/-- Exactly `n` bytes of a list, padded with zeros. -/
def padTo (n : Nat) (l : List Byte) : List Byte := l.take n ++ List.replicate (n - l.length) 0

/-- Replace bytes of a list from `off`. -/
def spliceAt (l : List Byte) (off : Nat) (b : List Byte) : List Byte :=
  padTo off (l.take off) ++ b ++ l.drop (off + b.length)

/-- The XOR of bytes (R272). -/
def xorBytes : List Byte → Byte
  | [] => 0
  | b :: t => b ^^^ xorBytes t

/-- The XOR of the first five 32-bit words of a structure (R256, R291). -/
def xorWords5 (l : List Byte) : Word :=
  BitVec.ofNat 32 (leAt l 0 4) ^^^ BitVec.ofNat 32 (leAt l 4 4) ^^^ BitVec.ofNat 32 (leAt l 8 4) ^^^
    BitVec.ofNat 32 (leAt l 12 4) ^^^ BitVec.ofNat 32 (leAt l 16 4)

/-- Sign of an n-bit two's-complement number. -/
def signed (n x : Nat) : Int := if x % 2 ^ n < 2 ^ (n - 1) then (x % 2 ^ n : Nat) else (x % 2 ^ n : Nat) - (2 ^ n : Nat)

/-! ## Memory. Every byte store of the device has its range of cell addresses. -/

/-- The byte stores. -/
inductive Region where
  | loft | bank | cstore | imem | stack | bram | reeve
  deriving DecidableEq, Repr

/-- The first cell address of a store. -/
def Region.base : Region → Nat
  | .loft => 1 * 2 ^ 56
  | .bank => 2 * 2 ^ 56
  | .cstore => 3 * 2 ^ 56
  | .imem => 4 * 2 ^ 56
  | .stack => 5 * 2 ^ 56
  | .bram => 6 * 2 ^ 56
  | .reeve => 7 * 2 ^ 56

/-- The cell of loft offset `off` of mill `m` (R85). -/
def loftCell (m off : Nat) : Nat := Region.base .loft + m * 2 ^ 20 + off

/-- The cell of a sieve bank offset (R120); `y` selects the Y bank. -/
def bankCell (m : Nat) (y : Bool) (off : Nat) : Nat := Region.base .bank + m * 2 ^ 15 + bn y * 2 ^ 14 + off

/-- The cell of a C-store offset (R120). -/
def cstoreCell (m off : Nat) : Nat := Region.base .cstore + m * 2 ^ 13 + off

/-- The cell of an instruction-memory byte (R79). -/
def imemCell (m : Nat) (e : Eng) (off : Nat) : Nat := Region.base .imem + (m * 8 + e.num) * 2 ^ 14 + off

/-- The cell of a granary physical address (R321). -/
def stackCell (phys : Nat) : Nat := Region.base .stack + phys

/-- The cell of a block-memory byte (R377): memory `b` of plot `p`. -/
def bramCell (p b off : Nat) : Nat := Region.base .bram + (p * 192 + b) * 2 ^ 13 + off

/-- The cell of a reeve-memory byte. -/
def reeveCell (d : Die) (off : Nat) : Nat := Region.base .reeve + d.num * 2 ^ 32 + off

/-- What an unlisted byte of memory reads as. DESIGN CHOICE: 0 (the spec gives no power-on contents but for the
instruction memories, which reset clears, R80). -/
def Memory.unlisted : Byte := 0

/-- Read one byte. -/
def Memory.read (mem : List Host.Cell) (a : Nat) : Byte := Table.get Memory.unlisted mem a

/-- Write one byte, keeping the canonical form. -/
def Memory.write (mem : List Host.Cell) (a : Nat) (b : Byte) : List Host.Cell :=
  Table.put Memory.unlisted mem a b

/-- The canonical form of memory: addresses strictly rising, no entry equal to what an unlisted byte reads. -/
def Memory.wf (mem : List Host.Cell) : Bool := Table.wf Memory.unlisted mem

/-- Read `n` bytes from `a`. -/
def Memory.readN (mem : List Host.Cell) (a : Nat) : Nat → List Byte
  | 0 => []
  | n + 1 => Memory.read mem a :: Memory.readN mem (a + 1) n

/-- Write bytes from `a`. -/
def Memory.writeN (mem : List Host.Cell) (a : Nat) : List Byte → List Host.Cell
  | [] => mem
  | b :: t => Memory.writeN (Memory.write mem a b) (a + 1) t

/-- The protected words of the stores (R565): 9 bytes in block memories, 32 in granaries, 8 elsewhere. The first
cell of the word of a cell. -/
def wordBase (a : Nat) : Nat :=
  if a / 2 ^ 56 = 6 then a / 2 ^ 13 * 2 ^ 13 + a % 2 ^ 13 / 9 * 9
  else if a / 2 ^ 56 = 5 then a / 32 * 32
  else a / 8 * 8

/-- The bytes of the protected word at a cell. -/
def wordLen (a : Nat) : Nat := if a / 2 ^ 56 = 6 then 9 else if a / 2 ^ 56 = 5 then 32 else 8

/-- The first marked word that overlaps `[a, a + n)`. -/
def markedIn (t : Table Bool) (a n : Nat) : Option Nat :=
  (t.find? (fun e => e.2 && decide (e.1 < a + n) && decide (a < e.1 + wordLen e.1))).map Prod.fst

/-- Some word of `[a, a + n)` is uncorrectable. -/
def State.badIn (s : State) (a n : Nat) : Bool := (markedIn s.bad a n).isSome

/-- Read bytes of a store. -/
def State.bytes (s : State) (a n : Nat) : List Byte := Memory.readN s.mem a n

/-- Write bytes of a store; a word written whole loses its error marks. -/
def State.setBytes (s : State) (a : Nat) (b : List Byte) : State :=
  let keep := fun (e : Nat × Bool) => !(decide (a ≤ e.1) && decide (e.1 + wordLen e.1 ≤ a + b.length))
  { s with mem := Memory.writeN s.mem a b, bad := s.bad.filter keep, soft := s.soft.filter keep }

/-- A write narrower than a word meets an uncorrectable word at either end of its span (R566); a masked write of a stack
reads its whole granules (R326, R342). -/
def State.narrowBad (s : State) (a n : Nat) : Bool :=
  if a / 2 ^ 56 = 5 then
    let lo := a / 64 * 64
    let hi := (a + n - 1) / 64 * 64
    decide (0 < n) && ((decide (lo < a) && s.badIn lo 64) || (decide (a + n < hi + 64) && s.badIn hi 64))
  else
    let lo := wordBase a
    let hi := wordBase (a + n - 1)
    decide (0 < n) &&
      ((decide (lo < a) && Table.get false s.bad lo) ||
       (decide (a + n < hi + wordLen hi) && Table.get false s.bad hi))

/-- Bytes of host memory as the device last saw them. -/
def State.hostBytes (s : State) (a : Nat) : Nat → List Byte
  | 0 => []
  | n + 1 => Table.get (Config.hostByte a) s.hostSeen a :: State.hostBytes s (a + 1) n

/-- Note bytes of host memory. -/
def noteHost (t : List Host.Cell) (a : Nat) : List Byte → List Host.Cell
  | [] => t
  | b :: r => noteHost (Table.insert t a b) (a + 1) r

/-! ## Identity (R1, R2, R5, R11) -/

/-- The link die of a site, if one stands there (R1). -/
def linkDieAt (o : Option3) (site : Nat) : Option Nat :=
  match o, site with
  | .m, _ => none
  | .b, 2 => some 0
  | .b, 6 => some 1
  | .b, _ => none
  | .l, 2 => some 0
  | .l, 6 => some 1
  | .l, 5 => some 2
  | .l, 9 => some 3
  | .l, _ => none

/-- A granary is fitted at the site. -/
def State.hasGranary (s : State) (site : Nat) : Bool :=
  decide (site < 12) && (linkDieAt s.ident.option site).isNone

/-- The field ports fitted (R11, R641). -/
def State.portFitted (s : State) (p : Nat) : Bool :=
  match s.ident.option with
  | .m => decide (p < 8)
  | .b => decide (p < 20)
  | .l => decide (p < 32)

/-- The die on which a port's events count (R585). -/
def portDie (o : Option3) (p : Nat) : Die :=
  if p < 4 then .w
  else if p < 8 then .e
  else
    match o, (p - 8) / 6 with
    | _, 0 => .w
    | _, 1 => .e
    | _, 2 => .w
    | _, _ => .e

/-- The logical row of a mill index (R4). -/
def millRow (m : Nat) : Nat := m % 576 / 24

/-- The logical column of a mill index. -/
def millCol (m : Nat) : Nat := m % 576 % 24

/-- The die of a mill index. -/
def millDie (m : Nat) : Die := if m < 576 then .w else .e

/-- The index names a present mill (R4, R5). -/
def State.millPresent (s : State) (m : Nat) : Bool :=
  decide (m < 1152) && (!s.ident.grade2 || decide (millRow m < 20))

/-! ## Mills and engines -/

/-- The mill of a logical index. -/
def State.mill (s : State) (m : Nat) : Mill := Table.get {} s.mills m

/-- Replace a mill. -/
def State.setMill (s : State) (m : Nat) (x : Mill) : State := { s with mills := Table.put {} s.mills m x }

/-- Change a mill. -/
def State.modMill (s : State) (m : Nat) (f : Mill → Mill) : State := s.setMill m (f (s.mill m))

/-- The physical row of a logical row of a die (R646). -/
def State.physRow (s : State) (d : Die) (y : Nat) : Nat :=
  match d with
  | .w => s.ident.rowsW.getD y y
  | .e => s.ident.rowsE.getD y y

/-- The power domain of a mill (R512): the mill row of its die. -/
def State.millDomain (s : State) (m : Nat) : Nat := 32 + 24 * (millDie m).num + s.physRow (millDie m) (millRow m)

/-- The domain is fitted: a mill row is one that fuses leave (R512). -/
def State.domFitted (s : State) (i : Nat) : Bool :=
  if i < 32 then true
  else if i < 56 then s.ident.rowsW.contains (i - 32)
  else if i < 80 then s.ident.rowsE.contains (i - 56)
  else decide (i < 94)

/-- The state of a power domain: 0 ON, 1 IDLE, 2 RETAIN, 3 OFF; an unfitted domain is OFF for good (R512, R531). -/
def State.domState (s : State) (i : Nat) : BitVec 2 := if s.domFitted i then Table.get 0 s.pwr.dom i else 3

/-- The domain is ON or IDLE. -/
def State.domOn (s : State) (i : Nat) : Bool := decide ((s.domState i).toNat < 2)

/-- The mill is present and in service (R5, R75); one whose row is not ON or IDLE counts as out of service (R518). -/
def State.millLive (s : State) (m : Nat) : Bool :=
  s.millPresent m && !(s.mill m).oos && s.domOn (s.millDomain m)

/-- One engine of a mill. -/
def Mill.eng (x : Mill) : Eng → Engine
  | .st => x.st
  | .mx => x.mx
  | .sv => x.sv
  | .ca => x.ca
  | .cb => x.cb

/-- Replace an engine of a mill. -/
def Mill.setEng (x : Mill) (e : Eng) (g : Engine) : Mill :=
  match e with
  | .st => { x with st := g }
  | .mx => { x with mx := g }
  | .sv => { x with sv := g }
  | .ca => { x with ca := g }
  | .cb => { x with cb := g }

/-- Change an engine of a mill of the device. -/
def State.modEng (s : State) (m : Nat) (e : Eng) (f : Engine → Engine) : State :=
  s.modMill m (fun x => x.setEng e (f (x.eng e)))

/-- All engines, in the service order of R98. -/
def Eng.all : List Eng := [.st, .mx, .sv, .ca, .cb]

/-! ## Bits that events set and writes of 1 clear (R12, R13) -/

/-- An event of cycle `c` sets W1C bits of the word at an offset of the privileged aperture. -/
def State.evBits (s : State) (c off : Nat) (bits : List Nat) : State :=
  { s with w1c := bits.foldl (fun t b => Table.put 0 t (32 * off + b) (c + 1)) (s.w1c.filter (fun e => decide (s.clock.now < e.2))) }

/-- The bits of a written word that clear: a W1C bit stays where its event occurs in this cycle (R13). -/
def State.clearable (s : State) (off : Nat) (v : Word) : Word :=
  v &&& ~~~ (s.w1c.foldl (fun m e =>
    if e.1 / 32 = off ∧ e.2 = s.clock.now + 1 then m ||| BitVec.ofNat 32 (2 ^ (e.1 % 32)) else m) 0)

/-- The word of a mill's MILL block at an offset. -/
def offMill (m o : Nat) : Nat := 0x1000000 + m * 0x1000 + o

/-- The bits of a small word that are set. -/
def bitsOf {w : Nat} (x : BitVec w) : List Nat := (List.range w).filter x.getLsbD

/-- Events of MILL_ARITH_STAT (R78). -/
def State.setArith (s : State) (m : Nat) (b : BitVec 4) : State :=
  (s.modMill m (fun x => { x with arith := x.arith ||| b })).evBits s.clock.now (offMill m 0x120) (bitsOf b)

/-- A CW register that no other state holds keeps its committed word (R560). -/
def State.cwHold (s : State) (off : Nat) (v : Word) : State := { s with cwHeld := Table.put 0 s.cwHeld off v }

/-! ## Tally counters (R583 to R590) -/

/-- The tally sources of 19 Table 1 that the model counts, by code. -/
inductive Tly where
  | cycles | issue (e : Eng) | yokeBusy | caBytes | cbBytes | loftConflict | sbStall | syncWait
  | sbAuditStall | subDone | residErr | loftCorr | svCorr | imemCorr | cartCheck | rearmRefused | doneExtra
  | torP0Force | yokeFtz | nanOut | intOvf | svSat | svAccOvf | svNanIn | rsumOvf
  | ticks | dispPlaced | dispWait
  | torCorr | qsInteg | dbDiscard | cqDrop | pglInteg | crossResend | superseded | grnCorr | bramCorr
  | tapAbsent | sxtCorr | uioDrop | chainDrop | talInteg
  | bellDrop | bellMiss | bookedCorr | noticeDup | tilledDrop | routeErr | ingressWait | laneCorr | laneUncorr
  | laneCtlDrop | linkReplay | laneFail | laneSub
  | hpReplay | hpWrFault | alertDrop | relayDrop | relayLate | termStale | cwFail | cwUpset | reeveCorr
  | reportDrop
  deriving DecidableEq, Repr

/-- The code of a source (R586). -/
def Tly.code : Tly → Nat
  | .cycles => 0x00
  | .issue e => 0x01 + e.num
  | .yokeBusy => 0x06
  | .caBytes => 0x07
  | .cbBytes => 0x08
  | .loftConflict => 0x09
  | .sbStall => 0x0A
  | .syncWait => 0x0B
  | .sbAuditStall => 0x10
  | .subDone => 0x11
  | .residErr => 0x12
  | .loftCorr => 0x13
  | .svCorr => 0x14
  | .imemCorr => 0x15
  | .cartCheck => 0x16
  | .rearmRefused => 0x17
  | .doneExtra => 0x18
  | .torP0Force => 0x19
  | .yokeFtz => 0x20
  | .nanOut => 0x21
  | .intOvf => 0x22
  | .svSat => 0x23
  | .svAccOvf => 0x24
  | .svNanIn => 0x25
  | .rsumOvf => 0x26
  | .ticks => 0x40
  | .dispPlaced => 0x41
  | .dispWait => 0x42
  | .torCorr => 0x48
  | .qsInteg => 0x49
  | .dbDiscard => 0x4A
  | .cqDrop => 0x4B
  | .pglInteg => 0x4C
  | .crossResend => 0x4D
  | .superseded => 0x4E
  | .grnCorr => 0x4F
  | .bramCorr => 0x50
  | .tapAbsent => 0x51
  | .sxtCorr => 0x52
  | .uioDrop => 0x53
  | .chainDrop => 0x54
  | .talInteg => 0x55
  | .bellDrop => 0x58
  | .bellMiss => 0x59
  | .bookedCorr => 0x5A
  | .noticeDup => 0x5B
  | .tilledDrop => 0x5C
  | .routeErr => 0x5D
  | .ingressWait => 0x5E
  | .laneCorr => 0x5F
  | .laneUncorr => 0x60
  | .laneCtlDrop => 0x61
  | .linkReplay => 0x62
  | .laneFail => 0x63
  | .laneSub => 0x64
  | .hpReplay => 0x68
  | .hpWrFault => 0x69
  | .alertDrop => 0x6A
  | .relayDrop => 0x6B
  | .relayLate => 0x6C
  | .termStale => 0x6D
  | .cwFail => 0x6E
  | .cwUpset => 0x6F
  | .reeveCorr => 0x70
  | .reportDrop => 0x71

/-- The codes of S sources (R588). -/
def tlySealedGated (code : Nat) : Bool := decide (0x20 ≤ code) && decide (code ≤ 0x26)

/-- The codes whose unit field selects a part: mill sources, port sources, grn_corr, fab sources (R587). -/
def tlyHasUnit (code : Nat) : Bool :=
  (decide (code ≤ 0x26) && decide (code ≠ 0x19)) || (decide (0x58 ≤ code) && decide (code ≤ 0x64)) ||
    decide (0x4F ≤ code ∧ code ≤ 0x51)

/-- Add events to a counter, wrapping modulo 2^48 with ovf (R583). -/
def Counter.add (c : Counter) (n : Nat) (sealed : Bool) : Counter :=
  { c with
    count := c.count + BitVec.ofNat 48 n
    ovf := c.ovf || decide (2 ^ 48 ≤ c.count.toNat + n)
    sealedSeen := c.sealedSeen || sealed }

/-- The counter is enabled and selects the source, and where asked the unit (R587, R593). -/
def Counter.selects (c : Counter) (code : Nat) (unit : Option Nat) : Bool :=
  c.sel.getLsbD 31 && decide (field c.sel.toNat 0 8 = code) &&
    (match unit with
     | none => true
     | some u => decide (field c.sel.toNat 8 11 = u) || decide (field c.sel.toNat 8 11 = 0x7FF))

/-- Count `n` events of a mill source of mill `m` (R584, R585, R588). -/
def State.tallyMill (s : State) (t : Tly) (m n : Nat) : State :=
  let gated := tlySealedGated t.code && (s.mill m).sealed
  if s.tally.freeze || (gated && decide (s.level.toNat < 2)) || decide (n = 0) then s
  else
    let d := (millDie m).num
    { s with tally := { s.tally with
        mc := s.tally.mc.map (fun e =>
          if decide (e.1 / 8 = m) && e.2.selects t.code none then (e.1, e.2.add n gated) else e)
        dc := s.tally.dc.map (fun e =>
          if decide (e.1 / 64 = d) && e.2.selects t.code (some m) then (e.1, e.2.add n gated) else e) } }

/-- Count `n` events of a block source on a die, with its unit where it has one. -/
def State.tally_ (s : State) (t : Tly) (d : Die) (unit n : Nat) : State :=
  if s.tally.freeze || decide (n = 0) then s
  else
    let u := if tlyHasUnit t.code then some unit else none
    { s with tally := { s.tally with
        dc := s.tally.dc.map (fun e =>
          if decide (e.1 / 64 = d.num) && e.2.selects t.code u then (e.1, e.2.add n false) else e) } }

/-- Count one event of the blocks that count on W (R585). -/
def State.tallyW (s : State) (t : Tly) : State := s.tally_ t .w 0 1

/-- Count one event of a port. -/
def State.tallyPort (s : State) (t : Tly) (p : Nat) : State :=
  s.tally_ t (portDie s.ident.option p) p 1

/-! ## Fault reports (R578, R579) -/

/-- Send a fault report into the report path (R578). -/
def State.report (s : State) (block unit : Nat) (cls : ErrClass) (st : Status) (kind addr : Nat) (covered : Bool) :
    State :=
  { s with reports := s.reports ++
      [{ block := block, unit := unit, cls := cls, status := st.code, tick := s.clock.tick, addrKind := kind,
         addr := addr, page := none, covered := covered }] }

/-- Send the report of a failed residue check of a mill: the quern and physical row that it names (R69). -/
def State.reportRow (s : State) (m : Nat) (cls : ErrClass) (q row : Nat) (covered : Bool) : State :=
  { s with reports := s.reports ++
      [{ block := 10, unit := m, cls := cls, status := Status.faultInteg.code, tick := s.clock.tick, addrKind := 15,
         addr := 0, page := none, covered := covered, row := some (q, row) }] }

/-- Send the schedule-fault record of a mill as a fault report (R108). -/
def State.reportSched (s : State) (m : Nat) (cls : ErrClass) (r : SchedRec) (covered : Bool) : State :=
  { s with reports := s.reports ++
      [{ block := 10, unit := m, cls := cls, status := Status.faultSched.code, tick := r.tick, addrKind := 15,
         addr := 0, page := none, covered := covered, sched := some r }] }

/-- Send a first-error record as a fault report (R166, R254). -/
def State.reportRecord (s : State) (block unit : Nat) (cls : ErrClass) (st : Status) (r : ErrRec) (covered : Bool) : State :=
  { s with reports := s.reports ++
      [{ block := block, unit := unit, cls := cls, status := st.code, tick := s.clock.tick, addrKind := 15,
         addr := 0, page := none, covered := covered, record := some r }] }

/-- Send a stream page-fault report, which becomes alert 5 (R267, R578). -/
def State.reportPage (s : State) (m slot : Nat) (writeSide : Bool) (addr : Nat) : State :=
  { s with reports := s.reports ++
      [{ block := 10, unit := m, cls := .contained, status := Status.faultPage.code, tick := s.clock.tick,
         addrKind := 0, addr := addr,
         page := some (toLe 2 m ++ toLe 1 slot ++ toLe 1 (bn writeSide) ++ toLe 4 0 ++ toLe 6 addr ++ toLe 2 0),
         covered := false }] }

/-- The detail bytes of alert 13 (R579). -/
def alert13 (r : Report) : List Byte :=
  let mask := match r.addrKind with
    | 0 => r.addr % 2 ^ 48
    | 1 => r.addr % 2 ^ 40
    | 2 => r.addr % 2 ^ 52
    | 3 => r.addr % 2 ^ 32
    | 4 => r.addr % 2 ^ 31
    | _ => 0
  toLe 1 r.block ++ toLe 7 0 ++ toLe 8 (r.addrKind * 2 ^ 60 + mask)

/-- The kind-4 address of a loft offset (R579). -/
def loftAddr (m off : Nat) : Nat := m * 2 ^ 20 + off

/-! ## Group halts (R207 to R212) -/

/-- A group slot of the device. -/
def State.group (s : State) (g : Nat) : Group := Table.get {} s.groups g

/-- Change a group slot. -/
def State.modGroup (s : State) (g : Nat) (f : Group → Group) : State :=
  { s with groups := Table.upd {} s.groups g f }

/-- The group is held: states 2 to 5 (R197, R306). -/
def GroupState.held : GroupState → Bool
  | .seated => true
  | .restoring => true
  | .running => true
  | .halted => true
  | _ => false

/-- The code of a group state (R198). -/
def GroupState.code : GroupState → Nat
  | .empty => 0
  | .loaded => 1
  | .seated => 2
  | .restoring => 3
  | .running => 4
  | .halted => 5

/-- A halt cause arises on this member: the group halts at the next tick (R207, R208). A later cause sets more; a halted
member raises no cause 3 to 6 (R211, R212). -/
def State.raiseHalt (s : State) (g cause detail : Nat) : State :=
  s.modGroup g (fun x =>
    match x.state with
    | .halted =>
      if 3 ≤ cause ∧ cause ≤ 6 then x else { x with halt := x.halt.map (fun h => { h with more := true }) }
    | .restoring | .running =>
      (match x.due with
       | some d => { x with due := some { d with more := true } }
       | none =>
         let h : HaltDue :=
           { cause := cause, detail := detail, originTick := s.clock.tick, originCycle := s.clock.cyc,
             originNode := s.node.toNat, originCause := cause, dist := 0, more := false }
         { x with dueTick := s.clock.tick, due := some h })
    | _ => x)

/-- Raise a cause in the group of a mill, where it belongs to one. -/
def State.raiseMill (s : State) (m cause : Nat) : State :=
  match (s.mill m).gslot with
  | some g => s.raiseHalt g cause m
  | none => s

/-! ## Time -/

/-- Mill cycle of the model's cycle `c` (R101): low 32 bits of tick × 1,248 + cycle, as a stamp. -/
def State.millCycle (s : State) (c : Nat) : Word :=
  BitVec.ofInt 32 ((s.clock.tick.toNat * 1248 + s.clock.cyc : Nat) + ((c : Int) - s.clock.now))

/-- Cycles in `us` microseconds of the 1.3 GHz arithmetic clock. -/
def usCycles (us : Nat) : Nat := us * 1300

/-- The cycles of 100 µs. -/
def hundredUs : Nat := usCycles 100

/-- The span of a group in ticks (R192). -/
def Group.span (g : Group) : Nat :=
  match g.almanac with
  | some a => 2 ^ a.lgSpan
  | none => 1

/-- The position of a tick in a group's span (R192). -/
def Group.posAt (g : Group) (t : Nat) : Nat := (BitVec.ofNat 64 t - g.base).toNat % g.span

/-- A tick is the one a booking of a group names: a tick of its restore window while the group restores, or has halted in it, else the
position of every round (R192, R213, R217). -/
def Group.bookedAt (g : Group) (b : Booking) (t : Nat) : Bool :=
  match b.restore with
  | none => decide (g.state ≠ .restoring) && decide (g.posAt t = b.tick % g.span)
  | some k => (decide (g.state = .restoring) || decide (g.state = .halted)) && decide (k = g.seatMark.toNat) && decide (t = g.target.toNat + b.tick)

end Sys2Proof.Machine
end

