-- ==== Sys2Proof/Machine/Codes.lean ====
section
/-! DEFINITION. The Reed–Solomon code of field frames and host packets (R438) and CRC-32. -/

namespace Sys2Proof.Machine

open Sys2Proof

/-! ## GF(2^8) with x^8 + x^4 + x^3 + x^2 + 1 (R438) -/

/-- Multiply by alpha. -/
def gfDouble (x : Nat) : Nat := if x < 128 then 2 * x else (2 * x - 256) ^^^ 0x1D

/-- The product of two field elements, over the low bits of the second. -/
def gfMulN : Nat → Nat → Nat → Nat
  | 0, _, _ => 0
  | n + 1, a, b => (if b % 2 = 1 then a else 0) ^^^ gfMulN n (gfDouble a) (b / 2)

/-- The product of two field elements. -/
def gfMul (a b : Nat) : Nat := gfMulN 8 a b

/-- A power of a field element. -/
def gfPow (a : Nat) : Nat → Nat
  | 0 => 1
  | n + 1 => gfMul a (gfPow a n)

/-- The inverse of a nonzero element. -/
def gfInv (a : Nat) : Nat := gfPow a 254

/-- The value of a polynomial, highest coefficient first. -/
def gfEval (p : List Nat) (x : Nat) : Nat := p.foldl (fun acc c => gfMul acc x ^^^ c) 0

/-- The generator (x + 1)(x + α)…(x + α^5), without its leading 1, highest first (R438). -/
def rsGen : List Nat :=
  (List.range 6).foldl (fun g i =>
    let r := gfPow 2 i
    (List.range (g.length + 1)).map (fun k => (g.getD k 0) ^^^ (if k = 0 then r else gfMul r (g.getD (k - 1) 0)))) []

/-- The six parity bytes of a 65-byte message: the remainder of message · x^6 by g (R438). -/
def rsParity (msg : List Byte) : List Byte :=
  let g := rsGen
  let r := msg.foldl (fun (r : List Nat) b =>
    let f := b.toNat ^^^ r.getD 0 0
    (List.range 6).map (fun k => r.getD (k + 1) 0 ^^^ gfMul f (g.getD k 0))) (List.replicate 6 0)
  r.map (BitVec.ofNat 8)

/-- The syndromes of a received word. -/
def rsSyndromes (w : List Byte) : List Nat :=
  let p := w.map BitVec.toNat
  (List.range 6).map (fun i => gfEval p (gfPow 2 i))

/-- Two-by-two determinant. -/
def gfDet2 (a b c d : Nat) : Nat := gfMul a d ^^^ gfMul b c

/-- Three-by-three determinant by its first row. -/
def gfDet3 (a b c d e f g h i : Nat) : Nat :=
  gfMul a (gfDet2 e f h i) ^^^ gfMul b (gfDet2 d f g i) ^^^ gfMul c (gfDet2 d e g h)

/-- The error locator's coefficients σ1, σ2, σ3 for a number of errors from 1 to 3, where the syndromes admit one. -/
def rsLocator (s : List Nat) (n : Nat) : Option (List Nat) :=
  let x := fun i => s.getD i 0
  match n with
  | 1 => if x 0 = 0 then none else some [gfMul (x 1) (gfInv (x 0))]
  | 2 =>
    let d := gfDet2 (x 0) (x 1) (x 1) (x 2)
    if d = 0 then none
    else
      let k := gfInv d
      some [gfMul k (gfDet2 (x 0) (x 2) (x 1) (x 3)), gfMul k (gfDet2 (x 2) (x 1) (x 3) (x 2))]
  | _ =>
    let d := gfDet3 (x 0) (x 1) (x 2) (x 1) (x 2) (x 3) (x 2) (x 3) (x 4)
    if d = 0 then none
    else
      let k := gfInv d
      some [gfMul k (gfDet3 (x 0) (x 1) (x 3) (x 1) (x 2) (x 4) (x 2) (x 3) (x 5)),
            gfMul k (gfDet3 (x 0) (x 3) (x 2) (x 1) (x 4) (x 3) (x 2) (x 5) (x 4)),
            gfMul k (gfDet3 (x 3) (x 1) (x 2) (x 4) (x 2) (x 3) (x 5) (x 3) (x 4))]

/-- The positions, as powers of x, at which the locator 1 + σ1 z + σ2 z² + σ3 z³ vanishes. -/
def rsRoots (len : Nat) (sg : List Nat) : List Nat :=
  (List.range len).filter (fun k => decide (gfEval ((1 :: sg).reverse) (gfInv (gfPow 2 k)) = 0))

/-- The error values at positions: solved from the first syndromes. -/
def rsValues (s : List Nat) (ks : List Nat) : List Nat :=
  let x := ks.map (gfPow 2)
  match x with
  | [_] => [s.getD 0 0]
  | [a, b] =>
    let d := gfInv (a ^^^ b)
    let s0 := s.getD 0 0
    let s1 := s.getD 1 0
    [gfMul d (s1 ^^^ gfMul b s0), gfMul d (s1 ^^^ gfMul a s0)]
  | [a, b, c] =>
    let s0 := s.getD 0 0
    let s1 := s.getD 1 0
    let s2 := s.getD 2 0
    let one := fun (p q r : Nat) =>
      gfMul (gfInv (gfMul (p ^^^ q) (p ^^^ r))) (s2 ^^^ gfMul (q ^^^ r) s1 ^^^ gfMul (gfMul q r) s0)
    [one a b c, one b a c, one c a b]
  | _ => []

/-- Decode a 71-byte word: the message and how many bytes were corrected, or none when it is uncorrectable (R438). -/
def rsDecode (w : List Byte) : Option (List Byte × Nat) :=
  let s := rsSyndromes w
  if s.all (· == 0) then some (w.take (w.length - 6), 0)
  else
    [1, 2, 3].findSome? (fun n =>
      match rsLocator s n with
      | none => none
      | some sg =>
        let ks := rsRoots w.length sg
        if ks.length ≠ n then none
        else
          let vs := rsValues s ks
          let fixed := (ks.zip vs).foldl (fun (w : List Byte) kv =>
            let i := w.length - 1 - kv.1
            w.set i ((w.getD i 0) ^^^ BitVec.ofNat 8 kv.2)) w
          if (rsSyndromes fixed).all (· == 0) then some (fixed.take (w.length - 6), n) else none)

/-! ## CRC-32 (13, 15): IEEE 802.3, reflected, initial value and final XOR all ones -/

/-- One bit of the reflected CRC. -/
def crcBit (c : Nat) : Nat := if c % 2 = 1 then c / 2 ^^^ 0xEDB88320 else c / 2

/-- CRC-32 of bytes. -/
def crc32 (b : List Byte) : Nat :=
  (b.foldl (fun c x => crcBit (crcBit (crcBit (crcBit (crcBit (crcBit (crcBit (crcBit (c ^^^ x.toNat))))))))) 0xFFFFFFFF)
    ^^^ 0xFFFFFFFF

/-! ## The 8b/10b code of Clause 36 (R433 to R435). A code group's bits are abcdei fghj, with a, which is sent first, the highest -/

/-- What a code group stands for. -/
inductive CodeGroup where
  | data (b : Byte)
  | k281 | k285 | k287
  | invalid
  deriving DecidableEq, Repr

/-- The 5b/6b codes, at negative and at positive running disparity. -/
def codes6 : List (Nat × Nat) :=
  [(0b100111, 0b011000), (0b011101, 0b100010), (0b101101, 0b010010), (0b110001, 0b110001),
   (0b110101, 0b001010), (0b101001, 0b101001), (0b011001, 0b011001), (0b111000, 0b000111)] ++
  [(0b111001, 0b000110), (0b100101, 0b100101), (0b010101, 0b010101), (0b110100, 0b110100),
   (0b001101, 0b001101), (0b101100, 0b101100), (0b011100, 0b011100), (0b010111, 0b101000)] ++
  [(0b011011, 0b100100), (0b100011, 0b100011), (0b010011, 0b010011), (0b110010, 0b110010),
   (0b001011, 0b001011), (0b101010, 0b101010), (0b011010, 0b011010), (0b111010, 0b000101)] ++
  [(0b110011, 0b001100), (0b100110, 0b100110), (0b010110, 0b010110), (0b110110, 0b001001),
   (0b001110, 0b001110), (0b101110, 0b010001), (0b011110, 0b100001), (0b101011, 0b010100)]

/-- The 3b/4b codes of data, at negative and at positive running disparity; the last is the primary code of 7. -/
def codes4 : List (Nat × Nat) :=
  [(0b1011, 0b0100), (0b1001, 0b1001), (0b0101, 0b0101), (0b1100, 0b0011),
   (0b1101, 0b0010), (0b1010, 0b1010), (0b0110, 0b0110), (0b1110, 0b0001)]

/-- The code of a column of the table. -/
def codeAt (rd : Bool) (c : Nat × Nat) : Nat := if rd then c.2 else c.1

/-- The alternate code of 7 stands in place of the primary one. -/
def alternate7 (rd : Bool) (x : Nat) : Bool :=
  if rd then decide (x = 11 ∨ x = 13 ∨ x = 14) else decide (x = 17 ∨ x = 18 ∨ x = 20)

/-- The 4-bit code of `y` after the 6-bit code of `x`. -/
def code4 (rd : Bool) (x y : Nat) : Nat :=
  if y = 7 ∧ alternate7 rd x then codeAt rd (0b0111, 0b1000) else codeAt rd (codes4.getD y (0, 0))

/-- The ones of a number of bits. -/
def onesOf (v n : Nat) : Nat := ((List.range n).filter (fun i => v / 2 ^ i % 2 = 1)).length

/-- The running disparity after a 6-bit part. -/
def after6 (rd : Bool) (v : Nat) : Bool :=
  if v = 0b000111 then true else if v = 0b111000 then false
  else if 3 < onesOf v 6 then true else if onesOf v 6 < 3 then false else rd

/-- The running disparity after a 4-bit part. -/
def after4 (rd : Bool) (v : Nat) : Bool :=
  if v = 0b0011 then true else if v = 0b1100 then false
  else if 2 < onesOf v 4 then true else if onesOf v 4 < 2 then false else rd

/-- The running disparity after a code group, valid or not. -/
def disparity (rd : Bool) (g : BitVec 10) : Bool := after4 (after6 rd (g.toNat / 16)) (g.toNat % 16)

/-- What a received code group stands for at a running disparity (R433, R435). -/
def groupOf (rd : Bool) (g : BitVec 10) : CodeGroup :=
  let six := g.toNat / 16
  let four := g.toNat % 16
  if six = codeAt rd (0b001111, 0b110000) then
    if four = codeAt rd (0b1001, 0b0110) then .k281
    else if four = codeAt rd (0b1010, 0b0101) then .k285
    else if four = codeAt rd (0b1000, 0b0111) then .k287
    else .invalid
  else
    let r := after6 rd six
    match (List.range 32).find? (fun x => decide (codeAt rd (codes6.getD x (0, 0)) = six)) with
    | none => .invalid
    | some x =>
      match (List.range 8).find? (fun y => decide (code4 r x y = four)) with
      | none => .invalid
      | some y => .data (BitVec.ofNat 8 (y * 32 + x))

/-- The code group that a lane sends for a byte at a running disparity (R433). -/
def groupFor (rd : Bool) (b : Byte) : BitVec 10 :=
  let x := b.toNat % 32
  let six := codeAt rd (codes6.getD x (0, 0))
  BitVec.ofNat 10 (six * 16 + code4 (after6 rd six) x (b.toNat / 32))

/-- The header of a frame from its first code group (R434). -/
def CodeGroup.header : CodeGroup → LaneHdr
  | .k281 => .data
  | .k285 => .control
  | .k287 => .bell
  | _ => .invalid

/-- A symbol after a frame's first: a K-code there is invalid (R435). -/
def CodeGroup.symbol : CodeGroup → Option Byte
  | .data b => some b
  | _ => none

/-- What a run of code groups stands for, and the running disparity after it. -/
def groupsOf (rd : Bool) : List (BitVec 10) → List CodeGroup × Bool
  | [] => ([], rd)
  | g :: t =>
    let (r, d) := groupsOf (disparity rd g) t
    (groupOf rd g :: r, d)

/-- A frame of 72 code groups: its header and its 71 symbols, and the running disparity after it (R436). -/
def frameOfGroups (rd : Bool) (gs : List (BitVec 10)) : LaneHdr × List (Option Byte) × Bool :=
  match groupsOf rd gs with
  | ([], d) => (.invalid, [], d)
  | (h :: t, d) => (h.header, t.map CodeGroup.symbol, d)

end Sys2Proof.Machine
end

