-- ==== Sys2Proof/Machine/PortSend.lean ====
section
/-! DEFINITION. Sending on field ports: a port's state, its sequenced frames (R436, R450 to R453), parcels and routes (R222, R223). -/

namespace Sys2Proof.Machine

open Sys2Proof

/-! ## Field ports -/

/-- A field port. -/
def State.port (s : State) (p : Nat) : Port := Table.get {} s.ports p

/-- Replace a field port. -/
def State.setPort (s : State) (p : Nat) (x : Port) : State := { s with ports := Table.put {} s.ports p x }

/-- Change a field port. -/
def State.modPort (s : State) (p : Nat) (f : Port → Port) : State := s.setPort p (f (s.port p))

/-- The fitted ports, in order. -/
def State.fittedPorts (s : State) : List Nat := (List.range 32).filter s.portFitted

/-- The port is up. -/
def State.portUp (s : State) (p : Nat) : Bool := s.portFitted p && decide ((s.port p).state = .up)

/-- The port has bell and notice slots: it is up at 64 Gbaud (R456). -/
def State.portSlots (s : State) (p : Nat) : Bool := s.portUp p && decide ((s.port p).rate = 4)

/-- User I/O is enabled exactly while full_ok is 1 (R413). -/
def State.userIo (s : State) : Bool := s.cfg.fullOk

/-- The mode of a port (R466): 2 user I/O disabled, 1 chain, 0 field. AW3 is port 3, AE3 port 7 (R414). -/
def State.portMode (s : State) (p : Nat) : Nat :=
  if (s.cfg.aw3 && decide (p = 3)) || (s.cfg.ae3 && decide (p = 7)) then 1 else if s.userIo then 0 else 2

/-! ## Frame slots at 64 Gbaud (R454 to R457). A symbol is counted from tick 0, 6,144 to a tick -/

/-- The phase of a logical lane in symbols (R454). -/
def lanePhase (n : Nat) : Nat := 24 * (n % 3)

/-- LANE_TX symbols of a block of 1,024 ticks at 64 Gbaud. -/
def blockSymbols : Nat := 1024 * 6144

/-- The first frame start of a lane at or after a symbol (R454). -/
def laneStart (n sym : Nat) : Nat :=
  let b := sym / blockSymbols * blockSymbols
  let st := b + lanePhase n + (sym - b - lanePhase n + 71) / 72 * 72
  if st + 72 ≤ b + blockSymbols then st else b + blockSymbols + lanePhase n

/-- The frame that starts at a symbol is the last of its lane's block (R455). -/
def endsBlock (st : Nat) : Bool := decide (blockSymbols < st % blockSymbols + 144)

/-- The frame of a lane at a symbol is the bell slot or the notice slot of its tick (R456). -/
def bellSlotAt (n st : Nat) : Bool :=
  let r := st / 6144 % 1024 % 3
  decide (st % 6144 = 72) && (decide (n = r) || decide (n = 3 + r))

/-- A held group sends a frame in this slot of a port (R190, R206, R213). -/
def State.slotBooked (s : State) (p n st : Nat) : Bool :=
  s.groups.any (fun g => g.2.state.held && (g.2.almanac.any (fun a => a.bookings.any (fun b =>
    match b.act with
    | .send q f _ =>
      decide (q.toNat = p) && decide (f.lane.toNat = n) && decide (f.start.toNat = st % 6144) && g.2.bookedAt b (st / 6144)
    | _ => false))))

/-- The first frame slot of a lane from a symbol on that common frames may use (R194, R206, R457). -/
def State.commonSlot (s : State) (p n : Nat) : Nat → Nat → Option Nat
  | 0, _ => none
  | fuel + 1, sym =>
    let st := laneStart n sym
    if endsBlock st || bellSlotAt n st || s.slotBooked p n st then s.commonSlot p n fuel (st + 72) else some st

/-- The symbol that starts now, or next. -/
def State.symNow (s : State) : Nat := s.clock.tick.toNat * 6144 + (s.clock.cyc * 6144 + 1247) / 1248

/-- The cycle of the model in which a symbol starts. -/
def State.symCycle (s : State) (sym : Nat) : Nat :=
  s.clock.now + ((sym * 1248 + 6143) / 6144 - (s.clock.tick.toNat * 1248 + s.clock.cyc))

/-- Give a frame of a port the next slot of a logical lane that common frames may use: its cycle, or none where no slot is free in a
round of 4,096. Below 64 Gbaud a port has no such slots, and the frame goes as it comes (log 181). -/
def State.takeSlot (s : State) (p n : Nat) : Option (Nat × State) :=
  if (s.port p).rate ≠ 4 then some (s.clock.now, s)
  else
    match s.commonSlot p n 4096 (max s.symNow (Table.get 0 (s.port p).lanesAt n)) with
    | none => none
    | some st => some (s.symCycle st, s.modPort p (fun x => { x with lanesAt := Table.put 0 x.lanesAt n (st + 72) }))

/-- The lane whose next slot for common frames comes first. -/
def State.firstLane (s : State) (p : Nat) : Nat :=
  ((List.range 8).foldl (fun (o : Nat × Nat) n =>
    let t := (s.takeSlot p n).elim (2 ^ 64) Prod.fst
    if t < o.2 then (n, t) else o) (0, 2 ^ 64)).1

/-- The device sends a control frame on a logical lane of a port, in its first slot that is free. -/
def State.controlOn (s : State) (p n : Nat) (payload : List Byte) : State :=
  match s.takeSlot p n with
  | some (t, s) => s.send { kind := .laneControl, unit := p, addr := n, data := padTo 64 payload, cycle := t }
  | none => s.send { kind := .laneControl, unit := p, addr := n, data := padTo 64 payload, cycle := s.clock.now }

/-- The device sends a control frame on a port: it goes in the first slot that is free, before every common frame that has no slot
yet (R457). -/
def State.control (s : State) (p : Nat) (payload : List Byte) : State := s.controlOn p (s.firstLane p) payload

/-- A sequenced frame as it is sent: its logical lane, and fc, payload and parity (R436, R437). -/
def TxFrame.out (f : TxFrame) (p : Nat) : Out :=
  let msg := toLe 1 (bn f.first * 128 + f.no / 8 % 128) ++ padTo 64 f.data
  { kind := .laneFrame, unit := p, addr := f.no % 8, data := msg ++ rsParity msg, cycle := f.at_ }

/-- Send waiting frames while there are credits and room in each lane's window of 120, each in the next slot of its lane (R206, R451,
R453). -/
def State.pump (s : State) (p : Nat) : Nat → State
  | 0 => s
  | n + 1 =>
    let x := s.port p
    match x.waiting with
    | [] => s
    | f :: rest =>
      if !s.portUp p || decide (x.credit = 0) ||
          decide (120 ≤ (x.replay.filter (fun g => decide (g.no % 8 = f.no % 8))).length) then s
      else
        match s.takeSlot p (f.no % 8) with
        | none => s
        | some (t, s) =>
          let f := { f with at_ := t }
          ((s.modPort p (fun x =>
            { x with waiting := rest, replay := x.replay ++ [f], credit := x.credit - 1 })).send (f.out p)).pump p n

/-- Send everything on a port that can be sent now. -/
def State.pumpPort (s : State) (p : Nat) : State := s.pump p (s.port p).waiting.length

/-- Cut bytes into payloads of 64, the last padded with zeros (R277). -/
def frames64 : Nat → List Byte → List (List Byte)
  | 0, _ => []
  | n + 1, b => padTo 64 (b.take 64) :: frames64 n (b.drop 64)

/-- Send a parcel in common slots: its first frame and the frames of its data (R222, R277). -/
def State.sendParcel (s : State) (p : Nat) (hdr data : List Byte) : State :=
  let fs := padTo 64 hdr :: frames64 ((data.length + 63) / 64) data
  let x := s.port p
  let tx := ((List.range fs.length).zip fs).map (fun f =>
    ({ no := x.frameNo + f.1, first := decide (f.1 = 0), data := f.2 } : TxFrame))
  (s.setPort p { x with waiting := x.waiting ++ tx, frameNo := x.frameNo + fs.length }).pumpPort p

/-- The route header after a hop (R223). -/
def nextHop (h : List Byte) : List Byte :=
  toLe 1 (leAt h 0 1 - 1) ++ (h.drop 1).take 7 ++ toLe 12 (leAt h 8 12 / 32) ++ h.drop 20

/-- A route header of common traffic (R222). -/
def routeHeader (left cls node hops : Nat) : List Byte :=
  toLe 1 left ++ toLe 1 cls ++ toLe 4 0 ++ toLe 2 node ++ toLe 12 hops ++ toLe 4 0

/-- A parcel of this device leaves by the first hop of its route (R223). -/
def State.launchParcel (s : State) (hdr data : List Byte) : State :=
  let out := leAt hdr 8 12 % 32
  if s.portUp out && decide (s.portMode out ≠ 1) then s.sendParcel out (nextHop hdr) data else s.tallyPort .routeErr out

end Sys2Proof.Machine
end

