-- ==== Sys2Proof/Machine/HostLink.lean ====
section
/-! DEFINITION. The sending side of the Atvex link layer (R471 to R475, R481, R483, R484): transactions, credits, alerts. -/

namespace Sys2Proof.Machine

open Sys2Proof

/-- A transaction header (R475). -/
def transHdr (kind flags tag node len addr : Nat) : List Byte :=
  toLe 1 kind ++ toLe 1 flags ++ toLe 2 tag ++ toLe 2 node ++ toLe 2 len ++ toLe 8 addr

/-- A link packet (R471). -/
def linkPacket (seq : Nat) (trans : List Byte) : List Byte :=
  let b := toLe 2 (seq % 4096) ++ toLe 2 trans.length ++ trans
  b ++ toLe 4 (crc32 b)

/-- The credits of a pool (R473): 0 W, 1 R, 2 N, 3 M; other numbers use none. -/
def Credits.get (c : Credits) : Nat → Option Nat
  | 0 => some c.w
  | 1 => some c.r
  | 2 => some c.n
  | 3 => some c.m
  | _ => none

/-- Change the credits of a pool. -/
def Credits.upd (c : Credits) (p : Nat) (f : Nat → Nat) : Credits :=
  match p with
  | 0 => { c with w := f c.w }
  | 1 => { c with r := f c.r }
  | 2 => { c with n := f c.n }
  | 3 => { c with m := f c.m }
  | _ => c

/-- The sender may send one more packet of these bytes: at most 1,024 packets and 1 MiB unacknowledged (R472). -/
def HostPort.room (x : HostPort) (n : Nat) : Bool :=
  decide (x.sent.length < 1024) && decide ((x.sent.map (fun p => p.bytes.length)).foldl (· + ·) 0 + n ≤ 2 ^ 20)

/-- Send a transaction as the next link packet; the first sending of a request spends a credit (R473). -/
def State.sendPacket (s : State) (pool : Nat) (t : List Byte) : State :=
  let b := linkPacket s.hp.nextSend t
  let p : SentPkt := { seq := s.hp.nextSend, bytes := b, at_ := s.clock.now, resends := 0 }
  let s := { s with hp := { s.hp with
    sent := s.hp.sent ++ [p]
    nextSend := (s.hp.nextSend + 1) % 4096, credit := s.hp.credit.upd pool (· - 1) } }
  s.send { kind := .hostPacket, unit := 0, addr := 0, data := b }

/-- The first waiting transaction that can go: a credit of its pool, and none of its pool before it. -/
def firstSendable (c : Credits) (room : Nat → Bool) : List (Nat × List Byte) → List Nat → Option (Nat × List Byte)
  | [], _ => none
  | (p, t) :: r, seen =>
    if !seen.contains p && decide (c.get p ≠ some 0) && room t.length then some (p, t)
    else firstSendable c room r (p :: seen)

/-- Send what waits, while the link is up and credits and room last. -/
def State.pumpWait (s : State) : Nat → State
  | 0 => s
  | n + 1 =>
    match firstSendable s.hp.credit s.hp.room s.hp.waitSend [] with
    | none => s
    | some e => ({ s with hp := { s.hp with waitSend := s.hp.waitSend.erase e } }.sendPacket e.1 e.2).pumpWait n

/-- The body of an alert (R483). -/
def Alert.bytes (a : Alert) : List Byte :=
  toLe 2 a.code ++ toLe 1 (bn a.ovf) ++ toLe 1 0 ++ toLe 4 a.serial.toNat ++ toLe 8 a.tick.toNat ++ padTo 16 a.detail

/-- Send the alerts that no packet carries yet, in order (R484). -/
def State.pumpAlerts (s : State) : Nat → State
  | 0 => s
  | n + 1 =>
    match s.hp.alerts.findIdx? (fun a => a.seq.isNone) with
    | none => s
    | some i =>
      match s.hp.alerts[i]? with
      | none => s
      | some a =>
        if s.hp.room 64 then
          let q := s.hp.nextSend
          let s := { s with hp := { s.hp with alerts := s.hp.alerts.set i { a with seq := some q } } }
          (s.sendPacket 4 (transHdr 5 0 0 s.node.toNat 32 0 ++ a.bytes)).pumpAlerts n
        else s

/-- A relay header (R488, Table 10). -/
def relayHeader (hops left head : Nat) : List Byte := toLe 12 hops ++ toLe 1 left ++ toLe 1 0 ++ toLe 2 head ++ toLe 24 0

/-- Send a transaction to the relay head on its return route (R489). -/
def State.sendHome (s : State) (v : Via) (t : List Byte) : State :=
  s.launchParcel (routeHeader v.left 1 v.head v.hops ++ relayHeader 0 0 v.head) t

/-- A relayed device sends its alerts to its head as class-1 parcels (R491). The number 4096 stands for a parcel. -/
def State.relayAlerts (s : State) (v : Via) : State :=
  (s.hp.alerts.filter (fun a => a.seq.isNone)).foldl (fun s a =>
      s.sendHome v (transHdr 5 0 0 s.node.toNat 32 0 ++ a.bytes))
    { s with hp := { s.hp with alerts := s.hp.alerts.map (fun (a : Alert) => { a with seq := some (a.seq.getD 4096) }) } }

/-- The link carries what waits for it; a device without a link that has a relay head sends its alerts there. -/
def State.pumpHost (s : State) : State :=
  if s.hp.state = .up then (s.pumpWait s.hp.waitSend.length).pumpAlerts 64
  else
    match s.hp.home with
    | some v => if s.hp.accept then s.relayAlerts v else s
    | none => s

/-- Hand a transaction to the link layer. -/
def State.sendTrans (s : State) (pool : Nat) (t : List Byte) : State :=
  { s with hp := { s.hp with waitSend := s.hp.waitSend ++ [(pool, t)] } }.pumpHost

/-- Cut a span of host memory at 4 KiB boundaries (R481). -/
def hostParts (a n : Nat) : Nat → List (Nat × Nat)
  | 0 => []
  | f + 1 =>
    if n = 0 then []
    else
      let k := min n (4096 - a % 4096)
      (a, k) :: hostParts (a + k) (n - k) f

/-- The device writes host memory (R481): posted, and seen by its own later reads. -/
def State.writeHost (s : State) (a : Nat) (b : List Byte) : State :=
  let s := { s with hostSeen := noteHost s.hostSeen a b }
  (hostParts a b.length (b.length + 1)).foldl (fun s p =>
    s.sendTrans 0 (transHdr 2 0 0 0 p.2 p.1 ++ (b.drop (p.1 - a)).take p.2)) s

/-- A read request for host memory, with its tag (R481). -/
def State.askHost (s : State) (tag a n : Nat) : State := s.sendTrans 2 (transHdr 1 0 tag 0 n a)

/-- A read of host memory outside the streams: its completion is the event that brings the bytes. -/
def State.readHost (s : State) (a n : Nat) : State :=
  (hostParts a n (n + 1)).foldl (fun s p =>
    { s with hp := { s.hp with nextTag := (s.hp.nextTag + 1) % 65536 } }.askHost s.hp.nextTag p.1 p.2) s

/-! ## Alerts (R483, R484) -/

/-- Queue an alert; a full queue of 64 drops it (R484). -/
def State.alert (s : State) (code : Nat) (detail : List Byte) : State :=
  if 64 ≤ s.hp.alerts.length then
    ({ s with hp := { s.hp with alertOvf := true } }).tallyW .alertDrop
  else
    let a : Alert := { code := code, ovf := s.hp.alertOvf, serial := s.hp.serial, tick := s.clock.tick, detail := padTo 16 detail }
    { s with hp := { s.hp with
        alerts := s.hp.alerts ++ [a]
        alertOvf := false
        serial := s.hp.serial + 1 } }.pumpHost

end Sys2Proof.Machine
end

