-- ==== Sys2Proof/Machine/Access.lean ====
section
/-! DEFINITION. Translated access: the page ledger's reads and caches (chapter 11), granary addresses
(R321 to R324), stream addresses (R255), and reads and writes through them. -/

namespace Sys2Proof.Machine

open Sys2Proof

/-! ## Granaries -/

/-- A granary of the device. -/
def State.granary (s : State) (site : Nat) : Granary := Table.get {} s.granaries site

/-- Change a granary. -/
def State.modGranary (s : State) (site : Nat) (f : Granary → Granary) : State :=
  { s with granaries := Table.upd {} s.granaries site f }

/-- The site accepts traffic (R322, R344). -/
def State.siteOpen (s : State) (site : Nat) : Bool := s.hasGranary site && (s.granary site).opened

/-- A plot of the device. -/
def State.plot (s : State) (p : Nat) : Plot := Table.get {} s.fab.plots p

/-- Change a plot. -/
def State.modPlot (s : State) (p : Nat) (f : Plot → Plot) : State :=
  { s with fab := { s.fab with plots := Table.upd {} s.fab.plots p f } }

/-- The plot's taps and block memories answer: Live or Idle (R384). -/
def Plot.answers (x : Plot) : Bool := decide (x.state = .live) || decide (x.state = .idle)

/-- The external ports of the plot's block memories serve: in every state but Blank, Writing and Releasing (R384, R393). -/
def Plot.serves (x : Plot) : Bool := decide (x.state ≠ .blank) && decide (x.state ≠ .writing) && decide (x.state ≠ .releasing)

/-- The die of a plot index (R255). -/
def plotDie (p : Nat) : Die := if p < 16 then .w else .e

/-! ## The ledger -/

/-- The entry passes both of its checks (R353). -/
def LedgerEntry.ok (e : LedgerEntry) : Bool := e.codeOk && decide (e.ctlN = ~~~ e.ctl)

/-- Bit fields of ctl (R352). -/
def LedgerEntry.present (e : LedgerEntry) : Bool := e.ctl.getLsbD 0
/-- The writable bit. -/
def LedgerEntry.writable (e : LedgerEntry) : Bool := e.ctl.getLsbD 1
/-- The sealed bit. -/
def LedgerEntry.sealed (e : LedgerEntry) : Bool := e.ctl.getLsbD 2
/-- The pinned bit. -/
def LedgerEntry.pinned (e : LedgerEntry) : Bool := e.ctl.getLsbD 3
/-- The target: 0 none, 1 granary, 2 host. -/
def LedgerEntry.target (e : LedgerEntry) : Nat := field e.ctl.toNat 5 2

/-- One die's copy of an entry. -/
def Ledger.copy (l : Ledger) (d : Die) (page : Nat) : LedgerEntry :=
  match d with
  | .w => Table.get {} l.copyW page
  | .e => Table.get {} l.copyE page

/-- Write one die's copy. -/
def Ledger.setCopy (l : Ledger) (d : Die) (page : Nat) (e : LedgerEntry) : Ledger :=
  match d with
  | .w => { l with copyW := Table.put {} l.copyW page e }
  | .e => { l with copyE := Table.put {} l.copyE page e }

/-- The other die. -/
def otherDie : Die → Die
  | .w => .e
  | .e => .w

/-- Read the entry of a device virtual address on a die. A failing copy is counted, reported with the address and rewritten from a good
one (R353). -/
def State.ledgerRead (s : State) (d : Die) (va : Nat) : Option LedgerEntry × State :=
  let page := va / 2 ^ 21
  let e := s.ledger.copy d page
  if e.ok then (some e, s)
  else
    let s := (s.tally_ .pglInteg d 0 1).report 8 0 .contained .faultInteg 0 va false
    let o := s.ledger.copy (otherDie d) page
    (none, if o.ok then { s with ledger := s.ledger.setCopy d page o } else s)

/-- The die whose ledger copy a cache fills from (R351, R359). -/
def CacheId.die : CacheId → Die
  | .mill m => millDie m
  | .queue d => d
  | .tap d => d
  | .window => .w

/-- How many entries a cache holds (R359). -/
def CacheId.size : CacheId → Nat
  | .mill _ => 64
  | .queue _ => 256
  | .tap _ => 64
  | .window => 256

/-- The lines of a cache. -/
def Ledger.lines (l : Ledger) (c : CacheId) : List (Nat × LedgerEntry) :=
  match l.caches.find? (fun x => decide (x.id = c)) with
  | some x => x.lines
  | none => []

/-- Replace the lines of a cache; an empty cache is not listed. -/
def Ledger.setLines (l : Ledger) (c : CacheId) (ls : List (Nat × LedgerEntry)) : Ledger :=
  let rest := l.caches.filter (fun x => !decide (x.id = c))
  { l with caches := if ls.isEmpty then rest else { id := c, lines := ls } :: rest }

/-- Note the use of an entry: most recently used first, present entries only, the least recent replaced (R359). -/
def Ledger.touch (l : Ledger) (c : CacheId) (page : Nat) (e : LedgerEntry) : Ledger :=
  let rest := (l.lines c).filter (fun x => !decide (x.1 = page))
  if e.present then l.setLines c (((page, e) :: rest).take c.size) else l

/-- Drop a page from every cache (R360 step 2). -/
def Ledger.invalidate (l : Ledger) (page : Nat) : Ledger :=
  { l with caches := (l.caches.map (fun x =>
      { x with lines := x.lines.filter (fun y => !decide (y.1 = page)) })).filter (fun x => !x.lines.isEmpty) }

/-- An update of the page has committed and not completed (R361). -/
def Ledger.updating (l : Ledger) (page : Nat) : Bool :=
  (match l.host with | some u => decide (u.page = page) | none => false) ||
    (match l.reeve with | some u => decide (u.page = page) | none => false)

/-- Where an access goes: a cell of memory, host memory, or nowhere, with why; `wait` for R361. -/
inductive Acc where
  | cell (a : Nat)
  | host (a : Nat)
  | wait
  | fail (st : Status)
  deriving DecidableEq, Repr

/-- The place an entry maps an address to (R352, R322). -/
def State.entryPlace (s : State) (e : LedgerEntry) (va : Nat) : Acc :=
  let a := (e.frame.toNat % 2 ^ 31) * 2 ^ 21 + va % 2 ^ 21
  if e.target = 1 then
    if s.siteOpen (field a 36 4) && decide (a < 2 ^ 40) then .cell (stackCell a) else .fail .absent
  else if e.target = 2 then .host a
  else .fail .faultPage

/-- Look the page of a device virtual address up through a cache: a hit, or a miss served by the die's copy (R359, R361). -/
def State.lookup (s : State) (c : CacheId) (va : Nat) : Option (Option LedgerEntry) × State :=
  let page := va / 2 ^ 21
  if s.ledger.updating page then (none, s)
  else
    match (s.ledger.lines c).find? (fun x => decide (x.1 = page)) with
    | some (_, e) => (some (some e), { s with ledger := s.ledger.touch c page e })
    | none =>
      match s.ledgerRead c.die va with
      | (some e, s) => (some (some e), { s with ledger := s.ledger.touch c page e })
      | (none, s) => (some none, s)

/-- Translate a device virtual address for an access (R351, R359, R363). -/
def State.translate (s : State) (c : CacheId) (va : Nat) (wr : Bool) : Acc × State :=
  match s.lookup c va with
  | (none, s) => (.wait, s)
  | (some none, s) => (.fail .faultInteg, s)
  | (some (some e), s) =>
    if !e.present || (wr && !e.writable) then (.fail .faultPage, s) else (s.entryPlace e va, s)

/-! ## Stream addresses (R255) -/

/-- Who makes an access: a carter of a mill, the queue store of a die, a tap of a die, a field port. -/
inductive Who where
  | mill (m : Nat)
  | queue (d : Die)
  | tap (d : Die)
  | port
  | debug
  deriving DecidableEq, Repr

/-- The translation cache a requester uses. Field ports use the queue store's cache of W. -/
def Who.cache : Who → CacheId
  | .mill m => .mill m
  | .queue d => .queue d
  | .tap d => .tap d
  | .port => .queue .w
  | .debug => .window

/-- A stream address whose unassigned bits are zero and whose space code is not refused (R255, R257). -/
def streamAddrOk (a : Nat) : Bool :=
  match field a 44 4 with
  | 0 => decide (field a 40 4 = 0)
  | 1 => decide (field a 31 13 = 0)
  | 2 => decide (field a 31 13 = 0) && decide (field a 15 5 = 0)
  | 3 => decide (field a 29 15 = 0) && decide (field a 13 3 = 0)
  | _ => false

/-- The mill of a stream address in space 1 or 2. -/
def addrMill (a : Nat) : Nat := field a 20 11

/-- Resolve `n` bytes at a stream address. An address beyond its space, or a sieve bank of another mill, gives
MISMATCH (R260); an absent or out-of-service mill, or a plot that does not serve, gives ABSENT (R239, R384, R393). -/
def State.resolve (s : State) (w : Who) (a n : Nat) (wr : Bool) : Acc × State :=
  match field a 44 4 with
  | 0 => s.translate w.cache (a % 2 ^ 40) wr
  | 1 =>
    if 2 ^ 20 < a % 2 ^ 20 + n ∨ 1152 ≤ addrMill a then (.fail .mismatch, s)
    else if s.millLive (addrMill a) then (.cell (loftCell (addrMill a) (a % 2 ^ 20)), s)
    else (.fail .absent, s)
  | 2 =>
    if 2 ^ 14 < a % 2 ^ 14 + n ∨ w ≠ .mill (addrMill a) then (.fail .mismatch, s)
    else (.cell (bankCell (addrMill a) (bitOf a 14) (a % 2 ^ 14)), s)
  | 3 =>
    let p := field a 24 5
    let b := field a 16 8
    if 192 ≤ b ∨ 4608 < a % 2 ^ 13 + n then (.fail .mismatch, s)
    else if !(s.plot p).serves then (.fail .absent, s.tally_ .tapAbsent (plotDie p) p 1)
    else if (Table.get {} (s.plot p).brams b).portBUser then (.fail .mismatch, s)
    else (.cell (bramCell p b (a % 2 ^ 13)), s)
  | _ => (.fail .mismatch, s)

/-- Count corrected words met by a read (R565): lofts, banks and C store, granaries, block memories. -/
def State.countSoft (s : State) (a n : Nat) : State :=
  match markedIn s.soft a n with
  | none => s
  | some k =>
    match k / 2 ^ 56 with
    | 1 => s.tallyMill .loftCorr (k % 2 ^ 56 / 2 ^ 20) 1
    | 2 => s.tallyMill .svCorr (k % 2 ^ 56 / 2 ^ 15) 1
    | 3 => s.tallyMill .svCorr (k % 2 ^ 56 / 2 ^ 13) 1
    | 5 => s.tally_ .grnCorr (if k % 2 ^ 56 / 2 ^ 36 < 6 then .w else .e) (k % 2 ^ 56 / 2 ^ 36) 1
    | 6 => s.tally_ .bramCorr (plotDie (k % 2 ^ 56 / 2 ^ 13 / 192)) (k % 2 ^ 56 / 2 ^ 13 / 192) 1
    | _ => s

/-- The granary decode of R323: hash bit `h` of a stack offset is the parity of the bits its mask names. -/
def hashBit (mask off : Nat) : Nat :=
  (List.range 40).foldl (fun p i => if bitOf mask i && bitOf off i then 1 - p else p) 0

/-- The default masks of 10 Table 3. -/
def defaultMask : Nat → BitVec 40
  | 0 => 0x0000401040
  | 1 => 0x0000802080
  | 2 => 0x0001004100
  | 3 => 0x0002008200
  | 4 => 0x0004000400
  | 5 => 0x0008000800
  | 6 => 0x0010010000
  | 7 => 0x0020020000
  | 8 => 0x0040040000
  | 9 => 0x0080080000
  | 10 => 0x0100100000
  | 11 => 0x0200200000
  | _ => 0

/-- The home bit of a hash index (10 Table 2). -/
def homeBit (h : Nat) : Nat := if h < 6 then 6 + h else 10 + h

/-- The mask in force. -/
def Granary.mask (g : Granary) (h : Nat) : BitVec 40 := Table.get (defaultMask h) g.hash h

/-- Pseudo-channel of a stack offset, 0 to 63: channel·2 + pc (R323). -/
def Granary.pcOf (g : Granary) (off : Nat) : Nat :=
  let b := fun h => hashBit (g.mask h).toNat off
  b 0 + 2 * (b 1 + 2 * b 2 + 4 * b 3 + 8 * b 4 + 16 * b 5)

/-- Bank of a stack offset (R323). -/
def Granary.bankOf (g : Granary) (off : Nat) : Nat :=
  let b := fun h => hashBit (g.mask h).toNat off
  b 6 + 2 * b 7 + 4 * b 8 + 8 * b 9 + 16 * b 10 + 32 * b 11

/-- Set a first-error record: the first event is kept, later ones set more (bit 30 of the word that holds valid). -/
def ErrRec.set1 (r : ErrRec) (w0 w1 w2 : Word) : ErrRec :=
  if r.w1.getLsbD 31 then { r with w1 := r.w1 ||| 0x40000000 }
  else { w0 := w0, w1 := (w1 &&& 0x3FFFFFFF) ||| 0x80000000, w2 := w2, w3 := 0 }

/-- As `set1` for records whose valid bit is in word 3. -/
def ErrRec.set3 (r : ErrRec) (w0 w1 w2 w3 : Word) : ErrRec :=
  if r.w3.getLsbD 31 then { r with w3 := r.w3 ||| 0x40000000 }
  else { w0 := w0, w1 := w1, w2 := w2, w3 := (w3 &&& 0x3FFFFFFF) ||| 0x80000000 }

/-- Record an uncorrectable granary event (R342, R347). -/
def State.grnError (s : State) (phys : Nat) (wr : Bool) : State :=
  let site := field phys 36 4
  let off := phys % 2 ^ 36
  let g := s.granary site
  let pc := g.pcOf off
  let w2 := field off 22 14 * 2 ^ 18 + g.bankOf off * 2 ^ 12 + field off 12 4 * 2 ^ 8 + pc / 2 * 8 + pc % 2 * 4
  let w1 := s.clock.tick.toNat % 2 ^ 24 * 256 + field phys 32 8
  let e := g.err.set3 (BitVec.ofNat 32 phys) (BitVec.ofNat 32 w1) (BitVec.ofNat 32 w2) (BitVec.ofNat 32 (bn wr))
  ((s.modGranary site (fun g => { g with err := e })).evBits s.clock.now (0xC0004C + site * 0x10000) [31]).report 9 site .contained .faultInteg 1 phys false

/-- What an uncorrectable read does besides failing: the granary's record, or a plot's ue bit (R342, R381). -/
def State.badRead (s : State) (a : Nat) : State :=
  match a / 2 ^ 56 with
  | 5 => s.grnError (a % 2 ^ 56) false
  | 6 =>
    let p := a % 2 ^ 56 / 2 ^ 13 / 192
    ((s.modPlot p (fun x => { x with ue := true })).evBits s.clock.now (0x3000100 + 4 * p) [18]).report 12 p .contained .faultInteg 15 0 false
  | _ => s

/-- Read resolved bytes; FAULT_INTEG when a word is uncorrectable (R566, R342, R381). -/
def State.accRead (s : State) (acc : Acc) (n : Nat) : Except Status (Option (List Byte)) × State :=
  match acc with
  | .cell a =>
    if s.badIn a n then (.error .faultInteg, s.badRead a)
    else (.ok (some (s.bytes a n)), s.countSoft a n)
  | .host a => (.ok (some (s.hostBytes a n)), s.readHost a n)
  | .wait => (.ok none, s)
  | .fail st => (.error st, s)

/-- Write resolved bytes; a write narrower than an uncorrectable word leaves it and fails (R566, R326). The outcome is
`some OK`, another status, or `none` while the access waits. -/
def State.accWrite (s : State) (acc : Acc) (b : List Byte) : Option Status × State :=
  match acc with
  | .cell a =>
    if a / 2 ^ 56 = 5 then
      if s.narrowBad a b.length then (some .faultInteg, s.grnError (a % 2 ^ 56) true)
      else (some .ok, s.setBytes a b)
    else if s.narrowBad a b.length then (some .faultInteg, s.badRead a)
    else (some .ok, s.setBytes a b)
  | .host a => (some .ok, s.writeHost a b)
  | .wait => (none, s)
  | .fail st => (some st, s)

/-- Read `n` bytes at a stream address, none of them beyond a 2 MiB page: `ok none` means the access waits (R361). -/
def State.streamRead (s : State) (w : Who) (a n : Nat) : Except Status (Option (List Byte)) × State :=
  let (acc, s) := s.resolve w a n false
  s.accRead acc n

/-- Write bytes at a stream address. -/
def State.streamWrite (s : State) (w : Who) (a : Nat) (b : List Byte) : Option Status × State :=
  let (acc, s) := s.resolve w a b.length true
  s.accWrite acc b

end Sys2Proof.Machine
end

