-- ==== Sys2Proof/Machine/QueueOps.lean ====
section
/-! DEFINITION. Operations of the queue store: counts (R285, R286), completions (R295 to R300), cart puts and
takes (R272 to R276). -/

namespace Sys2Proof.Machine

open Sys2Proof

/-- A queue of the device. -/
def State.queue (s : State) (q : Nat) : Queue := Table.get {} s.qs.queues q

/-- Replace a queue. -/
def State.setQueue (s : State) (q : Nat) (x : Queue) : State :=
  { s with qs := { s.qs with queues := Table.put {} s.qs.queues q x } }

/-- Change a queue. -/
def State.modQueue (s : State) (q : Nat) (f : Queue → Queue) : State := s.setQueue q (f (s.queue q))

/-- The die of a queue (R283). -/
def queueDie (q : Nat) : Die := if q % 2 = 0 then .w else .e

/-- Bits of the record. -/
def Queue.bits (x : Queue) (lo n : Nat) : Nat := field x.record.toNat lo n
/-- Body stream address. -/
def Queue.base (x : Queue) : Nat := x.bits 0 48
/-- log2 of the entries. -/
def Queue.lg (x : Queue) : Nat := x.bits 48 8
/-- priv (R284). -/
def Queue.priv (x : Queue) : Bool := bitOf x.record.toNat 56
/-- reeve (R284, R289). -/
def Queue.reeve (x : Queue) : Bool := bitOf x.record.toNat 57
/-- alert (R284, R300). -/
def Queue.alert (x : Queue) : Bool := bitOf x.record.toNat 58
/-- Default CQ of an SQ (R291). -/
def Queue.dcq (x : Queue) : Nat := x.bits 64 16
/-- Dispatcher weight (R305). -/
def Queue.weight (x : Queue) : Nat := x.bits 80 8
/-- Capability bits (R303). -/
def Queue.cap (x : Queue) : Nat := x.bits 88 8
/-- Ring flag ingress (R274). -/
def Queue.ingress (x : Queue) : Bool := bitOf x.record.toNat 56
/-- Ring flag return. -/
def Queue.ret (x : Queue) : Bool := bitOf x.record.toNat 57
/-- Ring flag post. -/
def Queue.post (x : Queue) : Bool := bitOf x.record.toNat 58
/-- Ring flag tilled. -/
def Queue.tilled (x : Queue) : Bool := bitOf x.record.toNat 59
/-- Paired ring. -/
def Queue.pair (x : Queue) : Nat := x.bits 64 16
/-- Placement epoch accepted. -/
def Queue.pepoch (x : Queue) : Nat := x.bits 80 8
/-- Stage index written as a cart's owner. -/
def Queue.sidx (x : Queue) : Nat := x.bits 88 8
/-- Producer stage code. -/
def Queue.prod (x : Queue) : Nat := x.bits 96 16
/-- Consumer stage code. -/
def Queue.cons (x : Queue) : Nat := x.bits 112 16
/-- arg of a ring. -/
def Queue.arg (x : Queue) : Nat := x.bits 128 32

/-- A count passes its complement check. -/
def Count.ok (c : Count) : Bool := decide (c.n = ~~~ c.v)

/-- A count of a value. -/
def Count.mk' (v : BitVec 17) : Count := { v := v, n := ~~~ v }

/-- Occupancy (R285). -/
def Queue.occ (x : Queue) : Nat := (x.tail.v - x.head.v).toNat

/-- Entries of the body. -/
def Queue.size (x : Queue) : Nat := 2 ^ x.lg

/-- Both counts pass their checks. -/
def Queue.countsOk (x : Queue) : Bool := x.head.ok && x.tail.ok

/-- Put a queue into its fault state (R286). -/
def State.queueFault (s : State) (q : Nat) : State :=
  ((s.modQueue q (fun x => { x with en := false, fault := true })).tally_ .qsInteg (queueDie q) 0 1).report
    6 q .contained .faultInteg 15 0 false

/-- Check the counts of a queue when they are read (R286). -/
def State.checkCounts (s : State) (q : Nat) : Bool × State :=
  if (s.queue q).countsOk then (true, s) else (false, s.queueFault q)

/-! ## Completions -/

/-- The 32 bytes of a completion (R295), at tail count `t` of a CQ of 2^lg entries (R296). -/
def completionBytes (s : State) (c : Completion) (t lg : Nat) : List Byte :=
  toLe 1 c.status.code ++ toLe 1 c.kind ++
    toLe 1 (bn (bitOf t lg) + 2 * bn c.placed + 4 * bn c.partial_) ++ toLe 1 c.gen ++
    toLe 2 c.sq ++ toLe 2 c.sqidx ++ toLe 8 c.tag.toNat ++ toLe 2 c.mill ++ toLe 2 0 ++
    toLe 4 c.detail.toNat ++ toLe 4 s.clock.tick.toNat ++ toLe 2 s.clock.cyc ++ toLe 2 0

/-- Write a completion at the tail of its CQ (R296), with the alert of R300. `none`: it cannot be written now. -/
def State.tryPost (s : State) (c : Completion) : Bool × State :=
  let x := s.queue c.cq
  if !x.en || x.fault then (false, s)
  else
    match s.checkCounts c.cq with
    | (false, s) => (false, s)
    | (true, s) =>
      if x.size ≤ x.occ then (false, s)
      else
        let t := x.tail.v.toNat
        match s.streamWrite (.queue (queueDie c.cq)) (x.base + 32 * (t % x.size)) (completionBytes s c t x.lg) with
        | (some .ok, s) =>
          let first := decide (x.occ = 0) && x.alert && !x.alertSent
          let s := s.modQueue c.cq (fun x =>
            { x with tail := Count.mk' (x.tail.v + 1), alertSent := x.alertSent || first })
          (true, if first then s.alert 3 (toLe 2 c.cq) else s)
        | (_, s) => (false, s)

/-- The pending store of a die (R299). -/
def QueueStore.pend (x : QueueStore) : Die → List Completion
  | .w => x.pendW
  | .e => x.pendE

/-- Replace the pending store of a die. -/
def QueueStore.setPend (x : QueueStore) (d : Die) (l : List Completion) : QueueStore :=
  match d with
  | .w => { x with pendW := l }
  | .e => { x with pendE := l }

/-- Post a completion: written, or kept in the pending store, or dropped with ovf and alert 4 (R296, R299). -/
def State.complete (s : State) (c : Completion) : State :=
  let d := queueDie c.cq
  let behind := (s.qs.pend d).any (fun p => decide (p.cq = c.cq))
  let (ok, s) := if behind then (false, s) else s.tryPost c
  if ok then s
  else if (s.qs.pend d).length < 256 then { s with qs := s.qs.setPend d (s.qs.pend d ++ [c]) }
  else
    ((s.modQueue c.cq (fun x => { x with ovf := true })).tally_ .cqDrop d 0 1).alert 4 (toLe 2 c.cq)

/-- Post a completion where one is asked for. -/
def State.completeIf (s : State) (ask : Option Nat) (c : Completion) : State :=
  match ask with
  | some q => s.complete { c with cq := q }
  | none => s

/-- Post the first completion of a pending store that can be written now (R299). -/
def State.postPendingFrom (s : State) (d : Die) (done : List Completion) : List Completion → State
  | [] => s
  | c :: t =>
    if done.any (fun p => decide (p.cq = c.cq)) then s.postPendingFrom d (done ++ [c]) t
    else
      match s.tryPost c with
      | (true, s) => { s with qs := s.qs.setPend d (done ++ t) }
      | (false, s) => s.postPendingFrom d (done ++ [c]) t

/-- The completion of a work item (R295, R297). -/
def Work.completion (w : Work) (st : Status) (mill : Nat) (detail : Word) : Completion :=
  { cq := w.cq.getD 0, status := st, kind := 1, placed := w.placed, sq := w.sq, sqidx := w.idx.toNat % 2 ^ 16,
    tag := w.tag, mill := mill, detail := detail }

/-- The completion of a command (R295, R306). -/
def CmdRef.completion (c : CmdRef) (st : Status) (detail : Word) : Completion :=
  { cq := c.cq.getD 0, status := st, kind := 3, sq := c.sq, sqidx := c.idx.toNat % 2 ^ 16, tag := c.tag,
    mill := c.mill, detail := detail }

/-- Post a work item's completion where it asks for one. -/
def State.endWork (s : State) (w : Option Work) (st : Status) (mill : Nat) (detail : Word) : State :=
  match w with
  | some w => s.completeIf w.cq (w.completion st mill detail)
  | none => s

/-! ## Stops and faults (R108 to R110, R648) -/

/-- Complete the work of invocations that will not run with CANCELLED. -/
def State.cancelAll (s : State) (m : Nat) (l : List Invocation) : State :=
  l.foldl (fun s i => s.endWork i.work .cancelled m 0) s

/-- The mill with a control word that passes its check again: it has been written or given up (R565). -/
def Mill.mend (x : Mill) (w : ParWord) : Mill := { x with parity := x.parity.filter (fun y => !decide (y = w)) }

/-- Empty an engine's queue; its invocations complete with CANCELLED (R109). -/
def State.cancelQueue (s : State) (m : Nat) (e : Eng) : State :=
  let q := ((s.mill m).eng e).queue
  ((s.modMill m (fun x => x.mend (.queue e))).modEng m e (fun g => { g with queue := [], ended := g.ended + q.length })).cancelAll m q

/-- The repeat and delay-slot state of the sieve ends with its invocation. -/
def State.endFlow (s : State) (m : Nat) (e : Eng) : State :=
  match e with
  | .sv => s.modMill m (fun x => { x with sieve := { x.sieve with rpt := none, delay := none } })
  | _ => s

/-- The completion of an engine's running invocation, with its done word (R297). One that is forced to stop releases a debug halt
(R606). -/
def State.endRunning (s : State) (m : Nat) (e : Eng) (st : Status) : State :=
  let g := (s.mill m).eng e
  match g.running with
  | none => s
  | some i =>
    ((s.modEng m e (fun g => { g with
      running := none, ended := g.ended + 1, stack := [], held := none
      dbg := if st = .aborted then { g.dbg with halt := .none, step := false } else g.dbg })).endFlow m e).endWork
      i.work st m (g.done.getD 0)

/-- An engine holds a bundle whose stores do not fit the output FIFO (R132). -/
def Engine.fifoHeld (g : Engine) : Bool := g.held.isSome && decide (g.heldFor = (2, 59))

/-- The sieve is at an accepted point: neither in a delay slot nor in a repeat body, or holding a bundle under R132 (R133). -/
def Sieve.accepted (v : Sieve) (held : Bool) : Bool := (v.rpt.isNone && v.delay.isNone) || held

/-- A request to a sieve that runs an invocation waits for its first accepted point from the next cycle on (R133). -/
def Mill.askSieve (x : Mill) (now : Nat) (r : StopReq) : Mill :=
  if x.sv.running.isSome && x.sv.stopped.isNone then { x with sieve := { x.sieve with req := some (now, r) } } else x

/-- A fault stops the whole mill in common mode (R109); a sieve that runs stops at its next accepted point (R133). -/
def State.stopMill (s : State) (m : Nat) (st : Status) : State :=
  let s := s.modMill m (fun x => { x with stopped := some st }.askSieve s.clock.now .mill)
  let s := Eng.all.foldl (fun s e => s.cancelQueue m e) s
  let s := s.endRunning m .st st
  [Eng.st, .mx, .ca, .cb].foldl (fun s e => s.modEng m e (fun g => { g with held := none })) s

/-- The schedule-fault record of a fault (R108). -/
def State.schedRec (s : State) (m : Nat) (e : Eng) (f : EngFault) (audit : Bool) : SchedRec :=
  let g := (s.mill m).eng e
  let stamp := match f.stamp with
    | some t => s.millCycle t
    | none => 0xFFFFFFFF
  { tick := s.clock.tick, cycle := s.clock.cyc, mill := m, engine := e.num, kind := f.kind,
    resource := f.resource, more := false, audit := audit,
    pc := if g.running.isSome then g.pc else 0xFFFFFFFF
    seq := g.begun, stamp := stamp
    early := if 5 ≤ f.kind ∧ f.kind ≤ 8 then 0
             else match f.stamp with
               | some _ => stamp - s.millCycle s.clock.now
               | none => 0x7FFFFFFF }

/-- Record a schedule fault: the first one is kept and sent as a fault report, a later one sets more (R108). -/
def State.recordSched (s : State) (m : Nat) (r : SchedRec) : State :=
  let x := s.mill m
  match x.sfr with
  | none => (s.setMill m { x with sfr := some r }).reportSched m (if x.tilled then .group else .contained) r x.tilled
  | some o => s.setMill m { x with sfr := some { o with more := true } }

/-- A fault of an engine (03 Table 7, 04 Table 8): its record or report, the stop of the engine, and of the mill in
common mode or the halt of the group in tilled mode (R108 to R110). -/
def State.engineFault (s : State) (m : Nat) (e : Eng) (f : EngFault) : State :=
  let x := s.mill m
  let cls : ErrClass := if x.tilled then .group else .contained
  let s :=
    if f.status = .faultSched then s.recordSched m (s.schedRec m e f false)
    else
      let s := match f.also with
        | some (k, r, st) => s.recordSched m (s.schedRec m e { f with kind := k, resource := r, stamp := st } false)
        | none => s
      match f.addr, f.quern with
      | some o, _ => s.report 10 m cls f.status 4 (loftAddr m o) x.tilled
      | none, some (q, row) => s.reportRow m cls q row x.tilled
      | none, none => s.report 10 m cls f.status 15 0 x.tilled
  let s := s.modEng m e (fun g => { g with stopped := some f.status, held := none, deferred := none, audited := none })
  if x.tilled then (s.endRunning m e f.status).raiseMill m 1
  else
    let s := if e = .st then s.endRunning m .st f.status else s
    s.stopMill m f.status

/-- A fault that arises in an operation which has issued, outside the cases of R648: the engine stops in the cycle in which it
arises, unless it or its mill has stopped already. -/
def State.timeFault (s : State) (m : Nat) (e : Eng) (f : EngFault) : State :=
  if ((s.mill m).eng e).stopped.isSome || (s.mill m).stopped.isSome then s else s.engineFault m e f

/-! ## Carts (R272, R273) -/

/-- The fields of a cart. -/
def cartAddr (c : List Byte) : Nat := leAt c 0 6
/-- Buffer length. -/
def cartLen (c : List Byte) : Nat := leAt c 6 3
/-- Bytes holding data. -/
def cartFill (c : List Byte) : Nat := leAt c 9 3
/-- Generation. -/
def cartGen (c : List Byte) : Nat := leAt c 13 1
/-- Flags. -/
def cartFlags (c : List Byte) : Nat := leAt c 14 1
/-- The check byte holds (R272). -/
def cartOk (c : List Byte) : Bool := decide (c.length = 16) && decide (leAt c 15 1 = (~~~ xorBytes (c.take 15)).toNat)

/-- Build a cart with its check byte. -/
def mkCart (addr len fill owner gen flags : Nat) : List Byte :=
  let b := toLe 6 addr ++ toLe 3 len ++ toLe 3 fill ++ toLe 1 owner ++ toLe 1 gen ++ toLe 1 flags
  b ++ [~~~ xorBytes b]

/-- A cart as a put writes it: owner from the ring, fill 0 on a return ring for OK and CANCELLED (R273). -/
def putForm (x : Queue) (c : List Byte) : List Byte :=
  let st := cartFlags c % 16
  let fill := if x.ret && decide (st ≤ 1) then 0 else cartFill c
  mkCart (cartAddr c) (cartLen c) fill x.sidx (cartGen c) (cartFlags c)

/-- What a put or take meets (R275). -/
inductive RingRes where
  | ok | wait | mismatch | integ
  deriving DecidableEq, Repr

/-- Carts put and not yet visible on a ring. -/
def State.inFlight (s : State) (q : Nat) : Nat := (s.qs.flights.filter (fun f => decide (f.ring = q))).length

/-- The states of a ring that stop a put or a take before it happens (R275). -/
def State.ringState (s : State) (q : Nat) : RingRes :=
  let x := s.queue q
  if q < 8192 then .mismatch
  else if x.fault then .integ
  else if !x.en || !x.written then .mismatch
  else .ok

/-- A put finds room (R275). -/
def State.canPut (s : State) (q : Nat) : RingRes :=
  match s.ringState q with
  | .ok => if (s.queue q).size ≤ (s.queue q).occ + s.inFlight q then .wait else .ok
  | r => r

/-- A take finds a cart (R275). -/
def State.canTake (s : State) (q : Nat) : RingRes :=
  match s.ringState q with
  | .ok => if (s.queue q).occ = 0 then .wait else .ok
  | r => r

/-- Report a cart dropped from its chain (R270, R275). -/
def State.reportRing (s : State) (q : Nat) : State := s.report 6 q .contained .faultInteg 15 0 false

/-- Write a cart into the ring body at the tail and make it visible. False: the access failed, the ring is in its
fault state and the cart is dropped (R275). -/
def State.landCart (s : State) (q : Nat) (c : List Byte) : Bool × State :=
  let x := s.queue q
  match s.checkCounts q with
  | (false, s) => (false, s.reportRing q)
  | (true, s) =>
    match s.streamWrite (.queue (queueDie q)) (x.base + 16 * (x.tail.v.toNat % x.size)) c with
    | (some .ok, s) => (true, s.modQueue q (fun x => { x with tail := Count.mk' (x.tail.v + 1) }))
    | (_, s) => (false, (s.queueFault q).reportRing q)

/-- Take the cart at the head of a ring that holds one. `none`: the body access failed (R275). -/
def State.takeCart (s : State) (q : Nat) : Option (List Byte) × State :=
  let x := s.queue q
  match s.checkCounts q with
  | (false, s) => (none, s.reportRing q)
  | (true, s) =>
    match s.streamRead (.queue (queueDie q)) (x.base + 16 * (x.head.v.toNat % x.size)) 16 with
    | (.ok (some b), s) => (some b, s.modQueue q (fun x => { x with head := Count.mk' (x.head.v + 1) }))
    | (_, s) => (none, (s.queueFault q).reportRing q)

/-! ## Invocations (R82 to R84, R276) -/

/-- A slot of a mill: 0 to 3 are CA's, 4 to 7 are CB's (R281). -/
def Mill.slot (x : Mill) (k : Nat) : Option Slot := Table.get none x.slots k

/-- The engine is idle: no invocation running and none queued. -/
def Engine.idle (g : Engine) : Bool := g.running.isNone && g.queue.isEmpty

/-- Append an invocation to an engine's queue (R82, R84). -/
def Engine.push (g : Engine) (now : Nat) (i : Invocation) : Engine :=
  { g with queue := g.queue ++ [{ i with posted := now, toIdle := g.idle }] }

/-- The engine a consumer stage code names (R274): carters, or engines through post. -/
def stageEngine (code : Nat) : Option (Nat × Eng) :=
  match field code 13 3 with
  | 1 => some (field code 0 11, if bitOf code 11 then .cb else .ca)
  | 2 =>
    match field code 11 2 with
    | 0 => some (field code 0 11, .st)
    | 1 => some (field code 0 11, .mx)
    | 2 => some (field code 0 11, .sv)
    | _ => none
  | _ => none

/-- The invocation a post ring makes of a cart (R276). -/
def ringInvocation (x : Queue) (q : Nat) (c : List Byte) : Invocation :=
  { entry := BitVec.ofNat 32 x.arg
    args := [BitVec.ofNat 32 (leAt c 0 4), BitVec.ofNat 32 (leAt c 4 4), BitVec.ofNat 32 (leAt c 8 4),
             BitVec.ofNat 32 (leAt c 12 4), BitVec.ofNat 32 q, 0, 0, 0] }

/-- Post the head cart of a post ring to the engine it names, when the mill runs and the queue has room; otherwise
the cart stays (R109, R276). In tilled mode a full queue is a schedule fault of kind 7 of that engine. -/
def State.postRing (s : State) (q : Nat) : State :=
  let x := s.queue q
  if !x.post || decide (s.canTake q ≠ .ok) then s
  else
    match stageEngine x.cons with
    | none => s
    | some (m, e) =>
      let g := (s.mill m).eng e
      if !s.millLive m || (s.mill m).stopped.isSome || g.stopped.isSome then s
      else if 16 ≤ g.queue.length then
        (if (s.mill m).tilled then s.timeFault m e { status := .faultSched, kind := 7, resource := e.num } else s)
      else
        match s.takeCart q with
        | (some c, s) => s.modEng m e (fun g => g.push s.clock.now (ringInvocation x q c))
        | (none, s) => s

end Sys2Proof.Machine
end

