-- ==== Sys2Proof/Machine/Cells.lean ====
section
/-! DEFINITION. The word cells of a plot and its hedges (R372 to R376, R389 to R393): one fabric cycle of its user logic. -/

namespace Sys2Proof.Machine

open Sys2Proof

/-- Signed or unsigned order of two words. -/
def wordLt (signed : Bool) (x y : BitVec 16) : Bool := if signed then x.slt y else x.ult y

/-- The result, flag and carry output of a cell operation (12 Table 2). `old` is the flag the cell drove before. -/
def CellOp.eval (op : CellOp) (x y : BitVec 16) (cin flag old : Bool) : BitVec 16 × Bool × Bool :=
  let sum := fun (a b : BitVec 16) (c : Bool) =>
    let t := a.toNat + b.toNat + bn c
    (BitVec.ofNat 16 t, decide (65536 ≤ t), decide (65536 ≤ t))
  let logic := fun (r : BitVec 16) => (r, decide (r ≠ 0), false)
  let cmp := fun (b : Bool) => (BitVec.ofNat 16 (bn b), b, false)
  let n := y.toNat % 16
  let shift := fun (r : BitVec 16) (out : Bool) => (r, if n = 0 then Config.shiftFlag x else out, false)
  match op with
  | .add c => sum x y (c && cin)
  | .sub c => sum x (~~~ y) (if c then cin else true)
  | .abs => if x.msb then sum (~~~ x) 0 true else (x, false, false)
  | .neg => sum (~~~ x) 0 true
  | .and => logic (x &&& y)
  | .or => logic (x ||| y)
  | .xor => logic (x ^^^ y)
  | .andn => logic (x &&& ~~~ y)
  | .not => logic (~~~ x)
  | .shl => shift (x <<< n) (x.getLsbD (16 - n))
  | .shr => shift (x >>> n) (x.getLsbD (n - 1))
  | .sar => shift (x.sshiftRight n) (x.getLsbD (n - 1))
  | .eq => cmp (decide (x = y))
  | .ne => cmp (decide (x ≠ y))
  | .lt s => cmp (wordLt s x y)
  | .le s => cmp (!wordLt s y x)
  | .sel => (if flag then x else y, old, false)
  | .min s => let f := !wordLt s y x; (if f then x else y, f, false)
  | .max s => let f := !wordLt s x y; (if f then x else y, f, false)
  | .mul8 =>
    let p := x.toNat % 256 * (y.toNat % 256)
    (BitVec.ofNat 16 p, decide (255 < p), false)
  | .pass => (x, old, false)

/-- The nets of a plot and the carry outputs of its cells, while a cycle settles. -/
structure Settling where
  nets : Table (BitVec 16)
  carry : Table Bool

/-- The value of an input net; an unconnected input is 0. -/
def netVal (nets : Table (BitVec 16)) (n : Option Nat) : BitVec 16 :=
  match n with
  | some k => Table.get 0 nets k
  | none => 0

/-- The context of a croft (R374). -/
def Plot.context (x : Plot) (nets : Table (BitVec 16)) (croft : Nat) : Nat :=
  match Table.get (.const 0) x.image.ctx croft with
  | .const v => v.toNat
  | .nets a b c =>
    bn ((Table.get 0 nets a).getLsbD 0) + 2 * bn ((Table.get 0 nets b).getLsbD 0) + 4 * bn ((Table.get 0 nets c).getLsbD 0)

/-- The cell whose carry output feeds a cell (R375): the one before it in its croft, or cell 15 of the croft to the north in the
same column. -/
def carrySource (num : Nat) : Option Nat :=
  if num % 16 ≠ 0 then some (num - 1)
  else if num / 16 % 128 = 0 then none else some (num - 1)

/-- An operand of an entry. -/
def CellSel.val (o : CellSel) (a b h0 h1 : BitVec 16) : BitVec 16 :=
  match o with
  | .a => a
  | .b => b
  | .h0 => h0
  | .h1 => h1
  | .const v => v

/-- The entry a cell executes in a cycle (R374). -/
def Plot.entry (x : Plot) (z : Settling) (c : CellCfg) : Option CellEntry :=
  c.entries[if c.fixed then 0 else x.context z.nets (c.num / 16)]?

/-- The result, flag and carry of a cell on the nets as they stand. -/
def Plot.cellResult (x : Plot) (z : Settling) (c : CellCfg) (e : CellEntry) : BitVec 16 × Bool × Bool :=
  let r := Table.get {} x.regs c.num
  let a := netVal z.nets c.inA
  let b := netVal z.nets c.inB
  let cin := match carrySource c.num with
    | some k => Table.get false z.carry k
    | none => false
  e.op.eval (e.x.val a b r.h0 r.h1) (e.y.val a b r.h0 r.h1) cin ((netVal z.nets c.inF).getLsbD 0) r.flag

/-- A cell drives its output and flag nets (R373, R376). -/
def Plot.drive (x : Plot) (z : Settling) (c : CellCfg) : Settling :=
  match x.entry z c with
  | none => z
  | some e =>
    let (v, f, cy) := x.cellResult z c e
    let r := Table.get {} x.regs c.num
    let out := match e.out with
      | .result => v
      | .h0 => r.h0
      | .h1 => r.h1
    { nets := Table.put 0 (Table.put 0 z.nets c.outNet out) c.flagNet (BitVec.ofNat 16 (bn f))
      carry := Table.put false z.carry c.num cy }

/-- User resets stay asserted until they are released (R390). -/
def Plot.holdResets (x : Plot) (z : Settling) : Settling :=
  if x.resetsOn then { z with nets := x.image.resets.foldl (fun t n => Table.put 0 t n 1) z.nets } else z

/-- The combinational logic settles: as many passes over the cells as there are cells (R373). -/
def Plot.settle (x : Plot) (z : Settling) : Nat → Settling
  | 0 => z
  | n + 1 => x.settle (x.holdResets (x.image.cells.foldl (fun z c => x.drive z c) z)) n

/-- At the end of the cycle a cell's hold registers take the result where its entry writes them (R373). -/
def Plot.latch (x : Plot) (z : Settling) (t : Table CellRegs) (c : CellCfg) : Table CellRegs :=
  match x.entry z c with
  | none => t
  | some e =>
    let (v, f, _) := x.cellResult z c e
    let r := Table.get {} x.regs c.num
    Table.put {} t c.num { h0 := if e.wr0 && x.writesOn then v else r.h0
                           h1 := if e.wr1 && x.writesOn then v else r.h1, flag := f }

/-- A plot's hedges are closed: states 0, 1, 2, 5 and 6 (R385, R393). -/
def PlotState.closed : PlotState → Bool
  | .releasing => false
  | .live => false
  | .idle => false
  | _ => true

/-- What a hedge carries into a plot (R391, R393). -/
def State.hedgeVal (s : State) (x : Plot) (net : Nat) (h : Hedge) : BitVec 16 :=
  if (s.plot h.plot).state.closed then
    if h.clockEn then 0
    else
      match h.declared with
      | .zero => 0
      | .one => 0xFFFF
      | .hold => Table.get 0 x.hold net
  else Table.get 0 (s.plot h.plot).nets h.net

/-- The values that the hedges carry into a plot this cycle. -/
def State.hedgeIn (s : State) (x : Plot) : List (Nat × BitVec 16) :=
  x.image.hedges.map (fun h => (h.1, s.hedgeVal x h.1 h.2))

/-! ## User ports of block memories (R377 to R381) -/

/-- Word width of an aspect (12 Table 3). -/
def aspectWidth (a : BitVec 2) : Nat := 72 / 2 ^ a.toNat

/-- A word of a block memory as a user port reads it, and whether it is uncorrectable (R377, R381). -/
def State.userRead (s : State) (p b w : Nat) (asp : BitVec 2) : BitVec 72 × Bool × State :=
  let bit := w * aspectWidth asp
  let c := bramCell p b (bit / 72 * 9)
  let v := BitVec.ofNat 72 (leNat (s.bytes c 9) / 2 ^ (bit % 72) % 2 ^ aspectWidth asp)
  if s.badIn c 9 then (v, true, s.badRead c) else (v, false, s.countSoft c 9)

/-- A user port writes a word: a narrower one merges into its 72-bit word, and leaves one that is uncorrectable (R381, R566). -/
def State.userWrite (s : State) (p b w : Nat) (asp : BitVec 2) (v : Nat) : State :=
  let n := 2 ^ aspectWidth asp
  let bit := w * aspectWidth asp
  let c := bramCell p b (bit / 72 * 9)
  if aspectWidth asp < 72 ∧ s.badIn c 9 then s.badRead c
  else
    let old := leNat (s.bytes c 9)
    let sh := 2 ^ (bit % 72)
    s.setBytes c (toLe 9 (old - old / sh % n * sh + v % n * sh))

/-- Words of sixteen bits that nets carry, as one number, and back. -/
def netsVal (nets : Table (BitVec 16)) (l : List Nat) : Nat := l.foldr (fun k n => (Table.get 0 nets k).toNat + 65536 * n) 0

/-- Drive a value on nets, sixteen bits each. -/
def driveNets (nets : Table (BitVec 16)) : List Nat → Nat → Table (BitVec 16)
  | [], _ => nets
  | k :: t, v => driveNets (Table.put 0 nets k (BitVec.ofNat 16 v)) t (v / 65536)

/-- The word that a user port addresses. -/
def BramPort.word (pt : BramPort) (m : Bram) (nets : Table (BitVec 16)) : Nat :=
  (Table.get 0 nets pt.addr).toNat % (36864 / aspectWidth m.aspect)

/-- A user port serves user logic: port A always, port B where it is no external port (R378). -/
def BramPort.serves (pt : BramPort) (m : Bram) : Bool := decide (pt.mem < 192) && (!pt.portB || m.portBUser)

/-- A user port delivers in the next cycle the word that it addresses, or with the output register the word of the cycle before
(R379, R381). -/
def State.portRead (s : State) (p : Nat) (nets : Table (BitVec 16)) (out : Table (BitVec 16)) (pt : BramPort) : Table (BitVec 16) × State :=
  let m := Table.get {} (s.plot p).brams pt.mem
  if !pt.serves m then (out, s)
  else
    let (v, bad, s) := s.userRead p pt.mem (pt.word m nets) m.aspect
    let (d, e) := if pt.outReg then (if pt.portB then m.nextB else m.nextA) else (v, bad)
    let m := if pt.portB then { m with portB := d, err := e, nextB := (v, bad) } else { m with portA := d, err := e, nextA := (v, bad) }
    let out := driveNets out pt.dout d.toNat
    (match pt.err with
     | some n => Table.put 0 out n (BitVec.ofNat 16 (bn e))
     | none => out,
     s.modPlot p (fun x => { x with brams := Table.put {} x.brams pt.mem m }))

/-- A user port whose write enable is set writes. -/
def State.portWrite (s : State) (p : Nat) (nets : Table (BitVec 16)) (pt : BramPort) : State :=
  let m := Table.get {} (s.plot p).brams pt.mem
  if pt.serves m && pt.we.any (fun n => (Table.get 0 nets n).getLsbD 0) then
    s.userWrite p pt.mem (pt.word m nets) m.aspect (netsVal nets pt.din)
  else s

/-- The reads of a plot's user ports, on the nets as they settled. -/
def State.portReads (s : State) (p : Nat) (nets : Table (BitVec 16)) : Table (BitVec 16) → List BramPort → Table (BitVec 16) × State
  | out, [] => (out, s)
  | out, pt :: t =>
    let (out, s) := s.portRead p nets out pt
    s.portReads p nets out t

/-- One cycle of a plot's user ports: every read takes the word as it was before the writes, and port A's write stands (R380). -/
def State.bramCycle (s : State) (p : Nat) : State :=
  let x := s.plot p
  let (out, s) := s.portReads p x.nets x.nets x.image.ports
  let s := if x.writesOn then
      (x.image.ports.filter (·.portB) ++ x.image.ports.filter (fun pt => !pt.portB)).foldl (fun s pt => s.portWrite p x.nets pt) s
    else s
  s.modPlot p (fun x => { x with nets := out })

/-- The registers of a plot take what its settled logic gives them, and its hedges note what they carried. -/
def State.latchPlot (s : State) (p : Nat) : State :=
  let x := s.plot p
  let ins := s.hedgeIn x
  let nets := ins.foldl (fun t e => Table.put 0 t e.1 e.2) x.nets
  let z := x.settle (x.holdResets { nets := nets, carry := [] }) x.image.cells.length
  let regs := x.image.cells.foldl (fun t c => x.latch z t c) x.regs
  let hold := ins.foldl (fun t e => Table.put 0 t e.1 e.2) x.hold
  s.modPlot p (fun x => { x with nets := z.nets, regs := regs, hold := hold })

/-- One fabric cycle of a plot whose clock runs: the hedges' values come in, the logic settles, the registers latch, and the user ports of
its block memories read and write. -/
def State.plotCycle (s : State) (p : Nat) : State :=
  if (s.plot p).state ≠ .live ∧ (s.plot p).state ≠ .releasing then s else (s.latchPlot p).bramCycle p

/-- One fabric cycle of a die. -/
def State.fabricCycle (s : State) (d : Die) : State :=
  ((List.range 16).map (fun i => d.num * 16 + i)).foldl (fun s p => s.plotCycle p) s

/-- n of a die's FABRIC domain (R371). -/
def State.fabN (s : State) (d : Die) : Nat :=
  match d with
  | .w => s.fab.clkW.toNat
  | .e => s.fab.clkE.toNat

/-- The arithmetic cycles that `k` fabric cycles last, rounded up: a fabric cycle is 8/n arithmetic cycles (R155, R371). -/
def State.fabCycles (s : State) (d : Die) (k : Nat) : Nat := (8 * k + s.fabN d - 1) / s.fabN d

/-- The fabric cycles that have begun by cycle `c` of a tick (R29, R155). -/
def State.fabCount (s : State) (d : Die) (c : Nat) : Nat := c * s.fabN d / 8

/-- The arithmetic cycles to the end of the fabric cycle that runs, none where the domain has no clock. -/
def State.nextFab (s : State) (d : Die) : Nat :=
  if s.fabN d = 0 then 0 else (8 * (s.fabCount d s.clock.cyc + 1) + s.fabN d - 1) / s.fabN d - s.clock.cyc

/-- The FABRIC domains run through one arithmetic cycle (R29, R155). -/
def State.fabricStep (s : State) : State :=
  [Die.w, Die.e].foldl (fun s d =>
    if s.fabCount d s.clock.cyc < s.fabCount d (s.clock.cyc + 1) then s.fabricCycle d else s) s

/-- A plot's logic runs. -/
def State.fabricRuns (s : State) : Bool :=
  s.fab.plots.any (fun e => (decide (e.2.state = .live) || decide (e.2.state = .releasing)) &&
    !(e.2.image.cells.isEmpty && e.2.image.hedges.isEmpty && e.2.image.ports.isEmpty))

/-- The hold registers take their configured initial values (R390, R394). -/
def Plot.initRegs (x : Plot) : Plot :=
  { x with regs := x.image.cells.foldl (fun t c => Table.put {} t c.num { h0 := c.init0, h1 := c.init1 }) []
           nets := [], brams := x.image.brams }

end Sys2Proof.Machine
end

