-- ==== Sys2Proof/Machine/Routers.lean ====
section
/-! DEFINITION. Torus routers (chapter 07): headers, routes, booked slots, arbitration and virtual channels. -/

namespace Sys2Proof.Machine

open Sys2Proof

/-! ## Headers and nodes (R241) -/

/-- A packet header's fields. -/
structure PktHdr where
  prio : Nat
  vc : Bool
  flits : Nat
  kind : Nat
  dst : Nat
  src : Nat
  pepoch : Nat
  gmask : Nat
  addr : Nat
  tag : Nat
  age : Nat
  deriving DecidableEq, Repr

/-- Read a 16-byte header. -/
def pktHdr (h : List Byte) : PktHdr :=
  let c := leAt h 0 1
  { prio := c % 4, vc := bitOf c 2, flits := field c 3 3, kind := leAt h 1 1, dst := leAt h 2 2, src := leAt h 4 2,
    pepoch := leAt h 6 1, gmask := leAt h 7 1, addr := leAt h 8 5, tag := leAt h 13 1, age := leAt h 14 2 }

/-- Write a 16-byte header. -/
def PktHdr.bytes (p : PktHdr) : List Byte :=
  toLe 1 (p.prio + 4 * bn p.vc + 8 * p.flits) ++ toLe 1 p.kind ++ toLe 2 p.dst ++ toLe 2 p.src ++ toLe 1 p.pepoch ++
    toLe 1 p.gmask ++ toLe 5 p.addr ++ toLe 1 p.tag ++ toLe 2 p.age

/-- Column of a node field. -/
def nodeX (n : Nat) : Nat := field n 0 5
/-- Row of a node field. -/
def nodeY (n : Nat) : Nat := field n 5 5
/-- Die of a node field. -/
def nodeDie (n : Nat) : Die := if bitOf n 10 then .e else .w
/-- Endpoint of a node field. -/
def nodeEnd (n : Nat) : Nat := field n 11 3
/-- The mill of a node field. -/
def nodeMill (n : Nat) : Nat := (nodeDie n).num * 576 + nodeY n * 24 + nodeX n
/-- The node field of a mill's endpoint. -/
def millNode (m e : Nat) : Nat := millCol m + 32 * millRow m + 1024 * (millDie m).num + 2048 * e

/-- Present rows of a die (R233). -/
def State.rows (s : State) : Nat := if s.ident.grade2 then 20 else 24

/-- A header a router takes: kind and endpoints assigned, reserved bits zero, at most four flits (R242). -/
def State.hdrOk (s : State) (h : List Byte) : Bool :=
  let p := pktHdr h
  decide (leAt h 0 1 < 64) && decide (p.flits ≤ 4) && decide (p.kind ≤ 6) && decide (nodeEnd p.dst ≠ 7) && decide (nodeEnd p.src ≠ 7) &&
    decide (p.dst < 2 ^ 14) && decide (p.src < 2 ^ 14) && decide (nodeX p.dst < 24) && decide (nodeY p.dst < s.rows) &&
    (decide (p.kind ≠ 1 ∧ p.kind ≠ 2 ∧ p.kind ≠ 6) || decide (p.pepoch = 0)) && (decide (p.kind = 0) || decide (p.gmask = 0))

/-! ## Routes (R236 to R238). Ports: 0 north, 1 south, 2 east, 3 west, 4 local, 5 flex site, 6 anchor or seam, 7 fabric tap -/

/-- The direction on a ring of `n` from `a` to `b`: true forward (east, south); ties go forward. -/
def ringForward (n a b : Nat) : Bool := decide ((b + n - a) % n ≤ n - (b + n - a) % n)

/-- The column and row of the router that carries a node: a flex-site port or a tap stands at its column's end, an anchor port at the
anchor's edge of its row (R21, R22, R238). -/
def State.nodeAt (s : State) (n : Nat) : Nat × Nat :=
  match nodeEnd n with
  | 2 => (nodeX n, 0)
  | 3 => (nodeX n, s.rows - 1)
  | 4 => (if nodeDie n = .w then 0 else 23, nodeY n)
  | 5 => (nodeX n, if nodeY n = 0 then 0 else s.rows - 1)
  | _ => (nodeX n, nodeY n)

/-- The output port at router (d, x, y) for a destination node. -/
def State.routeOut (s : State) (d : Die) (x y dst : Nat) : Nat :=
  let far := decide (nodeDie dst ≠ d)
  let (dx, dy) := s.nodeAt dst
  let tx := if far then (if d = .w then 23 else 0) else dx
  if x ≠ tx then (if ringForward 24 x tx then 2 else 3)
  else if far then 6
  else if y ≠ dy then (if ringForward s.rows y dy then 1 else 0)
  else
    match nodeEnd dst with
    | 2 => 5
    | 3 => 5
    | 5 => 7
    | 4 => 6
    | _ => 4

/-- A router carries an input port: flex-site port and tap at the ends of a column, anchor and seam at the edge columns (R233). -/
def State.hasPort (s : State) (x y inp : Nat) : Bool :=
  match inp with
  | 5 => decide (y = 0) || decide (y + 1 = s.rows)
  | 7 => decide (y = 0) || decide (y + 1 = s.rows)
  | 6 => decide (x = 0) || decide (x = 23)
  | _ => true

/-- The flit lanes of an output: two on Y links, the local port and the flex-site port (R234). -/
def outLanes (out : Nat) : Nat := if out ≤ 1 ∨ out = 4 ∨ out = 5 then 2 else 1

/-- The payload flits of a packet: a read request has none, and its count says how many it asks for (log 177). -/
def PktHdr.payload (p : PktHdr) : Nat := if p.kind = 1 then 0 else p.flits

/-- The flits of a packet on a link or in a buffer: a header alone takes the place of one (log 177). -/
def PktHdr.size (p : PktHdr) : Nat := max 1 p.payload

/-- A packet takes both lanes of an output: of two lanes, when it has more than one flit (R240). -/
def wide (out : Nat) (p : PktHdr) : Bool := decide (outLanes out = 2) && decide (1 < p.size)

/-- The cycles for which a packet holds an output (R234, R244). -/
def holdCycles (out : Nat) (p : PktHdr) : Nat := if wide out p then (p.size + 1) / 2 else p.size

/-- The router at the far end of an output, with its input port there: a neighbour, or over the seam. -/
def State.nextRouter (s : State) (d : Die) (x y out : Nat) : Option (Die × Nat × Nat × Nat) :=
  match out with
  | 0 => some (d, x, (y + s.rows - 1) % s.rows, 1)
  | 1 => some (d, x, (y + 1) % s.rows, 0)
  | 2 => some (d, (x + 1) % 24, y, 3)
  | 3 => some (d, (x + 23) % 24, y, 2)
  | 6 =>
    match d, x with
    | .w, 23 => some (.e, 0, y, 6)
    | .e, 0 => some (.w, 23, y, 6)
    | _, _ => none
  | _ => none

/-- The virtual channel on which a packet leaves (R247): VC1 from the dateline of its ring on, VC0 on a new ring. -/
def vcOut (rows x y inp out : Nat) (vc : Bool) : Bool :=
  let xIn := decide (inp = 2 ∨ inp = 3)
  let yIn := decide (inp = 0 ∨ inp = 1)
  match out with
  | 2 => (xIn && vc) || decide (x = 23)
  | 3 => (xIn && vc) || decide (x = 0)
  | 1 => (yIn && vc) || decide (y + 1 = rows)
  | 0 => (yIn && vc) || decide (y = 0)
  | _ => false

/-- The row at which a packet from an anchor port enters (R238): the destination's own row for a destination on its own die other
than an edge port, else the route table's row for the pair of ports, else the output port modulo the present rows. -/
def State.anchorRow (s : State) (d : Die) (inPort outPort dst : Nat) : Nat :=
  if nodeDie dst = d ∧ (nodeEnd dst ≤ 1 ∨ nodeEnd dst = 6) then nodeY dst
  else
    match s.routes.rows.find? (fun r => decide (r.1 = inPort * 32 + outPort)) with
    | some (_, r) => r
    | none => outPort % s.rows

/-! ## Routers -/

/-- The key of a router. -/
def routerKey (d : Die) (x y : Nat) : Nat := d.num * 1024 + y * 32 + x

/-- A router. -/
def State.router (s : State) (k : Nat) : Router := Table.get {} s.routers k

/-- Replace a router. -/
def State.setRouter (s : State) (k : Nat) (r : Router) : State := { s with routers := Table.put {} s.routers k r }

/-- The P3 slot booked on a flit lane of a router output `i` cycles from now: its input port and its group (R249). Slots of seated,
restoring, running and halted groups stand (R190, R199, R213). -/
def State.p3At (s : State) (d : Die) (x y out lane i : Nat) : Option (Nat × Nat) :=
  let t := s.clock.tick.toNat + (s.clock.cyc + i) / 1248
  let c := (s.clock.cyc + i) % 1248
  s.groups.findSome? (fun g =>
    if !g.2.state.held then none
    else
      match g.2.almanac with
      | none => none
      | some a =>
        a.bookings.findSome? (fun b =>
          match b.act with
          | .slot d' x' y' o l inp =>
            if d' = d ∧ x'.toNat = x ∧ y'.toNat = y ∧ o.toNat = out ∧ l.toNat = lane ∧ b.cycle = c ∧ g.2.bookedAt b t then
              some (inp.toNat, g.1)
            else none
          | _ => none))

/-- The P3 slot booked for an input in this cycle on some output of a router: its group. -/
def State.p3Into (s : State) (d : Die) (x y inp : Nat) : Option Nat :=
  (List.range 16).findSome? (fun o => (s.p3At d x y (o / 2) (o % 2) 0).bind (fun q => if q.1 = inp then some q.2 else none))

/-- The plot of a tap (R370). -/
def tapPlot (d : Die) (t : Nat) : Nat := d.num * 16 + t / 3

/-- The group of an actor's node: that of its mill, or of its tap's plot. -/
def State.nodeGroup (s : State) (n : Nat) : Option Nat :=
  match nodeEnd n with
  | 5 =>
    let x := s.plot (tapPlot (nodeDie n) (if nodeY n = 0 then nodeX n else 24 + nodeX n))
    if x.tilled then some x.gslot.toNat else none
  | 2 => none
  | 3 => none
  | 4 => none
  | _ => (s.mill (nodeMill n)).gslot

/-- The group of a P3 packet: that of its source, or of its destination where an edge port sent it. -/
def State.packetGroup (s : State) (p : PktHdr) : Option Nat := (s.nodeGroup p.src).orElse (fun _ => s.nodeGroup p.dst)

/-- The age of a waiting packet (R246). -/
def Waiting.age (w : Waiting) (mc : Nat) : Nat := (mc + 65536 - (pktHdr w.hdr).age) % 65536

/-- The tie order of input ports (R246): north, south, east, west, local, edge. -/
def Waiting.before (w v : Waiting) (mc : Nat) : Bool :=
  let a := w.age mc
  let b := v.age mc
  let sw := (pktHdr w.hdr).src
  let sv := (pktHdr v.hdr).src
  decide (b < a) || (decide (a = b) && (decide (sw < sv) || (decide (sw = sv) && decide (w.inp < v.inp))))

/-- The priority of a waiting packet. -/
def Waiting.prio (w : Waiting) : Nat := (pktHdr w.hdr).prio

/-- The oldest of some packets (R246). -/
def oldest (mc : Nat) : List Waiting → Option Waiting
  | [] => none
  | w :: t => some (t.foldl (fun b v => if v.before b mc then v else b) w)

/-- The packet that wins an output (R244, R245): P0 when it is forced, else the oldest of the highest priority. -/
def winner (mc : Nat) (forced : Bool) (ws : List Waiting) : Option Waiting :=
  if forced && ws.any (fun w => decide (w.prio = 0)) then oldest mc (ws.filter (fun w => decide (w.prio = 0)))
  else oldest mc (ws.filter (fun w => ws.all (fun v => decide (v.prio ≤ w.prio))))

/-- The die, column and row of a router's key. -/
def keyDie (k : Nat) : Die := if k < 1024 then .w else .e

/-- The virtual channel on which a packet leaves a router. -/
def State.leaveVc (s : State) (k : Nat) (w : Waiting) : Bool := vcOut s.rows (k % 32) (k / 32 % 32) w.inp w.out w.vc

/-- The buffer of a neighbour that a packet needs (R248). -/
def bufferKey (out prio : Nat) (vc : Bool) : Nat := out * 16 + prio * 2 + bn vc

/-- The next router has a credit for a packet: none is asked of P3, nor where the output leaves the torus (R248). -/
def State.hasCredit (s : State) (k : Nat) (w : Waiting) : Bool :=
  decide (w.prio = 3) || (s.nextRouter (keyDie k) (k % 32) (k / 32 % 32) w.out).isNone ||
    decide (Table.get 0 (s.router k).used (bufferKey w.out w.prio (s.leaveVc k w)) + (pktHdr w.hdr).size ≤ 8)

/-- The flits of one input's buffer that are taken (R248). -/
def Router.held (r : Router) (inp prio : Nat) (vc : Bool) : Nat :=
  ((r.queue.filter (fun w => decide (w.inp = inp) && decide (w.prio = prio) && (w.vc == vc))).map (fun w => (pktHdr w.hdr).size)).sum

/-- A packet leaves an input's buffer: its credit is with the router before it two cycles on (R248). -/
def State.giveCredit (s : State) (k : Nat) (w : Waiting) : State :=
  match s.nextRouter (keyDie k) (k % 32) (k / 32 % 32) w.inp with
  | some (d, x, y, out) =>
    if w.prio = 3 then s
    else
      let u := routerKey d x y
      let r := s.router u
      s.setRouter u { r with returns := r.returns ++ [(s.clock.now + 2, bufferKey out w.prio w.vc, (pktHdr w.hdr).size)] }
  | none => s

/-- Credits that have come back by now count again. -/
def Router.credit (r : Router) (now : Nat) : Router :=
  { r with used := (r.returns.filter (fun c => decide (c.1 ≤ now))).foldl (fun u c => Table.put 0 u c.2.1 (Table.get 0 u c.2.1 - c.2.2)) r.used
           returns := r.returns.filter (fun c => decide (now < c.1)) }

/-- Grant a lane of an output, or both, to a packet: it leaves, holding them for its flits, takes its place in the next router and
gives its own back (R244, R248). On an X link it arrives a cycle on (R251). -/
def State.grant (s : State) (k lane : Nat) (w : Waiting) : State :=
  let r := s.router k
  let p := pktHdr w.hdr
  let vc := s.leaveVc k w
  let key := bufferKey w.out p.prio vc
  let free := s.clock.now + holdCycles w.out p
  let held := Table.put 0 r.freeAt (w.out * 2 + lane) free
  let s := s.setRouter k { r with
    queue := r.queue.erase w
    freeAt := if wide w.out p then Table.put 0 held (w.out * 2 + 1 - lane) free else held
    used := if p.prio = 3 ∨ (s.nextRouter (keyDie k) (k % 32) (k / 32 % 32) w.out).isNone then r.used
      else Table.put 0 r.used key (Table.get 0 r.used key + p.size) }
  (s.giveCredit k w).send
    { kind := .torusPacket, unit := k, addr := w.out, data := { p with vc := vc }.bytes ++ w.data
      cycle := s.clock.now + (if w.out = 2 ∨ w.out = 3 then 1 else 0), lost := w.lost }

/-- No cycle for which a packet would hold its lanes is a P3 slot (R244, R250). -/
def State.clearOf (s : State) (k lane : Nat) (w : Waiting) : Bool :=
  let p := pktHdr w.hdr
  (List.range (holdCycles w.out p)).all (fun i =>
    (s.p3At (keyDie k) (k % 32) (k / 32 % 32) w.out lane i).isNone &&
      (!wide w.out p || (s.p3At (keyDie k) (k % 32) (k / 32 % 32) w.out (1 - lane) i).isNone))

/-- The packets that have reached an output (R251). -/
def State.reached (s : State) (k out : Nat) : List Waiting :=
  (s.router k).queue.filter (fun w => decide (w.out = out) && decide (w.ready ≤ s.clock.now))

/-- R245 forces P0 at an output. -/
def State.p0Forced (s : State) (k out : Nat) : Bool := decide (63 ≤ Table.get 0 (s.router k).counts out)

/-- One lane of an output makes its grant of the cycle (R244, R245, R249). A winner that must wait for a P3 slot or for the other
lane is not overtaken (log 177). -/
def State.serveLane (s : State) (k out lane : Nat) : State :=
  let t := s.clock.now
  let free := fun l => decide (Table.get 0 (s.router k).freeAt (out * 2 + l) ≤ t)
  let mc := (s.millCycle t).toNat
  let ws := s.reached k out
  if !free lane then s
  else
    match s.p3At (keyDie k) (k % 32) (k / 32 % 32) out lane 0 with
    | some (inp, _) =>
      (match oldest mc (ws.filter (fun w => decide (w.inp = inp) && decide (w.prio = 3))) with
       | some w => s.grant k lane w
       | none => s)
    | none =>
      match winner mc (s.p0Forced k out) (ws.filter (fun w => s.hasCredit k w)) with
      | none => s
      | some w => if s.clearOf k lane w && (!wide out (pktHdr w.hdr) || free (1 - lane)) then s.grant k lane w else s

/-- The P0 count of an output after the cycle's grants: a P0 grant clears it, and a P2 or P1 grant while P0 waits adds one (R245). -/
def State.countP0 (s : State) (k out : Nat) (before : List Waiting) (forced : Bool) : State :=
  let after := s.reached k out
  let n := fun (ws : List Waiting) (f : Nat → Bool) => (ws.filter (fun w => f w.prio)).length
  let zero := fun p => decide (p = 0)
  let common := fun p => decide (p = 1) || decide (p = 2)
  let r := s.router k
  if n after zero < n before zero then
    let s := s.setRouter k { r with counts := Table.put 0 r.counts out 0 }
    if forced then s.tally_ .torP0Force (keyDie k) 0 1 else s
  else if 0 < n after zero ∧ n after common < n before common then
    s.setRouter k { r with counts := Table.put 0 r.counts out (Table.get 0 r.counts out + 1) }
  else s

/-- An output makes the grants of the cycle now reached (R244). -/
def State.serveOut (s : State) (k out : Nat) : State :=
  let before := s.reached k out
  if before.isEmpty then s
  else
    let forced := s.p0Forced k out
    let s' := s.serveLane k out 0
    (if outLanes out = 2 then s'.serveLane k out 1 else s').countP0 k out before forced

/-- A router's credits come back and its outputs make their grants. -/
def State.serveRouter (s : State) (k : Nat) : State :=
  let s := s.setRouter k ((s.router k).credit s.clock.now)
  (List.range 8).foldl (fun s out => s.serveOut k out) s

/-- Every router, in the cycle now reached (R244). -/
def State.drainRouters (s : State) : State := s.routers.foldl (fun s e => s.serveRouter e.1) s

/-- Some router holds a packet, or a credit is on its way. -/
def State.routersWait (s : State) : Bool := s.routers.any (fun e => !e.2.queue.isEmpty || !e.2.returns.isEmpty)

/-! ## Packets that the device's own actors inject (R22, R238, R241, R243, R261) -/

/-- The column end by which a granary serves an access, and the edge port's node field (R21, R319). -/
def State.granaryNode (s : State) (site off : Nat) : Nat :=
  let x := 8 * (site % 3) + (s.granary site).pcOf off / 8
  let north := decide (site % 6 < 3)
  x + 32 * (if north then 0 else s.rows - 1) + 1024 * (if site < 6 then 0 else 1) + 2048 * (if north then 2 else 3)

/-- The I/O die of a field port: AW 0, AE 1, and link die k 2 + k (R11, R22). -/
def portIo (p : Nat) : Nat := if p < 4 then 0 else if p < 8 then 1 else 2 + (p - 8) / 6

/-- The node field of a field port's edge port, on a row for an anchor's (R1, R21, R22). Port j of a link die uses column end j of its
site (log 178). -/
def State.portNode (s : State) (p row : Nat) : Nat :=
  match portIo p with
  | 0 => 32 * row + 2048 * 4
  | 1 => 23 + 32 * row + 1024 + 2048 * 4
  | 2 => 16 + (p - 8) % 6 + 2048 * 2
  | 3 => (p - 8) % 6 + 1024 + 2048 * 2
  | 4 => 16 + (p - 8) % 6 + 32 * (s.rows - 1) + 2048 * 3
  | _ => (p - 8) % 6 + 32 * (s.rows - 1) + 1024 + 2048 * 3

/-- Bytes go into the torus at a node in packets of up to four flits: each is handed to the router at the node's input port. -/
def State.inject (s : State) (inp : Nat) (h : PktHdr) (n : Nat) (b : List Byte) : State :=
  (List.range ((n + 511) / 512)).foldl (fun s i =>
    let len := min 512 (n - 512 * i)
    let (x, y) := s.nodeAt h.src
    let p : PktHdr := { h with
      flits := (len + 127) / 128, addr := h.addr + 512 * i, gmask := if h.kind = 0 then 2 ^ ((len + 63) / 64) - 1 else 0
      age := (s.millCycle s.clock.now).toNat % 65536 }
    let data := if h.kind = 1 then [] else padTo (128 * p.flits) ((b.drop (512 * i)).take len)
    s.send { kind := .injected, unit := routerKey (nodeDie h.src) x y, addr := inp, data := p.bytes ++ data
             cycle := s.clock.now }) s

/-- Where a carter's access goes on the torus: a node and an address there. Host memory is reached by the anchor port of the mill's
own row, a block memory by its plot's first tap (log 178). An access in the carter's own mill, or one that is not made, goes
nowhere. -/
def State.accNode (s : State) (m a : Nat) (acc : Acc) : Option (Nat × Nat) :=
  match acc, field a 44 4 with
  | .wait, _ => none
  | .fail _, _ => none
  | .cell c, 0 => some (s.granaryNode (c % 2 ^ 40 / 2 ^ 36) (c % 2 ^ 36), c % 2 ^ 40)
  | .host h, _ => some (32 * millRow m + 2048 * 4, h % 2 ^ 40)
  | .cell _, 3 =>
    let p := field a 24 5
    some (3 * (p % 16) + 1024 * (p / 16) + 2048 * 5, a % 2 ^ 24)
  | .cell _, sp => if addrMill a = m then none else some (millNode (addrMill a) (sp - 1), a % 2 ^ 20)

/-- The priority of a response of a port of router (x, y) to a packet's group: P3 in a slot booked for the port while the group runs,
else P2 (R243). -/
def State.answerPrio (s : State) (d : Die) (x y inp : Nat) (g : Option Nat) : Nat :=
  match s.p3Into d x y inp with
  | some b => if g = some b ∧ (s.group b).state = .running then 3 else 2
  | none => 2

/-- The priority of a stream's packets: P3 in a booked slot of the mill's running tilled group, else P0 for a stream marked background
and P1 for another (R243, R261). -/
def State.streamPrio (s : State) (m : Nat) (bg : Bool) : Nat :=
  match s.p3Into (millDie m) (millCol m) (millRow m) 4 with
  | some g => if (s.mill m).gslot = some g ∧ (s.group g).state = .running then 3 else if bg then 0 else 1
  | none => if bg then 0 else 1

/-- A parcel crosses the compute dies between ports of different I/O dies, at the row of the route table (R22, R224, R238). -/
def State.crossDies (s : State) (p out : Nat) (booked : Bool) (b : List Byte) : State :=
  if portIo p = portIo out then s
  else
    let d := if nodeDie (s.portNode p 0) = .w then Die.w else .e
    let row := s.anchorRow d p out (s.portNode out 0)
    s.inject (if portIo p < 2 then 6 else 5)
      { prio := if booked then 3 else 1, vc := false, flits := 0, kind := 5, dst := s.portNode out row, src := s.portNode p row
        pepoch := 0, gmask := 0, addr := 0, tag := 6, age := 0 } b.length b

end Sys2Proof.Machine
end

