-- ==== Sys2Proof/Machine/Clocks.lean ====
section
/-! DEFINITION. What the clock itself does (chapter 05): the domains, crossings of fixed latency, and the bell at a tick. -/

namespace Sys2Proof.Machine

open Sys2Proof

/-! ## Domains (R155, R156, R159) -/

/-- The cycles of a lane's transmit domain per tick, by the code of the rate of its port. -/
def laneCycles : Nat → Nat
  | 0 => 240
  | 1 => 960
  | 2 => 2400
  | 3 => 4800
  | _ => 6144

/-- The cycles per tick of a domain (05 Table 1); the debug clock has none. -/
def State.perTick (s : State) : Domain → Option Nat
  | .arith _ => some 1248
  | .fabric d => some (156 * s.fabN d)
  | .ctrl _ => some 960
  | .seam => some 2496
  | .granary _ => some 1536
  | .hbmCmd => some 1536
  | .reeve _ => some 768
  | .sexton => some 384
  | .awCore => some 960
  | .aeCore => some 960
  | .linkDie => some 960
  | .laneTx p => some (laneCycles (s.port p).rate)
  | .laneRx p => some (laneCycles (s.port p).rate)
  | .hostPort => some 768
  | .security => some 960
  | .bell => some 1248
  | .alwaysOn => some 96
  | .pwr => some 192
  | .debug => none
  | .trace => some 1248

/-- The cycle within the tick that the islands of a domain count (R159). -/
def State.domainCycle (s : State) (x : Domain) : Option Nat := (s.perTick x).map (fun n => s.clock.cyc * n / 1248)

/-! ## The bell's parts -/

/-- Change the bell. -/
def State.modBell (s : State) (f : Bell → Bell) : State := { s with bell := f s.bell }

/-- What the bell keeps of a port. -/
def Bell.port (b : Bell) (p : Nat) : BellPort := Table.get {} b.ports p

/-- Change what the bell keeps of a port. -/
def State.modBellPort (s : State) (p : Nat) (f : BellPort → BellPort) : State :=
  s.modBell (fun b => { b with ports := Table.upd {} b.ports p f })

/-- The code of a bell state (05 Table 5). -/
def BellState.code : BellState → Nat
  | .standalone => 0
  | .calibrating => 1
  | .locked => 2
  | .holdover => 3
  | .source => 4

/-! ## Crossings (R160 to R165) -/

/-- A crossing runs in fixed-latency mode: of types X1 to X6, where a tilled path marks it (R162). -/
def Crossing.isFixed (x : Crossing) : Bool := x.fixed && decide (1 ≤ x.typ) && decide (x.typ ≤ 6)

/-- The delay of a crossing: CROSS_DELAY, and the cycle that the echo measurement has added to a port's transmit crossing (R174). -/
def State.crossDelay (s : State) (x : Crossing) : Nat :=
  match x.typ, x.dst with
  | 5, .laneTx p => x.delay + bn (s.bell.port p).txadj
  | _, _ => x.delay

/-- The release of an item sent in source cycle `c` of this tick (R164): its destination cycle, and the cycle of the model that this
is, in this tick or the next. -/
def State.releaseAt (s : State) (x : Crossing) (c : Nat) : Option (Nat × Nat) :=
  match s.perTick x.src, s.perTick x.dst with
  | some ns, some nd =>
    if ns = 0 ∨ nd = 0 then none
    else
      let r := (if ns = nd then c else (c * nd + ns - 1) / ns) + s.crossDelay x
      let (r, start) := if nd ≤ r then (r - nd, s.clock.now + 1248 - s.clock.cyc) else (r, s.clock.now - s.clock.cyc)
      some (r, start + (r * 1248 + nd - 1) / nd)
  | _, _ => none

/-- The destination island of a crossing takes items: it is ON, and has seen a tick strobe since it woke (R160). -/
def State.islandTakes (s : State) (x : Crossing) : Bool :=
  match x.island with
  | none => true
  | some i => decide (Table.get 0 s.pwr.dom i = 0) && !s.pwr.fresh.contains i

/-- The items whose release cycle has come leave their crossings, in the order in which they came (R165). -/
def State.releaseItems (s : State) : State :=
  let due := s.bell.store.filter (fun i => decide (i.due ≤ s.clock.now))
  if due.isEmpty then s
  else
    let s := s.modBell (fun b => { b with store := b.store.filter (fun i => decide (s.clock.now < i.due)) })
    due.foldl (fun s i => s.send
      { kind := .crossItem, unit := i.xid, addr := i.release, data := i.item, cycle := s.clock.now }) s

/-! ## Bell frames (R171, R173, R174) -/

/-- The depth that a bell frame carries (R171): 0 at the source, 0xFF from a device that is not locked. -/
def Bell.sentDepth (b : Bell) : Nat :=
  match b.state with
  | .source => 0
  | .locked => b.depth.toNat
  | _ => 0xFF

/-- A bell frame's payload. -/
def bellFrame (b : Bell) (tick : BitVec 64) (kind reqSeq repSeq hold : Nat) : List Byte :=
  toLe 8 tick.toNat ++ toLe 8 (~~~ tick).toNat ++ toLe 1 kind ++ toLe 1 b.sentDepth ++ toLe 2 b.tag.toNat ++
    toLe 4 reqSeq ++ toLe 4 repSeq ++ toLe 4 hold ++ toLe 32 0

/-- The device measures echoes at this tick (R174): calibrating at every tick, otherwise locked, source and holdover every
256 ticks. -/
def Bell.asks (b : Bell) (tick : BitVec 64) : Bool :=
  match b.state with
  | .calibrating => true
  | .standalone => false
  | _ => decide (tick.toNat % 256 = 0)

/-- Launch the bell frame of a port at cycle 0 of a tick, where there is one to launch (R171, R173, R174). It goes in the bell slot, which
starts in arithmetic cycle 15 of the tick (R456). A request whose answer could
no longer give a hop latency of 65,535 cycles or less is forgotten. -/
def State.launchBell (s : State) (p : Nat) : State :=
  let b := s.bell
  let y := b.port p
  let marker := b.down.getLsbD p &&
    (decide (b.state = .locked) || decide (b.state = .holdover) || decide (b.state = .source))
  let ask := b.asks s.clock.tick
  if !s.portSlots p || !(marker || ask || y.answer.isSome) then s
  else
    let seq := b.seq
    let (rep, hold) := match y.answer with
      | some (q, t) => (q, s.clock.now - t)
      | none => (0, 0)
    let f := bellFrame b s.clock.tick (if marker then 1 else 2) (if ask then seq else 0) rep hold
    let s := s.send { kind := .bellFrame, unit := p, addr := s.clock.tick.toNat % 1024 % 3, data := f, cycle := s.clock.now + 15 }
    let s := if ask then s.modBell (fun b => { b with seq := if b.seq + 1 < 2 ^ 32 then b.seq + 1 else 1 }) else s
    let live := y.reqs.filter (fun q => decide (s.clock.now ≤ q.2 + 135168))
    s.modBellPort p (fun y => { y with answer := none, reqs := if ask then live ++ [(seq, s.clock.now)] else y.reqs })

/-! ## Ticks (R159, R167, R176, R179) -/

/-- The mill runs nothing: no invocation queued or running, no stream or move, no yoke operation or load. -/
def Mill.quiet (x : Mill) : Bool :=
  Eng.all.all (fun e => (x.eng e).idle) && x.flights.isEmpty && x.loads.isEmpty && (List.range 8).all (fun k => (x.slot k).isNone)

/-- An epoch boundary: a mill that is idle may begin an idle window (R70). -/
def State.epochMills (s : State) : State := { s with mills := s.mills.map (fun e => (e.1, { e.2 with worked := !e.2.quiet })) }

/-- The device follows an upstream bell: a follower that is locked, or has fallen into holdover (R176). -/
def Bell.follows (b : Bell) : Bool := decide (b.role = 2) && (decide (b.state = .locked) || decide (b.state = .holdover))

/-- What the bell finds at cycle 0 of a tick: a follower whose marker did not come counts it; a calibrating one counts its matches
anew, or is locked after the sixteenth (R176, R179). -/
def Bell.atTick (b : Bell) : Bell :=
  let b :=
    if b.state = .calibrating then
      if b.lockNext.isSome then
        { b with state := .locked, depth := BitVec.ofNat 8 (b.upDepth + 1), lockNext := none, jumped := none, h := none, missed := 0 }
      else if b.seen then b
      else { b with jumped := b.jumped.map (fun _ => 0) }
    else if b.follows && !b.seen then { b with missed := b.missed + 1 }
    else b
  { b with seen := false }

/-- Cycle 0 of the next tick (R159, R160, R167): an epoch boundary where it is one, and the bell frames of the tick go out. -/
def State.tickStart (s : State) : State :=
  let s := { s with clock := { s.clock with tick := s.clock.tick + 1, cyc := 0 }, pwr := { s.pwr with fresh := [] } }
  let s := if s.clock.tick.toNat % 65536 = 0 then s.epochMills else s
  let s := (s.tally_ .ticks .w 0 1).tally_ .ticks .e 0 1
  let s := if s.bell.follows && !s.bell.seen then s.tallyPort .bellMiss s.bell.upPort.toNat else s
  let s := s.modBell Bell.atTick
  s.fittedPorts.foldl (fun s p => s.launchBell p) s

/-- The clock moves on by `n` cycles of a tick (R167). -/
def Clock.pass (k : Clock) (n : Nat) : Clock := { k with now := k.now + n, cyc := k.cyc + n }

/-- A tick has 1,248 cycles (R167). -/
def State.tickOver (s : State) : State := if s.clock.cyc < 1248 then s else s.tickStart

end Sys2Proof.Machine
end

