-- ==== Sys2Proof/Machine/Numerics.lean ====
section
/-! DEFINITION. The exact arithmetic of chapters 02 and 04: decoding and rounding of the element formats, exact
sums, block scales, and the yoke's element results. -/

namespace Sys2Proof

open Sys2Proof.Machine

/-- A decoded value: ±m·2^e, an infinity, or NaN. Zero keeps its sign. -/
inductive Fv where
  | fin (neg : Bool) (m : Nat) (e : Int)
  | inf (neg : Bool)
  | nan
  deriving DecidableEq, Repr

/-- How a format ends (02 Table 1): none, one NaN code, or IEEE infinities and NaNs. -/
inductive Top where
  | plain | oneNan | ieee
  deriving DecidableEq, Repr

/-- A floating format: exponent bits, mantissa bits, bias, and its top. -/
structure Fp where
  eb : Nat
  mb : Nat
  bias : Int
  top : Top
  deriving DecidableEq, Repr

/-- FP32. -/
def fp32 : Fp := { eb := 8, mb := 23, bias := 127, top := .ieee }

/-- The floating parameters of a quern format; INT8 has none. -/
def Fmt.fp : Fmt → Option Fp
  | .e2m1 => some { eb := 2, mb := 1, bias := 1, top := .plain }
  | .e2m3 => some { eb := 2, mb := 3, bias := 1, top := .plain }
  | .e3m2 => some { eb := 3, mb := 2, bias := 3, top := .plain }
  | .e4m3 => some { eb := 4, mb := 3, bias := 7, top := .oneNan }
  | .e5m2 => some { eb := 5, mb := 2, bias := 15, top := .ieee }
  | .int8 => none
  | .bf16 => some { eb := 8, mb := 7, bias := 127, top := .ieee }
  | .fp16 => some { eb := 5, mb := 10, bias := 15, top := .ieee }

/-- The bits of an element. -/
def Fmt.bits : Fmt → Nat
  | .e2m1 => 4
  | .e2m3 => 6
  | .e3m2 => 6
  | .e4m3 => 8
  | .e5m2 => 8
  | .int8 => 8
  | .bf16 => 16
  | .fp16 => 16

/-- Rate classes (R39). -/
def Fmt.rate : Fmt → Nat
  | .e2m1 => 0
  | .e2m3 => 1
  | .e3m2 => 1
  | .e4m3 => 2
  | .e5m2 => 2
  | .int8 => 3
  | .bf16 => 4
  | .fp16 => 4

/-- Depth elements of `n` logical multiplier rows: n·f (R36). -/
def Fmt.depth (f : Fmt) (n : Nat) : Nat :=
  match f.rate with
  | 0 => 4 * n
  | 1 => 2 * n
  | 4 => n / 2
  | _ => n

/-- Decode a code of a floating format (R37, R38). -/
def Fp.decode (p : Fp) (c : Nat) : Fv :=
  let neg := bitOf c (p.eb + p.mb)
  let ex := field c p.mb p.eb
  let ma := field c 0 p.mb
  let last := 2 ^ p.eb - 1
  if p.top = .ieee ∧ ex = last then (if ma = 0 then .inf neg else .nan)
  else if p.top = .oneNan ∧ ex = last ∧ ma = 2 ^ p.mb - 1 then .nan
  else if ex = 0 then .fin neg ma (1 - p.bias - p.mb)
  else .fin neg (2 ^ p.mb + ma) (ex - p.bias - p.mb)

/-- Decode an element; INT8 is two's complement. -/
def Fmt.decode (f : Fmt) (c : Nat) : Fv :=
  match f.fp with
  | some p => p.decode c
  | none => .fin (bitOf c 7) (signed 8 c).natAbs 0

/-- Divide by 2^k with round-to-nearest-even. -/
def rneShift (m k : Nat) : Nat :=
  let q := m / 2 ^ k
  let r := m % 2 ^ k
  if 2 * r > 2 ^ k ∨ (2 * r = 2 ^ k ∧ q % 2 = 1) then q + 1 else q

/-- m·2^(e−q) as a natural number, rounding to nearest even where bits fall away. -/
def rneTo (m : Nat) (e q : Int) : Nat :=
  if q ≤ e then m * 2 ^ (e - q).toNat else rneShift m (q - e).toNat

/-- m·2^(e−q), truncating. -/
def truncTo (m : Nat) (e q : Int) : Nat :=
  if q ≤ e then m * 2 ^ (e - q).toNat else m / 2 ^ (q - e).toNat

/-- Round a nonzero finite value to a format: exponent field and mantissa field, unbounded above. -/
def Fp.round (p : Fp) (m : Nat) (e : Int) : Int × Nat :=
  let lead : Int := Nat.log2 m + e
  let q : Int := max lead (1 - p.bias) - p.mb
  let r := rneTo m e q
  let (r, q) := if 2 ^ (p.mb + 1) ≤ r then (r / 2, q + 1) else (r, q)
  if r < 2 ^ p.mb then (0, r) else (q + p.mb + p.bias, r - 2 ^ p.mb)

/-- The largest finite exponent field and its largest mantissa field. -/
def Fp.maxFinite (p : Fp) : Int × Nat :=
  match p.top with
  | .plain => ((2 ^ p.eb - 1 : Nat), 2 ^ p.mb - 1)
  | .oneNan => ((2 ^ p.eb - 1 : Nat), 2 ^ p.mb - 2)
  | .ieee => ((2 ^ p.eb - 2 : Nat), 2 ^ p.mb - 1)

/-- Assemble a code. -/
def Fp.code (p : Fp) (neg : Bool) (ex : Nat) (ma : Nat) : Nat := bn neg * 2 ^ (p.eb + p.mb) + ex * 2 ^ p.mb + ma

/-- The field pair lies beyond the largest finite value. -/
def Fp.over (p : Fp) (ex : Int) (ma : Nat) : Bool :=
  decide (p.maxFinite.1 < ex) || (decide (ex = p.maxFinite.1) && decide (p.maxFinite.2 < ma))

/-- Round a value to a format with subnormals kept (R141). Overflow gives infinity for IEEE formats and the largest
finite value otherwise; NaN gives the format's positive quiet code. The Boolean says overflow. DESIGN CHOICE: a negative nonzero value
that rounds to zero gives -0 (log entry 169). -/
def Fp.encode (p : Fp) (v : Fv) : Nat × Bool :=
  let big := fun (neg : Bool) =>
    match p.top with
    | .ieee => p.code neg (2 ^ p.eb - 1) 0
    | _ => p.code neg p.maxFinite.1.toNat p.maxFinite.2
  match v with
  | .nan =>
    (match p.top with
     | .ieee => p.code false (2 ^ p.eb - 1) (2 ^ (p.mb - 1))
     | .oneNan => p.code false (2 ^ p.eb - 1) (2 ^ p.mb - 1)
     | .plain => p.code false p.maxFinite.1.toNat p.maxFinite.2, false)
  | .inf neg => (big neg, true)
  | .fin neg m e =>
    if m = 0 then (p.code neg 0 0, false)
    else
      let (ex, ma) := p.round m e
      if p.over ex ma then (big neg, true) else (p.code neg ex.toNat ma, false)

/-- Round to FP32 as the array does: no subnormal leaves it (R50, R52, R53). The Boolean says a flush. -/
def roundArray (v : Fv) : Nat × Bool :=
  match v with
  | .nan => (0x7FC00000, false)
  | .inf neg => (fp32.code neg 255 0, false)
  | .fin neg m e =>
    if m = 0 then (fp32.code neg 0 0, false)
    else
      let (ex, ma) := fp32.round m e
      if 254 < ex then (fp32.code neg 255 0, false)
      else if ex = 0 then (fp32.code neg 0 0, decide (ma ≠ 0))
      else (fp32.code neg ex.toNat ma, false)

/-- The signed integer m·2^(e−q) of a finite value with q ≤ e. -/
def Fv.at_ (v : Fv) (q : Int) : Int :=
  match v with
  | .fin neg m e => if neg then -((m * 2 ^ (e - q).toNat : Nat) : Int) else ((m * 2 ^ (e - q).toNat : Nat) : Int)
  | _ => 0

/-- The exponent of a finite value's unit. -/
def Fv.exp : Fv → Option Int
  | .fin _ m e => if m = 0 then none else some e
  | _ => none

/-- A value is −0. -/
def Fv.negZero : Fv → Bool
  | .fin neg m _ => neg && decide (m = 0)
  | _ => false

/-- A value is NaN. -/
def Fv.isNan : Fv → Bool
  | .nan => true
  | _ => false

/-- The exact sum of values (R52, R53). -/
def sumFv (l : List Fv) : Fv :=
  let pos := l.any (fun v => decide (v = .inf false))
  let neg := l.any (fun v => decide (v = .inf true))
  if l.any Fv.isNan || (pos && neg) then .nan
  else if pos then .inf false
  else if neg then .inf true
  else
    match l.filterMap Fv.exp with
    | [] => .fin (!l.isEmpty && l.all Fv.negZero) 0 0
    | e :: es =>
      let q := es.foldl min e
      let t : Int := (l.map (fun v => if v.exp.isNone then (0 : Int) else v.at_ q)).foldl (· + ·) 0
      if t = 0 then .fin false 0 0 else .fin (decide (t < 0)) t.natAbs q

/-- The exact product (R53). -/
def mulFv (a b : Fv) : Fv :=
  match a, b with
  | .nan, _ => .nan
  | _, .nan => .nan
  | .inf s, .inf t => .inf (s != t)
  | .inf s, .fin t m _ => if m = 0 then .nan else .inf (s != t)
  | .fin t m _, .inf s => if m = 0 then .nan else .inf (s != t)
  | .fin s m e, .fin t n f => .fin (s != t) (m * n) (e + f)

/-- Multiply by 2^k. -/
def scaleFv (v : Fv) (k : Int) : Fv :=
  match v with
  | .fin s m e => .fin s m (e + k)
  | v => v

/-- Add addends one at a time to a starting value, each addition rounded (R48, R49). With no start, the first
addend is the first value (R88). The result code and whether the last rounding flushed. -/
def accumulate (start : Option Nat) (l : List Fv) : Nat × Bool :=
  match start, l with
  | none, [] => (0, false)
  | some c, [] => (c, false)
  | none, v :: t => t.foldl (fun c w => roundArray (sumFv [fp32.decode c.1, w])) (roundArray v)
  | some c, l => l.foldl (fun c w => roundArray (sumFv [fp32.decode c.1, w])) (c, false)

/-! ## Yoke shapes and results -/

/-- Rows of querns. -/
def Shape.r : Shape → Nat
  | .s1 => 1
  | .s2 => 2
  | .s4 => 4
  | .s48 => 4

/-- Columns of querns. -/
def Shape.c : Shape → Nat
  | .s1 => 1
  | .s2 => 2
  | .s4 => 4
  | .s48 => 8

/-- The depth K of a yoke in a format (R41). -/
def Yoke.k (y : Yoke) (f : Fmt) : Nat := f.depth (4 * y.shape.r)

/-- The width N of a yoke. -/
def Yoke.n (y : Yoke) : Nat := 4 * y.shape.c

/-- The querns of a yoke (R7). -/
def Yoke.querns (y : Yoke) : List Nat :=
  (List.range y.shape.r).flatMap (fun i => (List.range y.shape.c).map (fun j =>
    (y.row.toNat + i) * 8 + y.col.toNat + j))

/-- The yoke's top-left quern, the key of its stationary operand. -/
def Yoke.key (y : Yoke) : Nat := y.row.toNat * 8 + y.col.toNat

/-- The yoke is aligned as R42 states. -/
def Yoke.aligned (y : Yoke) : Bool :=
  decide (y.row.toNat % y.shape.r = 0) && decide (y.col.toNat % y.shape.c = 0)

/-- The yoke belongs to the partition (R42, R76). -/
def Partition.has (p : Partition) (y : Yoke) : Bool :=
  let half := if y.col.toNat < 4 then p.west else p.east
  let g := y.row.toNat / 2 * 4 + y.col.toNat / 2
  y.aligned &&
    (match y.shape with
     | .s48 => decide (p.west = 2) && decide (p.east = 2)
     | .s4 => decide (half = 1)
     | .s2 => decide (half = 0) && p.g2.getLsbD g
     | .s1 => decide (half = 0) && !p.g2.getLsbD g)

/-- A partition the mill offers: modes 0 to 2, both 2 or neither, and no group bits in a half of another mode. -/
def Partition.legal (p : Partition) : Bool :=
  decide (p.west ≠ 3) && decide (p.east ≠ 3) && (decide (p.west = 2) == decide (p.east = 2)) &&
    (decide (p.west = 0) || decide (p.g2 &&& 0x33 = 0)) && (decide (p.east = 0) || decide (p.g2 &&& 0xCC = 0))

/-- The group bits that MILL_YOKE_MAP shows: those of a half whose mode is not 0 read 0 (R76). -/
def Partition.shown (p : Partition) : Byte :=
  p.g2 &&& ((if p.west = 0 then 0x33 else 0) ||| (if p.east = 0 then 0xCC else 0))

/-- The exponent of the smallest subnormal of a format. -/
def Fmt.unit (f : Fmt) : Int :=
  match f.fp with
  | some p => 1 - p.bias - p.mb
  | none => 0

/-- Groups of four rows (R59). -/
def MmArgs.groups (a : MmArgs) : Nat := (a.rows + 3) / 4

end Sys2Proof

namespace Sys2Proof.Machine

open Sys2Proof

/-- The code of a stationary element (depth k, width n). -/
def Tile.code (t : Tile) (k n : Nat) : Nat := Table.get 0 t.codes (k * 32 + n)

/-- The scale of a stationary column in a block; 127 where the tile carries none (R57). -/
def Tile.scale (t : Tile) (n blk : Nat) : Nat := if t.scaled then Table.get 0 t.scales (n * 2 + blk) else 127

/-- The largest scale code of the tile other than 0xFF (R66). -/
def Tile.smax (t : Tile) : Nat :=
  if t.scaled then ((t.scales.map Prod.snd).filter (fun s => decide (s ≠ 255))).foldl max 0 else 127

/-- One row-side result element (R48, R49, R57): the addends of row codes `a` with scales `sa` against column `n`.
DESIGN CHOICE: the stationary codes are read in the operation's own stationary format, whatever format they were loaded in (R39 does
not say what a difference does; log entry 172). -/
def rowAddends (t : Tile) (fa fb : Fmt) (k n : Nat) (a : List Nat) (sa : Option (List Nat)) : List Fv :=
  let prod := fun i => mulFv (fa.decode (a.getD i 0)) (fb.decode (t.code i n))
  if fa.rate = 4 then (List.range k).map prod
  else if !t.scaled && sa.isNone then [sumFv ((List.range k).map prod)]
  else
    (List.range ((k + 31) / 32)).map (fun b =>
      let s := (match sa with | some l => l.getD b 0 | none => 127)
      let w := t.scale n b
      if s = 255 ∨ w = 255 then .nan
      else
        scaleFv (sumFv ((List.range (min 32 (k - 32 * b))).map (fun i => prod (32 * b + i)))) ((s : Int) + w - 254))

/-- Truncate a value toward zero to a multiple of 2^q. DESIGN CHOICE: a negative value of which no bit is left is +0 (R66 names no sign;
log entry 171). -/
def truncFv (v : Fv) (q : Int) : Fv :=
  match v with
  | .fin s m e => let t := truncTo m e q; .fin (s && decide (t ≠ 0 ∨ m = 0)) t q
  | v => v

/-- One column-side result element (R63, R66): depth is the width N of W, the output index is `k`. -/
def colAddends (t : Tile) (fa fb : Fmt) (n k : Nat) (g : List Nat) (sg : Option (List Nat)) : List Fv :=
  let prod := fun i => mulFv (fa.decode (g.getD i 0)) (fb.decode (t.code k i))
  if fa.rate = 4 then (List.range n).map prod
  else if !t.scaled && sg.isNone then [sumFv ((List.range n).map prod)]
  else
    let s := (match sg with | some l => l.getD 0 0 | none => 127)
    let q := fa.unit + fb.unit + s + t.smax - 254 - 24
    [sumFv ((List.range n).map (fun i =>
      let w := t.scale i (k / 32)
      if s = 255 ∨ w = 255 then .nan else truncFv (scaleFv (prod i) ((s : Int) + w - 254)) q))]

/-- The exact INT8 sum of one element (R54). -/
def intSum (t : Tile) (col : Bool) (depth out : Nat) (a : List Nat) : Int :=
  ((List.range depth).map (fun i =>
    signed 8 (a.getD i 0) * signed 8 (if col then t.code out i else t.code i out))).foldl (· + ·) 0

/-- What an element result sets: its 32-bit word, a flush, a NaN, an integer wrap. -/
structure ElemOut where
  word : Nat
  ftz : Bool := false
  nan : Bool := false
  wrap : Bool := false
  deriving DecidableEq, Repr

/-- One result element of a yoke operation, from its destination's word in mode acc (R48 to R54, R88). -/
def yokeElem (a : MmArgs) (t : Tile) (col : Bool) (out : Nat) (row : List Nat × List Nat) (old : Option Nat) :
    ElemOut :=
  let depth := if col then a.yoke.n else a.yoke.k a.fmtA
  if a.fmtA = .int8 then
    let s := intSum t col depth out row.1
    match old with
    | none => { word := (BitVec.ofInt 32 s).toNat }
    | some w =>
      let v := signed 32 w + s
      { word := (BitVec.ofInt 32 v).toNat, wrap := decide (v < -2147483648 ∨ 2147483647 < v) }
  else
    let sc := a.scales.map (fun _ => row.2)
    let l := if col then colAddends t a.fmtA a.fmtB depth out row.1 sc
      else rowAddends t a.fmtA a.fmtB depth out row.1 sc
    let r := accumulate old l
    { word := r.1, ftz := r.2, nan := (fp32.decode r.1).isNan }

end Sys2Proof.Machine
end

