-- ==== Sys2Proof/Machine/MillTime.lean ====
section
/-! DEFINITION. The passing of arithmetic cycles: address patterns, yoke groups, landings and sync increments of
the mills (chapters 02 to 04), and the clock. -/

namespace Sys2Proof.Machine

open Sys2Proof

/-! ## Scoreboard marks and hazards (R100 to R103) -/

/-- A hazard: kind, resource, stamp, and the cycle from which the operation meets it no more. -/
structure Hazard where
  kind : Nat
  resource : Nat
  stamp : Option Nat
  clear : Option Nat
  deriving DecidableEq, Repr

/-- A resource's mark. -/
def Mill.mark (x : Mill) (r : Nat) : Mark := Table.get {} x.marks r

/-- Change a resource's mark. -/
def Mill.setMark (x : Mill) (r : Nat) (f : Mark → Mark) : Mill := { x with marks := Table.upd {} x.marks r f }

/-- A read of a resource in cycle `t` (R103). -/
def Mill.readHz (x : Mill) (t r : Nat) : List Hazard :=
  let k := x.mark r
  if 0 < k.pending then [{ kind := 1, resource := r, stamp := none, clear := none }]
  else if t < k.ready then [{ kind := 1, resource := r, stamp := some k.ready, clear := some k.ready }]
  else []

/-- A write issued in cycle `t` whose first landing is `d` cycles later (R103). -/
def Mill.writeHz (x : Mill) (t d r : Nat) : List Hazard :=
  let k := x.mark r
  if 0 < k.reading then [{ kind := 2, resource := r, stamp := none, clear := none }]
  else if t + d < k.busy then [{ kind := 2, resource := r, stamp := some k.busy, clear := some (k.busy - d) }]
  else if 0 < k.pending then [{ kind := 3, resource := r, stamp := none, clear := none }]
  else if t + d < k.ready then [{ kind := 3, resource := r, stamp := some k.ready, clear := some (k.ready - d) }]
  else []

/-- The resources of a loft span: its regions (R85, R100). -/
def loftRes (off n : Nat) : List Nat :=
  (List.range ((off + n - 1) / 0x8000 - off / 0x8000 + 1)).map (fun i => 16 + off / 0x8000 + i)

/-- A write with a known landing sets the ready stamp (R102). -/
def Mill.markReady (x : Mill) (rs : List Nat) (t : Nat) : Mill :=
  rs.foldl (fun x r => x.setMark r (fun k => { k with ready := max k.ready t })) x

/-- A read over several cycles sets the read-busy stamp (R102). -/
def Mill.markBusy (x : Mill) (rs : List Nat) (t : Nat) : Mill :=
  rs.foldl (fun x r => x.setMark r (fun k => { k with busy := max k.busy t })) x

/-- A write of unknown length begins or ends (R102). -/
def Mill.markPending (x : Mill) (rs : List Nat) : Mill :=
  rs.foldl (fun x r => x.setMark r (fun k => { k with pending := k.pending + 1 })) x

/-- A write of unknown length has made its last write in cycle `t`. -/
def Mill.unmarkPending (x : Mill) (rs : List Nat) (t : Nat) : Mill :=
  rs.foldl (fun x r => x.setMark r (fun k => { k with pending := k.pending - 1, ready := max k.ready t })) x

/-- A read of unknown length begins (R102). -/
def Mill.markReading (x : Mill) (rs : List Nat) : Mill :=
  rs.foldl (fun x r => x.setMark r (fun k => { k with reading := k.reading + 1 })) x

/-- A read of unknown length has made its last read in cycle `t`. -/
def Mill.unmarkReading (x : Mill) (rs : List Nat) (t : Nat) : Mill :=
  rs.foldl (fun x r => x.setMark r (fun k => { k with reading := k.reading - 1, busy := max k.busy t })) x

/-- The fault of a hazard. -/
def Hazard.fault (h : Hazard) : EngFault :=
  { status := .faultSched, kind := h.kind, resource := h.resource, stamp := h.stamp }

/-- The scoreboard resources of a destination. -/
def dstRes (d : YokeDst) (bytes : Nat) : List Nat :=
  match d with
  | .loft o => if bytes = 0 then [] else loftRes o bytes
  | .bank y _ => [56 + bn y]

/-! ## Sync counters (R94, R95, R98, R99, R648) -/

/-- The value of a counter. -/
def Mill.cnt (x : Mill) (c : Nat) : Nat := (Table.get 0 x.sync c).toNat

/-- Set a counter. -/
def Mill.setCnt (x : Mill) (c v : Nat) : Mill := { x with sync := Table.put 0 x.sync c (BitVec.ofNat 16 v) }

/-- A second fault of an engine whose stop already waits: of a schedule fault and another one of the same cycle the other gives the
status; otherwise the first one does, and the schedule fault is recorded beside it (R108, R581). -/
def EngFault.join (o f : EngFault) : EngFault :=
  if f.status = .faultSched then
    if o.status = .faultSched ∨ o.also.isSome then o else { o with also := some (f.kind, f.resource, f.stamp) }
  else if o.status = .faultSched ∧ o.at_ = f.at_ then { f with also := some (o.kind, o.resource, o.stamp) }
  else o

/-- Give an engine a deferred stop (R648). -/
def Mill.defer (x : Mill) (e : Eng) (f : EngFault) : Mill :=
  let g := x.eng e
  x.setEng e { g with deferred := some (match g.deferred with | none => f | some o => o.join f) }

/-- An increment reaches its complete point in cycle `c` (R95). One that would pass 65,535, counting increments
complete and not yet visible, raises a sync overflow of the engine that issued it (R99). DESIGN CHOICE: 03 Table 8 gives the overflow
no kind; its record has kind 0 and the counter as its resource (log entry 162). A
counter whose complement fails stops that
engine with FAULT_INTEG (R565). -/
def Mill.incAt (x : Mill) (c : Nat) (e : Eng) (counter amount : Nat) : Mill :=
  let waiting := ((x.incs.filter (fun i => decide (i.counter = counter))).map (·.amount)).foldl (· + ·) 0
  let x : Mill := { x with incs := x.incs ++ [{ at_ := c, counter := counter, amount := amount, eng := e }] }
  if x.parity.contains (.counter counter) then x.defer e { status := .faultInteg, at_ := c }
  else if 65535 < x.cnt counter + waiting + amount then
    x.defer e { status := .faultSched, resource := counter, at_ := c }
  else x

/-- Increments visible in cycle `c` are added; a counter stops at 65,535 (R95, R98, R99). -/
def Mill.showIncs (x : Mill) (c : Nat) : Mill :=
  let due := x.incs.filter (fun i => decide (i.at_ + 2 ≤ c))
  due.foldl (fun x i => x.setCnt i.counter (min 65535 (x.cnt i.counter + i.amount)))
    { x with incs := x.incs.filter (fun i => !decide (i.at_ + 2 ≤ c)) }

/-! ## Address FIFOs (R92, R93) -/

/-- An address FIFO. -/
def Mill.fifo (x : Mill) (f : Af) : Fifo := Table.get {} x.fifos f.num

/-- Replace an address FIFO. -/
def Mill.setFifo (x : Mill) (f : Af) (y : Fifo) : Mill := { x with fifos := Table.put {} x.fifos f.num y }

/-- The word at position `i` of a pattern. DESIGN CHOICE: the first count and stride vary fastest, and a count of zero gives no word
(log entry 163). -/
def agenWord (base : Word) (dims : List (Word × Word)) (i : Nat) : Word :=
  match dims with
  | [] => base
  | (n, st) :: t => agenWord (base + BitVec.ofNat 32 (i % n.toNat * st.toNat)) t (i / n.toNat)

/-- A pattern emits the word due in cycle `c`; a full FIFO pauses it (R93). -/
def Mill.agenStep (x : Mill) (c : Nat) (f : Af) : Mill :=
  let y := x.fifo f
  match y.agen with
  | none => x
  | some r =>
    if c < r.next ∨ 64 ≤ y.words.length then x
    else
      x.setFifo f
        { words := y.words ++ [(c, agenWord r.base r.dims r.idx)]
          agen := if r.idx + 1 < r.total then some { r with idx := r.idx + 1, next := c + 1 } else none }

/-- A pattern of a tilled mill has a word due in cycle `c` and meets a full FIFO (R93). -/
def Mill.agenFull (x : Mill) (c : Nat) (f : Af) : Bool :=
  let y := x.fifo f
  x.tilled && decide (64 ≤ y.words.length) &&
    (match y.agen with
     | some r => decide (r.next ≤ c)
     | none => false)

/-- Pop the word visible in cycle `c`. -/
def Fifo.pop (y : Fifo) (c : Nat) : Option (Word × Fifo) :=
  match y.words with
  | (v, w) :: t => if v ≤ c then some (w, { y with words := t }) else none
  | [] => none

/-! ## Yoke groups (R58 to R65, R87 to R89) -/

/-- `w` bits of the loft of mill `m` at bit address `b`. -/
def State.loftBits (s : State) (m b w : Nat) : Nat :=
  leNat (s.bytes (loftCell m (b / 8)) ((b % 8 + w + 7) / 8)) / 2 ^ (b % 8) % 2 ^ w

/-- The depth of an operation: K on the row side, N on the column side (R63). -/
def YokeFlight.depth (y : YokeFlight) : Nat := if y.col then y.args.yoke.n else y.args.yoke.k y.args.fmtA

/-- The width of its results. -/
def YokeFlight.width (y : YokeFlight) : Nat := if y.col then y.args.yoke.k y.args.fmtB else y.args.yoke.n

/-- Cycles from a group's entry to its results: 4R + 5, or 4C + 5 on the column side (R60, R64). -/
def yokeLatency (y : Yoke) (col : Bool) : Nat := 4 * (if col then y.shape.c else y.shape.r) + 5

/-- The element codes and scale codes of one streaming row (R57): row `row` from a base in bytes, and scale line `line`. -/
def State.rowCodes (s : State) (m : Nat) (a : MmArgs) (depth base row line : Nat) : List Nat × List Nat :=
  ((List.range depth).map (fun j =>
      s.loftBits m (8 * base + row * a.src.rowBits + j * a.src.elemBits) a.fmtA.bits),
   match a.scales with
   | none => []
   | some l => (List.range ((depth + 31) / 32)).map (fun b => s.loftBits m (8 * (l.base + line * l.line + b * l.block)) 8))

/-- The loft offsets of the scale codes of `n` lines from `line` on. -/
def scaleOffs (l : Option ScaleLayout) (blocks line n : Nat) : List Nat :=
  match l with
  | none => []
  | some l => (List.range n).flatMap (fun i => (List.range blocks).map (fun b => l.base + (line + i) * l.line + b * l.block))

/-- An uncorrectable word among single loft bytes: its offset. -/
def State.badOff (s : State) (m : Nat) (offs : List Nat) : Option Nat := offs.find? (fun o => s.badIn (loftCell m o) 1)

/-- The loft bytes that rows `[r, r + n)` of an operand touch from a base: first byte and length. -/
def rowSpan (a : MmArgs) (depth base r n : Nat) : Nat × Nat :=
  let lo := base + r * a.src.rowBits / 8
  let hi := base + ((r + n - 1) * a.src.rowBits + (depth - 1) * a.src.elemBits + a.fmtA.bits + 7) / 8
  (lo, hi - lo)

/-- A cycle lost to AF.MX moves the yoke's busy marks and the stamp of the operation's write point by one (R93, R102). -/
def Mill.slip (x : Mill) (y : YokeFlight) : Mill :=
  let t := y.issue + y.waits + 1 + yokeLatency y.args.yoke y.col + y.args.groups - 1
  ({ x with
    busy := y.args.yoke.querns.foldl (fun t q =>
      Table.upd {} t q (fun b => { b with stream := b.stream + 1, drain := b.drain + 1 })) x.busy }).markReady
    (dstRes y.args.dst (4 * y.args.rows * y.width)) t

/-- The physical rows of a quern that are active: the spare, row 4, takes the place of the row it replaces (R35, R71). -/
def Mill.rowActive (x : Mill) (q row : Nat) : Bool :=
  let sp := Table.get {} x.qspare q
  decide (row < 5) && decide (row ≠ (if sp.used then sp.row.toNat else 4))

/-- The first active row of a yoke whose residue check fails (R69). -/
def Mill.residFail (x : Mill) (y : Yoke) : Option (Nat × Nat) :=
  x.resid.find? (fun p => y.querns.contains p.1 && x.rowActive p.1 p.2)

/-- A flight waits a cycle for AF.MX or for the region that its next word names; in tilled mode that is a schedule fault, and
audit-stall records a hazard (R93, R104, R105, R107). -/
def State.groupWaits (s : State) (m : Nat) (y : YokeFlight) (f : EngFault) (hazard : Bool) : Option YokeFlight × State :=
  let x := s.mill m
  if !x.tilled then (some { y with waits := y.waits + 1 }, s.setMill m (x.slip y))
  else if x.auditStall && hazard then
    let s := if y.audited then s else (s.recordSched m (s.schedRec m .mx f true)).tallyMill .sbAuditStall m 1
    (some { y with waits := y.waits + 1, audited := true }, s.modMill m (fun x => x.slip y))
  else if hazard then (none, s.timeFault m .mx f)
  else (some { y with waits := y.waits + 1 }, (s.setMill m (x.slip y)).timeFault m .mx f)

/-- The rows of the group of a flight that is due enter (R59): they are read, or the operation ends on a bad address or word (R566)
or a failed residue check (R69). DEDUCED: the cycle in which the group enters counts as the failing cycle of a residue check, so that no
result of it or of a later group is written (log entry 164). -/
def State.groupRows (s : State) (m c : Nat) (y : YokeFlight) (base : Nat) : Option YokeFlight × State :=
  let a := y.args
  let n := min 4 (a.rows - 4 * y.entered)
  let row0 := if a.afifo then 0 else 4 * y.entered
  let (lo, len) := rowSpan a y.depth base row0 n
  let scs := scaleOffs a.scales ((y.depth + 31) / 32) (4 * y.entered) n
  if 2 ^ 20 < lo + len then (none, s.timeFault m .mx { status := .mismatch })
  else if s.badIn (loftCell m lo) len then (none, s.timeFault m .mx { status := .faultInteg, addr := some lo })
  else
    match s.badOff m scs, (s.mill m).residFail a.yoke with
    | some o, _ => (none, s.timeFault m .mx { status := .faultInteg, addr := some o })
    | none, some p =>
      (none, ((s.setArith m 4).tallyMill .residErr m 1).timeFault m .mx
        { status := .faultInteg, quern := some p })
    | none, none =>
      let rows := (List.range n).map (fun i => s.rowCodes m a y.depth base (row0 + i) (4 * y.entered + i))
      (some { y with entered := y.entered + 1, groups := y.groups ++ [(c, rows)], audited := false },
        scs.foldl (fun s o => s.countSoft (loftCell m o) 1) (s.countSoft (loftCell m lo) len))

/-- The hazard that the word at the head of AF.MX names: its rows lie in a region with a write in flight (R103). -/
def Mill.groupHz (x : Mill) (c : Nat) (y : YokeFlight) (base : Nat) : Option Hazard :=
  let (lo, len) := rowSpan y.args y.depth base 0 (min 4 (y.args.rows - 4 * y.entered))
  ((loftRes lo len).flatMap (x.readHz c)).head?

/-- The group of a flight due in cycle `c` enters, or waits for AF.MX. -/
def State.enterGroup (s : State) (m c : Nat) (y : YokeFlight) : Option YokeFlight × State :=
  let a := y.args
  if a.groups ≤ y.entered ∨ c < y.issue + y.waits + y.entered then (some y, s)
  else if !a.afifo then s.groupRows m c y a.src.base
  else
    let x := s.mill m
    match (x.fifo .mx).pop c with
    | none => s.groupWaits m y { status := .faultSched, kind := 5, resource := 60 } false
    | some (w, f) =>
      if x.parity.contains (.fifo .mx) then
        (none, (s.setMill m ((x.setFifo .mx f).mend (.fifo .mx))).timeFault m .mx { status := .faultInteg })
      else
        match x.groupHz c y w.toNat with
        | some h => s.groupWaits m y h.fault true
        | none => (s.setMill m (x.setFifo .mx f)).groupRows m c y w.toNat

/-! ## Stationary loads (R45, R57, R58) -/

/-- The depth elements that logical row `j` of a yoke completes: f of each row, or one of every two rows in a 16-bit format (R36). -/
def rowElems (y : Yoke) (f : Fmt) (j : Nat) : List Nat :=
  let k := y.k f
  let r := 4 * y.shape.r
  if r ≤ k then (List.range (k / r)).map (fun i => j * (k / r) + i) else if j % 2 = 1 then [j / 2] else []

/-- The loft bytes of a row of elements: first byte and length. -/
def elemSpan (l : Layout) (bits row cols : Nat) : Nat × Nat :=
  let lo := l.base + row * l.rowBits / 8
  let hi := l.base + (row * l.rowBits + (cols - 1) * l.elemBits + bits + 7) / 8
  (lo, hi - lo)

/-- The scale codes that come with a depth element: those of the block that begins there (R56). -/
def loadScales (a : LdsArgs) (i : Nat) : List Nat :=
  if i % 32 = 0 then scaleOffs (a.scales.map (fun l => { l with base := l.base + i / 32 * l.block })) 1 0 a.yoke.n else []

/-- The codes of one depth element, and of the scale block that begins there, in a stationary operand. -/
def State.loadElem (s : State) (m : Nat) (a : LdsArgs) (t : Tile) (i : Nat) : Tile :=
  let n := a.yoke.n
  let t := { t with codes := (List.range n).foldl (fun c j =>
    Table.put 0 c (i * 32 + j) (s.loftBits m (8 * a.src.base + i * a.src.rowBits + j * a.src.elemBits) a.fmt.bits)) t.codes }
  match a.scales with
  | some l =>
    if i % 32 = 0 then
      { t with scales := (List.range n).foldl (fun c j =>
          Table.put 0 c (j * 2 + i / 32) (s.loftBits m (8 * (l.base + j * l.line + i / 32 * l.block)) 8)) t.scales }
    else t
  | none => t

/-- A stationary operand at the first row of a load: what is not yet overwritten stays, but in another format nothing does. -/
def Tile.begin (t : Tile) (a : LdsArgs) : Tile :=
  { fmt := a.fmt, codes := if t.fmt = a.fmt then t.codes else [], scaled := a.scales.isSome
    scales := if t.fmt = a.fmt ∧ a.scales.isSome then t.scales else [] }

/-- The logical row of a load that is due in cycle `c` is written (R58); an uncorrectable word ends the load (R566). -/
def State.loadRow (s : State) (m c : Nat) (l : LoadFlight) : Option LoadFlight × State :=
  if c < l.issue + l.row then (some l, s)
  else
    let a := l.args
    let es := rowElems a.yoke a.fmt l.row
    let spans := es.map (fun i => elemSpan a.src a.fmt.bits i a.yoke.n)
    let bad := match spans.find? (fun p => s.badIn (loftCell m p.1) p.2) with
      | some p => some p.1
      | none => s.badOff m (es.flatMap (loadScales a))
    match bad with
    | some o => (none, s.timeFault m .mx { status := .faultInteg, addr := some o })
    | none =>
      let t := Table.get {} (s.mill m).tiles a.yoke.key
      let t := es.foldl (fun t i => s.loadElem m a t i) (if l.row = 0 then t.begin a else t)
      let s := spans.foldl (fun s p => s.countSoft (loftCell m p.1) p.2)
        (s.modMill m (fun x => { x with tiles := Table.put {} x.tiles a.yoke.key t }))
      (if l.row + 1 < 4 * a.yoke.shape.r then some { l with row := l.row + 1 } else none, s)

/-- All loads of a mill through cycle `c`. -/
def State.loadsStep (s : State) (m c : Nat) : State :=
  let ls := (s.mill m).loads
  if ls.isEmpty then s
  else
    let (kept, s) := ls.foldl (fun (p : List LoadFlight × State) l =>
      match p.2.loadRow m c l with
      | (some l, s) => (p.1 ++ [l], s)
      | (none, s) => (p.1, s)) ([], s)
    s.modMill m (fun x => { x with loads := kept })

/-- The cell of a destination byte. -/
def dstCell (m : Nat) (d : YokeDst) (off : Nat) : Nat :=
  match d with
  | .loft o => loftCell m (o + off)
  | .bank y o => bankCell m y (o + off)

/-- The loft offset of a destination byte, for a report of FAULT_INTEG (R566). -/
def dstOffset (d : YokeDst) (off : Nat) : Option Nat :=
  match d with
  | .loft o => some (o + off)
  | .bank _ _ => none

/-- Write one result row (R87, R88), with the events of R51, R53, R54. A row that accumulates onto an uncorrectable word,
or that overwrites only part of one, is not written, and the MX engine stops (R566, R648). -/
def State.writeRow (s : State) (m : Nat) (y : YokeFlight) (row : Nat) (codes : List Nat × List Nat) : State :=
  let at0 := dstCell m y.args.dst (4 * (row * y.width))
  if (y.args.acc && s.badIn at0 (4 * y.width)) || s.narrowBad at0 (4 * y.width) then
    s.modMill m (fun x => x.defer .mx { status := .faultInteg, at_ := s.clock.now, addr := dstOffset y.args.dst (4 * (row * y.width)) })
  else
  (List.range y.width).foldl (fun s n =>
    let cell := dstCell m y.args.dst (4 * (row * y.width + n))
    let old := if y.args.acc then some (leNat (s.bytes cell 4)) else none
    let o := yokeElem y.args y.tile y.col n codes old
    let s := s.setBytes cell (toLe 4 o.word)
    let s := if o.ftz then s.tallyMill .yokeFtz m 1 else s
    let s := if o.nan then (s.setArith m 2).tallyMill .nanOut m 1 else s
    if o.wrap then (s.setArith m 1).tallyMill .intOvf m 1 else s) s

/-- Write the group whose results are due in cycle `c`. -/
def State.leaveGroup (s : State) (m c : Nat) (y : YokeFlight) : YokeFlight × State :=
  match y.groups with
  | (t, rows) :: rest =>
    if t + yokeLatency y.args.yoke y.col ≤ c then
      let (_, s) := rows.foldl (fun (p : Nat × State) r => (p.1 + 1, p.2.writeRow m y p.1 r)) (4 * y.written, s)
      ({ y with groups := rest, written := y.written + 1 }, s)
    else (y, s)
  | [] => (y, s)

/-- The increments of a yoke operation: at its read point, the cycle after its last group entered, and at its write
point (R89). -/
def State.flightIncs (s : State) (m c : Nat) (y : YokeFlight) (wroteLast : Bool) : YokeFlight × State :=
  let rd := decide (y.entered = y.args.groups) && !y.readDone && decide (y.issue + y.waits + y.args.groups ≤ c)
  let s := match rd, y.args.readInc with
    | true, some i => s.modMill m (fun x => x.incAt c .mx i.counter.toNat y.readAmt)
    | _, _ => s
  let s := match wroteLast, y.args.writeInc with
    | true, some i => s.modMill m (fun x => x.incAt c .mx i.counter.toNat y.writeAmt)
    | _, _ => s
  ({ y with readDone := y.readDone || rd, writeDone := y.writeDone || wroteLast }, s)

/-- The results of a flight and its increments in cycle `c`; a finished flight is dropped. -/
def State.flightStep (s : State) (m c : Nat) (y : YokeFlight) : Option YokeFlight × State :=
  let (y', s) := s.leaveGroup m c y
  let last := decide (y'.written = y'.args.groups) && !y.writeDone
  let (y', s) := s.flightIncs m c y' last
  (if y'.writeDone && y'.readDone then none else some y', s)

/-- How many yokes have an operation or a load in flight (R586). -/
def Mill.busyYokes (x : Mill) : Nat :=
  (x.flights.map (fun f => f.args.yoke.key) ++ x.busy.filterMap (fun e => e.2.load)).eraseDups.length

/-- Loads whose last cycle is `c` are no longer in flight (R58). -/
def Mill.endLoads (x : Mill) (c : Nat) : Mill :=
  { x with busy := x.busy.map (fun e => (e.1, if e.2.stream ≤ c + 1 then { e.2 with load := none } else e.2)) }

/-- Take the flights of a mill through a part of a cycle, in issue order. -/
def State.foldFlights (s : State) (m : Nat) (f : State → YokeFlight → Option YokeFlight × State) : State :=
  let (kept, s) := (s.mill m).flights.foldl (fun (p : List YokeFlight × State) y =>
    match f p.2 y with
    | (some y, s) => (p.1 ++ [y], s)
    | (none, s) => (p.1, s)) ([], s)
  s.modMill m (fun x => { x with flights := kept })

/-- The reads of the matrix engine in cycle `c`: groups enter their yokes and rows of loads are written (R58, R59). -/
def State.yokeReads (s : State) (m c : Nat) : State :=
  let n := (s.mill m).busyYokes
  if n = 0 then s
  else (((s.tallyMill .yokeBusy m n).modMill m (fun x => x.endLoads c)).foldFlights m (fun s y => s.enterGroup m c y)).loadsStep m c

/-- The writes of the matrix engine in cycle `c`: results leave their yokes (R60). -/
def State.yokeWrites (s : State) (m c : Nat) : State :=
  if (s.mill m).flights.isEmpty then s else s.foldFlights m (fun s y => s.flightStep m c y)

/-! ## Ports (R85, R86, R122) -/

/-- The place of an engine in the order in which a port serves (R86). -/
def portRankOf : Eng → Nat
  | .mx => 0
  | .ca => 1
  | .cb => 2
  | .sv => 3
  | .st => 4

/-- The keys of the read or write ports of a loft span: two for each region. -/
def loftKeys (off n : Nat) (write : Bool) : List Nat := (loftRes off n).map (fun r => (r - 16) * 2 + bn write)

/-- The key of the external port of a sieve bank (R122). -/
def bankKey (y : Bool) : Nat := 64 + bn y

/-- The ports at which a yoke operation's results leave in cycle `c`. -/
def YokeFlight.writeKeys (y : YokeFlight) (c : Nat) : List Nat :=
  match y.groups with
  | (t, rows) :: _ =>
    if c < t + yokeLatency y.args.yoke y.col then []
    else
      match y.args.dst with
      | .loft o => loftKeys (o + 4 * (4 * y.written * y.width)) (4 * rows.length * y.width) true
      | .bank b _ => [bankKey b]
  | [] => []

/-- The ports at which its next group enters in cycle `c`. -/
def Mill.groupKeys (x : Mill) (c : Nat) (y : YokeFlight) : List Nat :=
  let a := y.args
  if a.groups ≤ y.entered ∨ c < y.issue + y.waits + y.entered then []
  else
    let n := min 4 (a.rows - 4 * y.entered)
    match (if a.afifo then ((x.fifo .mx).pop c).map (·.1.toNat) else some a.src.base) with
    | none => []
    | some b =>
      let (lo, len) := rowSpan a y.depth b (if a.afifo then 0 else 4 * y.entered) n
      loftKeys lo len false ++ (scaleOffs a.scales ((y.depth + 31) / 32) (4 * y.entered) n).flatMap (fun o => loftKeys o 1 false)

/-- The ports that the row of a load reads in cycle `c`. -/
def LoadFlight.keys (l : LoadFlight) (c : Nat) : List Nat :=
  if c < l.issue + l.row then []
  else
    let a := l.args
    let es := rowElems a.yoke a.fmt l.row
    es.flatMap (fun i => let p := elemSpan a.src a.fmt.bits i a.yoke.n; loftKeys p.1 p.2 false) ++
      (es.flatMap (loadScales a)).flatMap (fun o => loftKeys o 1 false)

/-- The ports that the matrix engine uses in cycle `c`. -/
def Mill.mxKeys (x : Mill) (c : Nat) : List Nat :=
  x.flights.flatMap (fun y => x.groupKeys c y ++ y.writeKeys c) ++ x.loads.flatMap (fun l => l.keys c)

/-! ## Local moves (R90, R120) -/

/-- A carter slot that runs a stream. -/
def Slot.isStream (sl : Slot) : Bool :=
  match sl.work with
  | .stream _ => true
  | .move _ => false

/-- Replace a slot. -/
def State.setSlot (s : State) (m k : Nat) (sl : Option Slot) : State :=
  s.modMill m (fun x => { x with slots := Table.put none x.slots k sl })

/-- The carter of a slot. -/
def slotCarter (k : Nat) : Carter := if k < 4 then .ca else .cb

/-- The slots of a carter. -/
def carterSlots : Carter → List Nat
  | .ca => [0, 1, 2, 3]
  | .cb => [4, 5, 6, 7]

/-- The number of a carter among the two. -/
def carterIx : Carter → Nat
  | .ca => 0
  | .cb => 1

/-- The scoreboard resources of one end of a move. Resource 59 is ordered by the bytes the output FIFO holds (R120, R132). -/
def movRes (e : MovEnd) (n : Nat) : List Nat :=
  match e with
  | .loft o => if n = 0 then [] else loftRes o n
  | .bank y _ => [56 + bn y]
  | .cstore _ => [58]
  | .fifo => []

/-- The ports that `n` bytes at one end of a move use, `o` bytes into it. -/
def movKeys (e : MovEnd) (o n : Nat) (write : Bool) : List Nat :=
  match e with
  | .loft b => if n = 0 then [] else loftKeys (b + o) n write
  | .bank y _ => [bankKey y]
  | _ => []

/-- A move's marks are set at issue (R102). -/
def Mill.moveMarks (x : Mill) (a : MovArgs) : Mill :=
  (x.markReading (movRes a.src a.len)).markPending (movRes a.dst a.len)

/-- A move's marks are taken off at its last write. -/
def Mill.unmoveMarks (x : Mill) (a : MovArgs) (t : Nat) : Mill :=
  (x.unmarkReading (movRes a.src a.len) t).unmarkPending (movRes a.dst a.len) t

/-- The bytes that a move in a slot moves next: 256 or what is left. -/
def moveNext (sl : Slot) (a : MovArgs) : Nat := min 256 (a.len - sl.pos.bytes)

/-- The move of a slot is due in cycle `c`: its first write comes 8 cycles after issue (03 Table 4). -/
def Mill.moveDue (x : Mill) (c k : Nat) : Option (Slot × MovArgs) :=
  match x.slot k with
  | some sl =>
    (match sl.work with
     | .move a => if sl.start + 8 ≤ c then some (sl, a) else none
     | .stream _ => none)
  | none => none

/-- A move out of the output FIFO needs bytes that it does not hold (R120). -/
def Mill.moveStarved (x : Mill) (p : Slot × MovArgs) : Bool :=
  decide (p.2.src = .fifo) && decide (x.sieve.fifo.length < moveNext p.1 p.2)

/-- The slots of a carter in rotation, the one served last coming last (R90). -/
def Mill.rotation (x : Mill) (cr : Carter) : List Nat :=
  let l := carterSlots cr
  match Table.get 0 x.turn (carterIx cr) with
  | 0 => l
  | n + 1 => l.filter (fun k => decide (n < k)) ++ l.filter (fun k => decide (k ≤ n))

/-- The move that a carter takes on in cycle `c`: one slot in a cycle, in rotation; a piece of a stream may have the cycle. -/
def Mill.moveTurn (x : Mill) (c : Nat) (cr : Carter) : Option (Nat × Slot × MovArgs) :=
  if c < Table.get 0 x.moveFree (carterIx cr) then none
  else
    (x.rotation cr).findSome? (fun k =>
      match x.moveDue c k with
      | some p => if x.moveStarved p then none else some (k, p)
      | none => none)

/-- The ports that a carter's move needs in cycle `c`. -/
def Mill.carterKeys (x : Mill) (c : Nat) (cr : Carter) : List Nat :=
  match x.moveTurn c cr with
  | some (_, sl, a) => movKeys a.src sl.pos.bytes (moveNext sl a) false ++ movKeys a.dst sl.pos.bytes (moveNext sl a) true
  | none => []

/-- The engine that a port or counter has served in cycle `c`, by its place in the order: the matrix engine, a carter that the
matrix engine leaves it to, or the engine of an operation that a command gave. -/
def Mill.portUser (x : Mill) (c key : Nat) : Option Nat :=
  if (x.mxKeys c).contains key then some 0
  else if (x.carterKeys c .ca).contains key then some 1
  else if (x.carterKeys c .cb).contains key then some 2
  else (x.ports.find? (fun p => decide (p.1 = c) && decide (p.2.1 = key))).map (·.2.2)

/-- A port of those serves an engine that comes before in the order. -/
def Mill.portLost (x : Mill) (c : Nat) (keys : List Nat) (rank : Nat) : Bool :=
  keys.any (fun k => match x.portUser c k with
    | some r => decide (r < rank)
    | none => false)

/-- A port of those has served an engine that comes after in the order. -/
def Mill.portLate (x : Mill) (c : Nat) (keys : List Nat) (rank : Nat) : Bool :=
  keys.any (fun k => match x.portUser c k with
    | some r => decide (rank < r)
    | none => false)

/-- Note the use of ports, or of a counter, in cycle `c`. -/
def Mill.usePorts (x : Mill) (c : Nat) (keys : List Nat) (rank : Nat) : Mill :=
  if keys.isEmpty then x
  else { x with ports := x.ports.filter (fun p => decide (c ≤ p.1)) ++ keys.map (fun k => (c, k, rank)) }

/-- A bound on the cycles for which the operations in flight can keep a port. -/
def Mill.portLoad (x : Mill) : Nat :=
  (x.flights.map (fun y => y.args.groups)).foldl (· + ·) 0 + 16 * x.loads.length +
    (x.slots.map (fun e => match e.2 with
      | some sl => (match sl.work with | .move a => a.len / 256 + 1 | .stream _ => 0)
      | none => 0)).foldl (· + ·) 0

/-- The cell of a byte store end. -/
def movCell (m : Nat) (e : MovEnd) : Nat :=
  match e with
  | .loft o => loftCell m o
  | .bank y o => bankCell m y o
  | .cstore o => cstoreCell m o
  | .fifo => 0

/-- The landing of bytes at an end of a move, `o` bytes into it. -/
def movLand (e : MovEnd) (o : Nat) (b : List Byte) (g : Eng) : Land :=
  match e with
  | .loft a => .loft (a + o) b g
  | .bank y a => .bank y (a + o) b
  | .cstore a => .cst (a + o) b
  | .fifo => .fifo b

/-- A move leaves its slot and its marks go. -/
def State.clearMove (s : State) (m c k : Nat) (a : MovArgs) : State :=
  (s.setSlot m k none).modMill m (fun x => x.unmoveMarks a c)

/-- `n` bytes of a move go in cycle `c` (R90, R265): with the last of them its increment takes effect and its slot is free. An
uncorrectable source or merge ends it with FAULT_INTEG (R566). -/
def State.moveBytes (s : State) (m c : Nat) (cr : Carter) (k : Nat) (sl : Slot) (a : MovArgs) (n : Nat) : State :=
  let e := cr.eng
  let o := sl.pos.bytes
  let src := movCell m a.src + o
  if (decide (a.src ≠ .fifo) && s.badIn src n) || s.narrowBad (movCell m a.dst + o) n then
    (s.clearMove m c k a).modMill m (fun x => x.defer e { status := .faultInteg, at_ := c })
  else
    let b := if a.src = .fifo then (s.mill m).sieve.fifo.take n else s.bytes src n
    let s := if a.src = .fifo then
        s.modMill m (fun x => { x with sieve := { x.sieve with fifo := x.sieve.fifo.drop n } })
      else s.countSoft src n
    let s := (s.modMill m (fun x => { x with
      lands := x.lands ++ [(c, movLand a.dst o b e)], turn := Table.put 0 x.turn (carterIx cr) (k + 1) })).tallyMill
      (if cr = .ca then .caBytes else .cbBytes) m n
    if o + n < a.len then s.setSlot m k (some { sl with wrote := true, pos := { sl.pos with bytes := o + n } })
    else
      let s := s.clearMove m c k a
      match sl.inc with
      | some (r, v) => s.modMill m (fun x => x.incAt c e r v)
      | none => s

/-- A carter in cycle `c`: one of its moves goes on, unless the matrix engine or CA has a port it needs (R86). In tilled mode a move
that waits for bytes of the output FIFO is a schedule fault of kind 1 (R120). -/
def State.carterStep (s : State) (m c : Nat) (cr : Carter) : State :=
  let x := s.mill m
  let starved := (x.rotation cr).findSome? (fun k => (x.moveDue c k).bind (fun p => if x.moveStarved p then some k else none))
  match x.moveTurn c cr, starved with
  | some (k, sl, a), _ =>
    let keys := x.carterKeys c cr
    let before := x.mxKeys c ++ (if cr = .cb then x.carterKeys c .ca else [])
    if keys.any (fun k => before.contains k) then s.tallyMill .loftConflict m 1
    else (s.modMill m (fun x => x.usePorts c keys (portRankOf cr.eng))).moveBytes m c cr k sl a (moveNext sl a)
  | none, some k =>
    if x.tilled then
      (match (x.moveDue c k).map Prod.snd with
       | some a => (s.clearMove m c k a).timeFault m cr.eng { status := .faultSched, kind := 1, resource := 59 }
       | none => s)
    else s
  | none, none => s

/-- Both carters in cycle `c`; CB's ports are those that CA leaves it. -/
def State.cartersStep (s : State) (m c : Nat) : State :=
  if (s.mill m).slots.isEmpty then s else (s.carterStep m c .cb).carterStep m c .ca

/-! ## Landings (R123 to R127, stl) -/

/-- The landing is a store: it lands at the end of its cycle (R85, R122). -/
def Land.store : Land → Bool
  | .bank _ _ _ => true
  | .loft _ _ _ => true
  | .cst _ _ => true
  | .fifo _ => true
  | _ => false

/-- Sum of absolute bits a 56-bit accumulator may hold. -/
def satA (v : Int) : BitVec 56 × Bool :=
  if v < -(2 ^ 55) then (BitVec.ofInt 56 (-(2 ^ 55)), true)
  else if 2 ^ 55 - 1 < v then (BitVec.ofInt 56 (2 ^ 55 - 1), true)
  else (BitVec.ofInt 56 v, false)

/-- Align a product at exponent `p` to an accumulator exponent: exact left, truncating right (R127). -/
def alignProd (v : Int) (p ax : Int) : Int :=
  if ax ≤ p then v * 2 ^ (p - ax).toNat
  else if v < 0 then -(((-v).toNat / 2 ^ (ax - p).toNat : Nat) : Int) else ((v.toNat / 2 ^ (ax - p).toNat : Nat) : Int)

/-- The lanes of an A register. -/
def Sieve.aLane (v : Sieve) (k l : Nat) : BitVec 56 := Table.get 0 v.a (k * 16 + l)

/-- The lanes of a D register. -/
def Sieve.dLane (v : Sieve) (k l : Nat) : BitVec 24 := Table.get 0 v.d (k * 16 + l)

/-- Write the 16 lanes of a register bank. -/
def putLanes {w : Nat} (t : Table (BitVec w)) (k : Nat) (lanes : List (BitVec w)) : Table (BitVec w) :=
  ((List.range 16).zip lanes).foldl (fun t p => Table.put 0 t (k * 16 + p.1) p.2) t

/-- The results of mul, mac and msub (R127): the products, aligned to an accumulator's exponent, with its lanes. -/
def macLanes (f : MacFn) (acc : List (BitVec 56)) (ax : Int) (prods : List Int) (p : Int) : List (BitVec 56 × Bool) :=
  (acc.zip prods).map (fun q =>
    let al := alignProd q.2 p ax
    match f with
    | .mul => satA al
    | .mac => satA (q.1.toInt + al)
    | .msub => satA (q.1.toInt - al))

/-- A register landing. -/
def Sieve.land (v : Sieve) : Land → Sieve
  | .d k lanes => { v with d := putLanes v.d k lanes }
  | .bx k x => { v with bx := Table.put 0 v.bx k x }
  | .a k lanes ax => { v with a := putLanes v.a k lanes, ax := Table.put 0 v.ax k ax }
  | .acc k lanes => { v with a := putLanes v.a k lanes }
  | .e k x => { v with e := Table.put 0 v.e k x }
  | .elo k x => { v with e := Table.upd 0 v.e k (fun y => (y &&& 0xFF00) ||| x.zeroExtend 16) }
  | .sat bits => { v with stat := v.stat ||| bits }
  | .fifo b => { v with fifo := v.fifo ++ b }
  | _ => v

/-- The register word that a landing writes. -/
def Land.words : Land → List ParWord
  | .d k _ => [.d k]
  | .bx k _ => [.bx k]
  | .a k _ _ => [.a k, .ax k]
  | .acc k _ => [.a k]
  | .e k _ => [.e k]
  | .elo k _ => [.e k]
  | _ => []

/-- The port that a landing store takes in the order of R86: the steward's and the sieve's stores to the loft. The other stores have
theirs already. -/
def Land.portUse : Land → Option (Eng × List Nat)
  | .loft off b .sv => some (.sv, loftKeys off b.length true)
  | .loft off b .st => some (.st, loftKeys off b.length true)
  | _ => none

/-- A landing of cycle `c` on the device. A narrow write on an uncorrectable word leaves it and stops its engine (R566). -/
def State.land (s : State) (m c : Nat) (l : Land) : State :=
  match l with
  | .bank y off b =>
    if s.narrowBad (bankCell m y off) b.length then
      s.modMill m (fun x => x.defer .sv { status := .faultInteg, at_ := c })
    else s.setBytes (bankCell m y off) b
  | .loft off b e =>
    if s.narrowBad (loftCell m off) b.length then
      s.modMill m (fun x => x.defer e { status := .faultInteg, addr := some off, at_ := c })
    else s.setBytes (loftCell m off) b
  | .cst off b => s.setBytes (cstoreCell m off) b
  | .sat bits =>
    let s := (s.modMill m (fun x => { x with sieve := x.sieve.land (.sat bits) })).evBits c (offMill m 0x240) (bitsOf bits)
    let s := if bits.getLsbD 0 then s.tallyMill .svSat m 1 else s
    let s := if bits.getLsbD 1 then s.tallyMill .svNanIn m 1 else s
    let s := if bits.getLsbD 2 then s.tallyMill .svAccOvf m 1 else s
    if bits.getLsbD 4 then s.tallyMill .rsumOvf m 1 else s
  | l => s.modMill m (fun x => l.words.foldl Mill.mend { x with sieve := x.sieve.land l })

/-- A store lands in cycle `c`, or loses the cycle at its port and lands in a later one (R86). -/
def State.landTurn (s : State) (m c : Nat) (l : Land) : State :=
  match l.portUse with
  | none => s.land m c l
  | some (e, keys) =>
    if (s.mill m).portLost c keys (portRankOf e) then
      (s.tallyMill .loftConflict m 1).modMill m (fun x =>
        { x.markReady (keys.map (fun k => 16 + k / 2)) (c + 1) with lands := x.lands ++ [(c + 1, l)] })
    else (s.modMill m (fun x => x.usePorts c keys (portRankOf e))).land m c l

/-- Landings due in cycle `c`, stores or registers, take effect in bundle order (R126); the steward's stores come last at a port. -/
def State.landDue (s : State) (m c : Nat) (stores : Bool) : State :=
  let due := (s.mill m).lands.filter (fun p => decide (p.1 ≤ c) && (p.2.store == stores))
  if due.isEmpty then s
  else
    let s := s.modMill m (fun x =>
      { x with lands := x.lands.filter (fun p => !(decide (p.1 ≤ c) && (p.2.store == stores))) })
    let last := fun (p : Nat × Land) => match p.2 with
      | .loft _ _ .st => true
      | _ => false
    (due.filter (fun p => !last p) ++ due.filter last).foldl (fun s p => s.landTurn m c p.2) s

/-! ## Cycles -/

/-- The mill has something in flight that time moves. -/
def Mill.active (x : Mill) : Bool :=
  !x.frozen && (!x.flights.isEmpty || x.busy.any (fun e => e.2.load.isSome) || !x.loads.isEmpty || !x.incs.isEmpty || !x.lands.isEmpty ||
    x.fifos.any (fun f => f.2.agen.isSome) || x.slots.any (fun e => e.2.any (fun sl => !sl.isStream)))

/-- One mill through the end of cycle `c` and into cycle `c + 1`: what reads in a cycle reads before what the cycle writes (R85, R122). -/
def State.millStep (s : State) (m c : Nat) : State :=
  let s := (s.cartersStep m c).modMill m (fun x => x.usePorts c (x.mxKeys c) 0)
  let s := s.yokeReads m c
  let s := (s.yokeWrites m c).landDue m c true
  let s := s.landDue m (c + 1) false
  s.modMill m (fun x =>
    let x := x.showIncs (c + 1)
    ((x.agenStep (c + 1) .mx).agenStep (c + 1) .ca).agenStep (c + 1) .cb)

/-- The mills with something in flight. -/
def State.activeMills (s : State) : List Nat := (s.mills.filter (fun e => e.2.active)).map Prod.fst

/-- A cart lands on its ring and a post ring posts it; when the body access fails, the engine that put it stops under R648
(R275, R276). -/
def State.landFlight (s : State) (f : CartFlight) : State :=
  match s.landCart f.ring f.cart with
  | (true, s) => s.postRing f.ring
  | (false, s) =>
    match f.src with
    | some (m, e) => s.modMill m (fun x => x.defer e { status := .faultInteg, at_ := s.clock.now })
    | none => s

/-- Carts due to become visible in the cycle now reached do so, and post rings post (R275, R276). -/
def State.landCarts (s : State) : State :=
  let due := s.qs.flights.filter (fun f => f.local_ && decide (f.at_ ≤ s.clock.now))
  if due.isEmpty then s
  else
    let s := { s with qs := { s.qs with
      flights := s.qs.flights.filter (fun f => !(f.local_ && decide (f.at_ ≤ s.clock.now))) } }
    due.foldl (fun s f => s.landFlight f) s

/-- Per-cycle counts: cycles in service of every selected mill (R586). -/
def State.countCycles (s : State) (n : Nat) : State :=
  if s.tally.freeze then s
  else
    { s with tally := { s.tally with
        mc := s.tally.mc.map (fun e =>
          if e.2.selects Tly.cycles.code none && s.millLive (e.1 / 8) then (e.1, e.2.add n false) else e)
        dc := s.tally.dc.map (fun e =>
          let u := field e.2.sel.toNat 8 11
          if e.2.sel.getLsbD 31 && decide (field e.2.sel.toNat 0 8 = 0) then
            if u = 0x7FF then
              (e.1, e.2.add (n * ((List.range 576).filter (fun i => s.millLive (e.1 / 64 * 576 + i))).length) false)
            else if u / 576 = e.1 / 64 && s.millLive u then (e.1, e.2.add n false)
            else e
          else e) } }

/-- Patterns of tilled mills that meet a full FIFO in the cycle now reached are schedule faults of their stewards (R93). -/
def State.agenFaults (s : State) : State :=
  s.activeMills.foldl (fun s m => [Af.mx, Af.ca, Af.cb].foldl (fun s f =>
    if (s.mill m).agenFull s.clock.now f then
      s.timeFault m .st { status := .faultSched, kind := 6, resource := 60 + f.num }
    else s) s) s

/-- One arithmetic cycle passes. -/
def State.cycle (s : State) : State :=
  let c := s.clock.now
  let s := s.activeMills.foldl (fun s m => s.millStep m c) s
  let s := (s.countCycles 1).fabricStep
  ({ s with clock := s.clock.pass 1 }.tickOver).agenFaults.landCarts.drainRouters.releaseItems

/-- Nothing is in flight that the passing of a cycle would move. -/
def State.still (s : State) : Bool :=
  s.activeMills.isEmpty && !s.qs.flights.any (·.local_) && !s.routersWait && s.bell.store.isEmpty && !s.fabricRuns

/-- `n` cycles of one tick pass in which nothing moves. -/
def State.leap (s : State) (n : Nat) : State := { s.countCycles n with clock := s.clock.pass n }.tickOver

/-- `n` arithmetic cycles pass, in at most `fuel` moves; while nothing is in flight the rest of a tick passes at once. -/
def State.passFor (s : State) : Nat → Nat → State
  | 0, _ => s
  | fuel + 1, n =>
    if n = 0 then s
    else if s.still then
      let k := max 1 (min n (1248 - s.clock.cyc))
      (s.leap k).passFor fuel (n - k)
    else s.cycle.passFor fuel (n - 1)

/-- `n` arithmetic cycles pass. -/
def State.pass (s : State) (n : Nat) : State := s.passFor n n

/-- Time moves on to cycle `t` where that lies ahead: an event occurs at the first cycle it can. -/
def State.advanceTo (s : State) (t : Nat) : State := s.pass (t - s.clock.now)

end Sys2Proof.Machine
end

