-- ==== Sys2Proof/Machine/Flags.lean ====
section
/-! DEFINITION. The conditions the device computes: comparisons and branch tests. The mills hold no flag
register; a compare writes 0 or 1 (R650), all ones or 0 (R651). -/

namespace Sys2Proof

/-- A comparison. -/
def Cond.holds (c : Cond) {w : Nat} (a b : BitVec w) : Bool :=
  match c with
  | .eq => a == b
  | .ne => a != b
  | .lt => a.slt b
  | .ge => !a.slt b
  | .le => !b.slt a
  | .gt => b.slt a
  | .ltu => a.ult b
  | .geu => !a.ult b

/-- The test of a brc on its E register (04 Table 3). -/
def BrTest.holds (t : BrTest) (v : BitVec 16) : Bool :=
  match t with
  | .zero => v == 0
  | .nonzero => v != 0
  | .neg => v.msb
  | .nonneg => !v.msb

end Sys2Proof
end

