-- ==== Sys2Proof/Machine/Operands.lean ====
section
/-! DEFINITION. The operand forms of the engines: general registers with their ready cycles, argument registers,
immediates, and which sources each operation reads. -/

namespace Sys2Proof.Machine

open Sys2Proof

/-! ## Registers -/

/-- A general register. -/
def Engine.reg (g : Engine) (r : BitVec 5) : Word := Table.get 0 g.regs r.toNat

/-- Write a register whose result is ready in cycle `t`. -/
def Engine.setReg (g : Engine) (r : BitVec 5) (v : Word) (t : Nat) : Engine :=
  { g with regs := Table.put 0 g.regs r.toNat v, ready := Table.put 0 g.ready r.toNat t }

/-- The value of a source operand. -/
def Engine.src (g : Engine) : Src → Word
  | .reg r => g.reg r
  | .arg i => g.args.getD i.toNat 0
  | .imm v => v

/-- The cycle from which a source operand is ready (the interlock of 03 Table 2). -/
def Engine.srcReady (g : Engine) : Src → Nat
  | .reg r => Table.get 0 g.ready r.toNat
  | _ => 0

/-- The value of an alu operand; whether a 16-bit immediate is sign-extended the spec does not say. -/
def Engine.aluSrc (g : Engine) : AluSrc → Word
  | .src a => g.src a
  | .imm16 v => if Config.imm16Signed then v.signExtend 32 else v.zeroExtend 32

/-- The source operands of an operation. -/
def opSrcs : EngOp → List Src
  | .alu (.fn _ _ a (.src b)) => [a, b]
  | .alu (.fn _ _ a (.imm16 _)) => [a]
  | .alu (.select _ c a b) => [.reg c, a, b]
  | .mul _ _ a b => [a, b]
  | .br (some (_, a, b)) _ => [a, b]
  | .ldl _ b _ _ => [b]
  | .stl r b _ w => if w then [.reg r, .reg (r + 1), b] else [.reg r, b]
  | .awr _ v => [v]
  | .agen _ a => [a.base]
  | .post _ en as => en :: as
  | .done v => [v]
  | .sinc _ a => [a]
  | .swait _ v => [v]
  | .mm _ a => (a.readInc.toList ++ a.writeInc.toList).map (·.amount)
  | .strm _ i => i.toList.map (·.amount)
  | .mov a => a.inc.toList.map (·.amount)
  | .cput _ r => [.reg r, .reg (r + 1), .reg (r + 2), .reg (r + 3)]
  | _ => []

/-- The first cycle in which every source operand is ready. -/
def Engine.ready_ (g : Engine) (op : EngOp) : Nat := ((opSrcs op).map g.srcReady).foldl max 0

end Sys2Proof.Machine
end

