-- ==== Sys2Proof/Machine/Engines.lean ====
section
/-! DEFINITION. The engines of a mill (chapter 03): hazards, fetch, invocations, and the
steward's operations. -/

namespace Sys2Proof.Machine

open Sys2Proof

/-! ## Hazards (R100 to R107) -/

/-- What an operation does next: it goes on, or it meets hazards, or it waits on something that is no hazard, given
as the schedule fault it would be in tilled mode. -/
inductive Gate where
  | go
  | hazard (h : Hazard)
  | wait (f : EngFault)
  deriving DecidableEq, Repr

/-- The gate of a list of hazards: the first one decides. -/
def gateOf : List Hazard → Gate
  | [] => .go
  | h :: _ => .hazard h

/-- Hold an operation (R104): the engine waits at it, for what the fault names. -/
def State.hold (s : State) (m : Nat) (e : Eng) (op : EngOp) (f : EngFault) : State :=
  s.modEng m e (fun g => { g with held := some op, heldAt := s.clock.now, heldFor := (f.kind, f.resource) })

/-- A gate that is shut: common mode holds; tilled mode faults, unless audit-stall holds and records (R104 to
R107). A hazard that it has recorded for this operation is not recorded again. -/
def State.shut (s : State) (m : Nat) (e : Eng) (op : EngOp) (f : EngFault) (hazard : Bool) : State :=
  let x := s.mill m
  if !x.tilled then s.hold m e op f
  else if x.auditStall && hazard then
    if (x.eng e).audited = some (f.kind, f.resource) then s.hold m e op f
    else
      (((s.recordSched m (s.schedRec m e f true)).tallyMill .sbAuditStall m 1).modEng m e
        (fun g => { g with audited := some (f.kind, f.resource) })).hold m e op f
  else s.engineFault m e f

/-! ## Invocations (R82, R84) -/

/-- The word of the instruction queue that an engine would take fails its parity (R565). -/
def State.queueBad (s : State) (m : Nat) (e : Eng) : Bool :=
  (s.mill m).parity.contains (.queue e) && !((s.mill m).eng e).queue.isEmpty

/-- Start the invocation at the head of an engine's queue; its first instruction issues in cycle `t`. -/
def Engine.start (g : Engine) (t : Nat) : Engine :=
  match g.queue with
  | [] => g
  | i :: q =>
    { g with queue := q, running := some i, args := i.args, pc := i.entry, begun := g.begun + 1, nextIssue := t,
             stack := [], done := none }

/-- An engine can issue: an invocation runs, and nothing has stopped, frozen, held or halted it. A sieve whose stop
waits for an accepted point goes on (R133). -/
def Mill.able (x : Mill) (e : Eng) : Bool :=
  let g := x.eng e
  g.running.isSome && g.stopped.isNone && g.held.isNone && !x.frozen &&
    (decide (g.dbg.halt ≠ .halted) || g.dbg.step) &&
    (x.stopped.isNone || (decide (e = .sv) && x.sieve.req.isSome))

/-- What a fetch at the program counter meets (R81, R647). -/
inductive Fetch where
  | ok (soft : Bool)
  | fault (st : Status)
  deriving DecidableEq, Repr

/-- Fetch the instruction word of an engine: out of the memory or all zeros is illegal, an uncorrectable word stops. From the second
iteration on, a repeat body comes from the repeat cache (R130). -/
def State.fetch (s : State) (m : Nat) (e : Eng) : Fetch :=
  let pc := ((s.mill m).eng e).pc.toNat
  if e.imemBytes < pc + 8 then .fault .mismatch
  else
    let a := imemCell m e pc
    if e = .sv && ((s.mill m).sieve.rpt.any Rpt.cached) then .ok false
    else if s.badIn a 8 then .fault .faultInteg
    else if leNat (s.bytes a 8) = 0 then .fault .mismatch
    else .ok (markedIn s.soft a 8).isSome

/-- The next instruction of an engine may issue: time has come to its issue cycle without a fault that stops it, no deferred stop
waits, and the fetch succeeds. `none` in the first part: the attempt ended. -/
def State.ready (s : State) (m : Nat) (e : Eng) (op : EngOp) : Bool × State :=
  let g := (s.mill m).eng e
  if !(s.mill m).able e then (false, s)
  else
    let s := s.advanceTo (max g.nextIssue (g.ready_ op))
    let x := s.mill m
    if !x.able e then (false, s)
    else
      let due := if e = .sv && !x.sieve.accepted x.sv.fifoHeld then none else (x.eng e).deferred
      match due with
      | some f => (false, s.engineFault m e f)
      | none =>
        match s.fetch m e with
        | .fault st => (false, s.engineFault m e { status := st })
        | .ok soft => (true, if soft then s.tallyMill .imemCorr m 1 else s)

/-- The instruction has issued: the program counter moves on, and the next may issue one cycle later. A single step
ends in a halt (R603). -/
def State.issued (s : State) (m : Nat) (e : Eng) : State :=
  (s.modEng m e (fun g =>
    { g with pc := g.pc + 8, nextIssue := s.clock.now + 1, audited := none
             dbg := if g.dbg.step && decide (e ≠ .sv) then { g.dbg with halt := .halted, step := false, why := 1 }
                    else g.dbg })).tallyMill (.issue e) m 1

/-- Redirect the program counter, issuing next in cycle `t`. -/
def State.jump (s : State) (m : Nat) (e : Eng) (target : Word) (t : Nat) : State :=
  s.modEng m e (fun g => { g with pc := target, nextIssue := t })

/-! ## Steward operations (03 Table 2, R650) -/

/-- The result of an alu function; `none` for a shift by 32 or more, whose result the spec does not state. -/
def aluResult (f : AluFn) (a b : Word) : Option Word :=
  match f with
  | .add => some (a + b)
  | .sub => some (a - b)
  | .and => some (a &&& b)
  | .or => some (a ||| b)
  | .xor => some (a ^^^ b)
  | .shl => if b.toNat < 32 then some (a <<< b.toNat) else none
  | .shr => if b.toNat < 32 then some (a >>> b.toNat) else none
  | .sar => if b.toNat < 32 then some (a.sshiftRight b.toNat) else none
  | .cmp c => some (if c.holds a b then 1 else 0)

/-- alu: the result is ready one cycle after issue. -/
def State.doAlu (s : State) (m : Nat) (op : AluOp) : State :=
  let g := (s.mill m).st
  let t := s.clock.now + 1
  match op with
  | .fn f rd a b =>
    (match aluResult f (g.src a) (g.aluSrc b) with
     | some v => s.modEng m .st (fun g => g.setReg rd v t)
     | none => let (n, s) := s.draw; s.modEng m .st (fun g => g.setReg rd (BitVec.ofNat 32 n) t))
  | .select rd c a b =>
    let v := if g.reg c ≠ 0 then g.src a else g.src b
    s.modEng m .st (fun g => g.setReg rd v t)

/-- mul.s and mul.u: the 64-bit product in an even register pair, ready three cycles after issue (R650). -/
def mulResult (sgn : Bool) (a b : Word) : Word × Word :=
  let p : BitVec 64 := if sgn then a.signExtend 64 * b.signExtend 64 else a.zeroExtend 64 * b.zeroExtend 64
  (p.extractLsb' 0 32, p.extractLsb' 32 32)

/-- The product into its pair. -/
def State.doMul (s : State) (m : Nat) (sgn : Bool) (rd : BitVec 5) (a b : Src) : State :=
  let g := (s.mill m).st
  let (lo, hi) := mulResult sgn (g.src a) (g.src b)
  let t := s.clock.now + 3
  s.modEng m .st (fun g => (g.setReg rd lo t).setReg (rd + 1) hi t)

/-- The loft address of ldl and stl. DESIGN CHOICE: the sum of base and offset wraps at 32 bits before the range check (log entry
165). -/
def Engine.loftAddr (g : Engine) (base : Src) (off : Word) : Nat := (g.src base + off).toNat

/-- ldl: 4 or 8 bytes, ready six cycles after issue. DESIGN CHOICE: 8 bytes use the register named and the one after it, which may be
any, register 0 coming after register 31; R650 speaks of the pair of a mul alone (log entry 166). -/
def State.doLdl (s : State) (m : Nat) (rd : BitVec 5) (a : Nat) (wide : Bool) : State :=
  let v := leNat (s.bytes (loftCell m a) (if wide then 8 else 4))
  let t := s.clock.now + 6
  let s := s.countSoft (loftCell m a) (if wide then 8 else 4)
  s.modEng m .st (fun g =>
    let g := g.setReg rd (BitVec.ofNat 32 v) t
    if wide then g.setReg (rd + 1) (BitVec.ofNat 32 (v / 2 ^ 32)) t else g)

/-- stl: the bytes land two cycles after issue (R102). -/
def State.doStl (s : State) (m : Nat) (rs : BitVec 5) (a : Nat) (wide : Bool) : State :=
  let g := (s.mill m).st
  let b := toLe 4 (g.reg rs).toNat ++ (if wide then toLe 4 (g.reg (rs + 1)).toNat else [])
  let t := s.clock.now + 2
  s.modMill m (fun x =>
    { x.markReady (loftRes a b.length) t with lands := x.lands ++ [(t, .loft a b .st)] })

/-- Lose cycles at ports (R86): an engine that is not served tries again in the next cycle, and the lost cycle is counted. A port
that has served an engine which comes after this one in the order cannot have had this request in that cycle: it is one of the next
cycle. -/
def State.portRetry (s : State) (m : Nat) (e : Eng) (keys : List Nat) : Nat → State
  | 0 => s
  | n + 1 =>
    let c := s.clock.now
    if (s.mill m).portLost c keys (portRankOf e) then ((s.tallyMill .loftConflict m 1).advanceTo (c + 1)).portRetry m e keys n
    else if (s.mill m).portLate c keys (portRankOf e) then (s.advanceTo (c + 1)).portRetry m e keys n
    else s

/-- Take ports for this cycle, after the cycles lost to engines that come before. -/
def State.takePorts (s : State) (m : Nat) (e : Eng) (keys : List Nat) : State :=
  let s := s.portRetry m e keys ((s.mill m).portLoad + 1)
  s.modMill m (fun x => x.usePorts s.clock.now keys (portRankOf e))

/-- The place of a swait in the order of R98: the counter's key is beyond those of the ports. -/
def waitKey (c : Nat) : Nat := 128 + c

/-- A swait on a counter that has served a swait of this cycle from an engine which comes after its own is one of the next cycle
(R98). -/
def State.waitTurn (s : State) (m : Nat) (e : Eng) (c : Nat) : State :=
  if (s.mill m).portLate s.clock.now [waitKey c] e.num then s.advanceTo (s.clock.now + 1) else s

/-- The words an agen emits in all: the product of its counts. -/
def agenTotal (dims : List (Word × Word)) : Nat := (dims.map (fun d => d.1.toNat)).foldl (· * ·) 1

/-- The value a swait subtracts is there now. -/
def Mill.satisfied (x : Mill) (c v : Nat) : Bool := decide (v ≤ x.cnt c)

/-- The cycle in which increments already complete will satisfy a swait (R95, R97). -/
def Mill.satisfiedAt (x : Mill) (c v : Nat) : Option Nat :=
  let mine := x.incs.filter (fun i => decide (i.counter = c))
  let ok := mine.filter (fun i =>
    decide (v ≤ x.cnt c + ((mine.filter (fun j => decide (j.at_ ≤ i.at_))).map (·.amount)).foldl (· + ·) 0))
  match ok.map (·.at_) with
  | [] => none
  | t :: ts => some (ts.foldl min t + 2)

/-- The form checks of a steward, matrix or carter operation that stop the engine with MISMATCH before it issues
(R649): odd pairs, stack, sync amounts, addresses. -/
def stewardForm (g : Engine) : EngOp → Bool
  | .mul _ rd _ _ => decide (rd.toNat % 2 = 0)
  | .call _ => decide (g.stack.length < 16)
  | .ret => !g.stack.isEmpty
  | .ldl _ b off w => decide (g.loftAddr b off + (if w then 8 else 4) ≤ 2 ^ 20)
  | .stl _ b off w => decide (g.loftAddr b off + (if w then 8 else 4) ≤ 2 ^ 20)
  | .sinc _ a => decide (1 ≤ (g.src a).toNat) && decide ((g.src a).toNat ≤ 255)
  | _ => true

/-- The gate of an operation common to the engines: hazards, counters, FIFOs, queues (R93, R96, R100, R103). -/
def Mill.stewardGate (x : Mill) (g : Engine) (t : Nat) : EngOp → Gate
  | .ldl _ b off w => gateOf ((loftRes (g.loftAddr b off) (if w then 8 else 4)).flatMap (x.readHz t))
  | .stl _ b off w => gateOf ((loftRes (g.loftAddr b off) (if w then 8 else 4)).flatMap (x.writeHz t 2))
  | .awr f _ =>
    if 64 ≤ (x.fifo f).words.length then .wait { status := .faultSched, kind := 6, resource := 60 + f.num } else .go
  | .agen f _ =>
    if 64 ≤ (x.fifo f).words.length ∨ (x.fifo f).agen.isSome then
      .wait { status := .faultSched, kind := 6, resource := 60 + f.num }
    else .go
  | .post d _ _ =>
    if 16 ≤ (x.eng d).queue.length then .wait { status := .faultSched, kind := 7, resource := d.num } else .go
  | .swait c v =>
    if x.satisfied c.toNat (g.src v).toNat then .go
    else .wait { status := .faultSched, kind := 4, resource := c.toNat,
                 stamp := x.satisfiedAt c.toNat (g.src v).toNat }
  | _ => .go

/-- Post invocations that wait on rings for an engine whose queue has room again (R276). -/
def State.postWaiting (s : State) (m : Nat) (e : Eng) : State :=
  let qs := (s.qs.queues.filter (fun q =>
    decide (8192 ≤ q.1) && q.2.post && decide (stageEngine q.2.cons = some (m, e)))).map Prod.fst
  qs.foldl (fun s q => s.postRing q) s

/-- end: the invocation ends, its work item completes OK with its done word, and the next one starts in the cycle
after (R82, R84, R297, R650). -/
def State.doEnd (s : State) (m : Nat) (e : Eng) : State :=
  let t := s.clock.now + 1
  let s := s.endRunning m e .ok
  if s.queueBad m e then s.engineFault m e { status := .faultInteg }
  else
    let s := s.modEng m e (fun g => { g.start t with nextIssue := t })
    s.postWaiting m e

/-- done: the first one in an invocation gives the completion's detail; a second is counted (R297). -/
def State.doDone (s : State) (m : Nat) (v : Word) : State :=
  if ((s.mill m).st.done).isSome then s.tallyMill .doneExtra m 1
  else s.modEng m .st (fun g => { g with done := some v })

/-- The effect of a steward operation, and of sinc, swait and end on every engine. -/
def State.stewardEffect (s : State) (m : Nat) (e : Eng) (op : EngOp) : State :=
  let g := (s.mill m).eng e
  let now := s.clock.now
  match op with
  | .alu op => (s.doAlu m op).issued m e
  | .mul sgn rd a b => (s.doMul m sgn rd a b).issued m e
  | .br test target =>
    let taken := match test with
      | none => true
      | some (c, a, b) => c.holds (g.src a) (g.src b)
    if taken then (s.issued m e).jump m e target (now + 2) else s.issued m e
  | .call target =>
    ((s.issued m e).modEng m e (fun g => { g with stack := g.pc :: g.stack })).jump m e target (now + 2)
  | .ret =>
    (match g.stack with
     | [] => s
     | a :: st => ((s.issued m e).modEng m e (fun g => { g with stack := st })).jump m e a (now + 2))
  | .ldl rd b off w => (s.doLdl m rd (g.loftAddr b off) w).issued m e
  | .stl rs b off w => (s.doStl m rs (g.loftAddr b off) w).issued m e
  | .rbell rd rc =>
    (s.modEng m .st (fun g => (g.setReg rd (s.clock.tick.truncate 32) (now + 2)).setReg rc
      (BitVec.ofNat 32 s.clock.cyc) (now + 2))).issued m e
  | .awr f v =>
    (s.modMill m (fun x => x.setFifo f { x.fifo f with words := (x.fifo f).words ++ [(now + 3, g.src v)] })).issued m e
  | .agen f a =>
    (s.modMill m (fun x => x.setFifo f { x.fifo f with
      agen := if agenTotal a.dims = 0 then none
              else some { base := g.src a.base, dims := a.dims, idx := 0, total := agenTotal a.dims, next := now + 3 } })).issued m e
  | .post d en as =>
    let i : Invocation := { entry := g.src en, args := as.map g.src }
    (s.modEng m d (fun q => q.push now i)).issued m e
  | .done v => (s.doDone m (g.src v)).issued m e
  | .sinc c a => (s.modMill m (fun x => x.incAt now e c.toNat (g.src a).toNat)).issued m e
  | .swait c v =>
    (s.modMill m (fun x =>
      (x.setCnt c.toNat (x.cnt c.toNat - (g.src v).toNat)).usePorts now [waitKey c.toNat] e.num)).issued m e
  | .endInv => (s.issued m e).doEnd m e
  | _ => s

/-- Issue a steward operation, or sinc, swait or end of another engine, whose turn has come. -/
def State.stewardIssue (s : State) (m : Nat) (e : Eng) (op : EngOp) : State :=
  let g := (s.mill m).eng e
  if !stewardForm g op then s.engineFault m e { status := .mismatch }
  else
    let s := match op with
      | .swait c _ => s.waitTurn m e c.toNat
      | _ => s
    match (s.mill m).stewardGate g s.clock.now op with
    | .hazard h => s.shut m e op h.fault true
    | .wait f => s.shut m e op f false
    | .go =>
      match op with
      | .ldl _ b off w =>
        let a := g.loftAddr b off
        let n := if w then 8 else 4
        let s := s.takePorts m e (loftKeys a n false)
        if !(s.mill m).able e then s
        else if s.badIn (loftCell m a) n then s.engineFault m e { status := .faultInteg, addr := some a }
        else s.stewardEffect m e op
      | _ => s.stewardEffect m e op

end Sys2Proof.Machine
end

