-- ==== Sys2Proof/Machine/Sieve.lean ====
section
/-! DEFINITION. The sieve (chapter 04): bundles, their checks, moves, compute operations, branches and repeats. -/

namespace Sys2Proof.Machine

open Sys2Proof

/-! ## Lane arithmetic -/

/-- The extremes of a two's-complement width. -/
def clampI (w : Nat) (v : Int) : Int × Bool :=
  let hi : Int := (2 ^ (w - 1) : Nat) - 1
  let lo : Int := -((2 ^ (w - 1) : Nat) : Int)
  if v < lo then (lo, true) else if hi < v then (hi, true) else (v, false)

/-- v·2^k for k ≥ 0; v divided by 2^(−k) with round-to-nearest-even for k < 0 (R137). -/
def shiftRne (v : Int) (k : Int) : Int :=
  if 0 ≤ k then v * ((2 ^ k.toNat : Nat) : Int)
  else
    let r : Int := (rneShift v.natAbs (-k).toNat : Nat)
    if v < 0 then -r else r

/-- v·2^k for k ≥ 0; truncated toward zero for k < 0. -/
def shiftTrunc (v : Int) (k : Int) : Int :=
  if 0 ≤ k then v * ((2 ^ k.toNat : Nat) : Int)
  else
    let r : Int := (v.natAbs / 2 ^ (-k).toNat : Nat)
    if v < 0 then -r else r

/-- A block of lanes at an exponent brought into the range of block exponents (R118), and then of its mantissas. DESIGN CHOICE: ld, which
rounds nothing itself, rounds the lanes that it shifts right to nearest even (log entry 168). -/
def fitBlock (w : Nat) (lanes : List Int) (ex : Int) : List Int × Int × Bool :=
  if 511 < ex then
    (lanes.map (fun v => if v = 0 then 0 else (clampI w (if v < 0 then -(2 ^ w : Nat) else (2 ^ w : Nat))).1), 511, true)
  else
    let l := if ex < -512 then lanes.map (fun v => shiftRne v (ex + 512)) else lanes
    let r := l.map (clampI w)
    (r.map Prod.fst, max ex (-512), r.any Prod.snd)

/-- Mantissas as lanes of a D register. -/
def toD (l : List Int) : List (BitVec 24) := l.map (BitVec.ofInt 24)
/-- Mantissas as lanes of an A register. -/
def toA (l : List Int) : List (BitVec 56) := l.map (BitVec.ofInt 56)

/-- The mantissas of Dk. -/
def Sieve.dVals (v : Sieve) (k : Nat) : List Int := (List.range 16).map (fun l => (v.dLane k l).toInt)
/-- The mantissas of Ak. -/
def Sieve.aVals (v : Sieve) (k : Nat) : List Int := (List.range 16).map (fun l => (v.aLane k l).toInt)
/-- BXk. -/
def Sieve.bxVal (v : Sieve) (k : Nat) : Int := (Table.get 0 v.bx k).toInt
/-- AXk. -/
def Sieve.axVal (v : Sieve) (k : Nat) : Int := (Table.get 0 v.ax k).toInt
/-- Ei. -/
def Sieve.eReg (v : Sieve) (i : Nat) : BitVec 16 := Table.get 0 v.e i

/-- The value of a scalar operand. -/
def eSrc (v : Sieve) (args : List Word) : ESrc → BitVec 16
  | .e i => v.eReg i.toNat
  | .imm x => x
  | .arg i hi => BitVec.ofNat 16 ((args.getD i.toNat 0).toNat / (if hi then 65536 else 1))

/-- The address of a sieve operand. -/
def svAddr (v : Sieve) (a : SvAddr) : Nat :=
  a.off.toNat + (match a.base with | some i => (v.eReg i.toNat).toNat | none => 0)

/-- Bits below bit w−1 that equal it (R136): 0 to w−1. -/
def redundant (w : Nat) (v : Int) : Nat :=
  let m := if v < 0 then (-v - 1).toNat else v.toNat
  if m = 0 then w - 1 else w - 2 - Nat.log2 m

/-- The smallest count over lanes. -/
def minCount (w : Nat) (l : List Int) : Nat := (l.map (redundant w)).foldl min (w - 1)

/-- A lane function (R651): the result and whether it saturated. -/
def laneFn (f : LaneFn) (a b : BitVec 24) : Int × Bool :=
  match f with
  | .add => clampI 24 (a.toInt + b.toInt)
  | .sub => clampI 24 (a.toInt - b.toInt)
  | .min => (min a.toInt b.toInt, false)
  | .max => (max a.toInt b.toInt, false)
  | .abs => clampI 24 (a.toInt.natAbs : Nat)
  | .neg => clampI 24 (-a.toInt)
  | .and => ((a &&& b).toInt, false)
  | .or => ((a ||| b).toInt, false)
  | .xor => ((a ^^^ b).toInt, false)
  | .cmp c => (if c.holds a b then -1 else 0, false)

/-- xop (R651): 16-bit arithmetic without status. -/
def xopFn (f : XopFn) (a b : BitVec 16) : BitVec 16 :=
  match f with
  | .add => a + b
  | .sub => a - b
  | .min => if a.slt b then a else b
  | .max => if a.slt b then b else a
  | .move => a
  | .cmp c => if c.holds a b then 1 else 0

/-! ## Formats (04 Table 5) -/

/-- The parameters of a vector format. -/
def svFp : SvFmt → Fp
  | .fp32 => fp32
  | .bf16 => { eb := 8, mb := 7, bias := 127, top := .ieee }
  | .fp16 => { eb := 5, mb := 10, bias := 15, top := .ieee }
  | .e4m3 => { eb := 4, mb := 3, bias := 7, top := .oneNan }
  | .e5m2 => { eb := 5, mb := 2, bias := 15, top := .ieee }
  | .e2m3 => { eb := 2, mb := 3, bias := 1, top := .plain }
  | .e3m2 => { eb := 3, mb := 2, bias := 3, top := .plain }
  | .e2m1 => { eb := 2, mb := 1, bias := 1, top := .plain }

/-- The bits of an element. -/
def svBits (f : SvFmt) : Nat := 1 + (svFp f).eb + (svFp f).mb

/-- Bytes of a vector of 16 elements. -/
def svBytes (f : SvFmt) : Nat := 2 * svBits f

/-- The format has an MX form. -/
def svMx : SvFmt → Bool
  | .fp32 => false
  | .bf16 => false
  | .fp16 => false
  | _ => true

/-- emax of an MX element (R142). -/
def svEmax : SvFmt → Int
  | .e4m3 => 8
  | .e5m2 => 15
  | .e3m2 => 4
  | _ => 2

/-- The elements of a packed vector. -/
def unpack (f : SvFmt) (b : List Byte) : List Nat :=
  let x := leNat b
  (List.range 16).map (fun i => field x (i * svBits f) (svBits f))

/-- Pack element codes. -/
def packCodes (bits : Nat) (cs : List Nat) : List Byte :=
  toLe (cs.length * bits / 8) (((List.range cs.length).zip cs).foldl (fun x p => x + p.2 * 2 ^ (p.1 * bits)) 0)

/-- floor(log2 |v|) of a finite nonzero value. -/
def fvLog2 : Fv → Option Int
  | .fin _ m e => if m = 0 then none else some (Nat.log2 m + e)
  | _ => none

/-- x / 2^bx rounded to an integer, to nearest even. -/
def fvRne (v : Fv) (bx : Int) : Int :=
  match v with
  | .fin neg m e => let r : Int := (rneTo m e bx : Nat); if neg then -r else r
  | _ => 0

/-- ldc (R138 to R140): lanes, block exponent and status bits of a vector of values. -/
def ldcBlock (vs : List Fv) (bx : Option Int) : List Int × Int × BitVec 5 :=
  let nan : BitVec 5 := if vs.any Fv.isNan then 2 else 0
  let lane := fun (v : Fv) (b : Int) => match v with
    | .inf neg => clampI 24 (if neg then -(2 ^ 24 : Nat) else (2 ^ 24 : Nat))
    | v => clampI 24 (fvRne v b)
  match bx with
  | some b =>
    let r := vs.map (fun v => lane v b)
    let (l, e, sat) := fitBlock 24 (r.map Prod.fst) b
    (l, e, nan ||| (if r.any Prod.snd || sat then 1 else 0))
  | none =>
    match vs.filterMap fvLog2 with
    | [] =>
      let r := vs.map (fun v => lane v 0)
      (r.map Prod.fst, -512, nan ||| (if r.any Prod.snd then 1 else 0))
    | e :: es =>
      let b := es.foldl max e - 22
      let b := if vs.any (fun v => decide (fvRne v b = (2 ^ 23 : Nat))) then b + 1 else b
      let r := vs.map (fun v => lane v b)
      (r.map Prod.fst, b, nan ||| (if r.any Prod.snd then 1 else 0))

/-- The value of a mantissa at an exponent. -/
def laneFv (m : Int) (ex : Int) : Fv := .fin (decide (m < 0)) m.natAbs ex

/-- stc of 16 lanes (R141): element codes and whether one overflowed. -/
def stcCodes (f : SvFmt) (lanes : List Int) (bx : Int) : List Nat × Bool :=
  let r := lanes.map (fun m => (svFp f).encode (laneFv m bx))
  (r.map Prod.fst, r.any Prod.snd)

/-- An MX element: rounded and saturated to the largest finite value of its sign (R142). -/
def mxCode (f : SvFmt) (v : Fv) : Nat × Bool :=
  let p := svFp f
  match v with
  | .fin neg m e =>
    if m = 0 then (p.code neg 0 0, false)
    else
      let (ex, ma) := p.round m e
      if p.over ex ma then (p.code neg p.maxFinite.1.toNat p.maxFinite.2, true) else (p.code neg ex.toNat ma, false)
  | _ => (0, false)

/-- stc in an MX form (R142): scale code, 32 element codes, saturation. -/
def stcMx (f : SvFmt) (lanes : List Int) (bx : Int) : Nat × List Nat × Bool :=
  let top := (lanes.map Int.natAbs).foldl max 0
  let code : Nat := if top = 0 then 0 else (max 0 (min 254 ((Nat.log2 top : Int) + bx - svEmax f + 127))).toNat
  let r := lanes.map (fun m => mxCode f (scaleFv (laneFv m bx) (127 - (code : Int))))
  (code, r.map Prod.fst, r.any Prod.snd)

/-! ## Polynomial tables (R144 to R146) -/

/-- A table's degree, segment bits, input and output exponents. -/
def polyHead (b : List Byte) : Nat × Nat × Int × Int :=
  (leAt b 0 1, leAt b 1 1, signed 16 (leAt b 2 2), signed 16 (leAt b 4 2))

/-- The table is valid (R146) at a C-store address. -/
def polyValid (b : List Byte) (a : Nat) : Bool :=
  let (d, s, _, _) := polyHead b
  decide (1 ≤ d) && decide (d ≤ 5) && decide (s ≤ 8) && decide (leAt b 6 2 = 0) &&
    decide (a + 8 + 4 * (d + 1) * 2 ^ s ≤ 8192) && decide (a % 8 = 0)

/-- poly of one lane (R145): `seg` gives the 32-bit word at a byte offset from the table's start. -/
def polyLane (word : Nat → Nat) (d s : Nat) (inexp : Int) (m bx : Int) : Int :=
  let x := (clampI 24 (shiftTrunc m (bx - inexp))).1
  let u := (x + (2 ^ 23 : Nat)).toNat
  let j := u / 2 ^ (24 - s)
  let t : Int := (u % 2 ^ (24 - s) : Nat)
  let c := fun i => signed 24 (word (8 + 4 * (d + 1) * j + 4 * i))
  (List.range d).foldl (fun y i => (clampI 24 (c (d - 1 - i) + shiftRne (y * t) (-((24 - s : Nat) : Int)))).1) (c d)

/-! ## Reductions (R147 to R151) -/

/-- The exponent code of an FP32 word (R147). -/
def rexpCode (w : Nat) : Nat :=
  match fp32.decode w with
  | .fin _ m e => if m = 0 then 0 else (max (-126) ((Nat.log2 m : Int) + e) + 127).toNat
  | _ => 255

/-- ralign of one contribution under a code (R149): the reduction word, and status bits. -/
def ralignWord (code w : Nat) : Int × BitVec 5 :=
  if code = 0 ∨ code = 255 then (0, 0)
  else
    let ex : Int := code - 127
    match fp32.decode w with
    | .nan => (0, 2)
    | .inf neg => (if neg then -4294967295 else 4294967295, 1)
    | .fin neg m e =>
      if m ≠ 0 ∧ ex + 1 ≤ (Nat.log2 m : Int) + e then (if neg then -4294967295 else 4294967295, 1)
      else let n : Int := (truncTo m e (ex - 31) : Nat); (if neg then -n else n, 0)

/-- rfin of one sum under a code (R151). -/
def rfinWord (code : Nat) (sum : Int) : Nat :=
  if code = 0 then 0
  else if code = 255 then 0x7FC00000
  else (fp32.encode (.fin (decide (sum < 0)) sum.natAbs ((code : Int) - 158))).1

/-- The 32-bit words of a byte string. -/
def words32 (b : List Byte) (n : Nat) : List Nat := (List.range n).map (fun i => leAt b (4 * i) 4)
/-- The 64-bit words of a byte string. -/
def words64 (b : List Byte) (n : Nat) : List Nat := (List.range n).map (fun i => leAt b (8 * i) 8)

/-! ## Accesses of a bundle -/


/-- A read or write a bundle makes: its resources, cell, bytes and, for a store, its landing delay. -/
inductive SvAcc where
  | bank (y : Bool) (off n : Nat) (land : Option Nat)
  | loft (off n : Nat) (land : Option Nat)
  | cst (off n : Nat)
  | fifo (n land : Nat)
  | bad
  deriving DecidableEq, Repr

/-- The access of a vector move's place. -/
def placeAcc (v : Sieve) (bus : Bus) (p : SvPlace) (n : Nat) (land : Option Nat) : SvAcc :=
  match p, land with
  | .bank a, l => .bank (bus == .y) (svAddr v a) n l
  | .loft a, l => .loft (svAddr v a) n l
  | .fifo, some d => .fifo n d
  | .fifo, none => .bad

/-- The access of a move. -/
def moveAcc (v : Sieve) (bus : Bus) : SvMove → SvAcc
  | .ld src _ _ => placeAcc v bus src 64 none
  | .ldc src f _ _ _ => placeAcc v bus src (svBytes f) none
  | .ldx a n _ _ => .bank (bus == .y) (svAddr v a) n.toNat none
  | .st dst _ => placeAcc v bus dst 64 (some 2)
  | .stc dst f _ sc => placeAcc v bus dst (svBytes f * (if sc.isSome then 2 else 1)) (some 4)
  | .stx a n _ => .bank (bus == .y) (svAddr v a) n.toNat (some 2)

/-- The access of a reduction's destination. -/
def redAcc (v : Sieve) (d : RedDst) (n land : Nat) : SvAcc :=
  match d with
  | .bank y a => .bank y (svAddr v a) n (some land)
  | .fifo => .fifo n land

/-- The accesses of a compute operation. -/
def opAccs (v : Sieve) : SvOp → List SvAcc
  | .mac _ _ _ (.cword a _) => [.cst (svAddr v a) 4]
  | .mac _ _ _ (.cvec a _) => [.cst (svAddr v a) 64]
  | .poly _ _ a => [.cst (svAddr v a) 8]
  | .rexp b a _ => [.bank (b == .y) (svAddr v a) 64 none]
  | .ralign b a _ => [.bank (b == .y) (svAddr v a) 64 none, .fifo 128 4]
  | .rsum xa ya d => [.bank false (svAddr v xa) 64 none, .bank true (svAddr v ya) 64 none, redAcc v d 64 3]
  | .rfin b a _ d => [.bank (b == .y) (svAddr v a) 64 none, redAcc v d 32 4]
  | _ => []

/-- All accesses of a bundle: the compute operation's, then the X-bus and Y-bus moves'. -/
def bundleAccs (v : Sieve) (b : Bundle) : List SvAcc :=
  opAccs v b.op ++ b.moves.map (fun p => moveAcc v p.1 p.2)

/-- An address of a vector is aligned to the vector's size; one of at most 4 bytes is no vector's (R123). -/
def vecAligned (o n : Nat) : Bool := decide (n ≤ 4) || decide (o % n = 0)

/-- The access lies within its store and is aligned (R123); a polynomial table has its own rule (R146). -/
def SvAcc.inRange : SvAcc → Bool
  | .bank _ o n _ => decide (o + n ≤ 2 ^ 14) && vecAligned o n
  | .loft o n _ => decide (o + n ≤ 2 ^ 20) && vecAligned o n
  | .cst o n => decide (o + n ≤ 2 ^ 13) && vecAligned o n
  | .fifo _ _ => true
  | .bad => false

/-- The access is one of the loft forms (R123). -/
def SvAcc.isLoft : SvAcc → Bool
  | .loft _ _ _ => true
  | _ => false

/-- The bytes an access stores to the output FIFO `d` cycles after issue. -/
def SvAcc.fifoAt (d : Nat) : SvAcc → Nat
  | .fifo n l => if l = d then n else 0
  | _ => 0

/-- The buses a bundle names (R121). -/
def busesOf (b : Bundle) : List Bus :=
  (match b.op with
   | .rexp u _ _ => [u]
   | .ralign u _ _ => [u]
   | .rsum _ _ _ => [.x, .y]
   | .rfin u _ _ _ => [u]
   | _ => []) ++ b.moves.map Prod.fst

/-- A bundle that branches. -/
def svBranch (o : SvOp) : Bool :=
  match o with
  | .br _ => true
  | .brc _ _ _ => true
  | _ => false

/-- A bundle that a repeat body must not hold, apart from branches (R131). -/
def bundleForbidden (v : Sieve) (b : Bundle) : Bool :=
  (match b.op with
   | .rpt _ _ _ => true
   | .swait _ _ => true
   | .endInv => true
   | _ => false) || (bundleAccs v b).any SvAcc.isLoft

/-- The form of a repeat (R130, R131). -/
def rptForm (n b : Nat) (body : List BodyForm) : Bool :=
  decide (1 ≤ n) && decide (n ≤ 4096) && decide (1 ≤ b) && decide (b ≤ 16) && decide (body.length = b) &&
    body.all (fun f => decide (f ≠ .forbidden)) && (body.take (b - 1)).all (fun f => decide (f = .plain))

/-- The form of a move (R142, R651). -/
def moveForm (v : Sieve) : SvMove → Bool
  | .ldx _ n _ i => decide (n.toNat ∈ [1, 2, 4]) && (decide (n ≠ 4) || decide (i.toNat % 2 = 0))
  | .stx _ n i => decide (n.toNat ∈ [1, 2, 4]) && (decide (n ≠ 4) || decide (i.toNat % 2 = 0))
  | .ldc _ f _ _ (some _) => svMx f
  | .stc _ f k (some _) => svMx f && decide (v.bxVal k.toNat = v.bxVal (k + 1).toNat)
  | _ => true

/-- The form of a bundle: the checks that stop the sieve with MISMATCH before it issues (04 Table 8, R649). -/
def State.bundleForm (s : State) (m : Nat) (b : Bundle) : Bool :=
  let v := (s.mill m).sieve
  let args := (s.mill m).sv.args
  let accs := bundleAccs v b
  let inBody := v.rpt.isSome
  (busesOf b).Nodup && decide (b.moves.length ≤ 2) && accs.all SvAcc.inRange && b.moves.all (fun p => moveForm v p.2) &&
    !(v.delay.isSome && (bundleForbidden v b || svBranch b.op)) &&
    !(inBody && (bundleForbidden v b ||
      (svBranch b.op && (match v.rpt with | some r => decide (r.pos + 1 ≠ r.body) | none => false)))) &&
    (List.range 8).all (fun d => decide ((accs.map (SvAcc.fifoAt d)).foldl (· + ·) 0 ≤ 128)) &&
    (match b.op with
     | .rpt n k body => rptForm (eSrc v args n).toNat k body
     | .ralign _ _ e => decide ((v.eReg e.toNat).toNat ≤ 255)
     | .rfin _ _ e _ => decide ((v.eReg e.toNat).toNat ≤ 255)
     | .poly _ _ a => polyValid (s.bytes (cstoreCell m (svAddr v a)) 8) (svAddr v a)
     | .sinc _ a => decide (1 ≤ (eSrc v args a).toNat) && decide ((eSrc v args a).toNat ≤ 255)
     | _ => true)

/-- Bytes already issued to the output FIFO that land in cycle `t`. -/
def Mill.fifoLanding (x : Mill) (t : Nat) : Nat :=
  (x.lands.map (fun l => match l with
    | (c, .fifo b) => if c = t then b.length else 0
    | _ => 0)).foldl (· + ·) 0

/-- Bytes that stores already issued will append. -/
def Mill.fifoComing (x : Mill) : Nat :=
  (x.lands.map (fun l => match l with
    | (_, .fifo b) => b.length
    | _ => 0)).foldl (· + ·) 0

/-- The bundle's stores fit the output FIFO (R132). -/
def Mill.fifoFits (x : Mill) (t : Nat) (accs : List SvAcc) : Bool :=
  let all := (accs.map (fun a => match a with | .fifo n _ => n | _ => 0)).foldl (· + ·) 0
  decide (all = 0) ||
    (decide (x.sieve.fifo.length + x.fifoComing + all ≤ 2048) &&
      (List.range 8).all (fun d =>
        decide ((accs.map (SvAcc.fifoAt d)).foldl (· + ·) 0 = 0) ||
        decide (x.fifoLanding (t + d) + (accs.map (SvAcc.fifoAt d)).foldl (· + ·) 0 ≤ 128)))

/-- The hazards of an access (R100, R103). How full the output FIFO is comes under R132. -/
def Mill.accHz (x : Mill) (t : Nat) : SvAcc → List Hazard
  | .bank y _ _ none => x.readHz t (56 + bn y)
  | .bank y _ _ (some d) => x.writeHz t d (56 + bn y)
  | .loft o n none => (loftRes o n).flatMap (x.readHz t)
  | .loft o n (some d) => (loftRes o n).flatMap (x.writeHz t d)
  | .cst _ _ => x.readHz t 58
  | .fifo _ d => x.writeHz t d 59
  | .bad => []

/-- The ready marks an access sets (R102). -/
def Mill.accMark (x : Mill) (t : Nat) : SvAcc → Mill
  | .bank y _ _ (some d) => x.markReady [56 + bn y] (t + d)
  | .loft o n (some d) => x.markReady (loftRes o n) (t + d)
  | .fifo _ d => x.markReady [59] (t + d)
  | _ => x

/-- The gate of a bundle: hazards, output-FIFO room, and a swait's counter (R96, R132). -/
def Mill.bundleGate (x : Mill) (t : Nat) (b : Bundle) : Gate :=
  let accs := bundleAccs x.sieve b
  match accs.flatMap (x.accHz t) with
  | h :: _ => .hazard h
  | [] =>
    if !x.fifoFits t accs then .wait { status := .faultSched, kind := 2, resource := 59 }
    else
      match b.op with
      | .swait c v =>
        let n := (eSrc x.sieve x.sv.args v).toNat
        if x.satisfied c.toNat n then .go
        else .wait { status := .faultSched, kind := 4, resource := c.toNat, stamp := x.satisfiedAt c.toNat n }
      | _ => .go

/-! ## Results -/

/-- The cells of a vector place. -/
def placeCell (m : Nat) (v : Sieve) (bus : Bus) : SvPlace → Nat
  | .bank a => bankCell m (bus == .y) (svAddr v a)
  | .loft a => loftCell m (svAddr v a)
  | .fifo => 0

/-- A store landing at a place. -/
def placeLand (v : Sieve) (bus : Bus) (p : SvPlace) (b : List Byte) : Land :=
  match p with
  | .bank a => .bank (bus == .y) (svAddr v a) b
  | .loft a => .loft (svAddr v a) b .sv
  | .fifo => .fifo b

/-- The extra latency of a loft source (R123). -/
def loftExtra : SvPlace → Nat
  | .loft _ => 4
  | _ => 0

/-- A D register with its exponent and status. -/
def landD (t k : Nat) (l : List Int) (ex : Int) (bits : BitVec 5) : List (Nat × Land) :=
  [(t, .d k (toD l)), (t, .bx k (BitVec.ofInt 10 ex))] ++ (if bits = 0 then [] else [(t, .sat bits)])

/-- The landings of a move issued in cycle `t` (04 Table 2). DESIGN CHOICE: the register after D7 is D0 (R142 names no D8; log
entry 170). -/
def State.moveLands (s : State) (m t : Nat) (bus : Bus) (mv : SvMove) : List (Nat × Land) :=
  let v := (s.mill m).sieve
  match mv with
  | .ld src k bx =>
    let ls := (words32 (s.bytes (placeCell m v bus src) 64) 16).map (fun w => signed 24 w)
    let c := t + 2 + loftExtra src
    (match bx with
     | none => [(c, .d k.toNat (toD ls))]
     | some i =>
       let (l, ex, sat) := fitBlock 24 ls (v.eReg i.toNat).toInt
       landD c k.toNat l ex (if sat then 1 else 0))
  | .ldc src f k bx sc =>
    let cs := unpack f (s.bytes (placeCell m v bus src) (svBytes f))
    let c := t + 4 + loftExtra src
    let vals := cs.map (svFp f).decode
    let b := bx.map (fun i => (v.eReg i.toNat).toInt)
    (match sc with
     | none => let (l, ex, bits) := ldcBlock vals b; landD c k.toNat l ex bits
     | some i =>
       let code := (v.eReg i.toNat).toNat % 256
       if code = 255 then
         let (l, ex, bits) := ldcBlock (List.replicate 16 (.fin false 0 0)) b
         landD c k.toNat l ex (bits ||| 2)
       else
         let (l, ex, bits) := ldcBlock (vals.map (fun x => scaleFv x ((code : Int) - 127))) b
         landD c k.toNat l ex bits)
  | .ldx a n sgn i =>
    let x := leNat (s.bytes (bankCell m (bus == .y) (svAddr v a)) n.toNat)
    if n = 4 then [(t + 2, .e i.toNat (BitVec.ofNat 16 x)), (t + 2, .e (i + 1).toNat (BitVec.ofNat 16 (x / 65536)))]
    else if n = 1 then [(t + 2, .e i.toNat (if sgn then BitVec.ofInt 16 (signed 8 x) else BitVec.ofNat 16 x))]
    else [(t + 2, .e i.toNat (BitVec.ofNat 16 x))]
  | .st dst k =>
    let b := (v.dVals k.toNat).flatMap (fun x => toLe 4 (BitVec.ofInt 32 x).toNat)
    [(t + 2, placeLand v bus dst b)]
  | .stc dst f k none =>
    let (cs, sat) := stcCodes f (v.dVals k.toNat) (v.bxVal k.toNat)
    (t + 4, placeLand v bus dst (packCodes (svBits f) cs)) :: (if sat then [(t + 4, .sat 1)] else [])
  | .stc dst f k (some i) =>
    let (code, cs, sat) := stcMx f (v.dVals k.toNat ++ v.dVals (k + 1).toNat) (v.bxVal k.toNat)
    [(t + 4, placeLand v bus dst (packCodes (svBits f) cs)), (t + 4, .elo i.toNat (BitVec.ofNat 8 code))] ++ (if sat then [(t + 4, .sat 1)] else [])
  | .stx a n i =>
    let x := (v.eReg i.toNat).toNat + (if n = 4 then (v.eReg (i + 1).toNat).toNat * 65536 else 0)
    [(t + 2, .bank (bus == .y) (svAddr v a) (toLe n.toNat x))]

/-- The second operand of mul, mac and msub: its lanes and exponent (R127). -/
def State.macOperand (s : State) (m : Nat) (v : Sieve) : MacSrc → List Int × Int
  | .d j => (v.dVals j.toNat, v.bxVal j.toNat)
  | .cword a e =>
    (List.replicate 16 (signed 24 (leNat (s.bytes (cstoreCell m (svAddr v a)) 4))), (v.eReg e.toNat).toInt)
  | .cvec a e =>
    ((words32 (s.bytes (cstoreCell m (svAddr v a)) 64) 16).map (fun w => signed 24 w), (v.eReg e.toNat).toInt)

/-- The accumulator that a mac or msub adds to (R127): with all the products of the operations before it, landed or not. -/
def Mill.accBase (x : Mill) (k : Nat) : List (BitVec 56) :=
  (x.lands.reverse.findSome? (fun l => match l.2 with
    | .acc j lanes => if j = k then some lanes else none
    | _ => none)).getD ((List.range 16).map (fun l => x.sieve.aLane k l))

/-- rnd (R143): the rounded block of an accumulator. -/
def rndBlock (lanes : List Int) (ax : Int) (bx : Option Int) : List Int × Int × Bool :=
  match bx with
  | some b =>
    let r := lanes.map (fun x => clampI 24 (shiftRne x (ax - b)))
    let (l, ex, sat) := fitBlock 24 (r.map Prod.fst) b
    (l, ex, r.any Prod.snd || sat)
  | none =>
    let k := ((List.range 40).find? (fun (k : Nat) => lanes.all (fun x => !(clampI 24 (shiftRne x (-(k : Int)))).2))).getD 40
    fitBlock 24 (lanes.map (fun x => shiftRne x (-(k : Int)))) (ax + k)

/-- norm (R137) of lanes of a width. -/
def normBlock (w : Nat) (lanes : List Int) (ex c : Int) : List Int × Int × Bool :=
  let r := lanes.map (fun x => clampI w (shiftRne x c))
  let (l, e, sat) := fitBlock w (r.map Prod.fst) (ex - c)
  (l, e, r.any Prod.snd || sat)

/-- A reduction's store. -/
def redLand (v : Sieve) (d : RedDst) (b : List Byte) : Land :=
  match d with
  | .bank y a => .bank y (svAddr v a) b
  | .fifo => .fifo b

/-- The landings of a compute operation issued in cycle `t` (04 Table 3). -/
def State.opLands (s : State) (m t : Nat) (op : SvOp) : List (Nat × Land) :=
  let v := (s.mill m).sieve
  let args := (s.mill m).sv.args
  match op with
  | .lane f k i b =>
    let y := fun l => match b with
      | .d j => v.dLane j.toNat l
      | .imm x => if Config.laneImmSigned then x.signExtend 24 else x.zeroExtend 24
    let r := (List.range 16).map (fun l => laneFn f (v.dLane i.toNat l) (y l))
    landD (t + 1) k.toNat (r.map Prod.fst) (v.bxVal i.toNat) (if r.any Prod.snd then 1 else 0)
  | .sel k c a b =>
    let r := (List.range 16).map (fun l =>
      (if v.dLane c.toNat l ≠ 0 then v.dLane a.toNat l else v.dLane b.toNat l).toInt)
    landD (t + 1) k.toNat r (v.bxVal a.toNat) 0
  | .mac f a i b =>
    let (ys, ey) := s.macOperand m v b
    let ps := ((v.dVals i.toNat).zip ys).map (fun p => p.1 * p.2)
    let r := macLanes f ((s.mill m).accBase a.toNat) (v.axVal a.toNat) ps (v.bxVal i.toNat + ey)
    (t + 3, .acc a.toNat (r.map Prod.fst)) :: (if r.any Prod.snd then [(t + 3, .sat 4)] else [])
  | .aclr a ex =>
    let (_, e, sat) := fitBlock 56 [] (eSrc v args ex).toInt
    [(t + 1, .a a.toNat (List.replicate 16 0) (BitVec.ofInt 10 e))] ++ (if sat then [(t + 1, .sat 1)] else [])
  | .rnd a j bx =>
    let (l, ex, sat) := rndBlock (v.aVals a.toNat) (v.axVal a.toNat) (bx.map (fun i => (v.eReg i.toNat).toInt))
    landD (t + 2) j.toNat l ex (if sat then 1 else 0)
  | .lsc k j => landD (t + 1) j.toNat ((v.dVals k.toNat).map (fun x => (redundant 24 x : Int))) 0 0
  | .maxe k e =>
    let l := v.dVals k.toNat
    let r : Int := if l.all (fun x => decide (x = 0)) then -32768 else v.bxVal k.toNat + 22 - minCount 24 l
    [(t + 3, .e e.toNat (BitVec.ofInt 16 r))]
  | .normD k j c =>
    let l := v.dVals k.toNat
    let n : Int := match c with
      | .val x => (eSrc v args x).toInt
      | .auto => minCount 24 l
    let (l, ex, sat) := normBlock 24 l (v.bxVal k.toNat) n
    landD (t + 1) j.toNat l ex (if sat then 1 else 0)
  | .normA a c =>
    let l := v.aVals a.toNat
    let n : Int := match c with
      | .val x => (eSrc v args x).toInt
      | .auto => minCount 56 l
    let (l, ex, sat) := normBlock 56 l (v.axVal a.toNat) n
    [(t + 2, .a a.toNat (toA l) (BitVec.ofInt 10 ex))] ++ (if sat then [(t + 2, .sat 1)] else [])
  | .poly k j a =>
    let base := svAddr v a
    let (d, sb, inexp, oexp) := polyHead (s.bytes (cstoreCell m base) 8)
    let word := fun o => leNat (s.bytes (cstoreCell m (base + o)) 4)
    let r := (v.dVals k.toNat).map (fun x => polyLane word d sb inexp x (v.bxVal k.toNat))
    let (l, ex, sat) := fitBlock 24 r oexp
    landD (t + 3 + 2 * d) j.toNat l ex (if sat then 1 else 0)
  | .rexp b a e =>
    let cs := (words32 (s.bytes (bankCell m (b == .y) (svAddr v a)) 64) 16).map rexpCode
    let r := cs.foldl (fun (x : Int) (c : Nat) => max x (c : Int)) (v.eReg e.toNat).toInt
    [(t + 3, .e e.toNat (BitVec.ofInt 16 r))]
  | .ralign b a e =>
    let r := (words32 (s.bytes (bankCell m (b == .y) (svAddr v a)) 64) 16).map (ralignWord (v.eReg e.toNat).toNat)
    let bits := r.foldl (fun (x : BitVec 5) p => x ||| p.2) 0
    (t + 4, .fifo (r.flatMap (fun p => toLe 8 (BitVec.ofInt 64 p.1).toNat))) ::
      (if bits = 0 then [] else [(t + 4, .sat bits)])
  | .rsum xa ya d =>
    let xs := words64 (s.bytes (bankCell m false (svAddr v xa)) 64) 8
    let ys := words64 (s.bytes (bankCell m true (svAddr v ya)) 64) 8
    let r := (xs.zip ys).map (fun p => signed 64 p.1 + signed 64 p.2)
    let ovf := r.any (fun z => (clampI 64 z).2)
    (t + 3, redLand v d (r.flatMap (fun z => toLe 8 (BitVec.ofInt 64 z).toNat))) ::
      (if ovf then [(t + 3, .sat 16)] else [])
  | .rfin b a e d =>
    let code := (v.eReg e.toNat).toNat
    let r := (words64 (s.bytes (bankCell m (b == .y) (svAddr v a)) 64) 8).map (fun w => rfinWord code (signed 64 w))
    (t + 4, redLand v d (r.flatMap (toLe 4))) :: (if code = 255 then [(t + 4, .sat 8)] else [])
  | .xop f d a b => [(t + 1, .e d.toNat (xopFn f (eSrc v args a) (eSrc v args b)))]
  | _ => []

/-- The landings of a bundle in the order of R120 and R126: FIFO stores compute, X, Y; then registers and other stores
X, Y, compute, so that the last to land stands. -/
def State.bundleLands (s : State) (m t : Nat) (b : Bundle) : List (Nat × Land) :=
  let op := s.opLands m t b.op
  let mv := fun (u : Bus) => (b.moves.filter (fun p => p.1 == u)).flatMap (fun p => s.moveLands m t p.1 p.2)
  let isFifo := fun (p : Nat × Land) => match p.2 with
    | .fifo _ => true
    | _ => false
  (op ++ mv .x ++ mv .y).filter isFifo ++ (mv .x ++ mv .y ++ op).filter (fun p => !isFifo p)

/-! ## Control flow (R128 to R131) -/

/-- The branch decision of a bundle: its target when taken. -/
def branchOf (v : Sieve) : SvOp → Option (Option Word)
  | .br a => some (some a)
  | .brc t e a => some (if t.holds (v.eReg e.toNat) then some a else none)
  | _ => none

/-- The repeat, delay-slot and program-counter state after a bundle has issued at `pc`. -/
def Sieve.flow (v : Sieve) (args : List Word) (pc : Word) (op : SvOp) : Sieve × Word :=
  match v.rpt with
  | some r =>
    if r.pos + 1 < r.body then ({ v with rpt := some { r with pos := r.pos + 1 } }, pc + 8)
    else if 1 < r.left then ({ v with rpt := some { r with pos := 0, left := r.left - 1, cached := true } }, r.start)
    else
      match branchOf v op with
      | some t => ({ v with rpt := none, delay := some { left := 2, target := t } }, pc + 8)
      | none => ({ v with rpt := none }, pc + 8)
  | none =>
    match v.delay with
    | some d =>
      if 1 < d.left then ({ v with delay := some { d with left := d.left - 1 } }, pc + 8)
      else ({ v with delay := none }, d.target.getD (pc + 8))
    | none =>
      match op with
      | .rpt n b body =>
        ({ v with rpt := some { start := pc + 8, body := b, pos := 0, left := (eSrc v args n).toNat,
                                branch := decide (.branch ∈ body) } }, pc + 8)
      | op =>
        match branchOf v op with
        | some t => ({ v with delay := some { left := 2, target := t } }, pc + 8)
        | none => (v, pc + 8)

/-- A stop request takes effect at an accepted point (R133). -/
def State.acceptStop (s : State) (m : Nat) (r : StopReq) : State :=
  let s := s.modMill m (fun x => { x with sieve := { x.sieve with req := none } })
  match r with
  | .halt why bp =>
    s.modEng m .sv (fun g =>
      { g with dbg := { g.dbg with halt := .halted, why := BitVec.ofNat 2 why, bp := BitVec.ofNat 2 bp } })
  | .withdraw => s.endRunning m .sv .aborted
  | .mill => s.modEng m .sv (fun g => { g with held := none })

/-- A waiting stop request whose point has come: from the cycle after its arrival, at an accepted point (R133). -/
def State.stopDue (s : State) (m : Nat) : Option (Nat × StopReq) :=
  let x := s.mill m
  match x.sieve.req with
  | some (t, r) => if x.sieve.accepted x.sv.fifoHeld ∧ t < s.clock.now then some (t, r) else none
  | none => none

/-- The bundle issues: results in flight, marks, sync effects, control flow; a step ends at an accepted point (R135). -/
def State.bundleGo (s : State) (m : Nat) (b : Bundle) : State :=
  let t := s.clock.now
  let v := (s.mill m).sieve
  let args := (s.mill m).sv.args
  let accs := bundleAccs v b
  let ls := s.bundleLands m t b
  let (v', pc') := v.flow args (s.mill m).sv.pc b.op
  let s := s.modMill m (fun x =>
    let x := accs.foldl (fun x a => x.accMark t a) x
    let x := { x with lands := x.lands ++ ls, sieve := v' }
    match b.op with
    | .sinc c a => x.incAt t .sv c.toNat (eSrc v args a).toNat
    | .swait c n => (x.setCnt c.toNat (x.cnt c.toNat - (eSrc v args n).toNat)).usePorts t [waitKey c.toNat] Eng.sv.num
    | _ => x)
  let s := (s.issued m .sv).modEng m .sv (fun g => { g with pc := pc' })
  let s := if b.op = .endInv then s.doEnd m .sv else s
  let done := (s.mill m).sieve.accepted false
  s.modEng m .sv (fun g =>
    if g.dbg.step && done then { g with dbg := { g.dbg with halt := .halted, step := false, why := 1 } } else g)

/-- A read of the bundle meets an uncorrectable word (R566). -/
def State.bundleBad (s : State) (m : Nat) (accs : List SvAcc) : Option (Option Nat) :=
  accs.findSome? (fun a => match a with
    | .bank y o n none => if s.badIn (bankCell m y o) n then some none else none
    | .loft o n none => if s.badIn (loftCell m o) n then some (some o) else none
    | .cst o n => if s.badIn (cstoreCell m o) n then some none else none
    | _ => none)

/-- Count corrected words that a bundle's reads meet (R565). -/
def State.bundleSoft (s : State) (m : Nat) (accs : List SvAcc) : State :=
  accs.foldl (fun s a => match a with
    | .bank y o n none => s.countSoft (bankCell m y o) n
    | .loft o n none => s.countSoft (loftCell m o) n
    | .cst o n => s.countSoft (cstoreCell m o) n
    | _ => s) s

/-- The read ports that a bundle uses in its cycle of issue (R86). -/
def bundleKeys (accs : List SvAcc) : List Nat :=
  accs.flatMap (fun a => match a with
    | .loft o n none => loftKeys o n false
    | _ => [])

/-- A bundle of the sieve whose turn has come. -/
def State.svIssue (s : State) (m : Nat) (b : Bundle) : State :=
  match s.stopDue m with
  | some (_, r) => s.acceptStop m r
  | none =>
    if !s.bundleForm m b then s.engineFault m .sv { status := .mismatch }
    else
      let s := match b.op with
        | .swait c _ => s.waitTurn m .sv c.toNat
        | _ => s
      match (s.mill m).bundleGate s.clock.now b with
      | .hazard h => s.shut m .sv (.bundle b) h.fault true
      | .wait f => s.shut m .sv (.bundle b) f false
      | .go =>
        let accs := bundleAccs (s.mill m).sieve b
        let s := s.takePorts m .sv (bundleKeys accs)
        if !(s.mill m).able .sv then s
        else
          match s.bundleBad m accs with
          | some a => s.engineFault m .sv { status := .faultInteg, addr := a }
          | none => (s.bundleSoft m accs).bundleGo m b

end Sys2Proof.Machine
end

