-- ==== Sys2Proof/Machine/Streams.lean ====
section
/-! DEFINITION. Streams, moves and carts (chapter 08): descriptors and their checks, the walk of a transfer, page faults
and resumes, re-arms, cancellation, puts and takes. -/

namespace Sys2Proof.Machine

open Sys2Proof

/-! ## Descriptor fields (R256) -/

/-- Access mode: 0 plain, 1 transposing, 2 gathering, 3 refused. -/
def descMode (d : DescBytes) : Nat := leAt d 0 1 % 4
/-- Flag bits of the mode byte: 2 afifo, 3 bg, 4 cart_in, 5 cart_out, 6 last, 7 cq. -/
def descFlag (d : DescBytes) (i : Nat) : Bool := bitOf (leAt d 0 1) i
/-- afifo. -/
def descAf (d : DescBytes) : Bool := descFlag d 2
/-- cart_in. -/
def descIn (d : DescBytes) : Bool := descFlag d 4
/-- cart_out. -/
def descOut (d : DescBytes) : Bool := descFlag d 5
/-- last. -/
def descLast (d : DescBytes) : Bool := descFlag d 6
/-- Element format. -/
def descFmt (d : DescBytes) : Nat := leAt d 1 1
/-- Generation. -/
def descGen (d : DescBytes) : Nat := leAt d 2 1
/-- Completion queue, where one is asked for. -/
def descCq (d : DescBytes) : Option Nat := if descFlag d 7 then some (leAt d 4 2) else none
/-- Cart ring. -/
def descRing (d : DescBytes) : Nat := leAt d 6 2
/-- Source address. -/
def descSrc (d : DescBytes) : Nat := leAt d 8 6
/-- Destination address. -/
def descDst (d : DescBytes) : Nat := leAt d 14 6
/-- Elements per row. -/
def descN0 (d : DescBytes) : Nat := leAt d 20 4
/-- Rows of dimension 1. -/
def descN1 (d : DescBytes) : Nat := leAt d 24 4
/-- Count of dimension 2. -/
def descN2 (d : DescBytes) : Nat := leAt d 28 2
/-- Count of dimension 3. -/
def descN3 (d : DescBytes) : Nat := leAt d 30 2
/-- Stride of dimension 1, 2 or 3. -/
def descS (d : DescBytes) (i : Nat) : Int := signed 32 (leAt d (28 + 4 * i) 4)
/-- Destination pitch. -/
def descPitch (d : DescBytes) : Nat := leAt d 44 4
/-- Index stream. -/
def descIdx (d : DescBytes) : Nat := leAt d 48 6
/-- Tag. -/
def descTag (d : DescBytes) : Nat := leAt d 54 2

/-- Bits of an element. -/
def fmtBits : Nat → Nat
  | 0 => 8
  | 1 => 16
  | 2 => 32
  | 3 => 64
  | 4 => 4
  | _ => 6

/-- Row length in bytes. -/
def descRow (d : DescBytes) : Nat := descN0 d * fmtBits (descFmt d) / 8

/-- Length of a destination row: a transposed row holds n1 elements (R259). -/
def descDstRow (d : DescBytes) : Nat :=
  if descMode d = 1 then descN1 d * fmtBits (descFmt d) / 8 else descRow d

/-- Distance between destination rows; a pitch of 0 is packed. -/
def descStep (d : DescBytes) : Nat := if descPitch d = 0 then descDstRow d else descPitch d

/-- The destination alignment of R258 for an address of the carter of mill `m`. -/
def dstAlign (m a : Nat) : Nat :=
  match field a 44 4 with
  | 1 => if addrMill a = m then 4 else 64
  | 2 => 4
  | 3 => 1
  | _ => 64

/-- A stream descriptor address field that is unused is zero; a used one has no unassigned bit set (R255, R256). -/
def addrField (used : Bool) (a : Nat) : Bool := if used then streamAddrOk a else decide (a = 0)

/-- The check of R257, but for what depends on memory: complement, reserved fields, codes, counts, the combinations of
R259 and the alignment of R258. -/
def descOk (m : Nat) (d : DescBytes) : Bool :=
  let cin := descIn d
  let cout := descOut d
  let mode := descMode d
  let row := descRow d
  let al := dstAlign m (descDst d)
  decide (d.length = 64) &&
  decide (leAt d 60 4 = (~~~ xorWords5 d).toNat) &&
  decide (leAt d 3 1 = 0) && decide (leAt d 56 4 = 0) &&
  decide (mode ≠ 3) && decide (descFmt d ≤ 5) &&
  (match descCq d with | some q => decide (4096 ≤ q) && decide (q < 8192) | none => true) &&
  (if cin || cout then decide (8192 ≤ descRing d) && decide (descRing d < 32768) else true) &&
  addrField (!cin) (descSrc d) && addrField (!cout) (descDst d) && addrField (decide (mode = 2)) (descIdx d) &&
  (if cin then
    decide (mode = 0) && !descAf d && decide (descN0 d = 0) && decide (descN1 d = 0) && decide (descN2 d = 0) &&
      decide (descN3 d = 0) && decide (leAt d 32 12 = 0)
   else
    decide (0 < descN0 d) && decide (0 < descN1 d) && decide (0 < descN2 d) && decide (0 < descN3 d) &&
      decide (descN0 d * fmtBits (descFmt d) % 8 = 0)) &&
  (if cout then decide (descPitch d = 0) else true) &&
  (if mode = 1 then
    decide (descFmt d ≤ 2) && decide (row % 64 = 0) && decide (descDstRow d % 64 = 0)
   else true) &&
  (if mode = 2 then decide (descN2 d = 1) && decide (descN3 d = 1) && !descAf d else true) &&
  (if cout then true
   else decide (descDst d % al = 0) && decide (descDstRow d % al = 0) && decide (descPitch d % al = 0))

/-! ## Addresses within a space (R260) -/

/-- The part of a stream address that names its store. -/
def addrHead (a : Nat) : Nat :=
  match field a 44 4 with
  | 0 => a / 2 ^ 40 * 2 ^ 40
  | 1 => a / 2 ^ 20 * 2 ^ 20
  | 2 => a / 2 ^ 14 * 2 ^ 14
  | _ => a / 2 ^ 13 * 2 ^ 13

/-- The bytes of the store. -/
def addrLimit (a : Nat) : Nat :=
  match field a 44 4 with
  | 0 => 2 ^ 40
  | 1 => 2 ^ 20
  | 2 => 2 ^ 14
  | _ => 4608

/-- An address moved by `delta`, modulo 2^40 within its space; `none` when `n` bytes there fall outside it. -/
def addrAdd (a : Nat) (delta : Int) (n : Nat) : Option Nat :=
  let o := (((a - addrHead a : Nat) : Int) + delta) % 2 ^ 40
  if o.toNat + n ≤ addrLimit a then some (addrHead a + o.toNat) else none

/-- Bytes to the end of the 2 MiB page of an address. -/
def pageRoom (a : Nat) : Nat := 2 ^ 21 - a % 2 ^ 21

/-- Bytes before an access must end: at 4 KiB in space 0 (R481), at the page elsewhere. -/
def ioRoom (a : Nat) : Nat := if field a 44 4 = 0 then 4096 - a % 4096 else pageRoom a

/-! ## Slots and their records (R262, R281) -/

/-- Change a slot's stream-state record. -/
def State.modSsr (s : State) (m k : Nat) (f : Ssr → Ssr) : State :=
  s.modMill m (fun x => { x with ssr := Table.upd {} x.ssr k f })

/-- The stream address of the current descriptor. -/
def Slot.descAddr (sl : Slot) : Nat :=
  match sl.work with
  | .stream l => l + 64 * sl.ended
  | .move _ => 0

/-- The flag bit 4 of R281. -/
def Slot.shadowFlag (sl : Slot) : Nat := if sl.shadow.isSome || sl.heldRearm then 16 else 0

/-- Write a slot and bring its record up to date with its position. -/
def State.putSlot (s : State) (m k : Nat) (sl : Slot) (state flags addr : Nat) : State :=
  (s.setSlot m k (some sl)).modSsr m k (fun r =>
    { r with desc := sl.descAddr, gen := (sl.descs.head?.map descGen).getD 0, state := state, pos := sl.pos,
             faultAddr := addr, flags := flags + sl.shadowFlag })

/-! ## Scoreboard spans of a transfer (R102) -/

/-- The scoreboard resources of `n` bytes at a stream address, where they lie in the carter's own mill. -/
def spanRes (m a n : Nat) : List Nat :=
  if n = 0 then []
  else if field a 44 4 = 1 ∧ addrMill a = m then
    loftRes (a % 2 ^ 20) (min n (2 ^ 20 - a % 2 ^ 20))
  else if field a 44 4 = 2 ∧ addrMill a = m then [56 + bn (bitOf a 14)]
  else []

/-- Least and greatest offset that a stride reaches over a count. -/
def strideHull (n : Nat) (st : Int) : Int × Int :=
  let e := st * ((n - 1 : Nat) : Int)
  (min 0 e, max 0 e)

/-- Resources of a transfer's source. The rows of a gathering transfer and of one that takes its addresses from the FIFO are marked
each as it begins, and the carts of one that reads carts as it takes them. -/
def srcRes (m : Nat) (d : DescBytes) : List Nat :=
  if descIn d || decide (descMode d = 2) || descAf d then []
  else
    let h := [strideHull (descN1 d) (descS d 1), strideHull (descN2 d) (descS d 2), strideHull (descN3 d) (descS d 3)]
    let lo := (h.map Prod.fst).foldl (· + ·) (0 : Int)
    let hi := (h.map Prod.snd).foldl (· + ·) (0 : Int)
    match addrAdd (descSrc d) lo ((hi - lo).toNat + descRow d) with
    | some a => spanRes m a ((hi - lo).toNat + descRow d)
    | none => spanRes m (descSrc d) (descRow d)

/-- Rows that a transfer writes. -/
def descRows (d : DescBytes) : Nat :=
  (if descMode d = 1 then descN0 d else descN1 d) * descN2 d * descN3 d

/-- Resources of a transfer's destination. One that reads carts knows how much it writes as it takes each cart, and one that fills
carts marks their buffers. -/
def dstSpan (m : Nat) (d : DescBytes) : List Nat :=
  if descOut d || descIn d then []
  else spanRes m (descDst d) ((descRows d - 1) * descStep d + descDstRow d)

/-! ## Ring puts and takes by the device (R273, R275) -/

/-- The ring body lies in the loft of mill `m`. -/
def State.ringLocal (s : State) (m q : Nat) : Bool :=
  let b := (s.queue q).base
  decide (field b 44 4 = 1) && decide (addrMill b = m)

/-- The ring body lies in the loft of a mill that is absent or out of service, to which no packet is sent (R239). -/
def State.ringAbsent (s : State) (q : Nat) : Bool :=
  let b := (s.queue q).base
  decide (field b 44 4 = 1) && !s.millLive (addrMill b)

/-- Inject the packet of a cart for a ring elsewhere: kind 3 at P2, or at P3 in a booked slot of the mill's running group (R243,
R275). -/
def State.cartPacket (s : State) (m q tag : Nat) (c : List Byte) : State :=
  let b := (s.queue q).base
  let (acc, s) := s.resolve (.queue (queueDie q)) b 16 true
  match (if field b 44 4 = 1 then some (millNode (addrMill b) 6) else (s.accNode m b acc).map Prod.fst) with
  | none => s
  | some dst =>
    s.inject 4
      { prio := s.answerPrio (millDie m) (millCol m) (millRow m) 4 (s.mill m).gslot, vc := false, flits := 0, kind := 3, dst := dst
        src := millNode m 0, pepoch := (s.mill m).held.toNat, gmask := 0, addr := q, tag := tag, age := 0 } 16 c

/-- Send a cart to a ring with room for it: visible 4 cycles on in the same mill, else as a packet that carries the
sender's placement epoch (R219, R275). -/
def State.putCart (s : State) (m q : Nat) (c : List Byte) (e : Option Eng) (k : Option Nat) : State :=
  let x := s.queue q
  let near := s.ringLocal m q
  let f : CartFlight :=
    { ring := q, cart := putForm x c, at_ := s.clock.now + 4, local_ := near
      epoch := if near then none else some (s.mill m).held.toNat
      src := e.map (fun e => (m, e)), slot := k.map (fun k => (m, k)) }
  let tag := match k, e with
    | some k, _ => k / 4 + 8 * (k % 4)
    | none, some .ca => 0
    | none, some .cb => 1
    | none, _ => 2
  let s := if near then s else s.cartPacket m q tag f.cart
  { s with qs := { s.qs with flights := s.qs.flights ++ [f] } }

/-- Put a cart where that can be done; otherwise it leaves its chain and is reported (R275). -/
def State.putOrDrop (s : State) (m q : Nat) (c : List Byte) : State :=
  if s.canPut q = .ok then s.putCart m q c none none else s.reportRing q

/-- A cart with new fill, generation and flags. -/
def reCart (c : List Byte) (fill gen flags : Nat) : List Byte :=
  mkCart (cartAddr c) (cartLen c) fill (leAt c 12 1) gen flags

/-- The status bits of a cart for a status; one that carts cannot carry goes as ABORTED (R272, R575). -/
def cartStatus (st : Status) : Nat := if st.code ≤ 4 then st.code else 2

/-! ## Completion of transfers (R265, R266, R269) -/

/-- Post a transfer's completion where its descriptor asks for one. -/
def State.postTransfer (s : State) (m k : Nat) (d : DescBytes) (st : Status) (bytes : Nat) : State :=
  s.completeIf (descCq d)
    { cq := 0, status := st, kind := 2, gen := descGen d, sq := 0xFFFF, sqidx := k, tag := BitVec.ofNat 64 (descTag d),
      mill := m, detail := BitVec.ofNat 32 bytes }

/-- What the bytes of a cart that a transfer reads are written to, where the transfer fills no carts. -/
def Slot.cartDst (sl : Slot) (m : Nat) (h : HeldCart) : List Nat :=
  match sl.descs with
  | d :: _ => if descOut d then [] else spanRes m (descDst d + (sl.pos.bytes - h.done)) (cartFill h.cart)
  | [] => []

/-- The marks of the carts that a transfer holds are taken off (R102). -/
def Mill.unmarkCarts (x : Mill) (m : Nat) (sl : Slot) (now : Nat) : Mill :=
  let x := match sl.inCart with
    | some h =>
      if h.marked then (x.unmarkReading (spanRes m (cartAddr h.cart) (cartFill h.cart)) now).unmarkPending (sl.cartDst m h) now else x
    | none => x
  match sl.outCart with
    | some h => if h.marked then x.unmarkPending (spanRes m (cartAddr h.cart) (cartLen h.cart)) now else x
    | none => x

/-- The mark of the row that a gathering transfer reads, or one that takes its addresses from the FIFO, is taken off (R102). -/
def Mill.unmarkRow (x : Mill) (m : Nat) (sl : Slot) (d : DescBytes) (now : Nat) : Mill :=
  match sl.row with
  | some a => x.unmarkReading (spanRes m a (descRow d)) now
  | none => x

/-- The marks of a transfer, of its row and of the carts it holds are taken off (R102). -/
def State.unmarkTransfer (s : State) (m : Nat) (sl : Slot) : State :=
  match sl.descs with
  | [] => s
  | d :: _ =>
    if !sl.run then s
    else
      let now := s.clock.now
      s.modMill m (fun x =>
        let x := (x.unmarkReading (srcRes m d) now).unmarkPending (dstSpan m d) now
        (x.unmarkCarts m sl now).unmarkRow m sl d now)

/-- Carts that a transfer holds when it does not end OK (R271, R575). -/
def State.dropCarts (s : State) (m : Nat) (sl : Slot) (d : DescBytes) (st : Status) : State :=
  let ring := descRing d
  let back := (s.queue ring).pair
  let s := match sl.outCart with
    | some h =>
      if h.done = 0 then s.putOrDrop m back (reCart h.cart 0 (descGen d) 1)
      else s.putOrDrop m ring (reCart h.cart h.done (descGen d) (cartStatus st + 32))
    | none => s
  match sl.inCart with
  | some h => s.putOrDrop m back (reCart h.cart (cartFill h.cart) (descGen d) (cartStatus st))
  | none => s

/-- Bytes of a burst of the list from descriptor `i`: to the next 2 KiB boundary (R262). -/
def burstLen (list i : Nat) : Nat := (2048 - (list + 64 * i) % 2048) / 64

/-- Cut 64-byte descriptors out of bytes, up to and with the last one of the list (R262). -/
def cutDescs : Nat → List Byte → List DescBytes
  | 0, _ => []
  | n + 1, b => if descLast (b.take 64) then [b.take 64] else b.take 64 :: cutDescs n (b.drop 64)

/-- Read a burst of a list. -/
def State.readBurst (s : State) (m list i : Nat) : Except Status (Option (List DescBytes)) × State :=
  match s.streamRead (.mill m) (list + 64 * i) (64 * burstLen list i) with
  | (.ok (some b), s) => (.ok (some (cutDescs (burstLen list i) b)), s)
  | (.ok none, s) => (.ok none, s)
  | (.error st, s) => (.error st, s)

/-- A re-arm is refused: MISMATCH to the refused descriptor's queue, and a count (R269). -/
def State.refuseRearm (s : State) (m k : Nat) (d : Option DescBytes) : State :=
  let s := match d with
    | some d => s.postTransfer m k d .mismatch 0
    | none => s
  s.tallyMill .rearmRefused m 1

/-- Decide a re-arm whose new list's first burst has arrived (R269): the shadow takes it, or it is refused. -/
def State.decideRearm (s : State) (m k : Nat) (sl : Slot) (ds : List DescBytes) : Slot × State :=
  let inc := match sl.shadow with
    | some (i, _) => i
    | none => none
  match ds.head?, sl.firstGen with
  | some d, some g =>
    if descGen d = (g + 1) % 256 then ({ sl with shadow := some (inc, ds), heldRearm := false }, s)
    else ({ sl with shadow := none, heldRearm := false }, s.refuseRearm m k (some d))
  | _, _ => ({ sl with shadow := none, heldRearm := false }, s.refuseRearm m k ds.head?)

/-- The re-arms of a slot that wait for a descriptor are decided when the new list's first burst can be read and the generation of the
stream in flight is known (R269). The first part says whether none waits any more. -/
def State.decideRearms (s : State) (m k : Nat) (sl : Slot) : Bool × Slot × State :=
  match sl.work with
  | .move _ => (true, sl, s)
  | .stream l =>
    if !sl.heldRearm && decide (sl.refused = 0) then (true, sl, s)
    else if sl.heldRearm && sl.firstGen.isNone && !sl.isOver then (false, sl, s)
    else
      match s.readBurst m l 0 with
      | (.ok none, s) => (false, sl, s)
      | (.ok (some ds), s) =>
        let s := (List.range sl.refused).foldl (fun s _ => s.refuseRearm m k ds.head?) s
        let sl := { sl with refused := 0 }
        (true, if sl.heldRearm then s.decideRearm m k sl ds else (sl, s))
      | (.error _, s) =>
        let s := (List.range (sl.refused + bn sl.heldRearm)).foldl (fun s _ => s.refuseRearm m k none) s
        (true, { sl with refused := 0, shadow := if sl.heldRearm then none else sl.shadow, heldRearm := false }, s)

/-- The slot gives up the device reads whose data has moved. -/
def State.dropReads (s : State) (m k : Nat) (all : Bool) : State :=
  { s with hp := { s.hp with
      devReads := s.hp.devReads.filter (fun r => !(decide (r.mill = m ∧ r.slot = k) && (all || r.data.isSome))) } }

/-- The shadow of a slot whose stream is over starts in it; without one the slot is free (R269). -/
def State.startShadow (s : State) (m k : Nat) (sl : Slot) : State :=
  match sl.shadow with
  | some (inc, ds) =>
    s.putSlot m k
      { work := sl.work, inc := inc, descs := ds, fetched := ds.length, more := !ds.any descLast
        firstGen := ds.head?.map descGen, start := s.clock.now, arrived := s.clock.now } 1 0 0
  | none => s.setSlot m k none

/-- Give up a slot at the end of its stream; a re-arm in the shadow starts in it, and one that is still to be decided keeps the slot
(R269). -/
def State.freeSlot (s : State) (m k : Nat) (sl : Slot) : State :=
  match (s.dropReads m k true).decideRearms m k { sl with isOver := true } with
  | (true, sl, s) => s.startShadow m k sl
  | (false, sl, s) =>
    s.setSlot m k (some { sl with descs := [], run := false, asked := false, more := false, halted := false, rows := [], block := none })

/-- Later transfers already fetched complete with CANCELLED, in list order (R266). -/
def State.cancelRest (s : State) (m k : Nat) (ds : List DescBytes) : State :=
  ds.foldl (fun s d => s.postTransfer m k d .cancelled 0) s

/-- A transfer ends its stream with a status other than OK (R266). With `stop` its engine stops with MISMATCH and the
engine's own report stands for the stream's (R257, R260). -/
def State.failTransfer (s : State) (m k : Nat) (sl : Slot) (st : Status) (flags addr : Nat) (stop : Bool) : State :=
  let s := s.unmarkTransfer m sl
  let s := match sl.descs with
    | [] => s
    | d :: rest => ((s.dropCarts m sl d st).postTransfer m k d st sl.pos.bytes).cancelRest m k rest
  let state := if st = .cancelled ∨ st = .aborted then 0 else 3
  let s := (s.putSlot m k { sl with inCart := none, outCart := none } state flags addr).freeSlot m k sl
  if stop then s.engineFault m (slotCarter k).eng { status := st }
  else s.report 10 m .contained st 0 addr false

/-- The running transfer has written every byte: it completes OK, and with the last one its stream (R265, R266). -/
def State.finishTransfer (s : State) (m k : Nat) (sl : Slot) : State :=
  match sl.descs with
  | [] => s
  | d :: rest =>
    let s := (s.unmarkTransfer m sl).postTransfer m k d .ok sl.pos.bytes
    let sl' := { sl with descs := rest, ended := sl.ended + 1, run := false, fin := false, wrote := false, pos := {}, row := none
                         inCart := none, outCart := none, rows := [], block := none }
    if descLast d then
      let s := match sl.inc with
        | some (c, a) => s.modMill m (fun x => x.incAt s.clock.now (slotCarter k).eng c a)
        | none => s
      (s.modSsr m k (fun r => { r with state := 0, pos := sl.pos })).freeSlot m k sl
    else s.putSlot m k sl' 1 0 0

/-! ## The walk of a transfer (R259, R260, R264, R267) -/

/-- What one piece of a transfer comes to. -/
inductive Piece where
  | more
  | done
  | wait
  | page (addr flags : Nat)
  | bad (st : Status) (addr flags : Nat) (stop : Bool)
  | sched (f : EngFault)
  deriving DecidableEq, Repr

/-- The placement epoch that a destination outside the sender's mill accepts (R219). -/
def State.acceptedAt (s : State) (m a : Nat) : Option Nat :=
  match field a 44 4 with
  | 1 => if addrMill a = m then none else some (s.mill (addrMill a)).accepted.toNat
  | 3 => some (s.plot (field a 24 5)).accepted.toNat
  | _ => none

/-- The epoch check of R219: `none` lands; otherwise the status the carrying stream completes with. -/
def epochCheck (accepted carried : Nat) : Option Status :=
  let d := (accepted + 256 - carried) % 256
  if d = 0 then none else if d ≤ 127 then some .superseded else some .mismatch

/-- A write packet is discarded by the epoch check: an older one is counted; a newer one is cause 10 in a running tilled
group of the destination (R219). -/
def State.epochDrop (s : State) (a : Nat) (st : Status) : State :=
  let die := if field a 44 4 = 3 then plotDie (field a 24 5) else millDie (addrMill a)
  if st = .superseded then s.tally_ .superseded die 0 1
  else if field a 44 4 = 1 then s.raiseMill (addrMill a) 10
  else
    let p := s.plot (field a 24 5)
    if p.tilled then s.raiseHalt p.gslot.toNat 10 0 else s

/-- The ports at which `n` bytes at a stream address reach the carter's own mill (R86, R122). -/
def ownKeys (m a n : Nat) (write : Bool) : List Nat :=
  if n = 0 ∨ addrMill a ≠ m then []
  else if field a 44 4 = 1 then loftKeys (a % 2 ^ 20) n write
  else if field a 44 4 = 2 then [bankKey (bitOf a 14)]
  else []

/-- The landing of bytes in the carter's own mill. -/
def ownLand (m a : Nat) (b : List Byte) (e : Eng) : Option Land :=
  if addrMill a ≠ m then none
  else if field a 44 4 = 1 then some (.loft (a % 2 ^ 20) b e)
  else if field a 44 4 = 2 then some (.bank (bitOf a 14) (a % 2 ^ 14) b)
  else none

/-- A carter injects the packets of an access: writes with their bytes, or read requests (R239, R261). -/
def State.streamPackets (s : State) (m k a n : Nat) (acc : Acc) (b : Option (List Byte)) : State :=
  match s.accNode m a acc with
  | none => s
  | some (dst, addr) =>
    let bg := ((s.mill m).slot k).any (fun sl => (sl.descs.head?).any (fun d => bitOf (leAt d 0 1) 3))
    s.inject 4
      { prio := s.streamPrio m bg, vc := false, flits := 0, kind := if b.isSome then 0 else 1, dst := dst, src := millNode m 0
        pepoch := if b.isSome then (s.mill m).held.toNat else 0, gmask := 0, addr := addr, tag := k / 4 + 8 * (k % 4), age := 0 }
      n (b.getD [])

/-- Write bytes of a stream, checking the placement epoch where a packet carries them. In the carter's own mill they land at the end of
the cycle, so that what reads them in this cycle reads what was there before (R85, R122). -/
def State.packetWrite (s : State) (m k a : Nat) (b : List Byte) : Option Status × State :=
  match (s.acceptedAt m a).bind (fun e => epochCheck e (s.mill m).held.toNat) with
  | some st =>
    let (acc, s) := s.resolve (.mill m) a b.length true
    (some st, (s.streamPackets m k a b.length acc (some b)).epochDrop a st)
  | none =>
    let e := (slotCarter k).eng
    match ownLand m a b e with
    | none =>
      let (acc, s) := s.resolve (.mill m) a b.length true
      (s.streamPackets m k a b.length acc (some b)).accWrite acc b
    | some l =>
      match (s.takePorts m e (ownKeys m a b.length true)).resolve (.mill m) a b.length true with
      | (.cell c, s) =>
        if s.narrowBad c b.length then (some .faultInteg, s.badRead c)
        else (some .ok, s.modMill m (fun x => { x with lands := x.lands ++ [(s.clock.now, l)] }))
      | (acc, s) => s.accWrite acc b

/-- Address of the source row that the counters name; `none` outside its space. -/
def rowAddr (d : DescBytes) (p : Pos) : Option Nat :=
  addrAdd (descSrc d) (p.c1 * descS d 1 + p.c2 * descS d 2 + p.c3 * descS d 3) (descRow d)

/-- The next counters: dimension 1 fastest; `none` after the last row. -/
def nextRow (d : DescBytes) (p : Pos) : Option Pos :=
  if p.c1 + 1 < descN1 d then some { p with c1 := p.c1 + 1, off := 0 }
  else if p.c2 + 1 < descN2 d then some { p with c1 := 0, c2 := p.c2 + 1, off := 0 }
  else if p.c3 + 1 < descN3 d then some { p with c1 := 0, c2 := 0, c3 := p.c3 + 1, off := 0 }
  else none

/-- The number of a row in flattened order. -/
def flatRow (d : DescBytes) (p : Pos) : Nat := p.c1 + descN1 d * (p.c2 + descN2 d * p.c3)

/-- Read source bytes. Host memory is read by a device read whose completion brings the bytes (R481), which stay with the slot
until its piece has moved; an access that meets a page fault names the address. -/
def State.srcRead (s : State) (m k a n flags : Nat) : Except Piece (List Byte) × State :=
  let (acc, s) := (s.takePorts m (slotCarter k).eng (ownKeys m a n false)).resolve (.mill m) a n false
  match acc with
  | .host h =>
    (match s.hp.devReads.find? (fun r => decide (r.mill = m ∧ r.slot = k ∧ r.addr = h ∧ r.len = n)) with
     | some r =>
       (match r.data with
        | some b => (.ok b, s)
        | none => (.error .wait, s))
     | none =>
       if 256 ≤ s.hp.devReads.length then (.error .wait, s)
       else
         let tag := s.hp.nextTag
         let r : DevRead := { tag := tag, addr := h, len := n, at_ := s.clock.now, mill := m, slot := k, data := none }
         (.error .wait,
           { s.streamPackets m k a n (.host h) none with
             hp := { s.hp with devReads := s.hp.devReads ++ [r], nextTag := (tag + 1) % 65536 } }.askHost tag h n))
  | acc =>
    match (s.streamPackets m k a n acc none).accRead acc n with
    | (.ok (some b), s) => (.ok b, s)
    | (.ok none, s) => (.error .wait, s)
    | (.error .faultPage, s) => (.error (.page a flags), s)
    | (.error st, s) => (.error (.bad st a flags (decide (st = .mismatch))), s)

/-- A hazard that a running transfer meets (R103): it waits in common mode, and in tilled mode it is a schedule fault; audit-stall records
it once and waits (R104, R105, R107). -/
def State.slotHazard (s : State) (m k : Nat) (sl : Slot) (h : Hazard) : Piece × Slot × State :=
  let x := s.mill m
  if !x.tilled then (.wait, sl, s)
  else if x.auditStall then
    if sl.audited = some (h.kind, h.resource) then (.wait, sl, s)
    else
      (.wait, { sl with audited := some (h.kind, h.resource) },
        (s.recordSched m (s.schedRec m (slotCarter k).eng h.fault true)).tallyMill .sbAuditStall m 1)
  else (.sched h.fault, sl, s)

/-- The buffer of the cart that a transfer reads is marked read-busy when it takes the cart, and what its bytes are written to is
pending (R102). -/
def State.markIn (s : State) (m k : Nat) (sl : Slot) (h : HeldCart) : Except Piece (Nat × Nat) × Slot × State :=
  let here := Except.ok (ε := Piece) (cartAddr h.cart + h.done, cartFill h.cart - h.done)
  if h.marked then (here, sl, s)
  else
    let r := spanRes m (cartAddr h.cart) (cartFill h.cart)
    let w := sl.cartDst m h
    match r.flatMap ((s.mill m).readHz s.clock.now) ++ w.flatMap ((s.mill m).writeHz s.clock.now 0) with
    | z :: _ =>
      let (p, sl, s) := s.slotHazard m k { sl with inCart := some h } z
      (.error p, sl, s)
    | [] =>
      (here, { sl with inCart := some { h with marked := true } }, s.modMill m (fun x => (x.markReading r).markPending w))

/-- The buffer of the cart that a transfer fills is marked pending when it takes the cart (R102). -/
def State.markOut (s : State) (m k : Nat) (sl : Slot) (h : HeldCart) : Except Piece (Nat × Nat) × Slot × State :=
  let here := Except.ok (ε := Piece) (cartAddr h.cart + h.done, cartLen h.cart - h.done)
  if h.marked then (here, sl, s)
  else
    let r := spanRes m (cartAddr h.cart) (cartLen h.cart)
    match r.flatMap ((s.mill m).writeHz s.clock.now 0) with
    | z :: _ =>
      let (p, sl, s) := s.slotHazard m k { sl with outCart := some h } z
      (.error p, sl, s)
    | [] => (here, { sl with outCart := some { h with marked := true } }, s.modMill m (fun x => x.markPending r))

/-- A row address from the carter's address FIFO (R91, R93, R565). -/
def State.popRow (s : State) (m k : Nat) : Except Piece Nat × State :=
  let f := (slotCarter k).af
  match ((s.mill m).fifo f).pop s.clock.now with
  | none =>
    if (s.mill m).tilled then (.error (.sched { status := .faultSched, kind := 5, resource := 60 + f.num }), s)
    else (.error .wait, s)
  | some (w, y) =>
    let bad := (s.mill m).parity.contains (.fifo f)
    let s := s.modMill m (fun x => (x.setFifo f y).mend (.fifo f))
    if bad then (.error (.sched { status := .faultInteg }), s) else (.ok w.toNat, s)

/-- A row of a gathering transfer, or of one that takes its addresses from the FIFO, begins: it is read-busy until its last read, or meets
a hazard (R102, R103). -/
def State.rowStart (s : State) (m k : Nat) (sl : Slot) (d : DescBytes) (a : Nat) : Except Piece (Nat × Nat) × Slot × State :=
  let r := spanRes m a (descRow d)
  match r.flatMap ((s.mill m).readHz s.clock.now) with
  | z :: _ => let (p, sl, s) := s.slotHazard m k sl z; (.error p, sl, s)
  | [] => (.ok (a + sl.pos.off, descRow d - sl.pos.off), { sl with row := some a, rows := [] }, s.modMill m (fun x => x.markReading r))

/-- The word of the address FIFO that gives the next row: one that waits with the slot, or the next of the FIFO (R91). -/
def State.rowWord (s : State) (m k : Nat) (sl : Slot) : Except Piece Nat × Slot × State :=
  match sl.rows with
  | w :: _ => (.ok w, sl, s)
  | [] =>
    match s.popRow m k with
    | (.ok w, s) => (.ok w, { sl with rows := [w] }, s)
    | (.error p, s) => (.error p, sl, s)

/-- Where the next source bytes lie, and how many there are in a piece. -/
def State.srcPiece (s : State) (m k : Nat) (sl : Slot) (d : DescBytes) : Except Piece (Nat × Nat) × Slot × State :=
  if descIn d then
    match sl.inCart with
    | some h => s.markIn m k sl h
    | none =>
      (match s.canTake (descRing d) with
       | .wait => (.error .wait, sl, s)
       | .mismatch => (.error (.bad .mismatch 0 0 false), sl, s.reportRing (descRing d))
       | .integ => (.error (.bad .faultInteg 0 0 false), sl, s.reportRing (descRing d))
       | .ok =>
         match s.takeCart (descRing d) with
         | (none, s) => (.error (.bad .faultInteg 0 0 false), sl, s)
         | (some c, s) =>
           if cartOk c then s.markIn m k sl { cart := c, done := 0 }
           else
             (.error (.bad .faultInteg 0 0 false), sl, (s.tallyMill .cartCheck m 1).reportRing (descRing d)))
  else if descAf d || decide (descMode d = 2) then
    match sl.row with
    | some a => (.ok (a + sl.pos.off, descRow d - sl.pos.off), sl, s)
    | none =>
      if descAf d then
        match s.rowWord m k sl with
        | (.error p, sl, s) => (.error p, sl, s)
        | (.ok w, sl, s) =>
          match addrAdd (descSrc d) w (descRow d) with
          | some a => s.rowStart m k sl d a
          | none => (.error (.bad .mismatch (descSrc d) 1 true), sl, s)
      else
        match addrAdd (descIdx d) (4 * sl.pos.c1) 4 with
        | none => (.error (.bad .mismatch (descIdx d) 4 true), sl, s)
        | some ia =>
          match s.srcRead m k ia 4 5 with
          | (.error p, s) => (.error p, sl, s)
          | (.ok b, s) =>
            match addrAdd (descSrc d) (leNat b * descS d 1) (descRow d) with
            | some a => s.rowStart m k sl d a
            | none => (.error (.bad .mismatch (descSrc d) 1 true), sl, s)
  else
    match rowAddr d sl.pos with
    | some a => (.ok (a + sl.pos.off, descRow d - sl.pos.off), sl, s)
    | none => (.error (.bad .mismatch (descSrc d) 1 true), sl, s)

/-- Where the next bytes go, and how many fit there. A row that would leave its space is not begun (R260). -/
def State.dstPiece (s : State) (m k : Nat) (sl : Slot) (d : DescBytes) : Except Piece (Nat × Nat) × Slot × State :=
  if descOut d then
    match sl.outCart with
    | some h => s.markOut m k sl h
    | none =>
      let back := (s.queue (descRing d)).pair
      (match s.ringState (descRing d), s.canTake back with
       | .mismatch, _ => (.error (.bad .mismatch 0 0 false), sl, s.reportRing (descRing d))
       | .integ, _ => (.error (.bad .faultInteg 0 0 false), sl, s.reportRing (descRing d))
       | _, .wait => (.error .wait, sl, s)
       | _, .mismatch => (.error (.bad .mismatch 0 0 false), sl, s.reportRing back)
       | _, .integ => (.error (.bad .faultInteg 0 0 false), sl, s.reportRing back)
       | _, .ok =>
         match s.takeCart back with
         | (none, s) => (.error (.bad .faultInteg 0 0 false), sl, s)
         | (some c, s) =>
           if cartOk c then s.markOut m k sl { cart := c, done := 0 }
           else
             (.error (.bad .faultInteg 0 0 false), sl, (s.tallyMill .cartCheck m 1).reportRing back))
  else if descIn d then
    match addrAdd (descDst d) sl.pos.bytes 1 with
    | some a => (.ok (a, 2 ^ 32), sl, s)
    | none => (.error (.bad .mismatch (descDst d) 2 true), sl, s)
  else
    match addrAdd (descDst d) (flatRow d sl.pos * descStep d) (descDstRow d) with
    | some a => (.ok (a + sl.pos.off, descDstRow d - sl.pos.off), sl, s)
    | none => (.error (.bad .mismatch (descDst d) 2 true), sl, s)

/-- Put the cart being filled on its forward ring (R259, R273). -/
def State.putFull (s : State) (m k : Nat) (sl : Slot) (d : DescBytes) (last : Bool) : Slot × State :=
  match sl.outCart with
  | none => (sl, s)
  | some h =>
    let s := s.modMill m (fun x => x.unmarkCarts m { sl with inCart := none } s.clock.now)
    ({ sl with outCart := none },
     s.putCart m (descRing d) (reCart h.cart h.done (descGen d) (if last then 16 else 0)) none (some k))

/-- The source position after `n` bytes: the transfer's data ends (true) or goes on. -/
def State.advanceSrc (s : State) (m : Nat) (sl : Slot) (d : DescBytes) (n : Nat) : Bool × Slot × State :=
  let sl := { sl with pos := { sl.pos with bytes := sl.pos.bytes + n } }
  if descIn d then
    match sl.inCart with
    | none => (false, sl, s)
    | some h =>
      if h.done + n < cartFill h.cart then
        (false, { sl with inCart := some { h with done := h.done + n } }, s)
      else
        let s := s.modMill m (fun x =>
          x.unmarkCarts m { sl with outCart := none, inCart := some { h with done := h.done + n } } s.clock.now)
        let s := s.putOrDrop m (s.queue (descRing d)).pair (reCart h.cart 0 (descGen d) 0)
        (bitOf (cartFlags h.cart) 4, { sl with inCart := none }, s)
  else if sl.pos.off + n < descRow d then (false, { sl with pos := { sl.pos with off := sl.pos.off + n } }, s)
  else
    let s := s.modMill m (fun x => x.unmarkRow m sl d s.clock.now)
    match nextRow d sl.pos with
    | some p => (false, { sl with pos := p, row := none }, s)
    | none => (true, { sl with pos := { sl.pos with off := sl.pos.off + n }, row := none }, s)

/-- What a put on the forward ring of a transfer comes to (R239, R275). -/
def State.outBlocked (s : State) (d : DescBytes) : Option Piece :=
  match s.canPut (descRing d) with
  | .ok => if s.ringAbsent (descRing d) then some (.bad .absent 0 0 false) else none
  | .wait => some .wait
  | .mismatch => some (.bad .mismatch 0 0 false)
  | .integ => some (.bad .faultInteg 0 0 false)

/-- A piece of `n` bytes ends the data of a transfer. -/
def srcEnds (sl : Slot) (d : DescBytes) (n : Nat) : Bool :=
  if descIn d then
    match sl.inCart with
    | some h => decide (cartFill h.cart ≤ h.done + n) && bitOf (cartFlags h.cart) 4
    | none => false
  else decide (descRow d ≤ sl.pos.off + n) && (nextRow d sl.pos).isNone

/-- One piece of a plain, gathering or cart transfer. -/
def State.plainPiece (s : State) (m k : Nat) (sl : Slot) (d : DescBytes) : Piece × Slot × State :=
  match s.srcPiece m k sl d with
  | (.error p, sl, s) => (p, sl, s)
  | (.ok (a, na), sl, s) =>
    match s.dstPiece m k sl d with
    | (.error p, sl, s) => (p, sl, s)
    | (.ok (b, nb), sl, s) =>
      let n := min (min na nb) (min (ioRoom a) (ioRoom b))
      let put := descOut d && (decide (n = nb) || srcEnds sl d n)
      if addrLimit b < b - addrHead b + n then (.bad .mismatch b 2 true, sl, s)
      else
        match (if put then s.outBlocked d else none), s.srcRead m k a n 1 with
        | some p, _ => (p, sl, s)
        | none, (.error p, s) => (p, sl, s)
        | none, (.ok bytes, s) =>
          match (if n = 0 then (some .ok, s) else s.packetWrite m k b bytes) with
          | (none, s) => (.wait, sl, s)
          | (some .ok, s) =>
            let s := s.tallyMill (if slotCarter k = .ca then .caBytes else .cbBytes) m n
            let sl := { sl with
              wrote := true
              outCart := sl.outCart.map (fun h => { h with done := h.done + n }) }
            let (fin, sl, s) := s.advanceSrc m sl d n
            let (sl, s) := if put then s.putFull m k sl d (fin && descLast d) else (sl, s)
            (if fin then .done else .more, sl, s)
          | (some .faultPage, s) => (.page b 2, sl, s)
          | (some st, s) => (.bad st b 2 false, sl, s)

/-- Read a span of source bytes, cut where an access ends. -/
def State.srcSpan (s : State) (m k a n : Nat) : Nat → Except Piece (List Byte) × State
  | 0 => (.ok [], s)
  | f + 1 =>
    if n = 0 then (.ok [], s)
    else
      let c := min n (ioRoom a)
      match s.srcRead m k a c 1 with
      | (.error e, s) => (.error e, s)
      | (.ok b, s) =>
        match s.srcSpan m k (a + c) (n - c) f with
        | (.error e, s) => (.error e, s)
        | (.ok r, s) => (.ok (b ++ r), s)

/-- Take the row addresses of a block from the address FIFO, as far as they are there (R91). -/
def State.popRows (s : State) (m k : Nat) (sl : Slot) : Nat → Option Piece × Slot × State
  | 0 => (none, sl, s)
  | n + 1 =>
    match s.popRow m k with
    | (.error p, s) => (some p, sl, s)
    | (.ok w, s) => s.popRows m k { sl with rows := sl.rows ++ [w] } n

/-- The address of row `i` of the block at a position: by the strides, or by the word that the address FIFO gave (R259). -/
def blockRow (sl : Slot) (d : DescBytes) (p : Pos) (i : Nat) : Option Nat :=
  if descAf d then (sl.rows[i]?).bind (fun w => addrAdd (descSrc d) w (descRow d)) else rowAddr d { p with c1 := i }

/-- The hazards of the rows of a block whose addresses the FIFO gave (R103). -/
def Mill.blockHz (x : Mill) (m now : Nat) (sl : Slot) (d : DescBytes) : List Hazard :=
  if descAf d && sl.block.isNone then
    sl.rows.flatMap (fun (w : Nat) => ((addrAdd (descSrc d) w (descRow d)).elim [] (fun a => spanRes m a (descRow d))).flatMap (x.readHz now))
  else []

/-- Read the rows of one dimension-1 block. -/
def State.readBlock (s : State) (m k : Nat) (d : DescBytes) (row : Nat → Option Nat) :
    Nat → Except Piece (List (List Byte)) × State
  | 0 => (.ok [], s)
  | n + 1 =>
    match row (descN1 d - (n + 1)) with
    | none => (.error (.bad .mismatch (descSrc d) 1 true), s)
    | some a =>
      match s.srcSpan m k a (descRow d) (descRow d + 1) with
      | (.error e, s) => (.error e, s)
      | (.ok b, s) =>
        match s.readBlock m k d row n with
        | (.error e, s) => (.error e, s)
        | (.ok rows, s) => (.ok (b :: rows), s)

/-- Transpose a block: n0 rows of n1 elements of `w` bytes. -/
def transpose (w n0 : Nat) (rows : List (List Byte)) : List (List Byte) :=
  (List.range n0).map (fun j => rows.flatMap (fun r => (r.drop (w * j)).take w))

/-- Where byte `o` of transposed block `blk` goes and how many bytes of its row are left. A row that would leave its space is not
begun (R260). -/
def blockDst (d : DescBytes) (blk o : Nat) : Option (Nat × Nat) :=
  let l := descDstRow d
  (addrAdd (descDst d) ((blk * descN0 d + o / l) * descStep d) l).map (fun a => (a + o % l, l - o % l))

/-- Write what is left of a transposed block, from byte `o` of it on: into rows, cut where an access ends, or packed into carts. A wait
leaves the rest in the slot. -/
def State.writeBlock (s : State) (m k : Nat) (sl : Slot) (d : DescBytes) (blk : Nat) (fin : Bool) :
    Nat → Nat → List Byte → Piece × Slot × State
  | 0, o, b => (.wait, { sl with block := some (o, b) }, s)
  | fuel + 1, o, b =>
    let stay := fun (p : Piece) (sl : Slot) (s : State) => (p, { sl with block := some (o, b) }, s)
    let full := match sl.outCart with
      | some h => decide (h.done = cartLen h.cart) || (b.isEmpty && fin)
      | none => false
    if full then
      match s.outBlocked d with
      | some p => stay p sl s
      | none =>
        let (sl, s) := s.putFull m k sl d (b.isEmpty && fin && descLast d)
        s.writeBlock m k sl d blk fin fuel o b
    else if b.isEmpty then (.more, { sl with block := none, rows := [] }, s)
    else
      match (if descOut d then s.dstPiece m k sl d
             else match blockDst d blk o with
              | some p => (.ok p, sl, s)
              | none => (.error (.bad .mismatch (descDst d) 2 true), sl, s)) with
      | (.error p, sl, s) => stay p sl s
      | (.ok (a, room), sl, s) =>
        let n := min (min room b.length) (ioRoom a)
        match s.packetWrite m k a (b.take n) with
        | (none, s) => stay .wait sl s
        | (some .ok, s) =>
          let sl := { sl with wrote := true, outCart := sl.outCart.map (fun h => { h with done := h.done + n }) }
          s.writeBlock m k sl d blk fin fuel (o + n) (b.drop n)
        | (some .faultPage, s) => (.page a 2, { sl with block := none }, s)
        | (some st, s) => stay (.bad st a 2 false) sl s

/-- What is left to write of the running block, from a byte of it on: the block is read whole where none of it is written yet. -/
def State.blockBytes (s : State) (m k : Nat) (sl : Slot) (d : DescBytes) (p : Pos) : Except Piece (Nat × List Byte) × State :=
  match sl.block with
  | some b => (.ok b, s)
  | none =>
    match s.readBlock m k d (blockRow sl d p) (descN1 d) with
    | (.error e, s) => (.error e, s)
    | (.ok rows, s) => (.ok (0, (transpose (fmtBits (descFmt d) / 8) (descN0 d) rows).flatten), s)

/-- The words of the address FIFO that the rows of a block still need. -/
def State.blockWords (s : State) (m k : Nat) (sl : Slot) (d : DescBytes) : Option Piece × Slot × State :=
  if descAf d && sl.block.isNone then s.popRows m k sl (descN1 d - sl.rows.length) else (none, sl, s)

/-- One block of a transposing transfer. Nothing is written until all its rows are read; a fault leaves the position at
the block's start (R267). -/
def State.blockPiece (s : State) (m k : Nat) (sl : Slot) (d : DescBytes) : Piece × Slot × State :=
  let p := { sl.pos with c1 := 0, off := 0 }
  match s.blockWords m k { sl with pos := p } d with
  | (some e, sl, s) => (e, sl, s)
  | (none, sl, s) =>
    match (s.mill m).blockHz m s.clock.now sl d with
    | z :: _ => s.slotHazard m k sl z
    | [] =>
      match s.blockBytes m k sl d p with
      | (.error e, s) => (e, sl, s)
      | (.ok (o, b), s) =>
        let nxt := nextRow d { p with c1 := descN1 d - 1 }
        let bytes := descN0 d * descDstRow d
        match s.writeBlock m k sl d (p.c2 + descN2 d * p.c3) nxt.isNone (2 * b.length + 2) o b with
        | (.more, sl, s) =>
          let s := s.tallyMill (if slotCarter k = .ca then .caBytes else .cbBytes) m bytes
          (match nxt with
           | some q => (.more, { sl with pos := { q with bytes := p.bytes + bytes } }, s)
           | none => (.done, { sl with pos := { p with bytes := p.bytes + bytes } }, s))
        | r => r

/-- The carter's cycles that `n` bytes of a transfer take: 256 bytes in each, or 128 transposing (R261). -/
def pieceCycles (d : DescBytes) (n : Nat) : Nat := let r := if descMode d = 1 then 128 else 256; (n + r - 1) / r

/-- One piece of the running transfer, from the cycle in which its carter is free to move it (R90, R261). -/
def State.piece (s : State) (m k : Nat) (sl : Slot) (d : DescBytes) : Piece × Slot × State :=
  let i := carterIx (slotCarter k)
  let s := s.advanceTo (Table.get 0 (s.mill m).moveFree i)
  let n := sl.pos.bytes
  let (r, sl, s) := if descMode d = 1 then s.blockPiece m k sl d else s.plainPiece m k sl d
  let s := if sl.pos.bytes = n then s
    else s.modMill m (fun x =>
      { x with moveFree := Table.put 0 x.moveFree i (s.clock.now + pieceCycles d (sl.pos.bytes - n)), turn := Table.put 0 x.turn i (k + 1) })
  match r with
  | .more => (r, { sl with audited := none }, s.dropReads m k false)
  | .done => (r, { sl with audited := none }, s.dropReads m k false)
  | _ => (r, sl, s)

/-- Up to `n` pieces of the running transfer. -/
def State.pieces (s : State) (m k : Nat) (sl : Slot) (d : DescBytes) : Nat → Piece × Slot × State
  | 0 => (.more, sl, s)
  | n + 1 =>
    match s.piece m k sl d with
    | (.more, sl, s) => s.pieces m k sl d n
    | r => r

/-- A bound on the pieces of a transfer: every piece moves a byte, ends a row or takes a cart. -/
def pieceBound (d : DescBytes) : Nat :=
  if descIn d then 2 ^ 32 else (descRow d + 1) * descN1 d * descN2 d * descN3 d

/-- The mill belongs to a tilled group that runs. -/
def State.tilledRuns (s : State) (m : Nat) : Bool :=
  let x := s.mill m
  x.tilled && (match x.gslot with
    | some g => decide ((s.group g).state = .running)
    | none => false)

/-- A transfer halts on a page that is not present or not writable: the slot keeps its position and stays held (R267). In a running
tilled group it is cause 8, and not a halt of the stream (R268). -/
def State.haltSlot (s : State) (m k : Nat) (sl : Slot) (addr flags : Nat) : State :=
  if s.tilledRuns m then (s.putSlot m k sl 1 0 0).raiseMill m 8
  else
    let s := match sl.descs with
      | d :: _ => s.postTransfer m k d .faultPage sl.pos.bytes
      | [] => s
    let s := s.putSlot m k { sl with halted := true } 2 flags addr
    s.reportPage m k (bitOf flags 1) addr

/-- Act on what the running transfer came to. -/
def State.settle (s : State) (m k : Nat) (sl : Slot) : Piece → State
  | .more => s.putSlot m k sl 1 0 0
  | .wait => s.putSlot m k sl 1 0 0
  | .done => s.putSlot m k { sl with fin := true } 1 0 0
  | .page a f => s.haltSlot m k sl a f
  | .bad st a f stop => s.failTransfer m k sl st f a stop
  | .sched f => (s.failTransfer m k sl f.status 0 0 false).engineFault m (slotCarter k).eng f

/-! ## Local moves (R90, R91, 03 Table 4) -/

/-- An end lies within its store. -/
def movFits (e : MovEnd) (n : Nat) : Bool :=
  match e with
  | .loft o => decide (o + n ≤ 2 ^ 20)
  | .bank _ o => decide (o + n ≤ 2 ^ 14)
  | .cstore o => decide (o + n ≤ 2 ^ 13)
  | .fifo => true

/-- The form of a move: a loft, bank or output-FIFO source, a loft, bank or C-store destination (R100, R120). -/
def movForm (a : MovArgs) : Bool :=
  movFits a.src a.len && movFits a.dst a.len &&
    (match a.src with | .cstore _ => false | _ => true) && (match a.dst with | .fifo => false | _ => true)

/-- An end whose offset is the word popped from the address FIFO (R91). -/
def movAt (e : MovEnd) (w : Nat) : MovEnd :=
  match e with
  | .loft _ => .loft w
  | .bank y _ => .bank y w
  | .cstore _ => .cstore w
  | .fifo => .fifo

/-- The cycles in which a carter moves what its slots hold of local moves. -/
def Mill.moveLoad (x : Mill) (cr : Carter) : Nat :=
  ((carterSlots cr).map (fun k => match x.moveDue (2 ^ 64) k with
    | some (sl, a) => (a.len - sl.pos.bytes) / 256 + 1
    | none => 0)).foldl (· + ·) 0

/-- Time goes on to the last write of a local move (R265), which its carter reaches by its share of the cycles. A move that waits for
bytes of the output FIFO does not end. -/
def State.finishMove (s : State) (m k : Nat) (sl : Slot) : State :=
  let t := s.advanceTo (max s.clock.now (sl.start + 8) + (s.mill m).moveLoad (slotCarter k))
  match (t.mill m).slot k with
  | some u => if u.work = sl.work ∧ u.start = sl.start then s else t
  | none => t

/-! ## Ends of streams that are asked to stop (R271) -/

/-- End a slot's stream and the one in its shadow: a transfer that has issued no write completes with CANCELLED, one that has started
with ABORTED, and later fetched ones with CANCELLED. -/
def State.stopSlot (s : State) (m k : Nat) : State :=
  match (s.mill m).slot k with
  | none => s
  | some sl =>
    match sl.work with
    | .move a =>
      s.clearMove m s.clock.now k a
    | .stream _ =>
      let next := (sl.shadow.map Prod.snd).getD []
      let sl := { sl with shadow := none, heldRearm := false, refused := 0 }
      (s.failTransfer m k sl (if sl.wrote || sl.halted then .aborted else .cancelled) 0 0 false).cancelRest m k next

/-- A carter slot whose state word fails its parity (R565): what runs there ends with FAULT_INTEG, and so does the carter. -/
def State.slotBad (s : State) (m k : Nat) (sl : Slot) : State :=
  let s := s.modMill m (fun x => x.mend (.slot k))
  let s := match sl.work with
    | .move a => s.clearMove m s.clock.now k a
    | .stream _ => s.failTransfer m k sl .faultInteg 0 0 false
  s.engineFault m (slotCarter k).eng { status := .faultInteg }

/-! ## Issue of carter operations (03 Table 4, R90, R269, R275) -/

/-- The first free slot of a carter. -/
def Mill.freeSlot (x : Mill) (c : Carter) : Option Nat := (carterSlots c).find? (fun k => (x.slot k).isNone)

/-- The slot of a carter in which a stream on a list is in flight (R269). -/
def Mill.listSlot (x : Mill) (c : Carter) (list : Nat) : Option Nat :=
  (carterSlots c).find? (fun k => match x.slot k with
    | some sl => decide (sl.work = .stream list)
    | none => false)

/-- The carter of an engine. -/
def engCarter : Eng → Carter
  | .cb => .cb
  | _ => .ca

/-- The amount of an increment an operation names, from 1 to 255 (R95). -/
def incOk (g : Engine) (i : Option Inc) : Bool :=
  match i with
  | some i => decide (1 ≤ (g.src i.amount).toNat) && decide ((g.src i.amount).toNat ≤ 255)
  | none => true

/-- The increment as the slot keeps it. -/
def incOf (g : Engine) (i : Option Inc) : Option (Nat × Nat) :=
  i.map (fun i => (i.counter.toNat, (g.src i.amount).toNat))

/-- A list address that strm may name: 64-byte aligned, in a loft or device virtual space. -/
def listOk (a : Nat) : Bool := decide (a % 64 = 0) && decide (field a 44 4 ≤ 1) && streamAddrOk a

/-- The general registers of an engine: 32 of the steward, 16 of the others (03 Table 1). -/
def engRegs : Eng → Nat
  | .st => 32
  | _ => 16

/-- A strm of a list that is in flight on this carter is a re-arm (R269): held until its first burst arrives, or refused
where one is pending, as soon as its first descriptor can be read. -/
def State.rearm (s : State) (m k list : Nat) (inc : Option (Nat × Nat)) : State :=
  match (s.mill m).slot k with
  | none => s
  | some sl =>
    if sl.shadow.isSome then
      (match s.readBurst m list 0 with
       | (.ok (some ds), s) => s.refuseRearm m k ds.head?
       | (.ok none, s) => s.setSlot m k (some { sl with refused := sl.refused + 1 })
       | (.error _, s) => s.refuseRearm m k none)
    else s.setSlot m k (some { sl with shadow := some (inc, []), heldRearm := true })

/-- Start a stream in a free slot (R263, R281). -/
def State.startStream (s : State) (m k list : Nat) (inc : Option (Nat × Nat)) : State :=
  let sl : Slot := { work := .stream list, inc := inc, asked := true, start := s.clock.now }
  ((s.modMill m (fun x => x.mend (.slot k))).modSsr m k (fun _ => {})).putSlot m k sl 1 0 0

/-- The 16 cart bytes in four registers. -/
def Engine.cartRegs (g : Engine) (r : BitVec 5) : List Byte :=
  toLe 4 (g.reg r).toNat ++ toLe 4 (g.reg (r + 1)).toNat ++ toLe 4 (g.reg (r + 2)).toNat ++ toLe 4 (g.reg (r + 3)).toNat

/-- Issue strm. -/
def State.doStrm (s : State) (m : Nat) (e : Eng) (op : EngOp) (list : Nat) (inc : Option Inc) : State :=
  let x := s.mill m
  let c := engCarter e
  let g := x.eng e
  if !(incOk g inc && listOk list) then s.engineFault m e { status := .mismatch }
  else
    match x.listSlot c list with
    | some k => (s.rearm m k list (incOf g inc)).issued m e
    | none =>
      match x.freeSlot c with
      | none => s.shut m e op { status := .faultSched, kind := 8, resource := 0xFF } false
      | some k => (s.startStream m k list (incOf g inc)).issued m e

/-- The form of a mov that its operation shows: the amount of its increment and its ends, but for a source address that the
address FIFO gives (R649). -/
def movShape (g : Engine) (a : MovArgs) : Bool := incOk g a.inc && movForm (if a.afifo then { a with src := movAt a.src 0 } else a)

/-- A mov that has its source address: its form, hazards and slot are checked, and it starts (R90, R91). `booked` says that a booking
starts it, which no engine holds (R105). -/
def State.movStart (s : State) (m : Nat) (e : Eng) (op : EngOp) (a : MovArgs) (y : Fifo) (booked : Bool) : State :=
  let x := s.mill m
  let c := engCarter e
  let g := x.eng e
  let now := s.clock.now
  let shut := fun (f : EngFault) (hz : Bool) => if booked then s.engineFault m e f else s.shut m e op f hz
  if !(incOk g a.inc && movForm a) then s.engineFault m e { status := .mismatch }
  else
    match gateOf ((movRes a.src a.len).flatMap (x.readHz now) ++ (movRes a.dst a.len).flatMap (x.writeHz now 8)) with
    | .hazard h => shut h.fault true
    | .wait f => shut f false
    | .go =>
      match x.freeSlot c with
      | none => shut { status := .faultSched, kind := 8, resource := 0xFF } false
      | some k =>
        let s := s.modMill m (fun x => ((x.setFifo c.af y).moveMarks a).mend (.slot k))
        let s := s.setSlot m k (some { work := .move a, inc := incOf g a.inc, more := false, start := now })
        if booked then s.modMill m (fun x => { x with worked := true }) else s.issued m e

/-- Issue mov: a form that fails is found before its address FIFO is looked at (R649). -/
def State.doMov (s : State) (m : Nat) (e : Eng) (op : EngOp) (a : MovArgs) (booked : Bool) : State :=
  let x := s.mill m
  let c := engCarter e
  if !movShape (x.eng e) a then s.engineFault m e { status := .mismatch }
  else if !a.afifo then s.movStart m e op a (x.fifo c.af) booked
  else
    match (x.fifo c.af).pop s.clock.now with
    | none =>
      let f : EngFault := { status := .faultSched, kind := 5, resource := 60 + c.af.num }
      if booked then s.engineFault m e f else s.shut m e op f false
    | some (w, y) => s.movStart m e op { a with src := movAt a.src w.toNat, afifo := false } y booked

/-- Issue ctake: the cart is in four registers 4 cycles on (R275). -/
def State.doCtake (s : State) (m : Nat) (e : Eng) (op : EngOp) (q : Nat) (rd : BitVec 5) : State :=
  if engRegs e < rd.toNat + 4 then s.engineFault m e { status := .mismatch }
  else
    match s.canTake q with
    | .mismatch => (s.reportRing q).engineFault m e { status := .mismatch }
    | .integ => (s.reportRing q).engineFault m e { status := .faultInteg }
    | .wait => s.shut m e op { status := .faultSched, kind := 1, resource := 0xFE } false
    | .ok =>
      match s.takeCart q with
      | (none, s) => (s.issued m e).modMill m (fun x => x.defer e { status := .faultInteg })
      | (some c, s) =>
        let t := s.clock.now + 4
        let w := fun i => BitVec.ofNat 32 (leAt c (4 * i) 4)
        (s.modEng m e (fun g =>
          (((g.setReg rd (w 0) t).setReg (rd + 1) (w 1) t).setReg (rd + 2) (w 2) t).setReg (rd + 3) (w 3) t)).issued m e

/-- Issue cput (R239, R275). -/
def State.doCput (s : State) (m : Nat) (e : Eng) (op : EngOp) (q : Nat) (rs : BitVec 5) : State :=
  if engRegs e < rs.toNat + 4 then s.engineFault m e { status := .mismatch }
  else
    match s.canPut q with
    | .mismatch => (s.reportRing q).engineFault m e { status := .mismatch }
    | .integ => (s.reportRing q).engineFault m e { status := .faultInteg }
    | .wait => s.shut m e op { status := .faultSched, kind := 2, resource := 0xFE } false
    | .ok =>
      if s.ringAbsent q then s.engineFault m e { status := .absent }
      else (s.putCart m q (((s.mill m).eng e).cartRegs rs) (some e) none).issued m e

/-- Issue an operation of a carter, or a ctake or cput of the steward. -/
def State.carterIssue (s : State) (m : Nat) (e : Eng) (op : EngOp) : State :=
  match op with
  | .strm list inc => s.doStrm m e op list.toNat inc
  | .mov a => s.doMov m e op a false
  | .ctake q rd => s.doCtake m e op q.toNat rd
  | .cput q rs => s.doCput m e op q.toNat rs
  | op => s.stewardIssue m e op

end Sys2Proof.Machine
end

