-- ==== Sys2Proof/Machine/Yoke.lean ====
section
/-! DEFINITION. The matrix engine's operations: stationary loads, yoke operations, reshapes (02, 03 Table 3), and
quern sparing (R70 to R75). -/

namespace Sys2Proof.Machine

open Sys2Proof

/-! ## Operands and their checks (03 Table 7) -/

/-- The bytes an operand layout of `rows` by `cols` elements reaches. -/
def layoutEnd (l : Layout) (bits rows cols : Nat) : Nat :=
  l.base + ((rows - 1) * l.rowBits + (cols - 1) * l.elemBits + bits + 7) / 8

/-- The bytes a scale layout reaches. -/
def scaleEnd (l : ScaleLayout) (lines blocks : Nat) : Nat := l.base + (lines - 1) * l.line + (blocks - 1) * l.block + 1

/-- The form of lds: a yoke of the partition, operands within the loft. -/
def ldsForm (x : Mill) (a : LdsArgs) : Bool :=
  let k := a.yoke.k a.fmt
  x.part.has a.yoke && decide (layoutEnd a.src a.fmt.bits k a.yoke.n ≤ 2 ^ 20) &&
    (match a.scales with
     | some l => decide (scaleEnd l a.yoke.n ((k + 31) / 32) ≤ 2 ^ 20)
     | none => true)

/-- The depth and width of a yoke operation. -/
def mmDepth (col : Bool) (a : MmArgs) : Nat := if col then a.yoke.n else a.yoke.k a.fmtA

/-- The width of its results. -/
def mmWidth (col : Bool) (a : MmArgs) : Nat := if col then a.yoke.k a.fmtB else a.yoke.n

/-- The form of mmr and mmc. DESIGN CHOICE: block scales that an operation in INT8, BF16 or FP16 names are not refused and scale nothing,
and so with lds (R55; log entry 167): one rate class, a yoke of the partition, a destination within its store, increments
of 1 to 255, and operands within the loft (R39, R87, R95). -/
def mmForm (x : Mill) (g : Engine) (col : Bool) (a : MmArgs) : Bool :=
  let amt := fun (i : Option Inc) => match i with
    | some i => decide (1 ≤ (g.src i.amount).toNat) && decide ((g.src i.amount).toNat ≤ 255)
    | none => true
  let bytes := 4 * a.rows * mmWidth col a
  decide (a.fmtA.rate = a.fmtB.rate) && x.part.has a.yoke &&
    (match a.dst with
     | .loft o => decide (o + bytes ≤ 2 ^ 20)
     | .bank _ o => decide (o + bytes ≤ 2 ^ 14)) &&
    amt a.readInc && amt a.writeInc &&
    (a.afifo || decide (layoutEnd a.src a.fmtA.bits a.rows (mmDepth col a) ≤ 2 ^ 20)) &&
    (match a.scales with
     | some l => decide (scaleEnd l a.rows ((mmDepth col a + 31) / 32) ≤ 2 ^ 20)
     | none => true)

/-! ## Hazards of the matrix engine -/

/-- A quern's busy record. -/
def Mill.quern (x : Mill) (q : Nat) : QuernBusy := Table.get {} x.busy q

/-- The aligned 2×2 group of a quern (R76). -/
def quernGroup (q : Nat) : Nat := q / 8 / 2 * 4 + q % 8 / 2

/-- Yoke-busy hazards: a load or a row-side operation after row-side use may issue when the stream ends, any change of
side or a load after column-side use when the results have left (R62, R65). -/
def Mill.yokeHz (x : Mill) (t : Nat) (y : Yoke) (side : Option Bool) : List Hazard :=
  y.querns.flatMap (fun q =>
    let b := x.quern q
    let free := match side with
      | none => if b.col then b.drain else b.stream
      | some c => if b.col == c then b.stream else b.drain
    if t < free then [{ kind := 9, resource := 48 + quernGroup q, stamp := some free, clear := some free }] else [])

/-- A reshape that waits blocks every operation of MX (R44, resource 63). -/
def Mill.reshapeHz (x : Mill) : List Hazard :=
  if x.reshape.isSome then [{ kind := 1, resource := 63, stamp := none, clear := none }] else []

/-- The loft regions of an operand. -/
def layoutRes (l : Layout) (bits rows cols : Nat) : List Nat :=
  if rows = 0 then [] else loftRes l.base (layoutEnd l bits rows cols - l.base)

/-- The loft regions of an operand's block scales. -/
def scaleRes (l : Option ScaleLayout) (lines blocks : Nat) : List Nat :=
  match l with
  | none => []
  | some l => if lines = 0 then [] else loftRes l.base (scaleEnd l lines blocks - l.base)

/-- The loft regions that lds reads. -/
def ldsRes (a : LdsArgs) : List Nat :=
  layoutRes a.src a.fmt.bits (a.yoke.k a.fmt) a.yoke.n ++ scaleRes a.scales a.yoke.n ((a.yoke.k a.fmt + 31) / 32)

/-- The loft regions that mmr and mmc are known to read at issue. The rows of an operand that AF.MX addresses are checked as their words
come (R93). -/
def mmRes (col : Bool) (a : MmArgs) : List Nat :=
  (if a.afifo then [] else layoutRes a.src a.fmtA.bits a.rows (mmDepth col a)) ++ scaleRes a.scales a.rows ((mmDepth col a + 31) / 32)

/-- The gate of a matrix operation. -/
def Mill.mxGate (x : Mill) (g : Engine) (t : Nat) (op : EngOp) : Gate :=
  match x.reshapeHz with
  | h :: _ => .hazard h
  | [] =>
    match op with
    | .lds a =>
      gateOf (x.yokeHz t a.yoke none ++ (ldsRes a).flatMap (x.readHz t))
    | .mm col a =>
      if a.afifo && decide (0 < a.rows) && ((x.fifo .mx).pop t).isNone then
        .wait { status := .faultSched, kind := 5, resource := 60 }
      else
        gateOf (x.yokeHz t a.yoke (some col) ++
          (mmRes col a).flatMap (x.readHz t) ++
          (dstRes a.dst (4 * a.rows * mmWidth col a)).flatMap (x.writeHz t (yokeLatency a.yoke col)))
    | .rshp _ => .go
    | op => x.stewardGate g t op

/-! ## Effects -/

/-- Mark a yoke's querns busy with an operation; results of an earlier one that are still to leave keep their mark (R65). -/
def Mill.occupy (x : Mill) (y : Yoke) (b : QuernBusy) : Mill :=
  { x with busy := y.querns.foldl (fun t q => Table.upd {} t q (fun o => { b with drain := max o.drain b.drain })) x.busy }

/-- lds: the yoke stalls 4R cycles, in which its operand is overwritten in place, one logical row in each (R58). -/
def State.doLds (s : State) (m : Nat) (a : LdsArgs) : State :=
  let t := s.clock.now
  let free := t + 4 * a.yoke.shape.r
  (s.modMill m (fun x =>
    (({ x with loads := x.loads ++ [({ args := a, issue := t } : LoadFlight)] } : Mill).occupy a.yoke
      { stream := free, drain := free, col := false, load := some a.yoke.key }).markBusy (ldsRes a) (free - 1))).issued m .mx

/-- mmr and mmc issue (R59, R60, R64, R102). -/
def State.doMm (s : State) (m : Nat) (col : Bool) (a : MmArgs) : State :=
  let t := s.clock.now
  let g := (s.mill m).mx
  let amt := fun (i : Option Inc) => match i with
    | some i => (g.src i.amount).toNat
    | none => 0
  let lat := yokeLatency a.yoke col
  (s.modMill m (fun x =>
    let f : YokeFlight :=
      { col := col, args := a, issue := t, waits := 0, entered := 0, tile := Table.get {} x.tiles a.yoke.key,
        groups := [], written := 0, readAmt := amt a.readInc, writeAmt := amt a.writeInc, readDone := false,
        writeDone := false }
    let x := { x with flights := x.flights ++ [f] }
    let x := x.occupy a.yoke { stream := t + a.groups, drain := t + lat + a.groups, col := col }
    (x.markBusy (mmRes col a) (t + a.groups - 1)).markReady (dstRes a.dst (4 * a.rows * mmWidth col a))
      (t + lat + a.groups - 1))).issued m .mx

/-- An operation of MX whose turn has come. -/
def State.mxIssue (s : State) (m : Nat) (op : EngOp) : State :=
  let x := s.mill m
  let form := match op with
    | .lds a => ldsForm x a
    | .mm col a => mmForm x x.mx col a
    | .rshp p => p.legal
    | op => stewardForm x.mx op
  if !form then s.engineFault m .mx { status := .mismatch }
  else
    let s := match op with
      | .swait c _ => s.waitTurn m .mx c.toNat
      | _ => s
    let x := s.mill m
    match x.mxGate x.mx s.clock.now op with
    | .hazard h => s.shut m .mx op h.fault true
    | .wait f => s.shut m .mx op f false
    | .go =>
      match op with
      | .lds a => s.doLds m a
      | .mm col a => s.doMm m col a
      | .rshp p => (s.modMill m (fun x => { x with reshape := some p })).issued m .mx
      | op => s.stewardEffect m .mx op

/-! ## Reshapes at epoch boundaries (R44 to R46) -/

/-- The yoke a quern belongs to: the key of its top-left quern, and its number of querns. -/
def yokeAt (p : Partition) (q : Nat) : Nat × Nat :=
  let mode := if q % 8 < 4 then p.west else p.east
  if mode = 2 then (0, 32)
  else if mode = 1 then (q % 8 / 4 * 4, 16)
  else if p.g2.getLsbD (quernGroup q) then (q / 16 * 16 + q % 8 / 2 * 2, 4)
  else (q, 1)

/-- The querns whose yoke a change of partition alters. -/
def altered (old new : Partition) : List Nat :=
  (List.range 32).filter (fun q => decide (yokeAt old q ≠ yokeAt new q))

/-- The bell stands at an epoch boundary: cycle 0 of a tick that is a multiple of 2^16. -/
def State.atEpoch (s : State) : Bool := decide (s.clock.tick.toNat % 65536 = 0) && decide (s.clock.cyc = 0)

/-- A pending reshape at an epoch boundary: it waits while work is in flight on a yoke it alters; otherwise the partition
changes and the stationary operands of the altered yokes are zero (R44, R45). -/
def State.reshapeNow (s : State) (m : Nat) : State :=
  let x := s.mill m
  match x.reshape with
  | none => s
  | some p =>
    let qs := altered x.part p
    let busy := x.flights.any (fun f => f.args.yoke.querns.any (fun q => qs.contains q)) ||
      x.loads.any (fun l => l.args.yoke.querns.any (fun q => qs.contains q)) ||
      qs.any (fun q => decide (s.clock.now < (x.quern q).stream))
    if busy then s
    else
      s.setMill m { x with
        part := p, reshape := none
        tiles := x.tiles.filter (fun t => !qs.contains t.1) }

/-! ## Quern self-test and sparing (R70 to R75) -/

/-- The spare state of a quern. -/
def Mill.spare (x : Mill) (q : Nat) : QSpare := Table.get {} x.qspare q

/-- A running group's almanac marks a mill idle for `n` ticks or more in a window that began with this epoch and goes on (R70). -/
def State.marksIdle (s : State) (g m n : Nat) : Bool :=
  let x := s.group g
  let t := s.clock.tick.toNat
  let b0 := t - t % 65536
  (decide (x.state = .running) || decide (x.state = .restoring)) &&
    (match x.almanac with
     | some al => al.bookings.any (fun b => match b.act with
         | .idle k ticks => decide (k.toNat = m) && decide (n ≤ ticks) && decide (t < b0 + ticks) && decide (b.cycle = 0) && x.bookedAt b b0
         | _ => false)
     | none => false)

/-- The mill stands in an idle window of at least `n` ticks (R70): it has had no work since the epoch boundary. DESIGN CHOICE: where no
almanac marks the window, it counts from the tick in which it has lasted `n` ticks (log entry 174). -/
def State.idleFor (s : State) (m n : Nat) : Bool :=
  let x := s.mill m
  !x.worked && x.quiet &&
    (match x.gslot with
     | none => decide (n ≤ s.clock.tick.toNat % 65536)
     | some g => s.marksIdle g m n)

/-- A failing row found by self-test: the spare takes its place, or the mill goes out of service (R71 to R75). A row
that is not in use changes nothing. -/
def State.failRow (s : State) (m : Nat) (q row : Nat) : State :=
  let x := s.mill m
  let sp := x.spare q
  if !sp.used then
    if row < 4 then
      let s := s.setMill m { x with
        qspare := Table.put {} x.qspare q { used := true, dead := false, row := BitVec.ofNat 2 row }
        tiles := [] }
      let s := s.setArith m 8
      let s := { s with ident := { s.ident with qsub := s.ident.qsub + 1, gen := s.ident.gen + 1 } }
      (s.tallyMill .subDone m 1).alert 1 (toLe 2 m ++ toLe 1 q ++ toLe 1 row)
    else s
  else if row = sp.row.toNat then s
  else
    let s := s.setMill m { x with qspare := Table.put {} x.qspare q { sp with dead := true }, oos := true }
    let s := if x.oos then s
      else { s with ident := { s.ident with oos := s.ident.oos + 1, gen := s.ident.gen + 1 } }
    s.alert 2 (toLe 2 m)

/-- A self-test finds a failing row, which stays in the silicon (R70). -/
def State.foundRow (s : State) (m q row : Nat) : State :=
  let s := s.failRow m q row
  if s.ident.found.contains (m, q, row) then s else { s with ident := { s.ident with found := s.ident.found ++ [(m, q, row)] } }

end Sys2Proof.Machine
end

