-- ==== Sys2Proof/Machine/Issue.lean ====
section
/-! DEFINITION. Issue of engine operations and the end of their waits (R84, R90, R93, R97, R104, R132, R275). -/

namespace Sys2Proof.Machine

open Sys2Proof

/-- A register operand within the engine's file (03 Table 1). -/
def srcInFile (e : Eng) : Src → Bool
  | .reg r => decide (r.toNat < engRegs e)
  | _ => true

/-! ## Words of the control state that an operation uses (R565) -/

/-- The registers of a scalar operand. -/
def eSrcWords : ESrc → List ParWord
  | .e i => [.e i.toNat]
  | _ => []

/-- The register of a sieve address. -/
def svAddrWords (a : SvAddr) : List ParWord :=
  match a.base with
  | some i => [.e i.toNat]
  | none => []

/-- The register of the place of a move. -/
def placeWords : SvPlace → List ParWord
  | .bank a => svAddrWords a
  | .loft a => svAddrWords a
  | .fifo => []

/-- A register that an operation may name. -/
def eOptWords (i : Option (BitVec 3)) : List ParWord := (i.map (fun i => ParWord.e i.toNat)).toList

/-- A D register with its block exponent. -/
def dWords (k : BitVec 3) : List ParWord := [.d k.toNat, .bx k.toNat]

/-- An accumulator with its block exponent. -/
def aWords (k : BitVec 2) : List ParWord := [.a k.toNat, .ax k.toNat]

/-- The registers that a move reads. -/
def moveWords : SvMove → List ParWord
  | .ld p _ bx => placeWords p ++ eOptWords bx
  | .ldc p _ _ bx sc => placeWords p ++ eOptWords bx ++ eOptWords sc
  | .ldx a _ _ _ => svAddrWords a
  | .st p k => placeWords p ++ [.d k.toNat]
  | .stc p _ k none => placeWords p ++ dWords k
  | .stc p _ k (some i) => placeWords p ++ dWords k ++ dWords (k + 1) ++ [.e i.toNat]
  | .stx a n i => svAddrWords a ++ [.e i.toNat] ++ (if n = 4 then [.e (i + 1).toNat] else [])

/-- The registers of a shift count. -/
def countWords : NormCount → List ParWord
  | .val x => eSrcWords x
  | .auto => []

/-- The register of a reduction's destination address. -/
def redWords : RedDst → List ParWord
  | .bank _ a => svAddrWords a
  | .fifo => []

/-- The registers and counters that a compute operation reads. -/
def svOpWords : SvOp → List ParWord
  | .lane _ _ i (.d j) => dWords i ++ [.d j.toNat]
  | .lane _ _ i (.imm _) => dWords i
  | .sel _ c a b => dWords a ++ [.d b.toNat, .d c.toNat]
  | .mac _ a i b => dWords i ++ aWords a ++ (match b with
    | .d j => dWords j
    | .cword c e => svAddrWords c ++ [.e e.toNat]
    | .cvec c e => svAddrWords c ++ [.e e.toNat])
  | .aclr _ ex => eSrcWords ex
  | .rnd a _ bx => aWords a ++ eOptWords bx
  | .lsc k _ => [.d k.toNat]
  | .maxe k _ => dWords k
  | .normD k _ c => dWords k ++ countWords c
  | .normA a c => aWords a ++ countWords c
  | .poly k _ a => dWords k ++ svAddrWords a
  | .rexp _ a e => svAddrWords a ++ [.e e.toNat]
  | .ralign _ a e => svAddrWords a ++ [.e e.toNat]
  | .rsum xa ya d => svAddrWords xa ++ svAddrWords ya ++ redWords d
  | .rfin _ a e d => svAddrWords a ++ [.e e.toNat] ++ redWords d
  | .xop _ _ a b => eSrcWords a ++ eSrcWords b
  | .brc _ e _ => [.e e.toNat]
  | .rpt n _ _ => eSrcWords n
  | .sinc c a => ParWord.counter c.toNat :: eSrcWords a
  | .swait c v => ParWord.counter c.toNat :: eSrcWords v
  | _ => []

/-- The resources of a bundle's access. -/
def SvAcc.resources : SvAcc → List Nat
  | .bank y _ _ _ => [56 + bn y]
  | .loft o n _ => loftRes o n
  | .cst _ _ => [58]
  | .fifo _ _ => [59]
  | .bad => []

/-- The control words that an operation uses: registers, counters, address FIFOs, and the stamps that its hazard check reads. -/
def opWords (x : Mill) (e : Eng) (op : EngOp) : List ParWord :=
  let g := x.eng e
  let yoke := fun (y : Yoke) => y.querns.map (fun q => ParWord.stamp (48 + quernGroup q))
  match op with
  | .bundle b => svOpWords b.op ++ b.moves.flatMap (fun p => moveWords p.2) ++
      (bundleAccs x.sieve b).flatMap (fun a => a.resources.map ParWord.stamp)
  | .sinc c _ => [.counter c.toNat]
  | .swait c _ => [.counter c.toNat]
  | .ldl _ b off w => (loftRes (g.loftAddr b off) (if w then 8 else 4)).map ParWord.stamp
  | .stl _ b off w => (loftRes (g.loftAddr b off) (if w then 8 else 4)).map ParWord.stamp
  | .lds a => yoke a.yoke ++ (ldsRes a).map ParWord.stamp
  | .mm col a => yoke a.yoke ++ (mmRes col a ++ dstRes a.dst (4 * a.rows * mmWidth col a)).map ParWord.stamp
  | .mov a => (if a.afifo then [.fifo (engCarter e).af] else []) ++
      (movRes a.src a.len ++ movRes a.dst a.len).map ParWord.stamp
  | _ => []

/-- An operation uses a control word whose parity or complement fails. -/
def Mill.wordBad (x : Mill) (e : Eng) (op : EngOp) : Bool :=
  !x.parity.isEmpty && (opWords x e op).any (fun w => x.parity.contains w)

/-- The operation is one of the engine's (03 Tables 2 to 4, 04 Tables 2 and 3). -/
def opLegal (e : Eng) (op : EngOp) : Bool :=
  match op with
  | .sinc _ _ => decide (e ≠ .sv)
  | .swait _ _ => decide (e ≠ .sv)
  | .endInv => decide (e ≠ .sv)
  | .ctake _ _ => decide (e = .st ∨ e = .ca ∨ e = .cb)
  | .cput _ _ => decide (e = .st ∨ e = .ca ∨ e = .cb)
  | .strm _ _ => decide (e = .ca ∨ e = .cb)
  | .mov _ => decide (e = .ca ∨ e = .cb)
  | .lds _ => decide (e = .mx)
  | .mm _ _ => decide (e = .mx)
  | .rshp _ => decide (e = .mx)
  | .bundle _ => decide (e = .sv)
  | _ => decide (e = .st)

/-- An operation goes to its engine's checks and gates; one that the engine does not have names no operation (R647), and a control word
that fails its check stops the engine (R565). -/
def State.issueGo (s : State) (m : Nat) (e : Eng) (op : EngOp) : State :=
  if !opLegal e op then s.engineFault m e { status := .mismatch }
  else if (s.mill m).wordBad e op then s.engineFault m e { status := .faultInteg }
  else
    match e, op with
    | .sv, .bundle b => s.svIssue m b
    | .mx, op => s.mxIssue m op
    | .st, op => s.carterIssue m .st op
    | .ca, op => s.carterIssue m .ca op
    | .cb, op => s.carterIssue m .cb op
    | .sv, _ => s

/-- An engine of a mill comes to an operation. An operation that the engine cannot issue now is no event. -/
def State.issueOp (s : State) (m : Nat) (e : Eng) (op : EngOp) : State :=
  if !s.millLive m then s
  else
    match s.ready m e op with
    | (false, s) => s
    | (true, s) =>
      if !(opSrcs op).all (srcInFile e) then s.engineFault m e { status := .mismatch }
      else s.issueGo m e op

/-- The swait a held operation makes. -/
def heldSwait (x : Mill) (e : Eng) : EngOp → Option (Nat × Nat)
  | .swait c v => some (c.toNat, ((x.eng e).src v).toNat)
  | .bundle b =>
    (match b.op with
     | .swait c v => some (c.toNat, (eSrc x.sieve x.sv.args v).toNat)
     | _ => none)
  | _ => none

/-- The cycle from which a held operation may be tried again, as far as stamps and increments tell it. -/
def State.heldUntil (s : State) (m : Nat) (e : Eng) (op : EngOp) : Nat :=
  let x := s.mill m
  let g := x.eng e
  let now := s.clock.now
  let clear := fun (g : Gate) => match g with
    | .hazard h => h.clear.getD now
    | _ => now
  let t := match e, op with
    | .sv, .bundle b => clear (x.bundleGate now b)
    | .mx, op => clear (x.mxGate g now op)
    | _, .mov a =>
      clear (gateOf ((movRes a.src a.len).flatMap (x.readHz now) ++ (movRes a.dst a.len).flatMap (x.writeHz now 8)))
    | _, op => clear (x.stewardGate g now op)
  match heldSwait x e op with
  | some (c, v) => if x.satisfied c v then t else max t ((x.satisfiedAt c v).getD now)
  | none => t

/-- The deferred stop that an engine makes before the operation it holds: the sieve makes one at an accepted point alone (R133, R648). -/
def Mill.heldStop (x : Mill) (e : Eng) : Option EngFault :=
  if e = .sv && !x.sieve.accepted x.sv.fifoHeld then none else (x.eng e).deferred

/-- A stop that a sieve accepts while it holds a bundle (R133). -/
def State.heldReq (s : State) (m : Nat) (e : Eng) : Option StopReq := if e = .sv then (s.stopDue m).map Prod.snd else none

/-- Try a held operation up to `n` times, moving on to the cycle its wait names and then from cycle to cycle (R86, R104, R132), unless a
stop takes it from its engine first. -/
def State.tryHeld (s : State) (m : Nat) (e : Eng) (op : EngOp) : Nat → State
  | 0 => s
  | n + 1 =>
    let s := s.advanceTo (s.heldUntil m e op)
    if ((s.mill m).eng e).held.isNone then s
    else
      match s.heldReq m e, (s.mill m).heldStop e with
      | some r, _ => s.acceptStop m r
      | none, some f => (s.modEng m e (fun g => { g with held := none })).engineFault m e f
      | none, none =>
        let s := (s.modEng m e (fun g => { g with held := none })).issueGo m e op
        match ((s.mill m).eng e).held with
        | some op => (s.advanceTo (s.clock.now + 1)).tryHeld m e op n
        | none => s

/-- The tries after which a hold counts as one that goes on: all that is in flight has come to its end. -/
def Mill.holdTries (x : Mill) : Nat := 16 + x.portLoad

/-- The cycles an engine held an operation, counted when the hold ends (R586). -/
def State.countHold (s : State) (m : Nat) (op : EngOp) (since : Nat) (sync : Bool) : State :=
  match op with
  | .strm _ _ | .mov _ | .lds _ | .mm _ _ | .rshp _ | .ldl _ _ _ _ | .stl _ _ _ _ | .bundle _ | .swait _ _ =>
    s.tallyMill (if sync then .syncWait else .sbStall) m (s.clock.now - since)
  | _ => s

/-- The operation an engine holds is tried again, where it is one that `ok` admits (R97, R104). Where it is held all the same, the end of
the hold has not come, and the command is no event. -/
def State.retry (s : State) (m : Nat) (e : Eng) (ok : EngOp → Bool) : State :=
  let x := s.mill m
  let g := x.eng e
  match g.held with
  | none => s
  | some op =>
    if !ok op || !s.millLive m || x.frozen || g.stopped.isSome || (x.stopped.isSome && !(e = .sv && x.sieve.req.isSome)) ||
        decide (g.dbg.halt = .halted) then s
    else
      let t := s.tryHeld m e op x.holdTries
      if ((t.mill m).eng e).held = some op ∧ ((t.mill m).eng e).dbg.halt ≠ .halted then s
      else t.countHold m op g.heldAt (heldSwait x e op).isSome

/-- The first invocation posted to the empty queue of an idle engine starts 4 cycles after its post; in every other case
it starts with the end before it (R84). A deferred stop comes first (R648). -/
def State.invocationStart (s : State) (m : Nat) (e : Eng) : State :=
  let x := s.mill m
  let g := x.eng e
  match g.queue with
  | [] => s
  | i :: _ =>
    if !s.millLive m || g.running.isSome || g.stopped.isSome || x.stopped.isSome || x.frozen then s
    else
      let s := s.advanceTo (max g.nextIssue (if i.toIdle then i.posted + 4 else 0))
      if ((s.mill m).eng e).stopped.isSome || (s.mill m).stopped.isSome then s
      else
        match ((s.mill m).eng e).deferred with
        | some f => s.engineFault m e f
        | none =>
          if s.queueBad m e then s.engineFault m e { status := .faultInteg }
          else ((s.modEng m e (fun g => g.start s.clock.now)).modMill m (fun x => { x with worked := true })).postWaiting m e

end Sys2Proof.Machine
end

