-- ==== Sys2Proof/Machine/Bell.lean ====
section
/-! DEFINITION. Clocks and the bell (chapter 05): complement failures, the bell's states, slips, crossing faults, and the
commands that move them. -/

namespace Sys2Proof.Machine

open Sys2Proof

/-! ## Complement failures and committed writes (R561, R562, R582) -/

/-- A complement failure: counted, and the first one recorded in HP_CWF. -/
def State.cwFail (s : State) (w : Writer) (off kind : Nat) : State :=
  let r := s.cwf
  let r := if r.w1.getLsbD 31 then { r with w1 := r.w1 ||| 0x40000000 }
    else { w0 := BitVec.ofNat 32 (off % 2 ^ 28), w1 := 0x80000000 ||| BitVec.ofNat 32 (w.code * 16 + kind)
           w2 := s.clock.tick.truncate 32, w3 := 0 }
  ({ s with cwf := r }.evBits s.clock.now 0x3C00034 [31]).tallyW .cwFail

/-- The debug port may write outside its own registers only at levels 2 and 3 (R601). -/
def State.shutOut (s : State) (w : Writer) : Bool := decide (w = .debug) && decide (s.level.toNat < 2)

/-- The writer may write registers of the privileged aperture (R17, R601, R636). -/
def State.may (s : State) (w : Writer) : Bool := w.priv && !s.shutOut w

/-- The reeve runs an image: it is Follower, Leader or in Hold. -/
def Reeve.runs (r : Reeve) : Bool :=
  match r.state with
  | .boot => false
  | .failed => false
  | .follower => true
  | .leader => true
  | .hold => true

/-- No reeve runs an image: the reeves run the boot ROM, and only the IDN, REEVE, BWTH, PWR, SEC, CFG and HP blocks answer (R480). -/
def State.bootRom (s : State) : Bool := !s.reeveW.runs && !s.reeveE.runs

/-- The writer may write registers of a block that does not answer under the boot ROM (R480). -/
def State.mayReg (s : State) (w : Writer) : Bool := s.may w && !s.bootRom

/-- The writer may write registers of the data and control planes, which no reeve does (R26, R27). -/
def State.mayHost (s : State) (w : Writer) : Bool := s.mayReg w && !w.reeve

/-- The outcome of a committed CW write: the block takes it, or its own commit condition refuses it (kind 5). -/
def State.commit (s : State) (w : Writer) (off : Nat) (r : Option State) : State :=
  match r with
  | some s' => s'
  | none => s.cwFail w off 5

/-- The ports that a group uses, with their hop budgets (R195). -/
def Group.ports (g : Group) : List (Nat × Nat) :=
  match g.almanac with
  | some a => a.ports.map (fun p => (p.1.toNat, p.2))
  | none => []

/-- Raise a cause in every group that uses a port. -/
def State.raisePort (s : State) (p cause : Nat) : State :=
  (List.range 8).foldl (fun s g =>
    if (s.group g).ports.any (fun q => decide (q.1 = p)) then s.raiseHalt g cause p else s) s

/-! ## The bell's registers and ports -/

/-- A group is seated, restoring, running or halted on the device. -/
def State.anyHeld (s : State) : Bool := s.groups.any (fun g => g.2.state.held)

/-- A bell slip (R176, R177, R185): recorded, reported, alerted; the device enters holdover and every group that runs on it
halts under cause 7. -/
def State.bellSlip (s : State) (kind port expected observed mtick : Nat) : State :=
  let r := s.bell.slip.set3 (s.clock.tick.truncate 32) (BitVec.ofNat 32 (expected % 65536 * 65536 + observed % 65536))
    (BitVec.ofNat 32 mtick) (BitVec.ofNat 32 (kind * 256 + port))
  let s := s.modBell (fun b =>
    { b with slip := r, slipBit := true, state := .holdover, depth := 0xFF, h := none, jumped := none, lockNext := none })
  let s := (s.evBits s.clock.now 0x3B00010 [4]).evBits s.clock.now 0x3B0004C [31]
  let s := (s.report 17 0 .contained .timeout 15 0 true).alert 7 (toLe 1 kind ++ toLe 1 port)
  (List.range 8).foldl (fun s g => s.raiseHalt g 7 port) s

/-- A crossing fault (R165, R166, R186), with the tick and cycle of the release and the cycle of arrival: the first is recorded and
sent as a report, and each is cause 2 of its group. -/
def State.crossFault (s : State) (tick : BitVec 64) (xid typ release arrival : Nat) (g : Option Nat) : State :=
  let first := !s.bell.xflt.w3.getLsbD 31
  let r := s.bell.xflt.set3 (tick.truncate 32) (BitVec.ofNat 32 (release % 65536 * 65536 + arrival % 65536))
    (BitVec.ofNat 32 (xid % 65536)) (BitVec.ofNat 32 (typ % 8))
  let s := ((s.evBits s.clock.now 0x3B00010 [7]).evBits s.clock.now 0x3B0006C [31]).modBell (fun b => { b with xflt := r, xfltBit := true })
  let s := if first then s.reportRecord 17 0 .contained .faultSched r g.isSome else s
  match g with
  | some g => s.raiseHalt g 2 xid
  | none => s

/-! ## Bell frames (R171 to R176, R179) -/

/-- An echo's answer has been released (R174, R176 kind 4). -/
def State.echo (s : State) (p seq hold : Nat) : State :=
  let y := s.bell.port p
  match y.reqs.find? (fun q => decide (q.1 = seq)) with
  | none => s
  | some (q, t) =>
    let rt := s.clock.now - t
    let s := s.modBellPort p (fun y => { y with reqs := y.reqs.erase (q, t) })
    if s.bell.follows ∧ y.rt.isSome ∧ y.rt ≠ some rt then s.bellSlip 4 p (y.rt.getD 0) rt 0
    else if rt < hold then s
    else if (rt - hold) % 2 = 1 then s.modBellPort p (fun y => { y with txadj := true })
    else
      let h := (rt - hold) / 2
      if 65535 < h then s.modBellPort p (fun y => { y with valid := false })
      else
        let s := s.modBellPort p (fun y => { y with valid := true, hop := h, rt := some rt })
        if s.bell.state = .calibrating ∧ p = s.bell.upPort.toNat ∧ s.bell.jumped.isNone then
          s.modBell (fun b => { b with h := some h })
        else s

/-- The bell jumps to tick `t`, cycle `c` (R179, R180): the model's stamps count cycles that never jump; each port ends its
frame and sends a block end. -/
def State.bellJump (s : State) (t : Nat) (c : Nat) : State :=
  { s with
    clock := { s.clock with tick := BitVec.ofNat 64 t, cyc := c }
    ports := s.ports.map (fun p => (p.1, { p.2 with jumpPending := decide (p.2.state = .up) })) }

/-- A marker for tick `n` from depth `d` is released on the upstream port: a calibrating follower jumps and counts matches, and one that
has been locked compares it with its bell (R176, R179). -/
def State.marker (s : State) (p n d : Nat) : State :=
  let b := s.bell
  if b.state = .calibrating then
    match b.h, b.jumped with
    | some h, none => (s.bellJump (n + h / 1248) (h % 1248)).modBell (fun b => { b with jumped := some 0, seen := true })
    | some h, some k =>
      let hit := decide (s.clock.cyc = h % 1248) && decide (n + h / 1248 = s.clock.tick.toNat)
      let k := if hit then k + 1 else 0
      s.modBell (fun b =>
        { b with jumped := some k, lockNext := if 16 ≤ k then some s.clock.tick else none, seen := true, upDepth := d })
    | none, _ => s
  else if b.follows then
    let h := (b.port p).hop
    let s := s.modBell (fun b => { b with seen := true, missed := 0 })
    if s.clock.cyc ≠ h % 1248 then s.bellSlip 1 p (h % 1248) s.clock.cyc 0
    else if n + h / 1248 ≠ s.clock.tick.toNat then s.bellSlip 2 p (h % 1248) s.clock.cyc (n % 2 ^ 32)
    else s
  else s

/-- BELL_FRAME_RECEIVE (R172). -/
def execBellFrameReceive (p : PortIx) (frame : List Byte) (s : State) : Res :=
  let p := p.toNat
  let f := padTo 64 frame
  let tick := leAt f 0 8
  let kind := leAt f 16 1
  if !s.portUp p then .next s
  else if leAt f 8 8 ≠ 2 ^ 64 - 1 - tick ∨ leAt f 18 2 ≠ s.bell.tag.toNat ∨ (kind ≠ 1 ∧ kind ≠ 2) then
    .next (s.tallyPort .bellDrop p)
  else
    let req := leAt f 20 4
    let rep := leAt f 24 4
    let s := if req ≠ 0 then s.modBellPort p (fun y => { y with answer := some (req, s.clock.now) }) else s
    let s := if rep ≠ 0 then s.echo p rep (leAt f 28 4) else s
    if kind = 1 ∧ s.bell.role = 2 ∧ p = s.bell.upPort.toNat then .next (s.marker p tick (leAt f 17 1)) else .next s

/-- MARKER_TIMEOUT (R176 kind 3). -/
def execMarkerTimeout (s : State) : Res :=
  if s.bell.follows ∧ 4 ≤ s.bell.missed then
    .next ((s.bellSlip 3 s.bell.upPort.toNat ((s.bell.port s.bell.upPort.toNat).hop % 1248) 0xFFFF 0).modBell
      (fun b => { b with missed := 0 }))
  else .next s

/-- The rest of the tick's cycles pass, and the bell reaches cycle 0 of the next one (R159, R167). -/
def State.nextTick (s : State) : State := s.pass (1248 - s.clock.cyc)

/-- BELL_TICK (R167). -/
def execBellTick (s : State) : Res := .next s.nextTick

/-- BELL_LOCKED (R179): the tick after the sixteenth match comes, and at its cycle 0 the follower is locked. -/
def execBellLocked (s : State) : Res :=
  .next (if s.bell.state = .calibrating ∧ s.bell.lockNext.isSome then s.nextTick else s)

/-- The write of BELL_CTL that a commit makes: role, tag and upstream port (R178, R181). A device in holdover leaves it for the source
state by a relock only (R158, R178). -/
def State.bellCtl (s : State) (v : Word) : Option State :=
  let role := v.truncate 2
  if role = 3 then none
  else
    let s := s.modBell (fun b =>
      let b := { b with tag := (v >>> 16).truncate 16, upPort := (v >>> 2).truncate 5, role := role }
      if role = 1 then
        if b.state = .source ∨ b.state = .holdover then b
        else if b.refclk then { b with state := .source, depth := 0, h := none, jumped := none, lockNext := none }
        else { b with state := .holdover, depth := 0xFF, h := none, jumped := none, lockNext := none }
      else if role = 0 then { b with state := .standalone, depth := 0xFF, h := none, jumped := none, lockNext := none }
      else if b.state = .source then { b with state := .standalone, depth := 0xFF }
      else b)
    some s

/-- A relock is discarded (R178). -/
def State.refuseRelock (s : State) : State := (s.modBell (fun b => { b with refused := true })).evBits s.clock.now 0x3B00010 [6]

/-- The relock bit of a committed BELL_CTL (R178). -/
def State.bellRelock (s : State) : State :=
  let b := s.bell
  if b.role = 2 then
    if s.anyHeld then s.refuseRelock
    else s.modBell (fun b => { b with state := .calibrating, depth := 0xFF, h := none, jumped := none, lockNext := none })
  else if b.role = 1 ∧ b.state = .holdover then
    if b.refclk && b.plls then s.modBell (fun b => { b with state := .source, depth := 0 })
    else s.refuseRelock
  else s

/-- The offset of BELL_CTL. -/
def offBellCtl : Nat := 0x3B00000

/-- RELOCK (R178): a committed BELL_CTL with the relock bit. -/
def execRelock (w : Writer) (v : Word) (s : State) : Res :=
  if !s.mayReg w then .next s
  else .next (s.commit w offBellCtl ((s.bellCtl v).map (fun s => s.bellRelock)))

/-- BELL_ROLE_SET (R178): a committed BELL_CTL; its relock bit, where set, acts as in RELOCK. -/
def execBellRoleSet (w : Writer) (v : Word) (s : State) : Res :=
  if !s.mayReg w then .next s
  else .next (s.commit w offBellCtl
    ((s.bellCtl v).map (fun s => if v.getLsbD 8 then s.bellRelock else s)))

/-- BELL_NOW_CAPTURE (R170). -/
def execBellNowCapture (s : State) : Res :=
  .next (if s.bootRom then s else s.modBell (fun b => { b with capCycle := s.clock.cyc, capTick := s.clock.tick }))

/-- REFCLK_LOST (R158). -/
def execRefclkLost (s : State) : Res :=
  if s.bell.refclk then
    .next (((s.modBell (fun b => { b with refclk := false, plls := false, refLoss := true })).evBits s.clock.now 0x3B00010 [5]).bellSlip 5 0 0 0xFFFF 0)
  else .next s

/-- REFCLK_RETURN (R158): the PLLs lock to it again; the bell stays as it is. -/
def execRefclkReturn (s : State) : Res := .next (s.modBell (fun b => { b with refclk := true, plls := true }))

/-! ## Crossings (R162 to R165, R568) -/

/-- CROSSING_RELEASE (R160, R162, R164, R165): an item sent in source cycle `c` of the current tick becomes visible. A crossing in
elastic mode delivers it; one of fixed latency holds it until its release cycle, or faults where that has passed. An island that has
not seen a tick strobe since its return accepts none. A full crossing takes no item (log 179). -/
def execCrossingRelease (xid : BitVec 16) (c : BitVec 13) (item : List Byte) (s : State) : Res :=
  let now := s.send { kind := .crossItem, unit := xid.toNat, addr := s.clock.cyc, data := item, cycle := s.clock.now }
  match s.bell.crossings.find? (fun e => decide (e.1 = xid.toNat)) with
  | none => .next now
  | some (_, x) =>
    if !s.islandTakes x then .next s
    else
      match x.isFixed, s.releaseAt x c.toNat with
      | true, some (r, due) =>
        if due < s.clock.now then
          let a := (s.domainCycle x.dst).getD r
          .next ((s.send { kind := .crossItem, unit := xid.toNat, addr := a, data := item, cycle := s.clock.now }).crossFault
            s.clock.tick xid.toNat x.typ r a x.gslot)
        else if 64 ≤ (s.bell.store.filter (fun i => decide (i.xid = xid.toNat))).length then .next s
        else .next ((s.modBell (fun b =>
          { b with store := b.store ++ [{ xid := xid.toNat, release := r, due := due, item := item }] })).releaseItems)
      | _, _ => .next now

/-- CROSSING_FAULT (R165): the item sent in source cycle `c` becomes visible in destination cycle `arrival` of the tick of its release,
after its release cycle; it is delivered then, and the fault is recorded. -/
def execCrossingFault (xid : BitVec 16) (c arrival : BitVec 13) (item : List Byte) (s : State) : Res :=
  match s.bell.crossings.find? (fun e => decide (e.1 = xid.toNat)) with
  | none => .next s
  | some (_, x) =>
    match x.isFixed, s.releaseAt x c.toNat with
    | true, some (r, due) =>
      if arrival.toNat ≤ r ∨ !s.islandTakes x then .next s
      else
        let tick := if s.clock.now - s.clock.cyc + 1248 ≤ due then s.clock.tick + 1 else s.clock.tick
        let s := s.advanceTo (due + (arrival.toNat - r) * 1248 / ((s.perTick x.dst).getD 1248))
        .next ((s.send
          { kind := .crossItem, unit := xid.toNat, addr := arrival.toNat, data := item, cycle := s.clock.now }).crossFault
            tick xid.toNat x.typ r arrival.toNat x.gslot)
    | _, _ => .next s

/-- What a lost item of an X7 or X8 crossing was (R568). -/
def State.crossLoss (s : State) (lost : CrossLoss) : State :=
  match lost with
  | .registerRead => s.send { kind := .regReadFail, unit := Status.faultInteg.code, addr := 0, data := [] }
  | .ringMessage => s.report 2 0 .contained .faultInteg 15 0 false
  | .command c =>
    s.completeIf (c.cq.map BitVec.toNat)
      { cq := 0, status := .faultInteg, kind := 3, sq := c.sq.toNat, sqidx := c.idx.toNat % 65536, tag := c.tag }
  | .work m e => s.modMill m.toNat (fun x => x.defer e { status := .faultInteg })

/-- CROSSING_RESEND (R568): each of `fails` parity failures of one item is a resend, and after three failed resends the
item is lost. -/
def execCrossingResend (d : Die) (fails : Nat) (lost : CrossLoss) (s : State) : Res :=
  let s := s.tally_ .crossResend d 0 (min fails 3)
  .next (if 3 < fails then s.crossLoss lost else s)

end Sys2Proof.Machine
end

