-- ==== Sys2Proof/Machine/Lanes.lean ====
section
/-! DEFINITION. Field lanes and ports (chapter 14): alignment, the rate ladder, sequencing and replay, slots, spare lanes. -/

namespace Sys2Proof.Machine

open Sys2Proof

/-! ## Lanes and link lanes -/

/-- A physical lane of a port. -/
def Port.lane (x : Port) (l : Nat) : PhysLane := Table.get {} x.lanes l

/-- Change a physical lane. -/
def Port.modLane (x : Port) (l : Nat) (f : PhysLane → PhysLane) : Port := { x with lanes := Table.upd {} x.lanes l f }

/-- The role of a physical lane: 0 to 7 the logical lane served, 8 spare, 9 failed (R465). -/
def Port.role (x : Port) (l : Nat) : Nat := ((x.lane l).role.getD (BitVec.ofNat 4 l)).toNat

/-- A logical lane's receive state. -/
def Port.link (x : Port) (n : Nat) : LinkLane := Table.get {} x.links n

/-- Change a logical lane's receive state. -/
def Port.modLink (x : Port) (n : Nat) (f : LinkLane → LinkLane) : Port := { x with links := Table.upd {} x.links n f }

/-- The physical lanes in frame lock. -/
def Port.locked (x : Port) : List Nat := (List.range 9).filter (fun l => decide ((x.lane l).align = 3))

/-- Tenths of a nanosecond of a frame at a rate (14 Table 5), times 10. -/
def frameNs100 : Nat → Nat
  | 0 => 28800
  | 1 => 7200
  | 2 => 2880
  | 3 => 1440
  | _ => 1125

/-- Arithmetic cycles that `n` frame slots of a port, eight lanes wide, take. -/
def slotCycles (rate n : Nat) : Nat := (n * frameNs100 rate / 8 * 13 + 999) / 1000

/-! ## Loss of a port (R442) -/

/-- Put a cart on a ring by a packet, where there is room for it; otherwise it leaves its chain. -/
def State.putFar (s : State) (q : Nat) (c : List Byte) (epoch : Option Nat) : State :=
  if s.canPut q = .ok then
    { s with qs := { s.qs with flights := s.qs.flights ++
      [{ ring := q, cart := putForm (s.queue q) c, at_ := s.clock.now + 4, local_ := false, epoch := epoch }] } }
  else s.reportRing q

/-- The carts whose parcels were not all acknowledged go back with ABORTED and partial set (R442). -/
def State.returnCarts (s : State) (p : Nat) : State :=
  (s.port p).sends.foldl (fun s c =>
    s.putFar (s.queue c.ring).pair (reCart c.cart (cartFill c.cart) (cartGen c.cart) (2 + 32)) none) s

/-- The link state of a port is as at the start of the ladder. -/
def Port.clearLink (x : Port) : Port :=
  { x with credit := 0, links := [], frameNo := 0, takeNo := 0, replay := [], waiting := [], stream := [], held := 0
           give := 0, sends := [], sub := none, txDup := none, txServes := none, jumpPending := false, lanesAt := [], bookedTx := []
           bookedRx := [] }

/-- A lane at the start of the ladder keeps its role and equaliser. -/
def PhysLane.restart (l : PhysLane) : PhysLane :=
  { l with align := 0, groups := [], heads := [], good := 0, clean := 0 }

/-- A port enters the ladder at a rate, drawing a new tiebreak (R443). -/
def State.enterLadder (s : State) (p rate : Nat) : State :=
  let (n, s) := s.draw
  s.modPort p (fun x =>
    { x.clearLink with
      state := .ladder, rate := rate, tiebreak := BitVec.ofNat 64 n, target := none, leading := false
      lanes := x.lanes.map (fun l => (l.1, l.2.restart))
      deadline := some (s.clock.now + usCycles 2000) })

/-- A port is lost (R442): the ladder starts again from the lowest rate, without the bound that a failed step set. -/
def State.portLost (s : State) (p : Nat) : State :=
  if (s.port p).state ≠ .up then s
  else
    let s := ((s.returnCarts p).modPort p (fun x => { x with lost := true, limit := none })).evBits s.clock.now (0x3900000 + 0x10 * p) [26]
    let s := (s.report 15 p .contained .timeout 15 0 true).alert 11 (toLe 1 p ++ toLe 1 1)
    let s := s.modBellPort p (fun y => { y with valid := false })
    (s.raisePort p 4).enterLadder p 0

/-! ## Failed lanes and the spare (R458 to R461) -/

/-- A logical lane of a port fails: the spare takes its place, or the port is lost (R442, R458, R459). A lane whose substitution
is under way has failed already. -/
def State.laneFail (s : State) (p n : Nat) : State :=
  if ((s.port p).sub.map Prod.fst) = some n then s
  else
  let s := s.tallyPort .laneFail p
  let x := s.port p
  if x.sub.isSome || x.spareLog.isSome || x.sparePhys.isNone then s.portLost p
  else
    (s.setPort p { x with sub := some (n, 0) }).control p (toLe 1 0x12 ++ toLe 1 n ++ toLe 1 1)

/-- A physical lane leaves frame lock or goes down; a logical lane that a port in service loses with it fails (R441). -/
def State.laneDown (s : State) (p l align : Nat) : State :=
  let x := s.port p
  let s := s.setPort p (x.modLane l (fun y =>
    { y with align := BitVec.ofNat 2 align, groups := [], heads := [], good := 0, clean := 0 }))
  if x.state = .up ∧ (x.lane l).align = 3 ∧ x.role l < 8 then s.laneFail p (x.role l) else s

/-! ## Commands: alignment (R441) -/

/-- A lane of a fitted port. -/
def State.laneAt (s : State) (p l : Nat) : Bool := s.portFitted p && decide (l < 9)

/-- LANE_SIGNAL_DETECT (R441). -/
def execLaneSignalDetect (p : PortIx) (l : BitVec 4) (s : State) : Res :=
  if s.laneAt p.toNat l.toNat && decide (((s.port p.toNat).lane l.toNat).align = 0) then
    .next (s.modPort p.toNat (fun x => x.modLane l.toNat (fun y => { y with align := 1 })))
  else .next s

/-- COMMA_DETECT (R441). -/
def execCommaDetect (p : PortIx) (l : BitVec 4) (s : State) : Res :=
  if s.laneAt p.toNat l.toNat && decide (((s.port p.toNat).lane l.toNat).align = 1) then
    .next (s.modPort p.toNat (fun x => x.modLane l.toNat (fun y => { y with align := 2, good := 0, groups := [] })))
  else .next s

/-- Some 64 consecutive entries of a list hold at least `k` that are false. -/
def badWindow (k : Nat) (h : List Bool) : Bool :=
  (List.range (h.length - 63)).any (fun i => decide (k ≤ (((h.drop i).take 64).filter (fun b => !b)).length))

/-- The bytes of a frame's symbols: an invalid code group enters the decoder as 0 (R435). -/
def symBytes (syms : List (Option Byte)) : List Byte := syms.map (fun b => b.getD 0)

/-- Take the sequenced frames of a port in the order of the port stream (R450). -/
def Port.merge (x : Port) : Nat → Port
  | 0 => x
  | n + 1 =>
    let l := x.takeNo % 8
    match (x.link l).inbox with
    | [] => x
    | f :: rest =>
      ({ (x.modLink l (fun y => { y with inbox := rest })) with
          stream := x.stream ++ [f], takeNo := x.takeNo + 1 }).merge n

/-- A data frame in a common slot on logical lane `n` (R450 to R453). In chain mode its bytes go to the loader (R414), which takes them
as the chain data event, and the frames leave the port's buffer. While user I/O is disabled the frames of the port stream are
discarded as PARCEL_FORWARD takes them (R413). -/
def State.dataFrame (s : State) (p n : Nat) (msg : Option (List Byte)) : State :=
  let x := s.port p
  let y := x.link n
  let refuse := fun (_ : Unit) => s.setPort p (x.modLink n (fun y => { y with nak := true }))
  match msg with
  | none => refuse ()
  | some m =>
    let fc := leAt m 0 1
    if fc % 128 ≠ y.expect then refuse ()
    else
      let x := x.modLink n (fun y =>
        { y with expect := (y.expect + 1) % 128, unacked := y.unacked + 1, nak := false, naks := 0
                 inbox := y.inbox ++ [(decide (128 ≤ fc), m.drop 1)] })
      let x := { x with held := x.held + 1 }.merge 1024
      s.setPort p (if s.portMode p = 1 then
        { x with stream := [], held := x.held - x.stream.length, give := x.give + x.stream.length } else x)

/-- A lane's count of frames, and of uncorrectable ones among the last 65,536 (R458). -/
def LinkLane.count (y : LinkLane) (bad : Bool) : LinkLane :=
  let k := y.frames + 1
  { y with frames := k, bad := ((if bad then y.bad ++ [k] else y.bad).filter (fun i => decide (k < i + 65536))) }

/-- A frame is decoded and counted (R439): its message, unless it is uncorrectable. -/
def State.decoded (s : State) (p : Nat) (syms : List (Option Byte)) : Option (List Byte × Nat) × State :=
  match rsDecode (symBytes syms) with
  | none => (none, s.tallyPort .laneUncorr p)
  | some (m, k) => (some (m, k), if 0 < k then s.tallyPort .laneCorr p else s)

/-- A logical lane's frame is counted; with four uncorrectable ones among 65,536 the lane has failed, and its frame is not taken
(R458). -/
def State.countFrame (s : State) (p n : Nat) (bad : Bool) : Bool × State :=
  let s := s.modPort p (fun x => x.modLink n (fun y => y.count bad))
  if 4 ≤ ((s.port p).link n).bad.length then
    (false, (s.modPort p (fun x => x.modLink n (fun y => { y with bad := [] }))).laneFail p n)
  else (true, s)

/-- A frame that a locked lane delivers (R439, R440): corrected, counted, and handed on by its header. -/
def State.delivered (s : State) (p l : Nat) (hdr : LaneHdr) (syms : List (Option Byte)) : State :=
  let x := s.port p
  let (r, s) := s.decoded p syms
  let n := x.role l
  if 8 < n then
    s.setPort p (x.modLane l (fun y => { y with clean := if r.isSome then y.clean + 1 else 0 }))
  else if n = 8 then
    s.setPort p { x with sub := x.sub.map (fun u => (u.1, u.2 + 1)) }
  else
    match s.countFrame p n r.isNone with
    | (false, s) => s
    | (true, s) =>
      match hdr with
      | .data => if x.state = .up then s.dataFrame p n (r.map Prod.fst) else s
      | .control =>
        (match r with
         | some (m, _) =>
           let k := leAt m 1 1
           if k = 0 ∨ k = 1 ∨ k = 0x0F ∨ k = 0x10 ∨ k = 0x11 ∨ k = 0x12 ∨ k = 0x21 ∨ (0x31 ≤ k ∧ k ≤ 0x33) then s
           else s.tallyPort .laneCtlDrop p
         | none => s)
      | _ => s

/-- Decode a frame's code groups on a physical lane at its running disparity (R433). -/
def State.decodeFrame (s : State) (p l : Nat) (gs : List (BitVec 10)) : LaneHdr × List (Option Byte) × State :=
  let (hdr, syms, rd) := frameOfGroups ((s.port p).lane l).rd gs
  (hdr, syms, s.modPort p (fun x => x.modLane l (fun y => { y with rd := rd })))

/-- A header comes on a lane in frame lock (R441): 4 invalid ones among 64 end the lock, which the first part of the answer says. -/
def State.lockStep (s : State) (p l : Nat) (ok : Bool) : Bool × State :=
  let hs := ((s.port p).lane l).heads ++ [ok]
  if 4 ≤ ((hs.drop (hs.length - 64)).filter (fun b => !b)).length then (false, s.laneDown p l 2)
  else (true, s.modPort p (fun x => x.modLane l (fun y => { y with heads := hs.drop (hs.length - 63) })))

/-- FRAME_RECEIVE (R433, R435, R439, R441): the 72 code groups of a frame on a physical lane. -/
def execFrameReceive (p : PortIx) (l : BitVec 4) (header : BitVec 10) (groups : List (BitVec 10)) (s : State) : Res :=
  let p := p.toNat
  let l := l.toNat
  if !s.laneAt p l then .next s
  else
    let (hdr, syms, s) := s.decodeFrame p l (header :: groups)
    let s := s.modPort p (fun x => x.modLane l (fun y => { y with force := y.peak }))
    let y := (s.port p).lane l
    let ok := decide (hdr ≠ .invalid)
    if y.align = 2 then
      let gs := y.groups ++ (ok :: syms.map Option.isSome)
      if badWindow 16 gs then .next (s.laneDown p l 1)
      else
        let good := if ok then y.good + 1 else 0
        .next (s.modPort p (fun x => x.modLane l (fun y =>
          { y with good := if 64 ≤ good then 0 else good, align := if 64 ≤ good then 3 else 2
                   groups := gs.drop (gs.length - 63), heads := [] })))
    else if y.align = 3 then
      match s.lockStep p l ok with
      | (false, s) => .next s
      | (true, s) =>
        if ok then .next (s.delivered p l hdr syms)
        else if (s.port p).role l = 8 then
          .next (s.modPort p (fun x => { x with sub := x.sub.map (fun u => (u.1, 0)) }))
        else .next s
    else .next s

/-! ## Commands: the rate ladder (R443, R444, R463) -/

/-- The offset of LANE_CTLp. -/
def offLaneCtl (p : Nat) : Nat := 0x3800000 + 0x400 * p

/-- The write of LANE_CTLp that a commit makes (R463). -/
def State.laneCtl (s : State) (p : Nat) (v : Word) : Option State :=
  let rate : BitVec 3 := (v >>> 5).truncate 3
  if 5 ≤ rate.toNat then none
  else
    let en := v.getLsbD 0
    let x := s.port p
    let s := s.setPort p { x with maxRate := rate, en := en }
    if en && !x.en then some (s.enterLadder p 0)
    else if !en && x.en then
      some (((s.returnCarts p).modBellPort p (fun y => { y with valid := false })).modPort p (fun x =>
        { x.clearLink with state := .idle, rate := 0, target := none, limit := none, deadline := none
                           lanes := x.lanes.map (fun l => (l.1, l.2.restart)) }))
    else some s

/-- PORT_ENABLE (R443): a committed LANE_CTLp with en = 1. -/
def execPortEnable (w : Writer) (p : PortIx) (v : Word) (s : State) : Res :=
  if s.mayHost w && s.portFitted p.toNat && v.getLsbD 0 then .next (s.commit w (offLaneCtl p.toNat) (s.laneCtl p.toNat v))
  else .next s

/-- PORT_DISABLE (R463): a committed LANE_CTLp with en = 0. -/
def execPortDisable (w : Writer) (p : PortIx) (v : Word) (s : State) : Res :=
  if s.mayHost w && s.portFitted p.toNat && !v.getLsbD 0 then .next (s.commit w (offLaneCtl p.toNat) (s.laneCtl p.toNat v))
  else .next s

/-- A locked port's own capability frame (R440, R443). -/
def Port.capability (x : Port) : List Byte :=
  toLe 1 0x10 ++ toLe 1 1 ++ toLe 1 4 ++ toLe 1 0 ++ toLe 2 0x1FF ++ toLe 1 16 ++ toLe 1 0 ++ toLe 8 x.tiebreak.toNat

/-- A capability frame goes on every logical lane (R443). -/
def State.sendCapability (s : State) (p : Nat) : State :=
  (List.range 8).foldl (fun s n => s.controlOn p n (s.port p).capability) s

/-- The step frames of a leading end: countdown 63 to 0 on logical lane 0 (R443). -/
def State.stepFrames (s : State) (p rate : Nat) : State :=
  (List.range 64).foldl (fun s i => s.control p (toLe 1 0x11 ++ toLe 1 rate ++ toLe 1 (63 - i))) s

/-- A port with exactly eight locked physical lanes uses the spare in place of the ninth (R443, R460). -/
def State.ladderSpare (s : State) (p : Nat) : State :=
  let x := s.port p
  match (List.range 9).filter (fun l => decide ((x.lane l).align ≠ 3)) with
  | [l] =>
    (match x.sparePhys with
     | some q =>
       if x.role l < 8 ∧ q ≠ l ∧ x.spareLog.isNone then
         let n := x.role l
         let x := (x.modLane q (fun y => { y with role := some (BitVec.ofNat 4 n) })).modLane l
           (fun y => { y with role := some 9 })
         ((s.setPort p { x with spareLog := some n }).tallyPort .laneSub p).alert 11
           (toLe 1 p ++ toLe 1 3 ++ toLe 1 n)
       else s
     | none => s)
  | _ => s

/-- CAPABILITY_RECEIVE (R443): the far end's capability frame on a port whose lanes are locked and deskewed; `far` is the far
end's FLD_NODE. -/
def execCapabilityReceive (p : PortIx) (payload : List Byte) (far : BitVec 10) (s : State) : Res :=
  let p := p.toNat
  let x := s.port p
  let b := padTo 64 payload
  if !s.portFitted p || decide (x.state ≠ .ladder) || decide (x.locked.length < 8) ||
      decide (leAt b 0 1 ≠ 0x10) || decide (leAt b 1 1 ≠ 1) then .next s
  else
    let s := s.sendCapability p
    let theirs := leAt b 8 8
    if s.node.toNat = far.toNat ∧ x.tiebreak.toNat = theirs then
      let (n, s) := s.draw
      .next (s.modPort p (fun x => { x with tiebreak := BitVec.ofNat 64 n }))
    else
      let lead := decide (s.node.toNat < far.toNat) ||
        (decide (s.node = far) && decide (x.tiebreak.toNat < theirs))
      let target := min (min 4 (leAt b 2 1)) (min x.maxRate.toNat (x.limit.getD 4))
      let s := s.modPort p (fun x => { x with target := some target, leading := lead })
      if x.rate < target then .next (if lead then s.stepFrames p (x.rate + 1) else s)
      else
        .next (((s.ladderSpare p).modPort p (fun x =>
          { x with state := .up, credit := min 1024 (64 * leAt b 6 1), deadline := none, ackFrom := s.clock.now })).pumpPort p)

/-- STEP_FRAME_RECEIVE (R443): echoed by the end that does not lead; at countdown 0 the port switches to the next rate. -/
def execStepFrameReceive (p : PortIx) (rate countdown : Byte) (s : State) : Res :=
  let p := p.toNat
  let x := s.port p
  if !s.portFitted p || decide (x.state ≠ .ladder) || decide (rate.toNat ≠ x.rate + 1) || decide (4 < rate.toNat) then
    .next s
  else
    let s := if x.leading then s else s.control p (toLe 1 0x11 ++ toLe 1 rate.toNat ++ toLe 1 countdown.toNat)
    if countdown = 0 then .next ((s.modPort p (fun x => { x with prev := x.rate })).enterLadder p rate.toNat) else .next s

/-- LADDER_STEP_TIMEOUT (R444): 2 ms after the switch the port is not up to the new rate. -/
def execLadderStepTimeout (p : PortIx) (s : State) : Res :=
  let p := p.toNat
  let x := s.port p
  match x.state, x.deadline with
  | .ladder, some t =>
    if x.rate = 0 then .next s
    else
      let s := s.advanceTo t
      let s := s.modPort p (fun x =>
        { x with stepFail := true, failRate := x.rate, limit := some x.prev })
      let s := s.evBits s.clock.now (offLaneCtl p + 8) [14]
      .next ((s.enterLadder p x.prev).alert 11 (toLe 1 p ++ toLe 1 2))
  | _, _ => .next s

/-- LADDER_RETRY (R444): a port that does not hold 2.5 Gbaud tries again every 10 ms. -/
def execLadderRetry (p : PortIx) (s : State) : Res :=
  let p := p.toNat
  let x := s.port p
  match x.state, x.deadline with
  | .ladder, some t =>
    if x.rate = 0 then .next ((s.advanceTo (t + usCycles 8000)).enterLadder p 0) else .next s
  | _, _ => .next s

/-- The write of LANE_EQp_l: above 20 dB it is 20; it acts from the lane's next frame boundary (R445). -/
def State.eqPeak (s : State) (p l : Nat) (v : Word) : State :=
  s.modPort p (fun x => x.modLane l (fun y => { y with peak := BitVec.ofNat 5 (min 20 (v.toNat % 32)) }))

/-- EQ_PEAK_WRITE (R445). -/
def execEqPeakWrite (w : Writer) (p : PortIx) (l : BitVec 4) (v : Word) (s : State) : Res :=
  if s.mayHost w && s.laneAt p.toNat l.toNat then .next (s.eqPeak p.toNat l.toNat v) else .next s

/-! ## Commands: acks and replay (R451 to R453) -/

/-- Resend a logical lane's frames, in order, in slots that common frames may use (R206, R452). -/
def State.resendLane (s : State) (p n : Nat) : State :=
  let x := s.port p
  let mine := x.replay.filter (fun f => decide (f.no % 8 = n))
  let s := s.tally_ .linkReplay (portDie s.ident.option p) p mine.length
  mine.foldl (fun s f =>
    match s.takeSlot p n with
    | none => s
    | some (t, s) =>
      let g := { f with at_ := t, resends := f.resends + 1 }
      (s.modPort p (fun x => { x with replay := x.replay.map (fun h => if h.no = f.no then g else h) })).send (g.out p)) s

/-- One logical lane's part of an ack: frames before the expected seq are acknowledged, and a nak resends from it. -/
def State.ackLane (s : State) (p n byte : Nat) : State :=
  let e := byte % 128
  let x := s.port p
  let mine := x.replay.filter (fun f => decide (f.no % 8 = n))
  let left := mine.dropWhile (fun f => !decide (f.no / 8 % 128 = e))
  let keep := if left.isEmpty && decide (mine.length ≠ 0) && !decide (((mine.getLast?.map (fun f => f.no / 8 + 1)).getD 0) % 128 = e)
    then mine else left
  let s := s.setPort p { x with replay := x.replay.filter (fun f => !decide (f.no % 8 = n) || keep.contains f) }
  if 128 ≤ byte then s.resendLane p n else s

/-- ACK_RECEIVE (R452, R453): the payload of an ack frame. -/
def execAckReceive (p : PortIx) (payload : List Byte) (s : State) : Res :=
  let p := p.toNat
  if !s.portUp p then .next s
  else
    let b := padTo 64 payload
    let s := (List.range 8).foldl (fun s n => s.ackLane p n (leAt b (8 + n) 1)) s
    .next ((s.modPort p (fun x => { x with credit := min 1024 (x.credit + leAt b 16 2) })).pumpPort p)

/-- ACK_SEND (R451): with 32 frames of a lane unacknowledged, a nak pending, or 256 slots passed with frames outstanding. A
lane naked eight times without progress is degraded (R452). While a first parcel waits for an empty cart, no credits go back (R280). -/
def execAckSend (p : PortIx) (s : State) : Res :=
  let p := p.toNat
  let x := s.port p
  let ls := List.range 8
  let give := if x.parked.isSome then 0 else x.give
  let any := ls.any (fun n => decide (32 ≤ (x.link n).unacked) || (x.link n).nak)
  let some_ := ls.any (fun n => decide (0 < (x.link n).unacked)) || decide (0 < give)
  if !s.portUp p || !(any || some_) then .next s
  else
    let s := if any then s else s.advanceTo (x.ackFrom + slotCycles x.rate 256)
    let body := toLe 1 1 ++ toLe 7 0 ++
      ls.flatMap (fun n => toLe 1 ((x.link n).expect + 128 * bn (x.link n).nak)) ++ toLe 2 give
    let s := (s.setPort p { (ls.foldl (fun (x : Port) n => x.modLink n (fun y =>
        { y with unacked := 0, nak := false, naks := if y.nak then y.naks + 1 else y.naks })) x) with
      give := x.give - give, ackFrom := s.clock.now }).control p body
    .next (ls.foldl (fun s n =>
      if 8 ≤ ((s.port p).link n).naks then
        (s.modPort p (fun x => x.modLink n (fun y => { y with naks := 0 }))).laneFail p n
      else s) s)

/-- REPLAY_TIMEOUT (R452): the oldest frame of a lane has gone 4 µs without an ack. -/
def execReplayTimeout (p : PortIx) (s : State) : Res :=
  let p := p.toNat
  match (s.port p).replay with
  | [] => .next s
  | f :: fs =>
    if !s.portUp p then .next s
    else
      let o := fs.foldl (fun (o g : TxFrame) => if g.at_ < o.at_ then g else o) f
      .next ((s.advanceTo (o.at_ + usCycles 4)).resendLane p (o.no % 8))

/-! ## Commands: blocks and spares (R454, R455, R459, R461) -/

/-- Filler after a lane's last frame of a block, up to its first frame of the next (R454, R455). -/
def blockFiller (n : Nat) : Nat := (blockSymbols - lanePhase n) % 72 + lanePhase n

/-- Filler after a block-end frame that ends at LANE_TX cycle `e` of tick `t`: up to the lane's first frame start at or after
cycle 0 of the next tick (R455). -/
def jumpFiller (n t e : Nat) : Nat :=
  let b := (t + 1) % 1024 * 6144
  let d := (b + blockSymbols - lanePhase n) % 72
  6144 - e % 6144 + (if d = 0 then 0 else 72 - d)

/-- BLOCK_END (R455): at the end of a block, or after a bell jump. After a jump the lanes' frames are counted anew. -/
def execBlockEnd (p : PortIx) (s : State) : Res :=
  let p := p.toNat
  let x := s.port p
  if !s.portSlots p then .next s
  else
    let s := (List.range 8).foldl (fun s n =>
      let fill := if x.jumpPending then jumpFiller n s.clock.tick.toNat (s.clock.cyc * 6144 / 1248) else blockFiller n
      s.send { kind := .laneControl, unit := p, addr := n, data := padTo 64 (toLe 1 0x0F ++ toLe 1 0 ++ toLe 2 fill) }) s
    .next (s.modPort p (fun x => { x with jumpPending := false, lanesAt := if x.jumpPending then [] else x.lanesAt }))

/-- SPARE_REQUEST_RECEIVE (R459 step 2): from the next tick the lane is sent on the spare as well. -/
def execSpareRequestReceive (p : PortIx) (n : BitVec 3) (s : State) : Res :=
  let p := p.toNat
  let x := s.port p
  if s.portUp p && x.txServes.isNone then .next (s.setPort p { x with txDup := some n.toNat }) else .next s

/-- SPARE_SWITCH (R459 step 3): after 64 valid headers on the spare the receiver reads the lane from it. -/
def execSpareSwitch (p : PortIx) (s : State) : Res :=
  let p := p.toNat
  let x := s.port p
  match x.sub, x.sparePhys with
  | some (n, k), some q =>
    if k < 64 ∨ (x.lane q).align ≠ 3 then .next s
    else
      let x := (List.range 9).foldl (fun (x : Port) l =>
        if x.role l = n then x.modLane l (fun y => { y with role := some 9, clean := 0 }) else x) x
      let x := x.modLane q (fun y => { y with role := some (BitVec.ofNat 4 n) })
      let s := (s.setPort p { x with sub := none, spareLog := some n }).control p (toLe 1 0x12 ++ toLe 1 n ++ toLe 1 2)
      .next ((s.tallyPort .laneSub p).alert 11 (toLe 1 p ++ toLe 1 3 ++ toLe 1 n))
  | _, _ => .next s

/-- SPARE_DONE_RECEIVE (R459 step 4): the failed lane carries idle frames from now on. -/
def execSpareDoneReceive (p : PortIx) (n : BitVec 3) (s : State) : Res :=
  let p := p.toNat
  let x := s.port p
  if x.txDup = some n.toNat then .next (s.setPort p { x with txDup := none, txServes := some n.toNat }) else .next s

/-- LANE_RESTORED_AS_SPARE (R461): a failed lane that has held lock for 2^20 clean frames. -/
def execLaneRestoredAsSpare (p : PortIx) (l : BitVec 4) (s : State) : Res :=
  let p := p.toNat
  let l := l.toNat
  let x := s.port p
  if s.laneAt p l && decide (x.role l = 9) && decide ((x.lane l).align = 3) && decide (2 ^ 20 ≤ (x.lane l).clean) then
    .next (s.setPort p { x.modLane l (fun y => { y with role := some 8 }) with sparePhys := some l, spareLog := none })
  else .next s

end Sys2Proof.Machine
end

