-- ==== Sys2Proof/Machine/Torus.lean ====
section
/-! DEFINITION. The mill torus (chapter 07): errors of routers, packets at routers and at their destinations. -/

namespace Sys2Proof.Machine

open Sys2Proof

/-- A torus error (R254): the die's first one is recorded, and its record goes as a fault report. The record names a flex site or a tap
by one port code. -/
def State.torError (s : State) (d : Die) (x y inp kind src dst : Nat) (group : Bool) : State :=
  let w1 := x * 2 ^ 19 + y * 2 ^ 14 + (if inp = 7 then 5 else inp) * 2 ^ 11 + s.clock.cyc
  let old := match d with
    | .w => s.torW
    | .e => s.torE
  let r := old.set3 (s.clock.tick.truncate 32) (BitVec.ofNat 32 w1) (BitVec.ofNat 32 (src * 65536 + dst)) (BitVec.ofNat 32 kind)
  let s := match d with
    | .w => { s with torW := r }
    | .e => { s with torE := r }
  let s := s.evBits s.clock.now (0x200001C + 0x10000 * d.num) [31]
  if old.w3.getLsbD 31 then s
  else s.reportRecord 11 d.num (if group then .group else .contained) (if kind = 3 then .mismatch else .faultInteg) r group

/-- The carter slot whose stream a packet serves (R241): its source's, or for a response and a control message the one that asked. -/
def PktHdr.slot (p : PktHdr) : Option (Nat × Nat) :=
  let n := if p.kind = 2 ∨ p.kind = 6 then p.dst else p.src
  match p.tag % 8 with
  | 0 => some (nodeMill n, field p.tag 3 2)
  | 1 => some (nodeMill n, 4 + field p.tag 3 2)
  | _ => none

/-- The stream address that a packet's destination and address name. -/
def PktHdr.place (p : PktHdr) : Option Nat :=
  match nodeEnd p.dst with
  | 0 => some (2 ^ 44 + nodeMill p.dst * 2 ^ 20 + p.addr % 2 ^ 20)
  | 1 => some (2 * 2 ^ 44 + nodeMill p.dst * 2 ^ 20 + p.addr % 2 ^ 15)
  | _ => none

/-- End the stream of a slot, where one is in it, with a status and the side and address of the access. -/
def State.failSlot (s : State) (sl : Option (Nat × Nat)) (st : Status) (flags addr : Nat) : State :=
  match sl with
  | none => s
  | some (m, k) =>
    match (s.mill m).slot k with
    | none => s
    | some x =>
      match x.work with
      | .stream _ => s.failTransfer m k x st flags addr false
      | .move _ => s

/-- The stream whose packet this is ends with a status: a carter's, with the address reported, or one of a tap's user logic
(R242, R253, R384). -/
def State.failOwner (s : State) (p : PktHdr) (st : Status) : State :=
  if p.tag % 8 = 5 then
    let n := if p.kind = 2 ∨ p.kind = 6 then p.dst else p.src
    let k := tapPlot (nodeDie n) (if nodeY n = 0 then nodeX n else 24 + nodeX n)
    let ts := (s.plot k).streams.filter (fun t => decide (t.tag = p.tag))
    (ts.foldl (fun s t => s.send
      { kind := .userPacket, unit := k, addr := t.tag, data := toLe 1 st.code ++ toLe 4 t.bytes }) s).modPlot k (fun x =>
      { x with streams := x.streams.filter (fun t => !decide (t.tag = p.tag)) })
  else s.failSlot p.slot st (if p.kind = 1 ∨ p.kind = 2 then 1 else 2) (p.place.getD p.addr)

/-! ## Commands: routers -/

/-- The detail of a halt that a router raises (R253). -/
def routerSite (d : Die) (x y : Nat) : Nat := 0xB000 + d.num * 0x400 + y * 0x20 + x

/-- A packet at an input is one that the rules let arrive: the input exists, the payload is what the header says, an anchor port
injects at the row of a destination on its own die, and the buffer has room (R233, R238, R240, R248). -/
def State.canArrive (s : State) (d : Die) (x y inp : Nat) (p : PktHdr) (n : Nat) : Bool :=
  decide (n = 128 * p.payload) && (decide (p.prio = 3) || decide ((s.router (routerKey d x y)).held inp p.prio p.vc + p.size ≤ 8)) &&
    (decide (inp ≠ 6) || (s.nextRouter d x y 6).isSome || decide (nodeDie p.dst ≠ d) || decide (2 ≤ nodeEnd p.dst ∧ nodeEnd p.dst ≤ 5) ||
      decide (nodeY p.dst = y))

/-- A packet has come into a router: it reaches its output two cycles on (R251). A P3 packet that reaches it in a cycle booked for no
lane and its input is misplaced (R250). -/
def State.enterRouter (s : State) (d : Die) (x y inp : Nat) (p : PktHdr) (lost : Nat) (data : List Byte) : State :=
  let k := routerKey d x y
  let out := s.routeOut d x y p.dst
  let cyc := s.clock.cyc + 2
  let booked := [0, 1].any (fun l => match s.p3At d x y out l 2 with
    | some (i, _) => decide (i = inp)
    | none => false)
  let s := if p.prio = 3 ∧ !booked then
      s.crossFault (s.clock.tick + BitVec.ofNat 64 (cyc / 1248)) (k * 8 + out) 1 (cyc % 1248) (cyc % 1248) (s.packetGroup p)
    else s
  let r := s.router k
  s.setRouter k { r with
    queue := r.queue ++ [{ inp := inp, out := out, hdr := p.bytes, data := data, vc := p.vc, ready := s.clock.now + 2, lost := lost }] }

/-- ROUTER_PACKET_RECEIVE (R242, R244, R248, R250, R253): a packet at an input of router (x, y) of a die. `soft` counts corrected
bits; `badHdr` says its header is uncorrectable, with the stream that misses it where there is one; `badFlits` lists uncorrectable
payload flits. -/
def execRouterPacketReceive (d : Die) (x y : BitVec 5) (inp : BitVec 3) (hdr data : List Byte) (soft : Nat) (badHdr : Bool)
    (owner : Option (MillIx × BitVec 3)) (badFlits : List (BitVec 2)) (s : State) : Res :=
  let x := x.toNat
  let y := y.toNat
  let inp := inp.toNat
  if 24 ≤ x ∨ s.rows ≤ y ∨ !s.hasPort x y inp then .next s
  else
    let s := s.tally_ .torCorr d 0 soft
    if badHdr then
      let slot := s.p3Into d x y inp
      let s := (s.torError d x y inp 1 0xFFFF 0xFFFF slot.isSome).failSlot
        (owner.map (fun o => (o.1.toNat, o.2.toNat))) .faultInteg 0 0
      match slot with
      | some g => .next (s.raiseHalt g 1 (routerSite d x y))
      | none => .next s
    else
      let p := pktHdr hdr
      if !s.hdrOk hdr then .next ((s.torError d x y inp 3 p.src p.dst false).failOwner p .mismatch)
      else if !s.canArrive d x y inp p data.length then .next s
      else if badFlits.isEmpty then .next (s.enterRouter d x y inp p 0 data)
      else
        let lost := badFlits.foldl (fun (n : Nat) f => n ||| 2 ^ f.toNat) 0
        let gm := badFlits.foldl (fun (g : Nat) f => g &&& (255 ^^^ (3 * 2 ^ (2 * f.toNat)))) p.gmask
        let g := if p.prio = 3 then s.packetGroup p else none
        let s := (s.torError d x y inp 2 p.src p.dst g.isSome).failOwner p .faultInteg
        let edge := decide (2 ≤ nodeEnd p.src) && decide (nodeEnd p.src ≤ 5)
        let s := match g with
          | some g => s.raiseHalt g 1 (if edge then routerSite d x y else nodeMill p.src)
          | none => s
        .next (s.enterRouter d x y inp { p with gmask := gm } lost data)

/-- Cycles pass until the force of an output has granted a P0 packet, or nothing forces any more. -/
def State.untilForced (s : State) (k out : Nat) : Nat → State
  | 0 => s
  | n + 1 =>
    if s.p0Forced k out && (s.router k).queue.any (fun v => decide (v.out = out) && decide (v.prio = 0)) then
      s.cycle.untilForced k out n
    else s

/-- P0_FORCE_GRANT (R245): the count stands at 63 and P0 waits; the first cycle that is no P3 slot grants the oldest P0. Two ticks hold
such a cycle, or none comes. -/
def execP0ForceGrant (d : Die) (x y : BitVec 5) (out : BitVec 3) (s : State) : Res :=
  .next (s.untilForced (routerKey d x.toNat y.toNat) out.toNat 2496)

/-! ## Packets at their destinations -/

/-- Write the granules of a payload that its mask names. -/
def State.writeGranules (s : State) (a mask : Nat) (data : List Byte) : Nat → State
  | 0 => s
  | n + 1 =>
    let s := s.writeGranules a mask data n
    if bitOf mask n then s.setBytes (a + 64 * n) (padTo 64 ((data.drop (64 * n)).take 64)) else s

/-- A control message of kind 6 to a requester (R342). -/
def State.controlMessage (s : State) (p : PktHdr) (st : Status) : State :=
  s.send { kind := .torusPacket, unit := p.src, addr := p.addr,
           data := { p with kind := 6, dst := p.src, src := p.dst, prio := 2, vc := false, flits := 0, gmask := 0, pepoch := 0
                            age := (s.millCycle s.clock.now).toNat % 65536 }.bytes ++ toLe 1 st.code }

/-- The header of the response to a read request (R241, R243): at P3 from an actor of a running group in a slot booked for its port,
else at P2. -/
def State.responseHdr (s : State) (p : PktHdr) : PktHdr :=
  let (x, y) := s.nodeAt p.dst
  let inp := match nodeEnd p.dst with
    | 2 => 5
    | 3 => 5
    | 5 => 7
    | _ => 4
  { p with kind := 2, dst := p.src, src := p.dst, vc := false
           prio := if p.prio = 3 then s.answerPrio (nodeDie p.dst) x y inp (s.packetGroup p) else 2
           gmask := 0, flits := max 1 p.flits, age := (s.millCycle s.clock.now).toNat % 65536 }

/-- A packet for a granary stands at the column end of its address (R319). -/
def State.atEnd (s : State) (p : PktHdr) : Bool :=
  (decide (nodeEnd p.dst ≠ 2) && decide (nodeEnd p.dst ≠ 3)) || !s.siteOpen (field p.addr 36 4) ||
    (let n := s.granaryNode (field p.addr 36 4) (p.addr % 2 ^ 36)
     decide (s.nodeAt n = s.nodeAt p.dst) && decide (nodeDie n = nodeDie p.dst) && decide (nodeEnd n = nodeEnd p.dst))

/-- The cell of a packet's address: a loft, a sieve bank, or a granary's stack. -/
def State.packetCell (s : State) (p : PktHdr) : Except Status Nat :=
  match nodeEnd p.dst with
  | 2 | 3 =>
    let site := field p.addr 36 4
    if !s.siteOpen site then .error .absent
    else .ok (stackCell p.addr)
  | 1 =>
    if s.millLive (nodeMill p.dst) then .ok (bankCell (nodeMill p.dst) (bitOf p.addr 14) (p.addr % 2 ^ 14)) else .error .absent
  | _ =>
    if s.millLive (nodeMill p.dst) then .ok (loftCell (nodeMill p.dst) (p.addr % 2 ^ 20)) else .error .absent

/-- WRITE_PACKET_ARRIVE (R219, R239, R265): the write lands and is acknowledged, or the placement-epoch check discards the packet. -/
def execWritePacketArrive (hdr data : List Byte) (s : State) : Res :=
  let p := pktHdr hdr
  let m := nodeMill p.dst
  if !s.hdrOk hdr || decide (p.kind ≠ 0) || !s.atEnd p || decide (4 ≤ nodeEnd p.dst) || decide (2 ^ 20 < p.addr % 2 ^ 20 + data.length) then .next s
  else
    match s.packetCell p with
    | .error st => .next ((s.controlMessage p st).failOwner p st)
    | .ok c =>
      let check := if nodeEnd p.dst ≤ 1 then epochCheck (s.mill m).accepted.toNat p.pepoch else none
      match check with
      | none => .next ((s.writeGranules c p.gmask data 8).send
          { kind := .writeAck, unit := p.src, addr := p.addr, data := toLe 1 p.tag, cycle := s.clock.now })
      | some .superseded => .next ((s.epochDrop (2 ^ 44 + m * 2 ^ 20) .superseded).failOwner p .superseded)
      | some st =>
        if (s.mill m).tilled then .next (s.epochDrop (2 ^ 44 + m * 2 ^ 20) st)
        else .next (s.failOwner p st)

/-- READ_REQUEST_ARRIVE (R241, R342, R566): the destination reads `flits` flits and sends a read response, or a control message. -/
def execReadRequestArrive (hdr : List Byte) (s : State) : Res :=
  let p := pktHdr hdr
  let n := 128 * max 1 p.flits
  if !s.hdrOk hdr || decide (p.kind ≠ 1) || !s.atEnd p || decide (4 ≤ nodeEnd p.dst) || decide (2 ^ 20 < p.addr % 2 ^ 20 + n) then .next s
  else
    match s.packetCell p with
    | .error st => .next (s.controlMessage p st)
    | .ok c =>
      if s.badIn c n then .next ((s.badRead c).controlMessage p .faultInteg)
      else
        .next ((s.countSoft c n).send
          { kind := .torusPacket, unit := p.src, addr := p.addr, data := (s.responseHdr p).bytes ++ s.bytes c n })

/-- SYNC_INCREMENT_ARRIVE (R95, R241): a kind 4 packet increments a counter of its destination mill. -/
def execSyncIncrementArrive (m : MillIx) (c : BitVec 4) (amount : Byte) (s : State) : Res :=
  if s.millLive m.toNat && decide (amount ≠ 0) && !(s.mill m.toNat).frozen then
    .next (s.modMill m.toNat (fun x => x.incAt s.clock.now .st c.toNat amount.toNat))
  else .next s

/-- CONTROL_MESSAGE_ARRIVE (R342): ABSENT or an uncorrectable read ends the requester's transfer. -/
def execControlMessageArrive (m : MillIx) (k : BitVec 3) (absent : Bool) (s : State) : Res :=
  .next (s.failSlot (some (m.toNat, k.toNat)) (if absent then .absent else .faultInteg) 0 0)

/-- The group slot that a ring belongs to: the one whose almanac sets its placement epoch, else that of the mill whose loft holds its
body. -/
def State.ringGroup (s : State) (q : Nat) : Option Nat :=
  match s.groups.find? (fun g => g.2.almanac.any (fun a => a.epochs.any (fun e =>
      match e.1 with
      | .ring r => decide (r.toNat = q)
      | _ => false))) with
  | some g => some g.1
  | none => if field (s.queue q).base 44 4 = 1 then (s.mill (addrMill (s.queue q).base)).gslot else none

/-- The mill whose loft holds a ring's body, as a halt's detail; 0 for a body elsewhere. -/
def State.ringMill (s : State) (q : Nat) : Nat :=
  if field (s.queue q).base 44 4 = 1 then addrMill (s.queue q).base else 0

/-- A cart from elsewhere goes on its ring; a put whose body access fails ends its operation or transfer (R275). -/
def State.landFar (s : State) (f : CartFlight) : State :=
  let (done, s) := s.landCart f.ring f.cart
  if done then s.postRing f.ring
  else
    match f.src with
    | some (m, e) => s.modMill m (fun x => x.defer e { status := .faultInteg, at_ := s.clock.now })
    | none => s.failSlot f.slot .faultInteg 0 0

/-- CART_DELIVERY_ARRIVE (R219, R275): a kind 3 packet is released; its cart is visible 4 cycles on, unless the ring's
placement epoch discards it. -/
def execCartDeliveryArrive (ring : QueueIx) (s : State) : Res :=
  let q := ring.toNat
  match s.qs.flights.find? (fun f => decide (f.ring = q) && !f.local_) with
  | none => .next s
  | some f =>
    let s := { s with qs := { s.qs with flights := s.qs.flights.erase f } }
    match f.epoch.bind (fun e => epochCheck (s.queue q).pepoch e) with
    | some .superseded => .next ((s.tally_ .superseded (queueDie q) 0 1).failSlot f.slot .superseded 0 0)
    | some st =>
      match s.ringGroup q with
      | some g => .next (s.raiseHalt g 10 (s.ringMill q))
      | none => .next (s.failSlot f.slot st 0 0)
    | none => .next ((s.advanceTo (s.clock.now + 4)).landFar f)

end Sys2Proof.Machine
end

