-- ==== Sys2Proof/Machine/StreamOps.lean ====
section
/-! DEFINITION. The commands of streams, field-port carts and parcels (chapters 06, 08): rows DESCRIPTOR_BURST_ARRIVE to
INGRESS_WAIT_TIMEOUT and PARCEL_FORWARD. -/

namespace Sys2Proof.Machine

open Sys2Proof

/-! ## Streams (R257, R262 to R269) -/

/-- DESCRIPTOR_BURST_ARRIVE (R262, R263, R267, R269): the outstanding burst of a slot's list arrives, or that of a held re-arm. A burst
fetched ahead that cannot be read ends nothing before the transfers ahead of it have ended. -/
def execDescriptorBurstArrive (m : MillIx) (k : BitVec 3) (s : State) : Res :=
  let m := m.toNat
  let k := k.toNat
  match (s.mill m).slot k with
  | none => .next s
  | some sl =>
    match sl.work with
    | .move _ => .next s
    | .stream list =>
      if (s.mill m).frozen then .next s
      else if (s.mill m).parity.contains (.slot k) then .next (s.slotBad m k sl)
      else if sl.asked && !sl.halted then
        let near := decide (field list 44 4 = 1) && decide (addrMill list = m)
        let s := if sl.fetched = 0 then s.advanceTo (sl.start + (if near then 8 else 2)) else s
        match s.readBurst m list sl.fetched with
        | (.ok (some ds), s) =>
          let first := decide (sl.fetched = 0)
          let sl' := { sl with descs := sl.descs ++ ds, fetched := sl.fetched + ds.length, more := !ds.any descLast
                               asked := false, arrived := if first then s.clock.now else sl.arrived
                               firstGen := if first then ds.head?.map descGen else sl.firstGen }
          .next (s.putSlot m k sl' 1 0 0)
        | (.ok none, s) => .next s
        | (.error st, t) =>
          if !sl.descs.isEmpty then .next s
          else if st = .faultPage then .next (t.haltSlot m k sl (list + 64 * sl.fetched) (1 + 8))
          else .next (t.failTransfer m k sl st (1 + 8) (list + 64 * sl.fetched) (decide (st = .mismatch)))
      else
        match s.decideRearms m k sl with
        | (_, sl, s) => .next (if sl.isOver && !sl.heldRearm && decide (sl.refused = 0) then s.startShadow m k sl else s.setSlot m k (some sl))

/-- The hazards that a transfer meets at its start (R103). -/
def startHazards (x : Mill) (m now : Nat) (d : DescBytes) : List Hazard :=
  (srcRes m d).flatMap (x.readHz now) ++ (dstSpan m d).flatMap (x.writeHz now 0)

/-- The cycle of a stream's first source access (R263): 12 cycles after issue for a list in the carter's own loft, 4 cycles after the
first burst's arrival for another. -/
def Slot.firstAccess (sl : Slot) (m : Nat) : Nat :=
  match sl.work with
  | .stream l => if field l 44 4 = 1 ∧ addrMill l = m then sl.start + 12 else sl.arrived + 4
  | .move _ => sl.start

/-- TRANSFER_START (R257, R262): the next descriptor is checked and its transfer starts. In common mode a transfer that meets a
hazard starts later; in tilled mode it is a schedule fault (R104, R105). -/
def execTransferStart (m : MillIx) (k : BitVec 3) (s : State) : Res :=
  let m := m.toNat
  let k := k.toNat
  match (s.mill m).slot k with
  | none => .next s
  | some sl =>
    match sl.descs with
    | [] => .next s
    | d :: _ =>
      if sl.run || sl.halted || (s.mill m).frozen then .next s
      else if (s.mill m).parity.contains (.slot k) then .next (s.slotBad m k sl)
      else
        let s := if sl.ended = 0 then s.advanceTo (sl.firstAccess m) else s
        if !descOk m d then .next (s.failTransfer m k sl .mismatch 0 (sl.descAddr) true)
        else
          let x := s.mill m
          if (srcRes m d ++ dstSpan m d).any (fun r => x.parity.contains (.stamp r)) then
            .next ((s.failTransfer m k sl .faultInteg 0 0 false).engineFault m (slotCarter k).eng { status := .faultInteg })
          else
          match startHazards x m s.clock.now d with
          | h :: _ =>
            (match s.slotHazard m k sl h with
             | (.wait, sl, s) => .next (if x.auditStall then s.setSlot m k (some sl) else s)
             | (_, sl, s) => .next ((s.failTransfer m k sl .faultSched 0 0 false).engineFault m (slotCarter k).eng h.fault))
          | [] =>
            let s := s.modMill m (fun x => (x.markReading (srcRes m d)).markPending (dstSpan m d))
            .next (s.putSlot m k { sl with run := true, fin := false, wrote := false, pos := {}, row := none, audited := none
                                           asked := sl.asked || (sl.more && decide (sl.descs.length ≤ 8)) } 1 0 0)

/-- The running transfer of a slot that can go on. -/
def State.runningSlot (s : State) (m k : Nat) : Option (Slot × DescBytes) :=
  match (s.mill m).slot k with
  | none => none
  | some sl =>
    match sl.descs with
    | [] => none
    | d :: _ => if sl.run && !sl.halted && !sl.fin && !(s.mill m).frozen then some (sl, d) else none

/-- READ_RESPONSE_ARRIVE (R263, R264): data of the running transfer arrives and one piece of it is written. -/
def execReadResponseArrive (m : MillIx) (k : BitVec 3) (s : State) : Res :=
  match s.runningSlot m.toNat k.toNat with
  | none => .next s
  | some (sl, d) =>
    if (s.mill m.toNat).parity.contains (.slot k.toNat) then .next (s.slotBad m.toNat k.toNat sl)
    else
      let (r, sl, s) := s.piece m.toNat k.toNat sl d
      .next (s.settle m.toNat k.toNat sl r)

/-- STREAM_PAGE_FAULT (R267): the running transfer goes on to the page that is not present or not writable, and halts there. A
transfer that meets no such page meets no fault. -/
def execStreamPageFault (m : MillIx) (k : BitVec 3) (s : State) : Res :=
  match s.runningSlot m.toNat k.toNat with
  | none => .next s
  | some (sl, d) =>
    if (s.mill m.toNat).parity.contains (.slot k.toNat) then .next (s.slotBad m.toNat k.toNat sl)
    else
      match s.pieces m.toNat k.toNat sl d (pieceBound d) with
      | (.page a f, sl, s) => .next (s.haltSlot m.toNat k.toNat sl a f)
      | _ => .next s

/-- TRANSFER_COMPLETE (R265, R266): what is left of the running transfer moves, its last write lands and it completes; a local
move's last write lands. -/
def execTransferComplete (m : MillIx) (k : BitVec 3) (s : State) : Res :=
  let m := m.toNat
  let k := k.toNat
  match (s.mill m).slot k with
  | none => .next s
  | some sl =>
    if (s.mill m).frozen then .next s
    else if (s.mill m).parity.contains (.slot k) then .next (s.slotBad m k sl)
    else
      match sl.work, sl.descs with
      | .move _, _ => .next (s.finishMove m k sl)
      | .stream _, [] => .next s
      | .stream _, d :: _ =>
        if !sl.run || sl.halted then .next s
        else if sl.fin then .next (s.finishTransfer m k sl)
        else
          match s.pieces m k sl d (pieceBound d) with
          | (.done, sl, s) => .next (s.finishTransfer m k sl)
          | (r, sl, s) => .next (s.settle m k sl r)

/-- Resume a slot halted on a page fault (R268): it translates again from its saved position. -/
def State.resumeSlot (s : State) (m k : Nat) : State :=
  match (s.mill m).slot k with
  | none => s
  | some sl =>
    if !sl.halted then s
    else s.putSlot m k { sl with halted := false, asked := sl.asked || (sl.more && sl.descs.isEmpty) } 1 0 0

/-- Abandon a slot halted on a page fault (R268): ABORTED, and the rest of the list cancelled. -/
def State.abandonSlot (s : State) (m k : Nat) : State :=
  match (s.mill m).slot k with
  | none => s
  | some sl => if sl.halted then s.failTransfer m k { sl with halted := false } .aborted 0 0 false else s

/-- The effect of a committed MILL_STREAM_RESUME (R268, R282): abandon goes before resume. -/
def State.streamResume (s : State) (m : Nat) (v : Word) : Option State :=
  if v.toNat / 65536 ≠ 0 then none
  else
    some ((List.range 8).foldl (fun s k =>
      if v.getLsbD (8 + k) then s.abandonSlot m k
      else if v.getLsbD k then s.resumeSlot m k
      else s) s)

/-- The offset of MILL_STREAM_RESUME. -/
def offStreamResume (m : Nat) : Nat := 0x1000000 + m * 0x1000 + 0x400

/-- STREAM_RESUME (R268): a committed MILL_STREAM_RESUME. -/
def execStreamResume (w : Writer) (m : MillIx) (v : Word) (s : State) : Res :=
  if s.mayHost w && s.millLive m.toNat then .next (s.commit w (offStreamResume m.toNat) (s.streamResume m.toNat v)) else .next s

/-- STREAM_ABANDON (R268): a committed MILL_STREAM_RESUME whose abandon bits alone are set. -/
def execStreamAbandon (w : Writer) (m : MillIx) (slots : Byte) (s : State) : Res :=
  if s.mayHost w && s.millLive m.toNat then
    .next (s.commit w (offStreamResume m.toNat) (s.streamResume m.toNat (BitVec.ofNat 32 (slots.toNat * 256))))
  else .next s

/-! ## Parcels (R222, R223, R277 to R280) -/

/-- Frames of a parcel. -/
def Parcel.frames (x : Parcel) : Nat := 1 + (x.data.length + 63) / 64

/-- Frames leave the port's buffer: their credits go back with the next ack (R453). -/
def Port.giveBack (x : Port) (n : Nat) : Port := { x with held := x.held - n, give := x.give + n }

/-- A parcel at a port is sent on, delivered to this device, or discarded (R223). The result says whether it was kept. -/
def State.forward (s : State) (p : Nat) (x : Parcel) : State :=
  let h := x.hdr
  let out := leAt h 8 12 % 32
  let drop := fun (_ : Unit) => (s.modPort p (fun y => y.giveBack x.frames)).tallyPort .routeErr p
  if 2 < leAt h 1 1 ∨ 19 < leAt h 0 1 then drop ()
  else if 0 < leAt h 0 1 then
    if s.portUp out && decide (s.portMode out ≠ 1) then
      ((s.modPort p (fun y => y.giveBack x.frames)).crossDies p out false (nextHop h ++ x.data)).sendParcel out (nextHop h) x.data
    else drop ()
  else if leAt h 6 2 ≠ s.node.toNat then drop ()
  else s.modPort p (fun y => { y with arrived := y.arrived ++ [{ x with since := s.clock.now }] })

/-- PARCEL_FORWARD (R223): the next parcel of the port's stream: a first frame and the frames up to the next one. -/
def execParcelForward (p : PortIx) (s : State) : Res :=
  let p := p.toNat
  let x := s.port p
  match x.stream with
  | [] => .next s
  | (first, h) :: rest =>
    if !s.portUp p then .next s
    else if !s.userIo then
      .next ((s.setPort p ({ x with stream := rest }.giveBack 1)).tally_ .uioDrop .w 0 1)
    else if !first then .next ((s.setPort p ({ x with stream := rest }.giveBack 1)).tallyPort .routeErr p)
    else
      let body := rest.takeWhile (fun f => !f.1)
      let s := s.setPort p { x with stream := rest.dropWhile (fun f => !f.1) }
      .next (s.forward p { hdr := h, data := body.flatMap Prod.snd, since := s.clock.now })

/-- The delivery header of a cart's parcel and its route header (R222, R277). -/
def cartHeader (r : Route) (pepoch : Nat) (booked : Bool) (group ring gen flags off len node : Nat) : List Byte :=
  toLe 1 r.left ++ toLe 1 0 ++ toLe 1 pepoch ++ toLe 1 (bn booked) ++ toLe 2 group ++ toLe 2 r.node ++ toLe 12 r.hops ++
    toLe 4 0 ++ toLe 2 ring ++ toLe 1 gen ++ toLe 1 flags ++ toLe 4 off ++ toLe 2 len ++ toLe 2 node ++ toLe 28 0

/-- A reply of reeve-message class to the sender of a parcel (R279, R280). -/
def State.replyTo (s : State) (p : Nat) (x : Parcel) (st : Status) : State :=
  s.send { kind := .ringMessage, unit := p, addr := leAt x.hdr 34 2, data := toLe 1 st.code ++ toLe 2 (leAt x.hdr 24 2) }

/-- The consumer of a ring is this field port (R274). -/
def Queue.portIs (x : Queue) (p : Nat) : Bool := decide (field x.cons 13 3 = 4) && decide (field x.cons 0 5 = p)

/-- A parcel waits for the booked slots of its ring on a port (R193, R277). -/
def State.bookParcel (s : State) (p : Nat) (src : FrameSrc) (hdr data : List Byte) : State :=
  let x := s.port p
  let fs := padTo 64 hdr :: frames64 ((data.length + 63) / 64) data
  let tx := ((List.range fs.length).zip fs).map (fun f =>
    ({ no := x.bookedNo + f.1, src := src, first := decide (f.1 = 0), data := f.2 } : BookedTx))
  s.setPort p { x with bookedTx := x.bookedTx ++ tx, bookedNo := x.bookedNo + fs.length }

/-- Send the data of a cart of ring `q` in parcels of up to 4,096 bytes from byte `off` (R277). -/
def State.sendCart (s : State) (p : Nat) (q : QueueIx) (r : Route) (x : Queue) (group : Nat) (c data : List Byte) : Nat → Nat → State
  | 0, _ => s
  | n + 1, off =>
    let part := (data.drop off).take 4096
    if part.isEmpty then s
    else
      let last := decide (data.length ≤ off + 4096)
      let flags := bn (decide (off = 0)) + 2 * bn last + 4 * bn (bitOf (cartFlags c) 4) + 8 * bn (bitOf (cartFlags c) 5)
      let h := cartHeader r x.pepoch x.tilled group (x.arg % 65536) (cartGen c) flags off part.length s.node.toNat
      let s := if x.tilled then s.bookParcel p (.ring q) h part else s.sendParcel p h part
      s.sendCart p q r x group c data n (off + 4096)

/-- The group whose almanac books frames of a ring on a port, while it runs or restores: a member that is not seated, or has halted,
sends none (R202, R208). -/
def State.sendGroup (s : State) (p : PortIx) (q : QueueIx) : Option Nat :=
  s.groups.findSome? (fun g => g.2.almanac.bind (fun a =>
    if (decide (g.2.state = .running) || decide (g.2.state = .restoring)) && a.bookings.any (fun b =>
      match b.act with
      | .send r _ src => decide (r = p) && decide (src = .ring q)
      | _ => false)
    then some a.group.toNat else none))

/-- FIELD_PORT_CART_SEND (R277): the port takes the cart at the head of a ring it consumes and sends its fill bytes, in common slots, or
for a tilled ring in the slots that its group books. -/
def execFieldPortCartSend (port : PortIx) (ring : QueueIx) (s : State) : Res :=
  let p := port.toNat
  let q := ring.toNat
  let x := s.queue q
  let grp := if x.tilled then s.sendGroup port ring else some 0
  match s.routes.paths.find? (fun r => decide (r.1 = x.arg / 65536)) with
  | none => .next s
  | some (_, r) =>
    if !s.portUp p || !s.userIo || !x.portIs p || decide (s.canTake q ≠ .ok) then .next s
    else
      match grp, s.takeCart q with
      | none, _ => .next s
      | _, (none, s) => .next s
      | some g, (some c, s) =>
        if !cartOk c then .next ((s.report 6 q .contained .faultInteg 15 0 false).tallyPort .routeErr p)
        else
          match s.streamRead .port (cartAddr c) (cartFill c) with
          | (.ok (some b), s) =>
            let s := s.sendCart p ring r x g c b ((b.length + 4095) / 4096) 0
            .next (s.modPort p (fun y => { y with sends := y.sends ++
              [{ ring := q, cart := c, sent := if x.tilled then y.bookedNo else y.frameNo, booked := x.tilled }] }))
          | (_, s) =>
            .next ((s.report 16 p .contained .faultInteg 0 (cartAddr c) false).putFar x.pair
              (reCart c (cartFill c) (cartGen c) 4) none)

/-- The frames of a cart that a port sends have all gone in their slots, and in common use are acknowledged (R277). -/
def Port.sentAll (x : Port) (c : PortSend) : Bool :=
  if c.booked then
    x.bookedTx.all (fun f => !decide (f.src = .ring (BitVec.ofNat 15 c.ring)) || decide (c.sent ≤ f.no))
  else (x.waiting ++ x.replay).all (fun f => decide (c.sent ≤ f.no))

/-- FIELD_PORT_CART_RETURN (R277): the oldest cart whose parcels are all acknowledged, or went in booked slots, goes back to its
return ring. -/
def execFieldPortCartReturn (p : PortIx) (s : State) : Res :=
  let p := p.toNat
  let x := s.port p
  match x.sends.find? x.sentAll with
  | none => .next s
  | some c =>
    .next ((s.setPort p { x with sends := x.sends.erase c }).putFar (s.queue c.ring).pair (reCart c.cart 0 (cartGen c.cart) 0) none)

/-- The ring takes field parcels: ingress flag, record present, enabled, not in its fault state (R278, R279). -/
def State.ingressOk (s : State) (q : Nat) : Bool :=
  let x := s.queue q
  decide (8192 ≤ q) && decide (q < 32768) && x.written && x.en && !x.fault && x.ingress

/-- Replace the ingress state of a ring at a port. -/
def Port.setIngress (x : Port) (q : Nat) (i : Option Ingress) : Port :=
  { x with ingress := x.ingress.filter (fun y => !decide (y.ring = q)) ++ i.toList }

/-- The cart of a ring is put with FAULT_INTEG and partial set, and the parcel's sender is sent MISMATCH (R278). -/
def State.breakIngress (s : State) (p q : Nat) (x : Parcel) (i : Ingress) : State :=
  let s := s.putFar q (reCart i.cart i.next (cartGen i.cart) (4 + 32)) none
  (s.modPort p (fun y => y.setIngress q none)).replyTo p x .mismatch

/-- Write one parcel into the cart being filled; the last one puts it on the ring (R278). A parcel whose page is being updated waits at
the port (R360). -/
def State.fillIngress (s : State) (p q : Nat) (x : Parcel) (i : Ingress) : State :=
  let off := leAt x.hdr 28 4
  let len := leAt x.hdr 32 2
  let flags := leAt x.hdr 27 1
  if off ≠ i.next ∨ leAt x.hdr 34 2 ≠ i.src ∨ cartLen i.cart < off + len ∨ len = 0 ∨ 4096 < len ∨ x.data.length < len then
    s.breakIngress p q x i
  else
    match s.streamWrite .port (cartAddr i.cart + off) (x.data.take len) with
    | (some .ok, s) =>
      if bitOf flags 1 then
        let c := reCart i.cart (off + len) (leAt x.hdr 26 1) (16 * bn (bitOf flags 2) + 32 * bn (bitOf flags 3))
        (s.modPort p (fun y => y.setIngress q none)).putFar q c none
      else s.modPort p (fun y => y.setIngress q (some { i with next := off + len }))
    | (none, s) => s.modPort p (fun y => { y.setIngress q (some i) with parked := some { x with since := s.clock.now } })
    | (_, s) => s.breakIngress p q x i

/-- Deliver a class-0 parcel (R278 to R280). -/
def State.deliver0 (s : State) (p : Nat) (x : Parcel) : State :=
  let q := leAt x.hdr 24 2
  let flags := leAt x.hdr 27 1
  if !s.ingressOk q then s.replyTo p x .denied
  else
    match epochCheck (s.queue q).pepoch (leAt x.hdr 2 1) with
    | some st =>
      (if st = .superseded then s.tally_ .superseded (queueDie q) 0 1 else s).replyTo p x st
    | none =>
      match (s.port p).ingress.find? (fun i => decide (i.ring = q)) with
      | some i =>
        if i.cart.isEmpty then
          if bitOf flags 1 then s.modPort p (fun y => y.setIngress q none) else s
        else s.fillIngress p q x i
      | none =>
        if !bitOf flags 0 then s.replyTo p x .mismatch
        else
          let back := (s.queue q).pair
          match s.canTake back with
          | .wait => (s.tallyPort .ingressWait p).modPort p (fun y => { y with parked := some { x with since := s.clock.now } })
          | .mismatch => s.replyTo p x .denied
          | .integ => s.replyTo p x .denied
          | .ok =>
            match s.takeCart back with
            | (none, s) => s.replyTo p x .denied
            | (some c, s) =>
              if cartOk c then s.fillIngress p q x { ring := q, cart := c, next := 0, src := leAt x.hdr 34 2 }
              else (s.reportRing back).replyTo p x .mismatch

/-- The first arrived parcel of a class at a port, taken from its list. -/
def State.takeArrived (s : State) (p cls : Nat) : Option (Parcel × State) :=
  match (s.port p).arrived.find? (fun x => decide (leAt x.hdr 1 1 = cls)) with
  | none => none
  | some x => some (x, s.modPort p (fun y => ({ y with arrived := y.arrived.erase x }.giveBack x.frames)))

/-- CLASS0_PARCEL_DELIVER (R278, R279): the next class-0 parcel of a port, unless one is held there for an empty cart. -/
def execClass0ParcelDeliver (p : PortIx) (s : State) : Res :=
  if (s.port p.toNat).parked.isSome then .next s
  else
    match s.takeArrived p.toNat 0 with
    | none => .next s
    | some (x, s) => .next (s.deliver0 p.toNat x)

/-- The slots whose running transfer puts carts on one of the rings. -/
def State.ringStreams (s : State) (rings : List Nat) : List (Nat × Nat) :=
  s.mills.flatMap (fun m => (List.range 8).filterMap (fun k =>
    match m.2.slot k with
    | some sl =>
      (match sl.descs with
       | d :: _ => if descOut d && rings.contains (descRing d) && sl.run then some (m.1, k) else none
       | [] => none)
    | none => none))

/-- DENIED_REPLY_RECEIVE (R278 to R280): a neighbour's reply for a remote ring ends the streams that put carts on the rings this
port sends there, and their carts go back. -/
def execDeniedReplyReceive (p : PortIx) (ring : BitVec 16) (st : Status) (s : State) : Res :=
  let p := p.toNat
  if st ≠ .denied ∧ st ≠ .timeout ∧ st ≠ .mismatch ∧ st ≠ .superseded then .next s
  else
    let rings := (s.qs.queues.filter (fun q => q.2.portIs p && decide (q.2.arg % 65536 = ring.toNat))).map Prod.fst
    let mine := (s.port p).sends.filter (fun c => rings.contains c.ring)
    let s := s.modPort p (fun y => { y with sends := y.sends.filter (fun c => !rings.contains c.ring) })
    let s := mine.foldl (fun s c =>
      s.putFar (s.queue c.ring).pair (reCart c.cart (cartFill c.cart) (cartGen c.cart) (cartStatus st)) none) s
    .next ((s.ringStreams rings).foldl (fun s k => s.failSlot (some k) st 0 0) s)

/-- INGRESS_WAIT_END (R280): the held first parcel finds an empty cart. -/
def execIngressWaitEnd (p : PortIx) (s : State) : Res :=
  let p := p.toNat
  match (s.port p).parked with
  | none => .next s
  | some x =>
    if (s.port p).ingress.all (fun i => !decide (i.ring = leAt x.hdr 24 2)) && decide (s.canTake (s.queue (leAt x.hdr 24 2)).pair = .wait) then
      .next s
    else .next ((s.modPort p (fun y => { y with parked := none })).deliver0 p x)

/-- INGRESS_WAIT_TIMEOUT (R280): after 100 µs the parcel and the rest of its cart's parcels are discarded and TIMEOUT is
replied. -/
def execIngressWaitTimeout (p : PortIx) (s : State) : Res :=
  let p := p.toNat
  match (s.port p).parked with
  | none => .next s
  | some x =>
    let s := s.advanceTo (x.since + hundredUs)
    let q := leAt x.hdr 24 2
    let rest := !bitOf (leAt x.hdr 27 1) 1
    let i : Option Ingress := if rest then some { ring := q, cart := [], next := 0, src := leAt x.hdr 34 2 } else none
    .next ((s.modPort p (fun y => { y.setIngress q i with parked := none })).replyTo p x .timeout)

end Sys2Proof.Machine
end

