-- ==== Sys2Proof/Machine/Tilled.lean ====
section
/-! DEFINITION. Tilled execution (chapter 06): seating, bookings, checkpoint marks, halts and notices, booked frames. -/

namespace Sys2Proof.Machine

open Sys2Proof

/-- A record with `n` bits from bit `lo` replaced. -/
def withBits {w : Nat} (r : BitVec w) (lo n v : Nat) : BitVec w :=
  BitVec.ofNat w (r.toNat - field r.toNat lo n * 2 ^ lo + v % 2 ^ n * 2 ^ lo)

/-! ## Groups -/

/-- The position of the current tick in a group's span (R192). -/
def State.posOf (s : State) (g : Group) : Nat := g.posAt s.clock.tick.toNat

/-- The mills of a group. -/
def Group.mills (g : Group) : List Nat :=
  match g.almanac with
  | some a => a.mills.map BitVec.toNat
  | none => []

/-- The plots of a group. -/
def Group.plots (g : Group) : List Nat :=
  match g.almanac with
  | some a => a.plots.map BitVec.toNat
  | none => []

/-- The mark of a group's almanac with a number. -/
def Group.markDef (g : Group) (n : Nat) : Option MarkDef :=
  g.almanac.bind (fun a => a.marks.find? (fun m => decide (m.num = n)))

/-- The tick of a group's target boundary. -/
def Group.boundary (g : Group) : Nat := g.target.toNat

/-! ## Seating (R200, R218) -/

/-- The target epoch of a seat: the least epoch number from the current one on with these low 16 bits (R200). -/
def targetEpoch (now e : Nat) : Nat :=
  let cur := now / 65536
  cur + (e + 65536 - cur % 65536) % 65536

/-- The first refusal reason that applies to a seat (06 Table 4); 0 when none does. -/
def State.seatErr (s : State) (g : Group) (epoch mark : Nat) : Nat :=
  let t := targetEpoch s.clock.tick.toNat epoch
  let hot := s.cadence.next.getD s.cadence.hot
  if t = s.clock.tick.toNat / 65536 ∨ t * 65536 < s.clock.tick.toNat + 16 then 1
  else if g.state ≠ .loaded ∧ g.state ≠ .halted then 2
  else if s.bell.state ≠ .locked ∧ s.bell.state ≠ .source then 3
  else if (g.almanac.map (·.hot)) ≠ some hot then 4
  else if g.ports.any (fun p => !(s.bell.port p.1).valid || decide (p.2 < (s.bell.port p.1).hop)) then 5
  else if g.ports.any (fun p => !s.portSlots p.1) then 6
  else if mark ≠ 15 ∧ (7 < mark ∨ (g.markDef mark).isNone) then 7
  else 0

/-- An engine as a seat leaves it (R218): neither stopped nor frozen, nothing queued, running or held. -/
def Engine.seated (g : Engine) : Engine :=
  { g with queue := [], running := none, held := none, stopped := none, deferred := none, stack := [], done := none, audited := none }

/-- A sieve register's word. -/
def ParWord.isReg : ParWord → Bool
  | .d _ => true
  | .bx _ => true
  | .a _ => true
  | .ax _ => true
  | .e _ => true
  | _ => false

/-- A mill as an accepted seat leaves it (R218). -/
def Mill.seated (x : Mill) : Mill :=
  { x with
    st := x.st.seated, mx := x.mx.seated, sv := x.sv.seated, ca := x.ca.seated, cb := x.cb.seated
    stopped := none, frozen := false, fifos := [], slots := [], tiles := [], flights := [], busy := [], lands := [], loads := [], ports := []
    incs := [], marks := [], turn := [], moveFree := [], parity := x.parity.filter ParWord.isReg
    sieve := { x.sieve with rpt := none, delay := none, req := none, fifo := [] } }

/-- A seat command is accepted (R218). -/
def State.acceptSeat (s : State) (g : Nat) (epoch mark : Nat) : State :=
  let ms := (s.group g).mills
  let s := ms.foldl (fun s m => s.modMill m Mill.seated) s
  s.modGroup g (fun x =>
    { x with state := .seated, seatErr := 0, halt := none, cause := 0, due := none, noticed := false, unseat := false
             seatMark := BitVec.ofNat 4 mark
             target := BitVec.ofNat 64 (targetEpoch s.clock.tick.toNat epoch * 65536) })

/-- The effect of a committed FLD_GRPg_SEAT (R199, R200, R228). -/
def State.seatWrite (s : State) (g : Nat) (v : Word) : State :=
  let s := s.cwHold (0x3908000 + 0x100 * g) (v &&& 0xFFFF0F00)
  let x := s.group g
  let epoch := v.toNat / 65536
  let mark := field v.toNat 8 4
  match v.toNat % 4 with
  | 1 =>
    let e := s.seatErr x epoch mark
    if e = 0 then s.acceptSeat g epoch mark else s.modGroup g (fun x => { x with seatErr := BitVec.ofNat 4 e })
  | 2 => if x.state = .halted then s.modGroup g (fun x => { x with unseat := true }) else s
  | 3 => if x.state = .running then s.raiseHalt g 12 0 else s
  | _ => s

/-- GROUP_SEAT (R200). -/
def execGroupSeat (w : Writer) (g : SlotIx) (epoch : BitVec 16) (mark : BitVec 4) (s : State) : Res :=
  if s.mayHost w then .next (s.seatWrite g.toNat (BitVec.ofNat 32 (epoch.toNat * 65536 + mark.toNat * 256 + 1))) else .next s

/-- GROUP_UNSEAT (R199). -/
def execGroupUnseat (w : Writer) (g : SlotIx) (s : State) : Res :=
  if s.mayHost w then .next (s.seatWrite g.toNat 2) else .next s

/-- HOST_HALT (R228). -/
def execHostHalt (w : Writer) (g : SlotIx) (s : State) : Res :=
  if s.mayHost w then .next (s.seatWrite g.toNat 3) else .next s

/-- UNSEAT_BOUNDARY (R199): at an epoch boundary. -/
def execUnseatBoundary (g : SlotIx) (s : State) : Res :=
  let x := s.group g.toNat
  if s.atEpoch && x.unseat && decide (x.state = .halted) then
    .next (s.modGroup g.toNat (fun x => { x with state := .loaded, unseat := false }))
  else .next s

/-- Set the sync counters of a group's mills, to a mark's values where it has them, else to the sheaf's (R94, R218). -/
def State.setSync (s : State) (m : Nat) (mark : Option MarkDef) : State :=
  s.modMill m (fun x =>
    let vals := match mark.bind (fun k => (k.sync.find? (fun e => decide (e.1 = m))).map Prod.snd) with
      | some v => v
      | none => x.syncInit
    (List.range 16).foldl (fun x c => x.setCnt c (vals.getD c 0).toNat) x)

/-- The placement epochs that a seat sets (R219, R220). -/
def State.setEpochs (s : State) (a : Almanac) : State :=
  a.epochs.foldl (fun s e =>
    match e.1 with
    | .mill m => s.modMill m.toNat (fun x => { x with held := e.2, accepted := e.2 })
    | .plot p => s.modPlot p.toNat (fun x => { x with pepoch := e.2, accepted := e.2 })
    | .ring q => s.modQueue q.toNat (fun x =>
        { x with record := withBits x.record 80 8 e.2.toNat })) s

/-- Clear the caches of a group's mills and of the taps of its plots (R362). -/
def State.clearCaches (s : State) (g : Group) : State :=
  let s := g.mills.foldl (fun s m => { s with ledger := s.ledger.setLines (.mill m) [] }) s
  g.plots.foldl (fun s p => { s with ledger := s.ledger.setLines (.tap (plotDie p)) [] }) s

/-- Post the invocation of a booking (R83, R193): a full queue is a schedule fault of the engine. -/
def State.bookedPost (s : State) (m : Nat) (e : Eng) (entry : Word) (args : List Word) : State :=
  if !s.millLive m || (s.mill m).frozen then s
  else if 16 ≤ ((s.mill m).eng e).queue.length then
    s.engineFault m e { status := .faultSched, kind := 7, resource := e.num }
  else s.modEng m e (fun g => g.push s.clock.now { entry := entry, args := args })

/-- The first tick from `b + w` on that stands at position `c` of a span (R217). -/
def resumeTick (b w c span : Nat) : Nat := b + w + (c + span - (b + w) % span) % span

/-- SEAT_BOUNDARY (R201, R217, R218, R220, R362): the bell stands at a seated group's target boundary. -/
def execSeatBoundary (g : SlotIx) (s : State) : Res :=
  let k := g.toNat
  let x := s.group k
  match x.almanac with
  | none => .next s
  | some a =>
    if x.state ≠ .seated ∨ s.clock.tick.toNat ≠ x.boundary ∨ s.clock.cyc ≠ 0 then .next s
    else
      let mark := x.markDef x.seatMark.toNat
      let s := (s.setEpochs a).clearCaches x
      let s := x.mills.foldl (fun s m => s.setSync m mark) s
      let s := x.plots.foldl (fun s p =>
        s.modPlot p (fun y => if y.state = .stopped then { y with state := .live } else y)) s
      match mark with
      | none => .next (s.modGroup k (fun x => { x with state := .running, base := x.target }))
      | some d =>
        let r := resumeTick x.boundary d.window d.pos x.span
        .next (s.modGroup k (fun x => { x with state := .restoring, resume := BitVec.ofNat 64 r }))

/-- GROUP_RESUME (R217): at the resume tick. -/
def execGroupResume (g : SlotIx) (s : State) : Res :=
  let k := g.toNat
  let x := s.group k
  match x.markDef x.seatMark.toNat with
  | none => .next s
  | some d =>
    if x.state ≠ .restoring ∨ s.clock.tick ≠ x.resume then .next s
    else
      let s := s.modGroup k (fun x => { x with state := .running, base := x.resume - BitVec.ofNat 64 d.pos })
      .next (d.posts.foldl (fun s b =>
        match b.act with
        | .post m e entry args => s.bookedPost m.toNat e entry args
        | _ => s) s)

/-- CHECKPOINT_MARK_COMMIT (R215): at cycle 0 of the tick at a mark's position, while the group is running. -/
def execCheckpointMarkCommit (g : SlotIx) (mark : BitVec 3) (s : State) : Res :=
  let x := s.group g.toNat
  match x.markDef mark.toNat with
  | none => .next s
  | some d =>
    if x.state = .running ∧ s.posOf x = d.pos % x.span ∧ s.clock.cyc = 0 then
      .next (s.modGroup g.toNat (fun x => { x with mark := mark.zeroExtend 4, markT := s.clock.tick }))
    else .next s

/-! ## Bookings (R192, R193) -/

/-- A booked stream takes a free slot of its carter; a fifth is a schedule fault (R90). -/
def State.bookedSlot (s : State) (m : Nat) (c : Carter) (start : State → Nat → State) : State :=
  match (s.mill m).freeSlot c with
  | some k => start (s.modMill m (fun x => { x with worked := true })) k
  | none => s.engineFault m c.eng { status := .faultSched, kind := 8, resource := 0xFF }

/-- A booked frame slot of a port carries the first frame that waits for it from its source (R193, R204, R225); with none it stays
empty. -/
def State.sendBooked (s : State) (p : Nat) (f : FrameSlot) (src : FrameSrc) : State :=
  let x := s.port p
  match x.bookedTx.find? (fun t => decide (t.src = src)) with
  | none => s
  | some t =>
    if !s.portSlots p then s
    else
      let msg := toLe 1 (128 * bn t.first) ++ padTo 64 t.data
      (s.setPort p { x with bookedTx := x.bookedTx.erase t }).send
        { kind := .bookedFrame, unit := p, addr := f.lane.toNat, data := msg ++ rsParity msg
          cycle := s.symCycle (s.clock.tick.toNat * 6144 + f.start.toNat) }

/-- The action of a booking. Ownership of slots, idle windows, power changes and expected frames have no effect of their
own: the router, the self-test, the power controller and the port look them up. -/
def State.act (s : State) (a : Action) : State :=
  match a with
  | .post m e entry args => s.bookedPost m.toNat e entry args
  | .strm m c list inc =>
    let g := (s.mill m.toNat).eng c.eng
    if !s.millLive m.toNat || (s.mill m.toNat).frozen then s
    else if !(incOk g inc && listOk list.toNat) then s.engineFault m.toNat c.eng { status := .mismatch }
    else
      (match (s.mill m.toNat).listSlot c list.toNat with
       | some k => s.rearm m.toNat k list.toNat (incOf g inc)
       | none => s.bookedSlot m.toNat c (fun s k => s.startStream m.toNat k list.toNat (incOf g inc)))
  | .mov m c b =>
    if !s.millLive m.toNat || (s.mill m.toNat).frozen then s else s.doMov m.toNat c.eng (.mov b) b true
  | .tap p ring deliver =>
    let q := ring.toNat
    if deliver then
      (match (s.plot p.toNat).carts with
       | c :: t => (s.modPlot p.toNat (fun x => { x with carts := t })).putFar q c.cart (some (s.plot p.toNat).pepoch.toNat)
       | [] => s)
    else if s.canTake q = .ok then
      (match s.takeCart q with
       | (some c, s) => s.modPlot p.toNat (fun x => { x with carts := x.carts ++
           [{ ring := q, cart := c, wrote := 0, reading := true }] })
       | (none, s) => s)
    else s
  | .send p f src => s.sendBooked p.toNat f src
  | .granary c => s.modGranary c.site.toNat (fun g => { g with booked := g.booked ++ [c] })
  | .reshape m p => s.modMill m.toNat (fun x => { x with reshape := some p })
  | .slot _ _ _ _ _ _ => s
  | .expect _ _ _ => s
  | .transit _ _ _ => s
  | .idle _ _ => s
  | .power _ _ => s

/-- The mill or the die in whose frames a booking is held (R402, R569): posts, streams, moves, reshapes and idle windows of a mill
stand in its own frames. -/
def State.bookingHolder (s : State) (a : Action) : Sum Nat Die :=
  let port := fun (p : PortIx) => portDie s.ident.option p.toNat
  match a with
  | .post m _ _ _ => .inl m.toNat
  | .strm m _ _ _ => .inl m.toNat
  | .mov m _ _ => .inl m.toNat
  | .reshape m _ => .inl m.toNat
  | .idle m _ => .inl m.toNat
  | .slot d _ _ _ _ _ => .inr d
  | .tap p _ _ => .inr (plotDie p.toNat)
  | .send p _ _ => .inr (port p)
  | .expect p _ _ => .inr (port p)
  | .transit p _ _ => .inr (port p)
  | .granary c => .inr (if c.site.toNat < 6 then .w else .e)
  | .power d _ =>
    .inr (if d.toNat < 16 ∨ (32 ≤ d.toNat ∧ d.toNat < 56) ∨ (80 ≤ d.toNat ∧ d.toNat < 86) ∨ d.toNat = 92 then .w else .e)

/-- A booking is read for use (R569). One whose complement fails is not acted on, and its group halts; a die holds two copies, and
the other one stands in for a failing copy. -/
def State.useBooking (s : State) (g i : Nat) (a : Action) : State :=
  match ((s.group g).badBook.find? (fun p => decide (p.1 = i))).map Prod.snd, s.bookingHolder a with
  | none, _ => s.act a
  | some _, .inl m => s.raiseHalt g 1 m
  | some n, .inr d =>
    if n ≤ 1 then (s.report 13 0 .corrected .ok 15 0 true).act a else s.raiseHalt g 1 (0xC000 + d.num)

/-- The current tick is the one a booking of a group names (R192, R217). -/
def State.bookedTick (s : State) (x : Group) (b : Booking) : Bool := x.bookedAt b s.clock.tick.toNat

/-- BOOKING_TAKES_EFFECT (R192, R217): booking `i` of a group, in the tick of its position; its cycle comes. -/
def execBookingTakesEffect (g : SlotIx) (i : Nat) (s : State) : Res :=
  let x := s.group g.toNat
  match x.almanac.bind (fun a => a.bookings[i]?) with
  | none => .next s
  | some b =>
    let live := decide (x.state = .running) || decide (x.state = .restoring)
    if live && s.bookedTick x b && decide (s.clock.cyc ≤ b.cycle) && decide (b.cycle < 1248) then
      .next ((s.pass (b.cycle - s.clock.cyc)).useBooking g.toNat i b.act)
    else .next s

/-! ## Halts (R207 to R214) -/

/-- The notice of a halt (06 Table 7). -/
def noticeBytes (group : Nat) (h : HaltDue) : List Byte :=
  toLe 1 0x21 ++ toLe 1 h.originCause ++ toLe 2 group ++ toLe 2 h.originNode ++ toLe 1 h.dist ++ toLe 1 0 ++
    toLe 8 h.originTick.toNat ++ toLe 8 (~~~ h.originTick).toNat ++ toLe 2 h.originCycle ++ toLe 38 0

/-- The frames of a group that wait for booked slots of a port, and its parcels that are part received, are dropped when it halts: it
launches no further booked frames (R208). DESIGN CHOICE: none is kept for after a seat (log entry 183). -/
def Port.dropBooked (x : Port) (a : Almanac) (k p : Nat) : Port :=
  { x with
    bookedTx := x.bookedTx.filter (fun t => !a.bookings.any (fun b =>
      match b.act with
      | .send q _ src => decide (q.toNat = p) && decide (src = t.src)
      | _ => false))
    bookedRx := x.bookedRx.filter (fun z => !decide (z.group = k)) }

/-- A halt notice goes in the next notice slot of a port (R209, R456). -/
def State.notice (s : State) (p : Nat) (b : List Byte) : State :=
  let t := s.clock.tick.toNat + (if s.symNow ≤ s.clock.tick.toNat * 6144 + 72 then 0 else 1)
  s.send { kind := .laneControl, unit := p, addr := 3 + t % 1024 % 3, data := padTo 64 b, cycle := s.symCycle (t * 6144 + 72) }

/-- GROUP_HALT (R106, R208, R209, R212): at the first cycle of the tick after the cause, the group freezes, the host is alerted
and notices go out on the group's ports but the port of arrival. -/
def execGroupHalt (g : SlotIx) (s : State) : Res :=
  let k := g.toNat
  let s := if (s.group k).due.isSome && decide (s.clock.tick ≤ (s.group k).dueTick) then s.nextTick else s
  let x := s.group k
  match x.due, x.almanac with
  | some h, some a =>
    if x.state ≠ .running ∧ x.state ≠ .restoring then .next s
    else
      let s := x.mills.foldl (fun s m => s.modMill m (fun y => { y with frozen := true })) s
      let s := x.plots.foldl (fun s p => s.modPlot p (fun y => if y.state = .live then { y with state := .stopped } else y)) s
      let here := decide (h.cause ≠ 13)
      let r : HaltRec :=
        { haltTick := s.clock.tick, originTick := h.originTick, originCycle := h.originCycle, originNode := h.originNode,
          cause := h.cause, here := here, more := h.more, detail := h.detail, dist := h.dist, pos := s.posOf x }
      let s := s.modGroup k (fun x =>
        { x with state := .halted, due := none, noticed := true, cause := BitVec.ofNat 8 h.cause
                 halt := match x.halt with
                   | some o => some { o with more := true }
                   | none => some r })
      let s := s.alert 6 (toLe 1 k ++ toLe 1 h.cause ++ toLe 2 a.group.toNat)
      .next (x.ports.foldl (fun s p =>
        let s := s.modPort p.1 (fun y => y.dropBooked a k p.1)
        if !here && decide (p.1 = h.detail) then s
        else if s.portSlots p.1 then s.notice p.1 (noticeBytes a.group.toNat h) else s) s)
  | _, _ => .next s

/-- HALT_NOTICE_RECEIVE (R209, R214). -/
def execHaltNoticeReceive (p : PortIx) (payload : List Byte) (s : State) : Res :=
  let b := padTo 64 payload
  let n := leAt b 2 2
  let t := leAt b 8 8
  let slot := s.groups.find? (fun g => decide (g.2.almanac.map (fun a => a.group.toNat) = some n) && decide (g.2.state ≠ .empty))
  if !s.portUp p.toNat then .next s
  else
    match slot with
    | none => .next (s.tallyPort .bellDrop p.toNat)
    | some (k, x) =>
      if leAt b 16 8 ≠ 2 ^ 64 - 1 - t then .next (s.tallyPort .bellDrop p.toNat)
      else if x.state = .halted ∨ x.due.isSome then
        .next (if x.noticed || x.due.isSome then s.tallyPort .noticeDup p.toNat else s)
      else if x.state = .running ∨ x.state = .restoring then
        .next (s.modGroup k (fun x =>
          { x with dueTick := s.clock.tick
                   due := some { cause := 13, detail := p.toNat, originTick := BitVec.ofNat 64 t
                                 originCycle := leAt b 24 2 % 2048, originNode := leAt b 4 2, originCause := leAt b 1 1
                                 dist := leAt b 6 1 + 1, more := false } }))
      else .next s

/-! ## Booked frames (R202, R204, R205, R211, R223) -/

/-- What a group's almanac expects in a frame slot of a port in this tick: the ring that takes the frame, or the port that it leaves by.
A group that is not seated books no frame (R199). -/
def State.expects (s : State) (g : Group) (p : PortIx) (f : FrameSlot) : Option FrameSrc :=
  g.almanac.bind (fun a => a.bookings.findSome? (fun b =>
    if !g.state.held || !s.bookedTick g b then none
    else
      match b.act with
      | .expect q h r => if q = p ∧ h = f then some (.ring r) else none
      | .transit q h o => if q = p ∧ h = f then some (.port o) else none
      | _ => none))

/-- The slot of a group that books a frame to come in a frame slot of a port in this tick. -/
def State.bookedGroup (s : State) (p : PortIx) (f : FrameSlot) : Option Nat :=
  (s.groups.find? (fun g => (s.expects g.2 p f).isSome)).map Prod.fst

/-- A group of the device runs, or runs its restore window: the causes of R207 arise in it. -/
def Group.live (g : Group) : Bool := decide (g.state = .running) || decide (g.state = .restoring)

/-- The route header of a booked parcel's first frame is of the group `k` and marked as booked (R207, R222). -/
def State.bookedHeader (s : State) (k : Nat) (h : List Byte) : Bool :=
  decide (some (leAt h 4 2) = (s.group k).almanac.map (fun a => a.group.toNat)) && bitOf (leAt h 3 1) 0

/-- A booked frame goes on to the output port of its booking, where it waits for its slot (R223 to R225). The first frame of a parcel
carries the route. -/
def State.bookedTransit (s : State) (k : Nat) (p out : PortIx) (first : Bool) (b : List Byte) : State :=
  let send := fun (b : List Byte) =>
    let t := s.crossDies p.toNat out.toNat true b
    t.modPort out.toNat (fun x =>
      { x with bookedTx := x.bookedTx ++ [{ no := x.bookedNo, src := .port p, first := first, data := b }], bookedNo := x.bookedNo + 1 })
  if 2 < leAt b 1 1 ∧ first = true ∨ s.portUp out.toNat = false then (s.tallyPort .routeErr p.toNat).raiseHalt k 3 p.toNat
  else if !first then send b
  else if !s.bookedHeader k b || decide (leAt b 0 1 = 0 ∨ 19 < leAt b 0 1 ∨ leAt b 8 12 % 32 ≠ out.toNat) then s.raiseHalt k 3 p.toNat
  else send (nextHop b)

/-- Deliver a whole booked parcel into its cart ring: no free cart is an ingress overrun (R205), a newer placement epoch cause 10
(R219). -/
def State.bookedDeliver (s : State) (p k : Nat) (x : Parcel) : State :=
  let q := leAt x.hdr 24 2
  if epochCheck (s.queue q).pepoch (leAt x.hdr 2 1) = some .mismatch then s.raiseHalt k 10 (s.ringMill q)
  else if !(s.port p).ingress.any (fun i => decide (i.ring = q)) && decide (s.canTake (s.queue q).pair ≠ .ok) then s.raiseHalt k 6 p
  else s.deliver0 p x

/-- A booked parcel of which `left` frames have yet to come: it is delivered with the last of them. -/
def State.bookedPut (s : State) (p k : Nat) (x : BookedRx) : State :=
  let s := s.modPort p (fun y => { y with bookedRx := y.bookedRx.filter (fun z => !decide (leAt z.hdr 24 2 = leAt x.hdr 24 2)) })
  if x.left = 0 then s.bookedDeliver p k { hdr := x.hdr, data := x.data, since := s.clock.now }
  else s.modPort p (fun y => { y with bookedRx := y.bookedRx ++ [x] })

/-- A booked frame for a cart ring of this device (R205, R207, R222, R223, R279): the first frame of a parcel names the ring and the bytes
that follow. -/
def State.bookedTake (s : State) (k p q : Nat) (first : Bool) (b : List Byte) : State :=
  let x := s.port p
  if first then
    if leAt b 0 1 = 0 ∧ (leAt b 6 2 ≠ s.node.toNat ∨ 2 < leAt b 1 1) then (s.tallyPort .routeErr p).raiseHalt k 3 p
    else if !s.bookedHeader k b || decide (leAt b 0 1 ≠ 0 ∨ leAt b 1 1 ≠ 0 ∨ leAt b 24 2 ≠ q) || !s.ingressOk q then s.raiseHalt k 3 p
    else if !x.ingress.any (fun i => decide (i.ring = q)) && decide (s.canTake (s.queue q).pair ≠ .ok) then s.raiseHalt k 6 p
    else s.bookedPut p k { group := k, hdr := b, data := [], left := (leAt b 32 2 + 63) / 64 }
  else
    match x.bookedRx.find? (fun z => decide (leAt z.hdr 24 2 = q)) with
    | none => s.raiseHalt k 3 p
    | some z => s.bookedPut p k { z with data := z.data ++ b, left := z.left - 1 }

/-- A frame stands in a booked slot, decoded as R438 states (R204, R205, R211): the receiver takes it in the same cycle whether or not
it corrected anything. -/
def State.bookedArrive (s : State) (p : PortIx) (f : FrameSlot) (r : Option (List Byte × Nat)) : State :=
  match s.bookedGroup p f with
  | none => s.tallyPort .routeErr p.toNat
  | some k =>
    if !(s.group k).live then s.tallyPort .tilledDrop p.toNat
    else
      match r with
      | none => s.raiseHalt k 3 p.toNat
      | some (msg, n) =>
        let s := if 0 < n then s.tallyPort .bookedCorr p.toNat else s
        match s.expects (s.group k) p f with
        | some (.port out) => s.bookedTransit k p out (bitOf (leAt msg 0 1) 7) (msg.drop 1)
        | some (.ring q) => s.bookedTake k p.toNat q.toNat (bitOf (leAt msg 0 1) 7) (msg.drop 1)
        | none => s

/-- A frame that a running or restoring group books in this slot is absent (R202). -/
def State.bookedMissing (s : State) (p : PortIx) (f : FrameSlot) : State :=
  match s.groups.find? (fun g => g.2.live && (s.expects g.2 p f).isSome) with
  | some (k, _) => s.raiseHalt k 5 p.toNat
  | none => s

/-- The physical lane in frame lock that serves a logical lane. -/
def Port.serving (x : Port) (n : Nat) : Option Nat := x.locked.find? (fun l => decide (x.role l = n))

/-- BOOKED_FRAME_RECEIVE (R204, R205, R211, R223): the 72 code groups in a frame slot. A frame whose header is not that of a data frame
is none of the group's, and the booked one is missing. -/
def execBookedFrameReceive (p : PortIx) (at_ : FrameSlot) (groups : List (BitVec 10)) (s : State) : Res :=
  match (s.port p.toNat).serving at_.lane.toNat with
  | none => .next s
  | some l =>
    if !s.portSlots p.toNat then .next s
    else
      let (hdr, syms, s) := s.decodeFrame p.toNat l groups
      let s := (s.lockStep p.toNat l (decide (hdr ≠ .invalid))).2
      if hdr ≠ .data then .next (s.bookedMissing p at_)
      else
        let (r, s) := s.decoded p.toNat syms
        let s := (s.countFrame p.toNat at_.lane.toNat r.isNone).2
        .next (s.bookedArrive p at_ r)

/-- BOOKED_FRAME_MISSING (R202): a frame that a running or restoring group books in this slot of a port is absent. -/
def execBookedFrameMissing (at_ : PortSlot) (s : State) : Res := .next (s.bookedMissing at_.port at_.slot)

end Sys2Proof.Machine
end

