-- ==== Sys2Proof/Machine/Queues.lean ====
section
/-! DEFINITION. Queues, doorbells, the dispatchers and the commands of submission entries (chapter 09). -/

namespace Sys2Proof.Machine

open Sys2Proof

/-! ## Doorbells (R287 to R290, R314) -/

/-- Record a discarded doorbell or record write in QS_ERR (R314). -/
def State.qsErr (s : State) (unpriv : Bool) (kind q : Nat) : State :=
  { s with qs := { s.qs with
      err := s.qs.err.set1 (s.clock.tick.truncate 32) (BitVec.ofNat 32 (bn unpriv * 2 ^ 29 + kind * 65536 + q)) 0 } }.evBits s.clock.now
    0x440014 [31]

/-- A doorbell is discarded (R287). -/
def State.discardDoorbell (s : State) (unpriv : Bool) (kind q : Nat) : State :=
  (s.qsErr unpriv kind q).tally_ .dbDiscard (queueDie q) 0 1

/-- The side of a queue that the ringing side owns: true is the tail, false the head (chapter 09, "Doorbells"). A ring whose
two stages are both the host takes a new tail. -/
def Queue.hostSide (x : Queue) (q : Nat) : Option Bool :=
  if q < 4096 then some true
  else if q < 8192 then some false
  else if !x.written then none
  else if field x.prod 13 3 = 0 then some true
  else if field x.cons 13 3 = 0 then some false
  else none

/-- Post the carts that stand on a post ring, up to `n` of them. -/
def State.postRings (s : State) (q : Nat) : Nat → State
  | 0 => s
  | n + 1 => (s.postRing q).postRings q n

/-- Move the count that a doorbell carries. The fetch-fault state clears and the read is tried again (R294); a CQ that is empty
again may alert again (R300); carts put by the host on a post ring are posted (R276). -/
def State.moveCount (s : State) (q : Nat) (tail : Bool) (v : BitVec 17) : State :=
  let n := (v - (s.queue q).tail.v).toNat
  let s := s.modQueue q (fun x =>
    let x := if tail then { x with tail := Count.mk' v, fetch := false } else { x with head := Count.mk' v, fetch := false }
    if x.occ = 0 then { x with alertSent := false } else x)
  if tail && decide (8192 ≤ q) then s.postRings q (min n 65536) else s

/-- The count lies in the range that its side allows (R287). -/
def Queue.countFits (x : Queue) (tail : Bool) (v : BitVec 17) : Bool :=
  if tail then decide ((v - x.head.v).toNat ≤ x.size) else decide ((v - x.head.v).toNat ≤ x.occ)

/-- The checks that a doorbell meets after its complement, in their order, and its commit (R287, R289). `mgmt` is the
management-side path of the reeves. -/
def State.ring (s : State) (unpriv mgmt : Bool) (q : Nat) (v : BitVec 17) : State :=
  let x := s.queue q
  if !x.en || x.fault then s.discardDoorbell unpriv 1 q
  else if unpriv && x.priv && decide (q < 8192) then s.discardDoorbell unpriv 2 q
  else
    let side := if decide (q < 8192) && (x.reeve != mgmt) then none
      else if mgmt && decide (8192 ≤ q) then none else x.hostSide q
    match side with
    | none => s.discardDoorbell unpriv 3 q
    | some tail =>
      match s.checkCounts q with
      | (false, s) => s.discardDoorbell unpriv 1 q
      | (true, s) => if x.countFits tail v then s.moveCount q tail v else s.discardDoorbell unpriv 4 q

/-- A doorbell whose complement word does not match (R314 kind 5). -/
def State.doorbellFail (s : State) (unpriv : Bool) (q : Nat) : State := s.discardDoorbell unpriv 5 q

/-- DOORBELL (R287): a committed write of QS_DBq. -/
def execDoorbell (w : Writer) (q : QueueIx) (count : BitVec 17) (s : State) : Res :=
  .next (if s.shutOut w || s.bootRom || w.reeve then s else s.ring (!w.priv) false q.toNat count)

/-- REEVE_DOORBELL (R289). -/
def execReeveDoorbell (q : QueueIx) (count : BitVec 17) (s : State) : Res := .next (s.ring false true q.toNat count)

/-! ## Submission entries (R291 to R294) -/

/-- The kind and address of a body address in a fault report (R579). -/
def reportPlace (a : Nat) : Nat × Nat :=
  if field a 44 4 = 1 then (4, loftAddr (addrMill a) (a % 2 ^ 20)) else (0, a)

/-- How many entries the next burst of an SQ reads: at most 16, not past the tail, the end of the body or a page (R293). -/
def Queue.burst (x : Queue) : Nat :=
  let i := x.head.v.toNat + x.fetched.length
  let slot := i % x.size
  min (min 16 (x.occ - x.fetched.length)) (min (x.size - slot) (pageRoom (x.base + 64 * slot) / 64))

/-- SQ_BURST_ARRIVE (R293, R294). -/
def execSqBurstArrive (q : QueueIx) (s : State) : Res :=
  let q := q.toNat
  let x := s.queue q
  if 4096 ≤ q ∨ !x.en ∨ x.fault ∨ x.fetch ∨ x.wdr ∨ x.disabling ∨ x.burst = 0 then .next s
  else
    match s.checkCounts q with
    | (false, s) => .next s
    | (true, s) =>
      let a := x.base + 64 * ((x.head.v.toNat + x.fetched.length) % x.size)
      match s.streamRead (.queue (queueDie q)) a (64 * x.burst) with
      | (.ok (some b), s) => .next (s.modQueue q (fun x => { x with fetched := x.fetched ++ frames64 x.burst b }))
      | (.ok none, s) => .next s
      | (.error st, s) =>
        let (k, ad) := reportPlace a
        .next ((s.modQueue q (fun x => { x with fetch := true })).report 6 q .contained st k ad false)

/-- op of an entry. -/
def entryOp (e : List Byte) : Nat := leAt e 0 1
/-- flags.any. -/
def entryAny (e : List Byte) : Bool := bitOf (leAt e 1 1) 0
/-- The completion queue an entry asks for. -/
def entryCq (e : List Byte) : Option Nat := if bitOf (leAt e 1 1) 1 then some (leAt e 2 2) else none
/-- flags.fence. -/
def entryFence (e : List Byte) : Bool := bitOf (leAt e 1 1) 2
/-- The mill field. -/
def entryMill (e : List Byte) : Nat := leAt e 4 2
/-- The tag. -/
def entryTag (e : List Byte) : BitVec 64 := BitVec.ofNat 64 (leAt e 8 8)
/-- The entry field. -/
def entryEntry (e : List Byte) : Nat := leAt e 16 4
/-- An argument word. -/
def entryArg (e : List Byte) (i : Nat) : Nat := leAt e (20 + 4 * i) 4

/-- The entry is well formed: crit_n matches, reserved fields are zero, op and cq are in range (R291). -/
def entryOk (e : List Byte) : Bool :=
  decide (BitVec.ofNat 32 (leAt e 60 4) = ~~~ xorWords5 e) && decide (leAt e 1 1 < 8) && decide (leAt e 7 1 = 0) &&
    decide (leAt e 52 8 = 0) && decide (1 ≤ entryOp e) && decide (entryOp e ≤ 6) &&
    (match entryCq e with
     | some q => decide (4096 ≤ q ∧ q < 8192)
     | none => true) &&
    !(entryAny e && decide (entryMill e ≠ 0))

/-- A command op (Table 5). -/
def isCommand (op : Nat) : Bool := decide (2 ≤ op ∧ op ≤ 6)

/-- The mill field of the completion of an entry that was not placed (R295). -/
def State.namedMill (s : State) (e : List Byte) : Nat :=
  let m := entryMill e
  match entryOp e with
  | 1 => if !entryAny e && s.millPresent m then m else 0xFFFF
  | 2 => m
  | 3 => if entryEntry e % 4 = 1 then m else 0xFFFF
  | 4 => if entryEntry e % 4 = 0 then entryArg e 0 % 65536 else 0xFFFF
  | 6 => m
  | _ => 0xFFFF

/-- The completion of an entry that was not placed. -/
def entryCompletion (q : Nat) (idx : BitVec 17) (e : List Byte) (st : Status) (detail mill : Nat) :
    Completion :=
  { cq := (entryCq e).getD 0, status := st, kind := if isCommand (entryOp e) then 3 else 1, sq := q,
    sqidx := idx.toNat % 65536, tag := entryTag e, mill := mill, detail := BitVec.ofNat 32 detail }

/-- An entry completes without being placed, where it asks for a completion. -/
def State.completeEntry (s : State) (q : Nat) (idx : BitVec 17) (e : List Byte) (st : Status) (detail : Nat) : State :=
  s.completeIf (entryCq e) (entryCompletion q idx e st detail (s.namedMill e))

/-- A malformed entry: MISMATCH to the record's dcq, where that is a CQ (R291). -/
def State.completeMalformed (s : State) (q : Nat) (idx : BitVec 17) (e : List Byte) : State :=
  let d := (s.queue q).dcq
  if 4096 ≤ d ∧ d < 8192 then s.complete { entryCompletion q idx e .mismatch 0 0xFFFF with cq := d } else s

/-- The head moves past the entry at the head; a queue being disabled is disabled after its last fetched entry (R311). -/
def State.takeEntry (s : State) (q : Nat) : State :=
  s.modQueue q (fun x =>
    let rest := x.fetched.drop 1
    let off := x.disabling && rest.isEmpty
    { x with head := Count.mk' (x.head.v + 1), fetched := rest, waiting := none
             en := x.en && !off, disabling := x.disabling && !off })

/-! ## Targets (R302) -/

/-- What a mill that cannot take work answers: a status and detail (R302). -/
def State.cannotTake (s : State) (m : Nat) : Option (Status × Nat) :=
  let x := s.mill m
  if 1152 ≤ m ∨ !s.millLive m then some (.absent, 1)
  else if !x.configured || !x.program then some (.absent, 2)
  else if x.tilled then some (.mismatch, 0)
  else if x.stopped.isSome then some (.cancelled, 0)
  else none

/-- A withdraw of the mill is in progress (R303, R308). -/
def State.millWithdrawn (s : State) (m : Nat) : Bool := s.qs.withdraws.any (fun w => decide (w.mill = some m))

/-- The mill is a candidate for an entry: present, in service, configured in common mode, holding the capability (R304). -/
def State.candidate (s : State) (m cap : Nat) : Bool :=
  let x := s.mill m
  s.millLive m && x.configured && x.program && !x.tilled && decide (cap &&& x.cap.toNat = cap)

/-- The power controller has asked the mill's row to leave ON or IDLE and waits for its DELAY (R514). -/
def State.millAsked (s : State) (m : Nat) : Bool :=
  s.pwr.busy && s.pwr.delay.isSome && decide (s.pwr.domain = s.millDomain m)

/-- The candidate can take it now (R303, R514). -/
def State.eligible (s : State) (m : Nat) : Bool :=
  !s.millAsked m && (s.mill m).stopped.isNone && !s.millWithdrawn m && decide ((s.mill m).st.queue.length < 16)

/-- The load of a mill (R303). -/
def Mill.load (x : Mill) : Nat := x.st.queue.length + bn x.st.running.isSome

/-- The better of two mills: lower load, then nearer to the rotating pointer in index order with wraparound (R303). -/
def State.better (s : State) (ptr : Nat) (a b : Nat) : Bool :=
  let la := (s.mill a).load
  let lb := (s.mill b).load
  decide (la < lb) || (decide (la = lb) && decide ((a + 576 - ptr) % 576 ≤ (b + 576 - ptr) % 576))

/-- The mill that the dispatcher of a die chooses among the eligible ones (R303). -/
def State.chosen (s : State) (ptr : Nat) : List Nat → Option Nat
  | [] => none
  | m :: t =>
    match s.chosen ptr t with
    | none => some m
    | some k => if s.better ptr m k then some m else some k

/-! ## Dispatch (R298, R303 to R305) -/

/-- A dispatcher. -/
def QueueStore.dsp (x : QueueStore) : Die → Dispatcher
  | .w => x.dspW
  | .e => x.dspE

/-- Replace a dispatcher. -/
def State.setDsp (s : State) (d : Die) (x : Dispatcher) : State :=
  match d with
  | .w => { s with qs := { s.qs with dspW := x } }
  | .e => { s with qs := { s.qs with dspE := x } }

/-- CTRL cycles (1.0 GHz) of an arithmetic cycle, and the first arithmetic cycle of a CTRL cycle. -/
def ctrlOf (c : Nat) : Nat := c * 10 / 13
/-- The first arithmetic cycle at or after the start of a CTRL cycle. -/
def ctrlStart (k : Nat) : Nat := (k * 13 + 9) / 10

/-- The invocation belongs to a work item of the SQ. -/
def Invocation.ofSq (i : Invocation) (q : Nat) : Bool :=
  match i.work with
  | some w => decide (w.sq = q)
  | none => false

/-- An earlier entry of the SQ has not ended, or its completion has not posted (R298). -/
def State.earlierOpen (s : State) (q : Nat) : Bool :=
  s.mills.any (fun m => m.2.st.queue.any (fun i => i.ofSq q) || m.2.st.running.any (fun i => i.ofSq q)) ||
    s.qs.fences.any (fun f => decide (f.ref.sq = q)) || s.qs.withdraws.any (fun f => decide (f.ref.sq = q)) ||
    (s.qs.pendW ++ s.qs.pendE).any (fun c => decide (c.sq = q) && decide (c.kind ≠ 2))

/-- The head entry of an SQ begins to wait under R304. -/
def State.markWaiting (s : State) (q : Nat) : State :=
  s.modQueue q (fun x => { x with waiting := some (x.waiting.getD s.clock.now) })

/-- The wait of an SQ's head entry ends: its CTRL cycles are counted (R304). -/
def State.countWait (s : State) (q : Nat) : State :=
  match (s.queue q).waiting with
  | some t => s.tally_ .dispWait (queueDie q) 0 (ctrlOf s.clock.now - ctrlOf t)
  | none => s

/-- Place a run entry on a mill: its steward's queue takes the invocation (R292). -/
def State.place (s : State) (q : Nat) (e : List Byte) (m : Nat) : State :=
  let w : Work := { sq := q, idx := (s.queue q).head.v, tag := entryTag e, cq := entryCq e, placed := entryAny e }
  let i : Invocation := { entry := BitVec.ofNat 32 (entryEntry e)
                          args := (List.range 8).map (fun k => BitVec.ofNat 32 (entryArg e k)), work := some w }
  let s := (s.takeEntry q).modEng m .st (fun g => g.push s.clock.now i)
  s.tally_ .dispPlaced (queueDie q) 0 1

/-- Serve a run entry. The first part says whether the entry was taken. -/
def State.serveRun (s : State) (q : Nat) (e : List Byte) : Bool × State :=
  let d := queueDie q
  let idx := (s.queue q).head.v
  if entryAny e then
    let cap := leAt e 6 1 ||| (s.queue q).cap
    let cands := ((List.range 576).map (fun i => d.num * 576 + i)).filter (fun m => s.candidate m cap)
    if cands.isEmpty then (true, ((s.countWait q).takeEntry q).completeEntry q idx e .absent 3)
    else
      match s.chosen (s.qs.dsp d).ptr (cands.filter s.eligible) with
      | none => (false, s.markWaiting q)
      | some m =>
        let s := (s.countWait q).place q e m
        (true, s.setDsp d { s.qs.dsp d with ptr := d.num * 576 + (m + 1 - d.num * 576) % 576 })
  else
    let m := entryMill e
    match s.cannotTake m with
    | some (st, detail) => (true, (s.takeEntry q).completeEntry q idx e st detail)
    | none => if s.eligible m then (true, s.place q e m) else (false, s)

/-! ## Commands (R306 to R309) -/

/-- The command's record, as it is carried on. -/
def State.cmdRef (s : State) (q : Nat) (idx : BitVec 17) (e : List Byte) : CmdRef :=
  { sq := q, idx := idx, tag := entryTag e, cq := entryCq e, mill := s.namedMill e }

/-- A command ends: its completion is posted where it asks for one. -/
def State.endCommand (s : State) (c : CmdRef) (st : Status) (detail : Nat) : State :=
  s.completeIf c.cq (c.completion st (BitVec.ofNat 32 detail))

/-- The engines of consecutive mills that hold invocations, each with the count of ended ones it must reach. -/
def State.fenceEngs (s : State) (first n : Nat) : List (Nat × Nat) :=
  (s.mills.filter (fun m => decide (first ≤ m.1) && decide (m.1 < first + n))).flatMap (fun m =>
    Eng.all.filterMap (fun e =>
      let g := m.2.eng e
      if g.idle then none else some (m.1 * 5 + e.num, g.ended + g.queue.length + bn g.running.isSome)))

/-- Fence (Table 5 op 2). A range outside the mills completes MISMATCH. -/
def State.fence (s : State) (c : CmdRef) (first n : Nat) : State :=
  if n = 0 ∨ 1152 < first + n then s.endCommand c .mismatch 0
  else
    let run : FenceRun := { ref := c, first := first, count := n, engs := s.fenceEngs first n }
    { s with qs := { s.qs with fences := s.qs.fences ++ [run] } }

/-- No stream of the mill's carters runs. -/
def Mill.streamsDone (x : Mill) : Bool := (List.range 8).all (fun k => !(x.slot k).any Slot.isStream)

/-- Every invocation a fence covers has ended, and every stream of its mills has completed. A stopped mill runs none. -/
def State.fenceMet (s : State) (f : FenceRun) : Bool :=
  f.engs.all (fun p =>
    let x := s.mill (p.1 / 5)
    x.stopped.isSome || decide (p.2 ≤ ((Eng.ofNum (p.1 % 5)).map (fun e => (x.eng e).ended)).getD p.2)) &&
  (s.mills.filter (fun m => decide (f.first ≤ m.1) && decide (m.1 < f.first + f.count))).all (fun m => m.2.streamsDone)

/-- Remove from an engine's queue the invocations of an SQ and complete them with CANCELLED (R307). Fences that cover them wait
for one less each. -/
def State.dropItems (s : State) (m q : Nat) : Nat × State :=
  let g := (s.mill m).st
  let first := g.ended + bn g.running.isSome + 1
  let nums := ((List.range g.queue.length).zip g.queue).filter (fun p => p.2.ofSq q)
  let gone := nums.map Prod.snd
  let fix := fun (p : Nat × Nat) =>
    if p.1 = m * 5 then (p.1, p.2 - (nums.filter (fun k => decide (first + k.1 ≤ p.2))).length) else p
  let s := s.modEng m .st (fun g => { g with queue := g.queue.filter (fun i => !i.ofSq q) })
  let s := { s with qs := { s.qs with fences := s.qs.fences.map (fun (f : FenceRun) => { f with engs := f.engs.map fix }) } }
  (gone.length, s.cancelAll m gone)

/-- Read one entry of a body. -/
def State.readEntry (s : State) (q : Nat) (i : Nat) : Option (List Byte) × State :=
  let x := s.queue q
  match s.streamRead (.queue (queueDie q)) (x.base + 64 * (i % x.size)) 64 with
  | (.ok (some b), s) => (some b, s)
  | (_, s) => (none, s)

/-- Cancel announced entries not yet placed, from the head on: each completes with CANCELLED, a malformed one as R291 states,
and one whose body cannot be read posts nothing. The count is of the cancelled ones. -/
def State.cancelEntries (s : State) (q : Nat) : Nat → Nat → Nat × State
  | 0, c => (c, s)
  | n + 1, c =>
    let x := s.queue q
    let idx := x.head.v
    let (e, s) := match x.fetched with
      | e :: _ => (some e, s)
      | [] => s.readEntry q idx.toNat
    let s := s.modQueue q (fun x => { x with head := Count.mk' (x.head.v + 1), fetched := x.fetched.drop 1 })
    match e with
    | none => s.cancelEntries q n c
    | some e =>
      if entryOk e then (s.completeEntry q idx e .cancelled 0).cancelEntries q n (c + 1)
      else (s.completeMalformed q idx e).cancelEntries q n c

/-- Withdraw of an SQ (R307, R309). -/
def State.withdrawSq (s : State) (c : CmdRef) (q : Nat) (force : Bool) (limit : Nat) : State :=
  let s := (s.countWait q).modQueue q (fun x => { x with en := false, wdr := true, disabling := false, waiting := none })
  let (n, s) := s.cancelEntries q (s.queue q).occ 0
  let (k, s) := (s.mills.map Prod.fst).foldl (fun (p : Nat × State) m =>
    let (j, s) := p.2.dropItems m q
    (p.1 + j, s)) (n, s)
  let run : WithdrawRun :=
      { ref := c, sq := some q, mill := none, force := force, deadline := s.clock.now + usCycles limit,
         cancelled := k, aborted := 0, expired := false }
  { s with qs := { s.qs with withdraws := s.qs.withdraws ++ [run] } }

/-- A stream that is withdrawn or whose domain is asked to stop, without force (R271): a transfer that has issued no write
completes with CANCELLED, one that has runs on; later fetched ones complete with CANCELLED. -/
def State.withdrawSlot (s : State) (m k : Nat) : State :=
  match (s.mill m).slot k with
  | none => s
  | some sl =>
    if !sl.isStream then s
    else if sl.wrote || sl.halted then
      let s := s.cancelRest m k (sl.descs.drop 1)
      s.setSlot m k (some { sl with descs := sl.descs.take 1, more := false, asked := false, shadow := none, heldRearm := false })
    else s.stopSlot m k

/-- The transfers of a slot that an unforced stop cancels. -/
def Slot.cancelCount (sl : Slot) : Nat :=
  if !sl.isStream then 0 else if sl.wrote || sl.halted then (sl.descs.drop 1).length else sl.descs.length

/-- Withdraw the streams of a mill's carters; the count is of the cancelled transfers. -/
def State.withdrawStreams (s : State) (m : Nat) : Nat × State :=
  (List.range 8).foldl (fun (p : Nat × State) k =>
    (p.1 + (((p.2.mill m).slot k).map Slot.cancelCount).getD 0, p.2.withdrawSlot m k)) (0, s)

/-- Withdraw of a mill (R308). -/
def State.withdrawMill (s : State) (c : CmdRef) (m : Nat) (force : Bool) (limit : Nat) : State :=
  let q := (Eng.all.map (fun e => ((s.mill m).eng e).queue.length)).foldl (· + ·) 0
  let s := Eng.all.foldl (fun s e => s.cancelQueue m e) s
  let (k, s) := s.withdrawStreams m
  let run : WithdrawRun :=
      { ref := c, sq := none, mill := some m, force := force, deadline := s.clock.now + usCycles limit,
         cancelled := q + k, aborted := 0, expired := false }
  { s with qs := { s.qs with withdraws := s.qs.withdraws ++ [run] } }

/-- Withdraw (Table 5 op 3). Another selector, or a limit outside 1 to 1,000 µs, completes MISMATCH. -/
def State.withdraw (s : State) (c : CmdRef) (e : List Byte) : State :=
  let sel := entryEntry e % 4
  let force := bitOf (entryEntry e) 2
  let limit := entryArg e 1
  if 1 < sel ∨ limit = 0 ∨ 1000 < limit then s.endCommand c .mismatch 0
  else if sel = 0 then
    if entryArg e 0 < 4096 then s.withdrawSq c (entryArg e 0) force limit else s.endCommand c .mismatch 0
  else
    match s.cannotTake (entryMill e) with
    | some (st, detail) => s.endCommand c st detail
    | none => s.withdrawMill c (entryMill e) force limit

/-- A group slot in states 2 to 5 names the plot. -/
def State.plotHeld (s : State) (p : Nat) : Bool := s.groups.any (fun g => g.2.state.held && g.2.plots.contains p)

/-- A group slot in states 2 to 5 names the mill. -/
def State.millHeld (s : State) (m : Nat) : Bool := s.groups.any (fun g => g.2.state.held && g.2.mills.contains m)

/-- The ring is held by a tilled group (R306). -/
def State.ringHeld (s : State) (q : Nat) : Bool := (s.queue q).tilled && s.anyHeld

/-- Migrate (Table 5 op 4, R220). -/
def State.migrate (s : State) (c : CmdRef) (sel target was : Nat) : State :=
  let next := (was + 1) % 256
  let answer := fun (cur : Nat) (held : Bool) (s' : State) =>
    if held || decide (cur ≠ was) then s.endCommand c .mismatch cur else s'.endCommand c .ok next
  match sel with
  | 0 =>
    (match s.cannotTake target with
     | some (.mismatch, _) => s.endCommand c .mismatch (s.mill target).held.toNat
     | some (st, detail) => s.endCommand c st detail
     | none =>
       answer (s.mill target).held.toNat (s.millHeld target)
         (s.modMill target (fun x => { x with held := BitVec.ofNat 8 next, accepted := BitVec.ofNat 8 next })))
  | 1 =>
    if 32 ≤ target then s.endCommand c .mismatch 0
    else
      answer (s.plot target).pepoch.toNat (s.plotHeld target)
        (s.modPlot target (fun x => { x with pepoch := BitVec.ofNat 8 next, accepted := BitVec.ofNat 8 next }))
  | 2 =>
    if target < 8192 ∨ 32768 ≤ target ∨ !(s.queue target).written then s.endCommand c .mismatch 0
    else
      answer (s.queue target).pepoch (s.ringHeld target)
        (s.modQueue target (fun x => { x with record := withBits x.record 80 8 next }))
  | _ => s.endCommand c .mismatch 0

/-- A stage code that Table 7 of chapter 08 gives (R274). -/
def stageOk (c : Nat) : Bool :=
  match field c 13 3 with
  | 0 => decide (c % 8192 = 0)
  | 1 => decide (field c 12 1 = 0) && decide (c % 2048 < 1152)
  | 2 => decide (field c 11 2 < 3) && decide (c % 2048 < 1152)
  | 3 => decide (field c 7 6 = 0) && decide (c % 64 < 48)
  | 4 => decide (field c 5 8 = 0)
  | _ => false

/-- A ring record as Table 6 and Table 7 of chapter 08 give it, with a base in space 0 or 1 aligned to the body (R274, R306). -/
def Queue.ringRecordOk (x : Queue) : Bool :=
  decide (4 ≤ x.lg ∧ x.lg ≤ 16) && decide (field x.base 44 4 ≤ 1) && streamAddrOk x.base &&
    decide (x.base % (16 * 2 ^ x.lg) = 0) && decide (x.bits 60 4 = 0) && decide (8192 ≤ x.pair ∧ x.pair < 32768) &&
    stageOk x.prod && stageOk x.cons && decide (x.bits 160 32 = 0) &&
    (x.post || decide (field x.cons 13 3 = 4) || decide (x.arg = 0))

/-- Enable a ring with a new record, both counts at 0 and its fault state clear (R313). -/
def State.setRing (s : State) (q : Nat) (r : BitVec 192) : State :=
  s.setQueue q { record := r, written := true, en := true }

/-- Ring setup (Table 5 op 5). -/
def State.ringSetup (s : State) (c : CmdRef) (ring : Nat) (rec : BitVec 192) : State :=
  let x : Queue := { record := rec }
  let empty := fun (q : Nat) => decide ((s.queue q).occ = 0) && decide (s.inFlight q = 0)
  if 8192 ≤ ring ∧ ring < 32768 ∧ x.ringRecordOk ∧ !x.tilled ∧ empty ring ∧ empty x.pair ∧ !s.ringHeld ring ∧
      !s.ringHeld x.pair then
    (s.setRing ring rec).endCommand c .ok 0
  else s.endCommand c .mismatch 0

/-- Stream resume (Table 5 op 6): as a committed write of MILL_STREAM_RESUME; a value that would not commit completes
MISMATCH. -/
def State.resumeCommand (s : State) (c : CmdRef) (m : Nat) (v : Word) : State :=
  match s.cannotTake m with
  | some (st, detail) => s.endCommand c st detail
  | none =>
    match s.streamResume m v with
    | some s => s.endCommand c .ok 0
    | none => s.endCommand c .mismatch 0

/-- A command entry is carried out (R306). -/
def State.serveCommand (s : State) (q : Nat) (idx : BitVec 17) (e : List Byte) : State :=
  let x := s.queue q
  let c := s.cmdRef q idx e
  if !x.priv && !x.reeve then s.endCommand c .denied 0
  else
    match entryOp e with
    | 2 =>
      (match s.cannotTake (entryMill e) with
       | some (.absent, detail) => s.endCommand c .absent detail
       | _ => s.fence c (entryMill e) (entryEntry e))
    | 3 => s.withdraw c e
    | 4 => s.migrate c (entryEntry e % 4) (entryArg e 0) (entryArg e 1 % 256)
    | 5 => s.ringSetup c (entryEntry e) (BitVec.ofNat 192 (leAt e 20 24))
    | _ => s.resumeCommand c (entryMill e) (BitVec.ofNat 32 (entryArg e 0))

/-- Serve the entry at the head of an SQ. The first part says whether it was taken. -/
def State.serve (s : State) (q : Nat) (e : List Byte) : Bool × State :=
  match s.checkCounts q with
  | (false, s) => (false, s)
  | (true, s) =>
    let idx := (s.queue q).head.v
    if !entryOk e then (true, (s.takeEntry q).completeMalformed q idx e)
    else if entryFence e && s.earlierOpen q then (false, s)
    else if entryOp e = 1 then s.serveRun q e
    else (true, (s.takeEntry q).serveCommand q idx e)

/-- The SQs of a die that hold entries to place, in the order the rotation takes them (R305). -/
def State.rotation (s : State) (d : Die) : List (Nat × List Byte) :=
  let heads := s.qs.queues.filterMap (fun x =>
    if x.1 < 4096 && x.1 % 2 == d.num && x.2.en && !x.2.fault then x.2.fetched.head?.map (fun e => (x.1, e)) else none)
  let p := s.qs.dsp d
  let same := if p.left = 0 then [] else heads.filter (fun h => decide (h.1 = p.lastSq))
  same ++ heads.filter (fun h => decide (p.lastSq < h.1)) ++ heads.filter (fun h => decide (h.1 ≤ p.lastSq))

/-- Serve the first entry of the rotation that can be served. -/
def State.serveFirst (s : State) : List (Nat × List Byte) → Option (Nat × List Byte) × State
  | [] => (none, s)
  | (q, e) :: t =>
    match s.serve q e with
    | (true, s) => (some (q, e), s)
    | (false, s) => s.serveFirst t

/-- The dispatcher of a die takes its next entry, in a CTRL cycle that R305 leaves it, where the entry is of the asked kind. -/
def State.dispatch (s : State) (d : Die) (ok : Nat → Bool) : State :=
  let t := s.advanceTo (ctrlStart (s.qs.dsp d).next)
  match t.serveFirst (t.rotation d) with
  | (none, s') => s'
  | (some (q, e), s') =>
    if !ok (entryOp e) then s
    else
      let p := s'.qs.dsp d
      let left := if decide (p.lastSq = q) && decide (0 < p.left) then p.left - 1 else max 1 (s'.queue q).weight - 1
      s'.setDsp d { p with lastSq := q, left := left, next := ctrlOf s'.clock.now + 2 }

/-- DISPATCH_PLACE (R302 to R305): a run entry, or one that is no command, leaves the head of its SQ. -/
def execDispatchPlace (d : Die) (s : State) : Res := .next (s.dispatch d (fun op => !isCommand op))

/-- PENDING_COMPLETION_POST (R299). -/
def execPendingCompletionPost (d : Die) (s : State) : Res := .next (s.postPendingFrom d [] (s.qs.pend d))

/-- FENCE (R306): the dispatcher's next entry is a fence command. -/
def execFence (d : Die) (s : State) : Res := .next (s.dispatch d (fun op => decide (op = 2)))

/-- FENCE_COMPLETE (R306): the first fence of an SQ whose work has ended. -/
def execFenceComplete (q : QueueIx) (s : State) : Res :=
  match s.qs.fences.find? (fun f => decide (f.ref.sq = q.toNat) && s.fenceMet f) with
  | none => .next s
  | some f => .next ({ s with qs := { s.qs with fences := s.qs.fences.erase f } }.endCommand f.ref .ok 0)

/-- WITHDRAW (R307, R308): the dispatcher's next entry is a withdraw command. -/
def execWithdraw (d : Die) (s : State) : Res := .next (s.dispatch d (fun op => decide (op = 3)))

/-- Force the started work of an SQ on a mill: the steward stops and ends its work item with ABORTED, the other engines stop as
R109 states, and streams end under R271. -/
def State.abortItem (s : State) (m q : Nat) : Nat × State :=
  match (s.mill m).st.running with
  | some i =>
    if i.ofSq q then
      let s := (s.modEng m .st (fun g => { g with stopped := some .aborted })).stopMill m .aborted
      (1, (List.range 8).foldl (fun s k => if ((s.mill m).slot k).any Slot.isStream then s.stopSlot m k else s) s)
    else (0, s)
  | none => (0, s)

/-- Force what remains on a mill: invocations that other work has queued since the command complete with CANCELLED, running ones and
streams end with ABORTED (R308). A sieve that runs stops at its next accepted point (R133). -/
def State.abortMill (s : State) (m : Nat) : Nat × Nat × State :=
  let x := s.mill m
  let n := (Eng.all.filter (fun e => (x.eng e).running.isSome)).length
  let late := (Eng.all.map (fun e => (x.eng e).queue.length)).foldl (· + ·) 0
  let s := Eng.all.foldl (fun s e => s.cancelQueue m e) s
  let s := if x.sv.running.isSome && x.sv.stopped.isNone then s.modMill m (fun x => x.askSieve s.clock.now .withdraw)
    else s.endRunning m .sv .aborted
  let s := [Eng.st, .mx, .ca, .cb].foldl (fun s e => s.endRunning m e .aborted) s
  (List.range 8).foldl (fun (p : Nat × Nat × State) k =>
    match (p.2.2.mill m).slot k with
    | none => p
    | some sl =>
      if !sl.isStream then p
      else if sl.wrote || sl.halted then (p.1, p.2.1 + 1, p.2.2.stopSlot m k)
      else (p.1 + sl.descs.length, p.2.1, p.2.2.stopSlot m k)) (late, n, s)

/-- WITHDRAW_LIMIT_EXPIRY (R307, R308): the limit of a withdraw that an SQ's command placed. -/
def execWithdrawLimitExpiry (q : QueueIx) (s : State) : Res :=
  match s.qs.withdraws.find? (fun w => decide (w.ref.sq = q.toNat) && !w.expired) with
  | none => .next s
  | some w =>
    let s := s.advanceTo w.deadline
    let (c, a, s) :=
      if !w.force then (0, 0, s)
      else
        match w.sq, w.mill with
        | some k, _ =>
          let (a, s) := (s.mills.map Prod.fst).foldl (fun (p : Nat × State) m =>
            let (j, s) := p.2.abortItem m k
            (p.1 + j, s)) (0, s)
          (0, a, s)
        | none, some m => s.abortMill m
        | none, none => (0, 0, s)
    let w' := { w with cancelled := w.cancelled + c, aborted := w.aborted + a, expired := true }
    .next { s with qs := { s.qs with withdraws := s.qs.withdraws.map (fun v => if v = w then w' else v) } }

/-- Everything that a withdraw covers has ended (R307, R308). -/
def State.withdrawMet (s : State) (w : WithdrawRun) : Bool :=
  match w.sq, w.mill with
  | some q, _ =>
    s.mills.all (fun m => !m.2.st.queue.any (fun i => i.ofSq q) && !m.2.st.running.any (fun i => i.ofSq q)) &&
      !s.qs.fences.any (fun f => decide (f.ref.sq = q))
  | none, some m =>
    ((s.mill m).stopped.isSome || Eng.all.all (fun e => ((s.mill m).eng e).idle)) && (s.mill m).streamsDone
  | none, none => true

/-- WITHDRAW_COMPLETE (R307, R308): the first withdraw that an SQ's command placed and that has nothing left. -/
def execWithdrawComplete (q : QueueIx) (s : State) : Res :=
  match s.qs.withdraws.find? (fun w => decide (w.ref.sq = q.toNat) && s.withdrawMet w) with
  | none => .next s
  | some w =>
    let s := { s with qs := { s.qs with withdraws := s.qs.withdraws.erase w } }
    let s := match w.sq with
      | some k => s.modQueue k (fun x => { x with wdr := false })
      | none => s
    .next (s.endCommand w.ref .ok (w.cancelled % 65536 + w.aborted % 65536 * 65536))

/-- MIGRATE (R306): the dispatcher's next entry is a migrate command. -/
def execMigrate (d : Die) (s : State) : Res := .next (s.dispatch d (fun op => decide (op = 4)))

/-- RING_SETUP (R306): the dispatcher's next entry is a ring setup command. -/
def execRingSetup (d : Die) (s : State) : Res := .next (s.dispatch d (fun op => decide (op = 5)))

/-- STREAM_RESUME_COMMAND (R306): the dispatcher's next entry is a stream resume command. -/
def execStreamResumeCommand (d : Die) (s : State) : Res := .next (s.dispatch d (fun op => decide (op = 6)))

/-! ## Queue control (R299, R311 to R313) -/

/-- The effect of a committed QS_QCTL: none where its commit condition fails (R311, R313). A faulted queue is enabled only with
clr (R286). -/
def State.qctl (s : State) (v : Word) : Option State :=
  let q := v.toNat % 2 ^ 15
  let x := s.queue q
  let ok := if q < 8192 then decide (4 ≤ x.lg ∧ x.lg ≤ 16) else x.written
  let en := v.getLsbD 31
  let clr := v.getLsbD 30
  if en && !ok then none
  else
    let x := if v.getLsbD 29 then { x with ovf := false } else x
    let x :=
      if en && clr then
        { x with en := true, disabling := false, fault := false, head := {}, tail := {}, fetched := [], waiting := none
                 alertSent := false }
      else if en then { x with en := x.en || !x.fault, disabling := false }
      else if x.en && !x.fetched.isEmpty then { x with disabling := true }
      else { x with en := false }
    some ((s.setQueue q x).cwHold 0x440000 (v &&& 0xE0007FFF))

/-- The offset of QS_QCTL. -/
def offQctl : Nat := 0x440000

/-- A committed QS_QCTL. -/
def State.qctlWrite (s : State) (w : Writer) (v : Nat) : State :=
  if s.mayHost w then s.commit w offQctl (s.qctl (BitVec.ofNat 32 v)) else s

/-- QUEUE_ENABLE (R311). -/
def execQueueEnable (w : Writer) (q : QueueIx) (clr : Bool) (s : State) : Res :=
  .next (s.qctlWrite w (2 ^ 31 + bn clr * 2 ^ 30 + q.toNat))

/-- QUEUE_DISABLE (R311). -/
def execQueueDisable (w : Writer) (q : QueueIx) (s : State) : Res := .next (s.qctlWrite w q.toNat)

/-- OVF_CLR (R299): a committed QS_QCTL with ovf_clr, and en as given. -/
def execOvfClr (w : Writer) (q : QueueIx) (en : Bool) (s : State) : Res :=
  .next (s.qctlWrite w (bn en * 2 ^ 31 + 2 ^ 29 + q.toNat))

/-- The bits of word `i` of the record of an SQ or CQ that hold a field; the reserved ones, and what a CQ's record has zero, are ignored
in a write and read zero (R15, R284). -/
def recordMask (q i : Nat) : Word :=
  match i with
  | 0 => 0xFFFFFFFF
  | 1 => 0x07FFFFFF
  | 2 => if q < 4096 then 0xFFFFFFFF else 0
  | _ => 0

/-- A write of word `i` of the record of queue `q` (R312). -/
def State.recordWrite (s : State) (q i : Nat) (v : Word) : State :=
  if (s.queue q).en then s.qsErr false 6 q
  else s.modQueue q (fun x => { x with record := withBits x.record (32 * i) 32 (v &&& recordMask q i).toNat, written := true })

/-- QUEUE_RECORD_WRITE (R312). -/
def execQueueRecordWrite (w : Writer) (q : BitVec 13) (i : BitVec 3) (v : Word) (s : State) : Res :=
  if s.mayHost w && decide (i.toNat < 6) then .next (s.recordWrite q.toNat i.toNat v) else .next s

end Sys2Proof.Machine
end

