-- ==== Sys2Proof/Machine/GranaryOps.lean ====
section
/-! DEFINITION. Granaries and their controllers (chapter 10): queues, windows, cadence, hash masks, training and repair. -/

namespace Sys2Proof.Machine

open Sys2Proof

/-! ## Requests (R325 to R329, R342) -/

/-- The offset of a GRN block. -/
def offGrn (site : Nat) : Nat := 0xC00000 + site * 0x10000

/-- The stack of the site is powered: training, ready or failed (R345). -/
def Granary.powered (g : Granary) : Bool := decide (g.state = 1) || decide (g.state = 2) || decide (g.state = 5)

/-- The queues of a pseudo-channel. -/
def Granary.pc (g : Granary) (p : Nat) : PcQueues := Table.get {} g.queues p

/-- Change the queues of a pseudo-channel. -/
def Granary.modPc (g : Granary) (p : Nat) (f : PcQueues → PcQueues) : Granary := { g with queues := Table.upd {} g.queues p f }

/-- The mask is all ones (R326). -/
def GrnReq.full (r : GrnReq) : Bool := decide (r.mask = BitVec.allOnes 64)

/-- The two requests are for one granule. -/
def GrnReq.same (a b : GrnReq) : Bool := decide (a.addr / 64 = b.addr / 64)

/-- The physical address of a stack offset (R321). -/
def physAddr (site off : Nat) : Nat := site * 2 ^ 36 + off

/-- The header that answers a request of source `src` and tag `tag`, from the column end of the request's channel (R241, R243, R319). -/
def State.answerHdr (s : State) (site : Nat) (r : GrnReq) (kind flits : Nat) : PktHdr :=
  let n := s.granaryNode site r.addr
  let (x, y) := s.nodeAt n
  { prio := s.answerPrio (nodeDie n) x y 5 (s.nodeGroup r.src), vc := false, flits := flits, kind := kind, dst := r.src, src := n,
    pepoch := 0, gmask := 0, addr := physAddr site r.addr, tag := r.tag, age := (s.millCycle s.clock.now).toNat % 65536 }

/-- Answer a request with a control message of kind 6 and its status (R342). -/
def State.grnControl (s : State) (site : Nat) (r : GrnReq) (st : Status) : State :=
  s.send { kind := .torusPacket, unit := r.src, addr := physAddr site r.addr,
           data := (s.answerHdr site r 6 0).bytes ++ toLe 1 st.code }

/-- A command that a controller issues to its stack: 0 read, 1 write, 2 precharge, 3 REFab. -/
def State.grnCommand (s : State) (site addr code : Nat) (data : List Byte) : State :=
  s.send { kind := .granaryCommand, unit := site, addr := addr, data := toLe 1 code ++ data }

/-- The mill of a request's source, where it is a mill. -/
def GrnReq.mill (r : GrnReq) : Option Nat := if r.tag % 8 ≤ 4 then some (nodeMill r.src) else none

/-- An uncorrectable event halts the running group of the mill that asked under cause 1 (R342). -/
def State.grnHalt (s : State) (r : GrnReq) : State :=
  match r.mill with
  | some m => s.raiseMill m 1
  | none => s

/-- GRANARY_REQUEST_ARRIVE (R322, R325, R328): a request enters its pseudo-channel's queue. A request whose queue is full waits
in the router and is no event. -/
def execGranaryRequestArrive (site : SiteIx) (addr : BitVec 36) (src : BitVec 16) (tag : Byte) (write : Bool)
    (mask : BitVec 64) (data : List Byte) (s : State) : Res :=
  let k := site.toNat
  let r : GrnReq := { addr := addr.toNat / 64 * 64, src := src.toNat, tag := tag.toNat, write := write, mask := mask,
                      data := padTo 64 data }
  if !s.siteOpen k then .next (s.grnControl k r .absent)
  else
    let g := s.granary k
    let p := g.pcOf addr.toNat
    let q := g.pc p
    if write then
      if 64 ≤ q.wr.length then .next s
      else .next (s.modGranary k (fun g => g.modPc p (fun q =>
        { q with wr := q.wr ++ [{ r with seq := q.next }], next := q.next + 1 })))
    else if 64 ≤ q.rd.length then .next s
    else
      match (q.wr.filter (fun w => w.same r)).getLast? with
      | some w =>
        if w.full then
          .next (s.modGranary k (fun g => { g with reads := g.reads ++ [{ pc := p, req := r, data := w.data, code := 0 }] }))
        else .next (s.modGranary k (fun g => g.modPc p (fun q => { q with rd := q.rd ++ [{ r with waits := some w.seq }] })))
      | none => .next (s.modGranary k (fun g => g.modPc p (fun q => { q with rd := q.rd ++ [r] })))

/-- A running group books the bank of an address in the tick that comes `n` after this one (R330). -/
def State.bankBookedIn (s : State) (site off n : Nat) : Bool :=
  s.groups.any (fun g => decide (g.2.state = .running) &&
    (match g.2.almanac with
     | none => false
     | some a => a.bookings.any (fun b =>
         match b.act with
         | .granary c =>
           decide (c.site.toNat = site) && decide (b.tick % g.2.span = (s.posOf g.2 + n) % g.2.span) &&
             decide ((s.granary site).pcOf c.addr.toNat = (s.granary site).pcOf off) &&
             decide ((s.granary site).bankOf c.addr.toNat = (s.granary site).bankOf off)
         | _ => false)))

/-- A running group books the bank of an address in this tick (R330). -/
def State.bankBooked (s : State) (site off : Nat) : Bool := s.bankBookedIn site off 0

/-- The pseudo-channel and bank of a stack offset as one number. -/
def Granary.bankKey (g : Granary) (off : Nat) : Nat := g.pcOf off * 64 + g.bankOf off

/-- A common command leaves its row open in its bank. -/
def State.openRow (s : State) (site off : Nat) : State :=
  s.modGranary site (fun g => { g with rows := Table.insert g.rows (g.bankKey off) (field off 22 14) })

/-- A bank in which common traffic left a row open is precharged for the booked commands of a tick, at the tick's cycle 0 (R330). -/
def State.closeRow (s : State) (site off : Nat) : State :=
  let k := (s.granary site).bankKey off
  if (s.granary site).rows.any (fun r => decide (r.1 = k)) then
    (s.send { kind := .granaryCommand, unit := site, addr := off, data := toLe 1 2, cycle := s.clock.now - s.clock.cyc }).modGranary site
      (fun g => { g with rows := Table.erase g.rows k })
  else s

/-- The acknowledgment of a write to its source, from the cycle in which it is issued or lands (R265, R320, R327). A booked write has no
source in the almanac's command. -/
def State.ackWrite (s : State) (src addr tag : Nat) : State :=
  if tag % 8 = 7 then s else s.send { kind := .writeAck, unit := src, addr := addr, data := toLe 1 tag, cycle := s.clock.now }

/-- Merge masked bytes into a granule (R326). -/
def mergeMask (mask : BitVec 64) (old new : List Byte) : List Byte :=
  (List.range 64).map (fun i => if mask.getLsbD i then new.getD i 0 else old.getD i 0)

/-- Issue a write: a full one as it is, a masked one as read, merge and write; it is acknowledged (R326, R327, R342). -/
def State.grnWrite (s : State) (site : Nat) (r : GrnReq) : State :=
  let a := physAddr site r.addr
  let c := stackCell a
  if r.full then ((s.grnCommand site r.addr 1 r.data).setBytes c r.data).ackWrite r.src a r.tag
  else if s.badIn c 64 then ((s.grnError a true).grnHalt r).grnControl site r .faultInteg
  else
    let b := mergeMask r.mask (s.bytes c 64) r.data
    ((((s.countSoft c 64).grnCommand site r.addr 0 []).grnCommand site r.addr 1 b).setBytes c b).ackWrite r.src a r.tag

/-- Issue a read: its granule, or the error that its check finds, and the cycle before which a booked one is not released. -/
def State.grnRead (s : State) (site p : Nat) (r : GrnReq) (due : Nat) : State :=
  let c := stackCell (physAddr site r.addr)
  let x : GrnRead := { pc := p, req := r, data := s.bytes c 64, code := if s.badIn c 64 then 4 else 0, due := due }
  ((s.countSoft c 64).grnCommand site r.addr 0 []).modGranary site (fun g => { g with reads := g.reads ++ [x] })

/-- GRANARY_COMMAND_ISSUE (R327, R328, R333): the controller of a pseudo-channel issues a request of its read or write queue.
Writes of one granule issue in their order, a read after the masked write it waits for, and none in a window or to a bank that a
running group books in the tick. -/
def execGranaryCommandIssue (site : SiteIx) (pc : BitVec 6) (write : Bool) (i : BitVec 6) (s : State) : Res :=
  let k := site.toNat
  let p := pc.toNat
  let g := s.granary k
  let q := g.pc p
  if !s.siteOpen k || g.window.isSome then .next s
  else
    match (if write then q.wr else q.rd)[i.toNat]? with
    | none => .next s
    | some r =>
      if s.bankBooked k r.addr then .next s
      else if write then
        if (q.wr.take i.toNat).any (fun w => w.same r) then .next s
        else
          .next (((s.modGranary k (fun g => g.modPc p (fun q => { q with wr := q.wr.eraseIdx i.toNat }))).openRow k r.addr).grnWrite k r)
      else if q.wr.any (fun w => decide (r.waits = some w.seq)) then .next s
      else
        .next (((s.modGranary k (fun g => g.modPc p (fun q => { q with rd := q.rd.eraseIdx i.toNat }))).openRow k r.addr).grnRead k p r 0)

/-- GRANARY_READ_RETURN (R331, R342): the first answered read of a pseudo-channel leaves, as data or as a control message, a booked one in
the cycle of its release. -/
def execGranaryReadReturn (site : SiteIx) (pc : BitVec 6) (s : State) : Res :=
  let k := site.toNat
  match (s.granary k).reads.find? (fun r => decide (r.pc = pc.toNat)) with
  | none => .next s
  | some r =>
    let s := (s.advanceTo r.due).modGranary k (fun g => { g with reads := g.reads.erase r })
    let a := physAddr k r.req.addr
    if r.code = 0 then
      .next (s.send { kind := .torusPacket, unit := r.req.src, addr := a, data := (s.answerHdr k r.req 2 1).bytes ++ padTo 128 r.data })
    else .next (((s.grnError a false).grnHalt r.req).grnControl k r.req .faultInteg)

/-- The running group that books a granary command. -/
def State.grnGroup (s : State) (c : GrnCmd) : Option Nat :=
  (s.groups.find? (fun g => decide (g.2.state = .running) &&
    (match g.2.almanac with
     | some a => a.bookings.any (fun b => decide (b.act = .granary c))
     | none => false))).map Prod.fst

/-- The first arithmetic cycle at or after the release of a booked read: 40 HBM_CMD cycles after its command, 16 of which make 13
arithmetic cycles (R316, R331). -/
def hbmRelease (now : Nat) : Nat := ((now * 16 / 13 + 40) * 13 + 15) / 16

/-- BOOKED_GRANARY_COMMAND (R330 to R332): the next booked command of a site is issued, past the queues; one whose request came
after its cycle waits for the end of a window, and raises a crossing fault under the granary crossing's xid, with its release and arrival
cycles. -/
def execBookedGranaryCommand (site : SiteIx) (late : Option (BitVec 16 × BitVec 13 × BitVec 13)) (s : State) : Res :=
  let k := site.toNat
  match (s.granary k).booked with
  | [] => .next s
  | c :: rest =>
    if !s.siteOpen k || (late.isSome && (s.granary k).window.isSome) then .next s
    else
      let gr := s.grnGroup c
      let s := s.modGranary k (fun g => { g with booked := rest })
      let r : GrnReq := { addr := c.addr.toNat / 64 * 64, src := 0, tag := 7, write := c.write, mask := BitVec.allOnes 64,
                          data := padTo 64 c.data }
      let s := s.closeRow k r.addr
      let s := if c.write then s.grnWrite k r else s.grnRead k ((s.granary k).pcOf r.addr) r (hbmRelease s.clock.now)
      match late with
      | some (xid, rel, arr) => .next (s.crossFault s.clock.tick xid.toNat 2 rel.toNat arr.toNat gr)
      | none => .next s

/-! ## Refresh windows and training slots (R333 to R335) -/

/-- The fitted sites whose stacks are powered. -/
def State.poweredSites (s : State) : List Nat :=
  (List.range 12).filter (fun k => s.hasGranary k && (s.granary k).powered)

/-- The cadence interval in ticks. -/
def Cadence.interval (c : Cadence) : Nat := if c.hot then 2 else 4

/-- Open a window of `n` cycles from cycle 0 of the tick on every powered site: precharge, REFab. -/
def State.openWindows (s : State) (n : Nat) (slot : Bool) : State :=
  s.poweredSites.foldl (fun s k =>
    ((s.grnCommand k 0 2 []).grnCommand k 0 3 []).modGranary k (fun g =>
      { g with window := some (s.clock.now + n - s.clock.cyc), slot := slot, rows := [] })) s

/-- REFRESH_WINDOW (R333): at cycle 0 of a tick on the cadence. -/
def execRefreshWindow (s : State) : Res :=
  if s.clock.cyc = 0 ∧ s.clock.tick.toNat % s.cadence.interval = 0 ∧ s.clock.tick.toNat % 1024 ≠ 0 then
    .next (s.openWindows 540 false)
  else .next s

/-- TRAINING_SLOT (R334): at cycle 0 of a tick that is a multiple of 2^10. -/
def execTrainingSlot (s : State) : Res :=
  if s.clock.cyc = 0 ∧ s.clock.tick.toNat % 1024 = 0 then .next (s.openWindows 2496 true) else .next s

/-- A slot ends: delay codes written in it take effect, and a run of an open site that goes on is stopped (R341). -/
def Granary.endSlot (g : Granary) : Granary :=
  { g with
    busy := g.busy && !g.opened, cut := g.cut || (g.busy && g.opened)
    delays := g.newDelays.foldl (fun t e => match e.2 with
      | some d => Table.put {} t e.1 d
      | none => t) g.delays
    newDelays := [] }

/-- REFRESH_WINDOW_END (R335): the window or slot of every site ends. -/
def execRefreshWindowEnd (s : State) : Res :=
  match s.granaries.findSome? (fun g => g.2.window) with
  | none => .next s
  | some t =>
    let s := s.advanceTo t
    .next ((s.granaries.map Prod.fst).foldl (fun s k => s.modGranary k (fun g =>
      if g.window.isSome then { (if g.slot then g.endSlot else g) with window := none, slot := false } else g)) s)

/-! ## Cadence (R336 to R338) -/

/-- TEMPERATURE_READING (R337): a stack's temperature in °C, at a tick that is a multiple of 256. -/
def execTemperatureReading (site : SiteIx) (temp : Byte) (s : State) : Res :=
  let k := site.toNat
  if !s.hasGranary k || !(s.granary k).powered || decide (s.clock.tick.toNat % 256 ≠ 0) then .next s
  else
    let above := decide (85 < temp.toNat)
    let s := s.modGranary k (fun g => { g with temp := temp, hot := g.hot || above })
    let s := if above then s.evBits s.clock.now (offGrn k + 0x008) [16] else s
    if !above || s.cadence.hot || decide (s.cadence.next = some true) then .next s
    else
      let s := { s with cadence := { s.cadence with
        tcf := true, next := some true, site := if s.cadence.tcf then s.cadence.site else site } }
      let s := s.evBits s.clock.now 0xCF0008 [7]
      let s := (s.report 9 k .group .faultSched 15 0 true).alert 8 (toLe 1 k ++ [temp])
      .next ((List.range 8).foldl (fun s g => s.raiseHalt g 9 k) s)

/-- CADENCE_CHANGE (R336): at an epoch boundary. -/
def execCadenceChange (s : State) : Res :=
  match s.cadence.next with
  | some b => if s.atEpoch then .next { s with cadence := { s.cadence with hot := b, next := none } } else .next s
  | none => .next s

/-- A group slot in states 2 to 4 holds an almanac of the cadence. -/
def State.almanacOf (s : State) (hot : Bool) : Bool :=
  s.groups.any (fun g => g.2.state.held && decide (g.2.state ≠ .halted) &&
    (g.2.almanac.map (fun a => a.hot)).getD (!hot) == hot)

/-- The effect of a committed GRN_CAD (R338). -/
def State.cadWrite (s : State) (v : Word) : State :=
  let hot := v.getLsbD 0
  let cool := (List.range 12).all (fun k => !s.hasGranary k || decide ((s.granary k).temp.toNat ≤ 80))
  if !s.almanacOf (!hot) && (hot || cool) then
    { s with cadence := { s.cadence with next := if hot = s.cadence.hot then none else some hot } }
  else { s with cadence := { s.cadence with refused := true } }.evBits s.clock.now 0xCF0008 [8]

/-- GRN_CAD_WRITE (R338). -/
def execGrnCadWrite (w : Writer) (hot : Bool) (s : State) : Res :=
  if s.mayHost w then .next (s.cadWrite (BitVec.ofNat 32 (bn hot))) else .next s

/-! ## GRN_CTL and the masks (R324, R344, R346) -/

/-- The effect of a committed GRN_CTL: open is set on a ready site only, and discards staged halves (R344, R346). -/
def State.grnCtl (s : State) (site : Nat) (v : Word) : Option State :=
  if v.getLsbD 0 then
    if (s.granary site).state = 2 then
      some (s.modGranary site (fun g => { g with opened := true, stageL := [], stageH := [] }))
    else none
  else some (s.modGranary site (fun g => { g with opened := false }))

/-- GRN_OPEN (R344). -/
def execGrnOpen (w : Writer) (site : SiteIx) (s : State) : Res :=
  if s.mayHost w && s.hasGranary site.toNat then .next (s.commit w (offGrn site.toNat) (s.grnCtl site.toNat 1)) else .next s

/-- The mask holds its own home bit, no other home bit and no bit of [5:0] (R324). -/
def maskOk (h mask : Nat) : Bool :=
  decide (mask % 64 = 0) && (List.range 12).all (fun i => bitOf mask (homeBit i) == decide (i = h))

/-- A committed half of GRN_HASHh: staged, or checked with the other half and both in force (R346). -/
def State.hashWrite (s : State) (site h : Nat) (high : Bool) (v : Word) : Option State :=
  let g := s.granary site
  let v := if high then v &&& 0xFF else v
  if g.opened ∨ 12 ≤ h then none
  else
    let other := if high then g.stageL.find? (fun e => decide (e.1 = h)) else g.stageH.find? (fun e => decide (e.1 = h))
    match other with
    | none =>
      some (s.modGranary site (fun g =>
        if high then { g with stageH := Table.insert g.stageH h v } else { g with stageL := Table.insert g.stageL h v }))
    | some (_, o) =>
      let mask := if high then v.toNat * 2 ^ 32 + o.toNat else o.toNat * 2 ^ 32 + v.toNat
      if maskOk h mask then
        some (s.modGranary site (fun g =>
          { g with hash := if BitVec.ofNat 40 mask = defaultMask h then Table.erase g.hash h
                           else Table.insert g.hash h (BitVec.ofNat 40 mask)
                   stageL := Table.erase g.stageL h, stageH := Table.erase g.stageH h }))
      else none

/-- Both staged halves of a mask are discarded when their check fails (R346). -/
def State.dropStaged (s : State) (site h : Nat) : State :=
  s.modGranary site (fun g => { g with stageL := Table.erase g.stageL h, stageH := Table.erase g.stageH h })

/-- The offset of a half of GRN_HASHh. -/
def offHash (site h : Nat) (high : Bool) : Nat := offGrn site + 0x100 + 0x10 * h + (if high then 8 else 0)

/-- A committed write of a half, with the complement failure of kind 5 where it fails (R346). -/
def State.hashCommit (s : State) (w : Writer) (site h : Nat) (high : Bool) (v : Word) : State :=
  match s.hashWrite site h high v with
  | some s => s
  | none =>
    (if (s.granary site).opened then s else s.dropStaged site h).cwFail w (offHash site h high) 5

/-- GRN_HASH_WRITE (R346). -/
def execGrnHashWrite (w : Writer) (site : SiteIx) (h : BitVec 4) (high : Bool) (v : Word) (s : State) : Res :=
  if s.mayHost w && s.hasGranary site.toNat && decide (h.toNat < 12) then
    .next (s.hashCommit w site.toNat h.toNat high v)
  else .next s

/-! ## Training and repair (R339 to R343, R348, R349) -/

/-- TRAINING_RUN_START (R341): on an open site only in a slot, with at most 2^10 bursts; a site that was not yet in training
now is (R345). -/
def execTrainingRunStart (site : SiteIx) (lg : BitVec 5) (pattern : BitVec 2) (dir pc : Bool) (ch : BitVec 5) (s : State) :
    Res :=
  let k := site.toNat
  let g := s.granary k
  if !s.hasGranary k || g.busy || decide (3 ≤ g.state ∧ g.state ≤ 4) || decide (16 < lg.toNat) ||
      (g.opened && !(g.slot && decide (lg.toNat ≤ 10))) then .next s
  else
    .next (s.modGranary k (fun g =>
      { g with
        state := if g.state = 0 then 1 else g.state
        trn := { lg := lg.toNat, pattern := pattern.toNat, dir := dir, pc := bn pc, ch := ch.toNat }
        busy := true, done := false, cut := false, errs := [] }))

/-- TRAINING_RUN_DONE (R341): the run ends with the error count of each of the 34 lanes; of a run that was cut these are the counts up to
its stop. -/
def execTrainingRunDone (site : SiteIx) (errs : List (BitVec 16)) (s : State) : Res :=
  let k := site.toNat
  let g := s.granary k
  if !g.busy && !(g.cut && g.errs.isEmpty) then .next s
  else
    let cut := !g.busy || (g.opened && !g.slot)
    .next (s.modGranary k (fun g =>
      { g with busy := false, done := !cut, cut := cut
               errs := ((List.range 34).zip errs).foldl (fun t e => Table.put 0 t e.1 e.2) [] }))

/-- The distance of two delay codes. -/
def codeDist (a b : BitVec 7) : Nat := max a.toNat b.toNat - min a.toNat b.toNat

/-- TRAINING_DELAY_WRITE (R341): the delay codes of a lane of the selected channel and pseudo-channel. On an open site they are
taken in a slot only, and only when no code moves by more than 2 steps. -/
def execTrainingDelayWrite (site : SiteIx) (lane : BitVec 6) (wr rd : BitVec 7) (s : State) : Res :=
  let k := site.toNat
  let g := s.granary k
  if !s.hasGranary k || decide (34 ≤ lane.toNat) then .next s
  else
    let key := (g.trn.ch * 2 + g.trn.pc) * 34 + lane.toNat
    let old := Table.get {} g.delays key
    let d : Delay2 := { wr := wr, rd := rd }
    if !g.opened then .next (s.modGranary k (fun g => { g with delays := Table.put {} g.delays key d }))
    else if g.slot && decide (codeDist old.wr wr ≤ 2) && decide (codeDist old.rd rd ≤ 2) then
      .next (s.modGranary k (fun g => { g with newDelays := Table.put none g.newDelays key (some d) }))
    else .next s

/-- GRANARY_TRAINING_COMPLETE (R340): full training ends; the latencies go to the stack's mode registers. -/
def execGranaryTrainingComplete (site : SiteIx) (passed : Bool) (latencies : List (BitVec 16)) (s : State) : Res :=
  let k := site.toNat
  let g := s.granary k
  if !s.hasGranary k || g.opened || decide (1 < g.state) then .next s
  else .next (s.modGranary k (fun g => { g with state := if passed then 2 else 5, modes := latencies }))

/-- SOFT_ROW_REPAIR (R343): within an idle window at an epoch boundary, of a row whose bank no running group books. The bytes
stay as they are. -/
def execSoftRowRepair (site : SiteIx) (addr : BitVec 36) (s : State) : Res :=
  let k := site.toNat
  if s.hasGranary k && (s.granary k).powered && decide (s.clock.tick.toNat % 65536 < 4) &&
      (List.range 4).all (fun n => !s.bankBookedIn k addr.toNat n) then
    .next (s.modGranary k (fun g =>
      { g with repairs := g.repairs ++ [(g.bankKey addr.toNat, field addr.toNat 22 14)] }))
  else .next s

end Sys2Proof.Machine
end

