-- ==== Sys2Proof/Machine/LedgerOps.lean ====
section
/-! DEFINITION. Updates of the page ledger (chapter 11). -/

namespace Sys2Proof.Machine

open Sys2Proof

/-- The entry as it stands for an update: a copy that passes its checks, or, where both fail, an entry that is not present, not
pinned and not sealed, with tilled-use from the page lists (R356, R358). -/
def State.oldEntry (s : State) (page : Nat) : LedgerEntry × State :=
  let (a, s) := s.ledgerRead .w (page * 2 ^ 21)
  let (b, s) := s.ledgerRead .e (page * 2 ^ 21)
  match a.or b with
  | some e => (e, s)
  | none =>
    let g := (List.range 8).foldl (fun n i =>
      if (Table.get [] s.ledger.pages i).contains page then n + 2 ^ (8 + i) else n) 0
    ({ ctl := BitVec.ofNat 32 (g + (if g = 0 then 0 else 16)) }, s)

/-- The tilled-use bit. -/
def LedgerEntry.tilledUse (e : LedgerEntry) : Bool := e.ctl.getLsbD 4

/-- An entry of a ctl and frame. -/
def mkEntry (ctl frame : Word) : LedgerEntry := { ctl := ctl, ctlN := ~~~ ctl, frame := frame }

/-- The entry an update makes: ctl bits [6:0] but tilled-use from the update, gmask and tilled-use as they stand (R356). -/
def updated (old : LedgerEntry) (ctl frame : Word) : LedgerEntry :=
  mkEntry ((ctl &&& 0x6F) ||| (old.ctl &&& 0xFF10)) frame

/-- The site of a granary frame. -/
def frameSite (frame : Word) : Nat := frame.toNat / 2 ^ 15

/-- The frame's seal bit is set and no entry names it (R539): no other entry in either copy, and the old entry of this page neither. -/
def Ledger.orphan (l : Ledger) (page : Nat) (old : LedgerEntry) (f : Nat) : Bool :=
  let names := fun (e : Nat × LedgerEntry) => decide (e.1 ≠ page) && decide (e.2.target = 1) && decide (e.2.frame.toNat = f)
  decide (Table.get 0 l.seals f ≠ 0) && !l.copyW.any names && !l.copyE.any names &&
    !(decide (old.target = 1) && decide (old.frame.toNat = f))

/-- The refusals of 11 Table 2, in their order (R356). -/
def State.refusal (s : State) (page : Nat) (old : LedgerEntry) (ctl frame : Word) : Option Status :=
  let e := updated old ctl frame
  let c := (ctl ^^^ old.ctl) &&& 0x6F
  if ctl &&& 0xFFFF0080 ≠ 0 ∨ e.target = 3 ∨ (e.present ∧ e.target = 0) ∨ (e.sealed ∧ e.target = 2) ∨
      (e.target = 1 ∧ 16 ≤ frameSite frame) ∨ frame.getLsbD 31 then some .mismatch
  else if e.target = 1 ∧ !s.hasGranary (frameSite frame) then some .absent
  else if old.tilledUse ∧ (c ≠ 0 ∨ frame ≠ old.frame) then some .denied
  else if old.pinned ∧ old.present ∧ !e.present ∧ e.pinned then some .denied
  else if old.sealed ∧ old.present ∧ (e.target ≠ old.target ∨ frame ≠ old.frame ∨ (!e.sealed ∧ e.present)) then some .denied
  else if e.target = 1 ∧ s.ledger.seals.any (fun x => decide (x.1 = frame.toNat) && decide (x.2 ≠ page + 1)) ∧
      !s.ledger.orphan page old frame.toNat then some .denied
  else none

/-- The frame marked for an entry that held it sealed and that the new entry no longer holds with sealed set (R357). -/
def Ledger.released (l : Ledger) (page : Nat) (old e : LedgerEntry) : List Nat :=
  let f := old.frame.toNat
  if old.sealed ∧ old.target = 1 ∧ Table.get 0 l.seals f = page + 1 ∧ !(e.sealed && decide (e.target = 1) && decide (e.frame.toNat = f))
  then [f] else []

/-- The orphaned frame that a present entry maps without sealed: it is zeroed (R539). -/
def Ledger.exposed (l : Ledger) (page : Nat) (old e : LedgerEntry) : List Nat :=
  let f := e.frame.toNat
  if e.present ∧ e.target = 1 ∧ !e.sealed ∧ l.orphan page old f then [f] else []

/-- Zero a range of a store, and clear the error marks of its words. -/
def State.zeroRange (s : State) (a n : Nat) : State :=
  let out := fun (c : Nat) => decide (c < a) || decide (a + n ≤ c)
  { s with mem := s.mem.filter (fun c => out c.1), bad := s.bad.filter (fun c => out c.1),
           soft := s.soft.filter (fun c => out c.1) }

/-- Write both copies of an entry, mark a sealed frame, zero a released one, and send the invalidations (R357, R360). -/
def State.writeEntry (s : State) (page : Nat) (e : LedgerEntry) (zero : List Nat) : State :=
  let l := (((s.ledger.setCopy .w page e).setCopy .e page e).invalidate page)
  let l := if e.sealed && e.present && decide (e.target = 1) then { l with seals := Table.insert l.seals e.frame.toNat (page + 1) }
    else l
  zero.foldl (fun s f => s.zeroRange (stackCell (f * 2 ^ 21)) (2 ^ 21)) { s with ledger := l }

/-- Apply an update: its refusal, or the pending update that it makes. -/
def State.applyUpdate (s : State) (page : Nat) (ctl frame : Word) (term : Option Word) : Except Status LedgerUpdate × State :=
  let (old, s) := s.oldEntry page
  match s.refusal page old ctl frame with
  | some st => (.error st, s)
  | none =>
    let e := updated old ctl frame
    let zero := s.ledger.released page old e ++ s.ledger.exposed page old e
    (.ok { page := page, old := old, fresh := e, zero := zero, term := term }, s.writeEntry page e zero)

/-- What a completed or refused update leaves in PGL_USTAT; a reeve's outcome is posted at junction 1 (R360, R366). -/
def State.updateStatus (s : State) (reeve : Bool) (page : Nat) (st : Status) : State :=
  let s := { s with ledger := { s.ledger with usrc := reeve, ustatus := st.code, upage := page } }
  if reeve then s.send { kind := .ringMessage, unit := 8, addr := page, data := toLe 1 st.code } else s

/-- The host commits PGL_UPD2: none while its update is outstanding (R355). -/
def State.hostUpdate (s : State) (page : Nat) : Option State :=
  if s.ledger.host.isSome then none
  else
    let s := { s with ledger := { s.ledger with upd2 := BitVec.ofNat 32 page, usrc := false, upage := page } }
    match s.applyUpdate page s.ledger.upd0 s.ledger.upd1 none with
    | (.error st, s) => some (s.updateStatus false page st)
    | (.ok u, s) => some { s with ledger := { s.ledger with host := some u } }

/-- A reeve's update: DENIED under a term other than the one latched (R355, R503). -/
def State.reeveUpdate (s : State) (page : Nat) (term ctl frame : Word) : State :=
  if s.ledger.reeve.isSome then s
  else if term ≠ s.bw.term then
    ((s.tallyW .termStale).updateStatus true page .denied)
  else
    match s.applyUpdate page ctl frame (some term) with
    | (.error st, s) => s.updateStatus true page st
    | (.ok u, s) => { s with ledger := { s.ledger with reeve := some u, usrc := true, upage := page } }

/-- The offset of PGL_UPD2. -/
def offPglUpd2 : Nat := 0x800008

/-- LEDGER_UPDATE (R355 to R357, R360). -/
def execLedgerUpdate (path : LedgerPath) (page : BitVec 19) (s : State) : Res :=
  match path with
  | .host w => if s.mayHost w then .next (s.commit w offPglUpd2 (s.hostUpdate page.toNat)) else .next s
  | .reeve term ctl frame => .next (s.reeveUpdate page.toNat term ctl frame)

/-- An access translated under the old entry has not finished: a read of host memory without its data, or a request in a
controller's queues (R360 step 4). -/
def State.oldAccess (s : State) (u : LedgerUpdate) : Bool :=
  let lo := u.old.frame.toNat * 2 ^ 21
  let inFrame := fun (a n : Nat) => decide (lo < a + n) && decide (a < lo + 2 ^ 21)
  if !u.old.present then false
  else if u.old.target = 2 then s.hp.devReads.any (fun r => r.data.isNone && inFrame r.addr r.len)
  else if u.old.target = 1 then
    s.granaries.any (fun g =>
      g.2.queues.any (fun q => (q.2.rd ++ q.2.wr).any (fun r => inFrame (physAddr g.1 r.addr) 64)) ||
      g.2.reads.any (fun r => inFrame (physAddr g.1 r.req.addr) 64))
  else false

/-- The update completes: a zeroed frame's bit clears, and its status is reported (R357, R360). -/
def State.finishUpdate (s : State) (reeve : Bool) (u : LedgerUpdate) : State :=
  let l := { s.ledger with seals := u.zero.foldl Table.erase s.ledger.seals }
  let l := if reeve then { l with reeve := none } else { l with host := none }
  { s with ledger := l }.updateStatus reeve u.page .ok

end Sys2Proof.Machine
end

