-- ==== Sys2Proof/Machine/FabricOps.lean ====
section
/-! DEFINITION. Plots, fabric taps, block memories and probes (chapter 12). -/

namespace Sys2Proof.Machine

open Sys2Proof

/-! ## Plot states (R385 to R390) -/

/-- A cart held by a tap stage ends when its plot leaves Live (R387). -/
def State.endTapCart (s : State) (p : Nat) (c : TapCart) : State :=
  let back := (s.queue c.ring).pair
  let ep := some (s.plot p).pepoch.toNat
  if c.reading then s.putFar back (reCart c.cart (cartFill c.cart) (cartGen c.cart) 2) ep
  else if c.wrote = 0 then s.putFar c.ring (reCart c.cart 0 (cartGen c.cart) 1) ep
  else s.putFar back (reCart c.cart c.wrote (cartGen c.cart) (2 + 32)) ep

/-- A stream of user logic ends, reporting the bytes written (R387). -/
def State.endTapStream (s : State) (p : Nat) (st : Status) (t : TapStream) : State :=
  s.send { kind := .userPacket, unit := p, addr := t.tag, data := toLe 1 st.code ++ toLe 4 t.bytes }

/-- The tap stages of a plot that leaves Live end (R387). -/
def State.endTapStages (s : State) (p : Nat) : State :=
  let x := s.plot p
  let s := x.carts.foldl (fun s c => s.endTapCart p c) s
  let s := x.streams.foldl (fun s t => s.endTapStream p .aborted t) s
  s.modPlot p (fun x => { x with carts := [], streams := [] })

/-- The hedges from a plot into the others hold what it drives last (R391). -/
def State.holdHedges (s : State) (p : Nat) : State :=
  let out := (s.plot p).nets
  (List.range 32).foldl (fun s q =>
    (((s.plot q).image.hedges.filter (fun h => decide (h.2.plot = p))).foldl (fun s h =>
      s.modPlot q (fun x => { x with hold := Table.put 0 x.hold h.1 (Table.get 0 out h.2.net) })) s)) s

/-- The plot leaves Live for a state: its hedges close, its write enables turn off and its clock stops (R386). -/
def State.closePlot (s : State) (p : Nat) (st : PlotState) : State :=
  ((s.endTapStages p).holdHedges p).modPlot p (fun x =>
    { x with state := st, closing := none, writesOn := false, resetsOn := true, stage := 0 })

/-- A request that the plot leave Live (R386, R390): it takes effect at the first tick that begins after its commit, or after a
release in progress. A plot that is not live and not releasing enters the state at once. -/
def State.askClose (s : State) (p : Nat) (st : PlotState) : State :=
  s.modPlot p (fun x =>
    match x.state with
    | .live | .idle | .releasing => { x with closing := some st, asked := s.clock.tick }
    | _ => { x with state := st })

/-- PLOT_CLOSE (R386). -/
def execPlotClose (p : PlotIx) (s : State) : Res :=
  let x := s.plot p.toNat
  match x.closing with
  | none => .next s
  | some st =>
    if (x.state = .live ∨ x.state = .idle) ∧ x.asked < s.clock.tick ∧ s.clock.cyc = 0 then .next (s.closePlot p.toNat st)
    else .next s

/-- PLOT_RELEASE (R389): the hedges open at cycle 0 of the first tick after the release commits. -/
def execPlotRelease (p : PlotIx) (s : State) : Res :=
  let k := p.toNat
  let x := s.plot k
  match x.releaseAt with
  | none => .next s
  | some t =>
    if x.state = .configured ∧ t < s.clock.tick ∧ s.clock.cyc = 0 ∧ s.fabN (plotDie k) ≠ 0 then
      .next (s.modPlot k (fun x =>
        { x.initRegs with state := .releasing, releaseAt := none, stage := 0, stageAt := s.clock.now, writesOn := false
                          resetsOn := true }))
    else .next s

/-- PLOT_RELEASE_STAGE (R389): writes turn on 16 fabric cycles after the opening, user resets release and the plot is live
after 32. -/
def execPlotReleaseStage (p : PlotIx) (s : State) : Res :=
  let k := p.toNat
  let x := s.plot k
  if x.state ≠ .releasing ∨ s.fabN (plotDie k) = 0 then .next s
  else if x.stage = 0 then
    .next ((s.advanceTo (x.stageAt + s.fabCycles (plotDie k) 16)).modPlot k (fun x => { x with stage := 1, writesOn := true }))
  else
    .next ((s.advanceTo (x.stageAt + s.fabCycles (plotDie k) 32)).modPlot k (fun x =>
      { x with stage := 2, resetsOn := false, state := .live, asked := s.clock.tick }))

/-! ## Taps (R370, R382 to R384) -/

/-- Router column and row of a tap (R370). -/
def State.tapXY (s : State) (t : Nat) : Nat × Nat := if t < 24 then (t, 0) else (t - 24, s.rows - 1)

/-- The node field of a tap. -/
def State.tapNode (s : State) (d : Die) (t : Nat) : Nat :=
  let (x, y) := s.tapXY t
  x + 32 * y + 1024 * d.num + 2048 * 5

/-- A block-memory access that a packet makes (R377 to R381, R383). -/
def State.tapBram (s : State) (k : Nat) (p : PktHdr) (data : List Byte) : State :=
  let x := s.plot k
  let b := field p.addr 16 8
  let a := p.addr % 2 ^ 13
  let n := 128 * max 1 p.flits
  let len := if p.kind = 0 then data.length else n
  if 192 ≤ b ∨ 4608 < a + len ∨ (Table.get {} x.brams b).portBUser then
    (s.controlMessage p .mismatch).failOwner p .mismatch
  else
    let c := bramCell k b a
    if p.kind = 0 then
      match epochCheck x.accepted.toNat p.pepoch with
      | some .superseded => (s.tally_ .superseded (plotDie k) 0 1).failOwner p .superseded
      | some st =>
        if x.tilled && decide ((s.group x.gslot.toNat).state = .running) then s.raiseHalt x.gslot.toNat 10 k
        else s.failOwner p st
      | none =>
        if s.narrowBad c data.length then ((s.badRead c).controlMessage p .faultInteg).failOwner p .faultInteg
        else s.writeGranules c p.gmask data 8
    else if s.badIn c n then (s.badRead c).controlMessage p .faultInteg
    else
      (s.countSoft c n).send { kind := .torusPacket, unit := p.src, addr := p.addr, data := (s.responseHdr p).bytes ++ s.bytes c n }

/-- TAP_PACKET_ARRIVE (R382, R384, R393): a packet of a tap is answered ABSENT unless the plot is live or idle; a space-3 access is
served in hard logic while the external ports serve, and another packet goes to user logic. -/
def execTapPacketArrive (d : Die) (t : BitVec 6) (space3 : Bool) (hdr data : List Byte) (s : State) : Res :=
  let p := pktHdr hdr
  let k := tapPlot d t.toNat
  if 48 ≤ t.toNat ∨ !s.hdrOk hdr ∨ nodeEnd p.dst ≠ 5 then .next s
  else if !(if space3 && decide (p.kind ≤ 1) then (s.plot k).serves else (s.plot k).answers) then
    .next (((s.tally_ .tapAbsent d k 1).controlMessage p .absent).failOwner p .absent)
  else if space3 && decide (p.kind ≤ 1) then .next (s.tapBram k p data)
  else .next (s.send { kind := .userPacket, unit := k, addr := p.addr, data := hdr.take 16 ++ data })

/-- What user logic is told of an access it made: a status and, for a read, data. -/
def State.tellUser (s : State) (p addr : Nat) (st : Status) (data : List Byte) : State :=
  s.send { kind := .userPacket, unit := p, addr := addr, data := toLe 1 st.code ++ data }

/-- A read by device virtual address, cut at a page (R359, R363). -/
def State.tapRead (s : State) (d : Die) (va n : Nat) : Except Status (Option (List Byte)) × State :=
  let k := min n (pageRoom va)
  match s.streamRead (.tap d) va k with
  | (.ok (some b), s) =>
    if n ≤ k then (.ok (some b), s)
    else
      (match s.streamRead (.tap d) (va + k) (n - k) with
       | (.ok (some c), s) => (.ok (some (b ++ c)), s)
       | r => r)
  | r => r

/-- A write by device virtual address, cut at a page. -/
def State.tapWrite (s : State) (d : Die) (va : Nat) (b : List Byte) : Option Status × State :=
  let k := min b.length (pageRoom va)
  match s.streamWrite (.tap d) va (b.take k) with
  | (some .ok, s) => if b.length ≤ k then (some .ok, s) else s.streamWrite (.tap d) (va + k) (b.drop k)
  | r => r

/-- TAP_VIRTUAL_ACCESS (R382, R359, R363): user logic of a live plot reads `len` bytes, or writes `data`. A page that is not
present or not writable answers FAULT_PAGE; an access that waits for an update is tried again. -/
def execTapVirtualAccess (p : PlotIx) (va : BitVec 40) (len : BitVec 12) (data : Option (List Byte)) (s : State) : Res :=
  let k := p.toNat
  let d := plotDie k
  if (s.plot k).state ≠ .live then .next s
  else
    match data with
    | some b =>
      (match s.tapWrite d va.toNat b with
       | (some st, s) => .next (s.tellUser k va.toNat st [])
       | (none, s) => .next s)
    | none =>
      (match s.tapRead d va.toNat len.toNat with
       | (.ok (some b), s) => .next (s.tellUser k va.toNat .ok b)
       | (.ok none, s) => .next s
       | (.error st, s) => .next (s.tellUser k va.toNat st []))

/-- A packet's destination is a mill that is absent or out of service (R239). -/
def State.deadMill (s : State) (p : PktHdr) : Bool :=
  (decide (nodeEnd p.dst ≤ 1) || decide (nodeEnd p.dst = 6)) && !s.millLive (nodeMill p.dst)

/-- TAP_USER_PACKET_SEND (R239, R242, R243, R382, R383): a tap checks and stamps a packet of its live plot's user logic. -/
def execTapUserPacketSend (d : Die) (t : BitVec 6) (hdr data : List Byte) (s : State) : Res :=
  let k := tapPlot d t.toNat
  let x := s.plot k
  if 48 ≤ t.toNat ∨ x.state ≠ .live then .next s
  else
    let (rx, ry) := s.tapXY t.toNat
    let p := pktHdr hdr
    if !s.hdrOk hdr then .next (s.torError d rx ry 7 3 (s.tapNode d t.toNat) p.dst false)
    else if s.deadMill p then .next (s.tellUser k p.addr .absent [])
    else
      let booked := match s.p3Into d rx ry 7 with
        | some g => x.tilled && decide (x.gslot.toNat = g) && decide ((s.group g).state = .running)
        | none => false
      let prio := if p.prio = 3 && !booked then 1 else p.prio
      let h : PktHdr := { p with
        src := s.tapNode d t.toNat, vc := false, prio := prio, age := (s.millCycle s.clock.now).toNat % 65536
        pepoch := if p.kind = 1 ∨ p.kind = 2 ∨ p.kind = 6 then 0 else x.pepoch.toNat }
      .next (s.send { kind := .torusPacket, unit := h.src, addr := h.addr, data := h.bytes ++ data })

/-! ## Taps as cart stages (R274, R275, R382, R387) -/

/-- A stage code names a tap of the plot. -/
def stageTap (code p : Nat) : Bool :=
  decide (field code 13 3 = 3) && decide (bitOf code 6 = decide (16 ≤ p)) && decide (field code 0 6 / 3 = p % 16)

/-- The status that a ring state gives the stage that meets it (R275). -/
def RingRes.status : RingRes → Status
  | .ok => .ok
  | .wait => .ok
  | .mismatch => .mismatch
  | .integ => .faultInteg

/-- Take a cart from a ring that the tap consumes. -/
def State.tapTake (s : State) (p q : Nat) (reading : Bool) : State :=
  if !stageTap (s.queue q).cons p then s
  else
    match s.canTake q with
    | .wait => s
    | .ok =>
      (match s.takeCart q with
       | (none, s) => s.tellUser p q .faultInteg []
       | (some c, s) =>
         if cartOk c then
           let t : TapCart := { ring := q, cart := c, wrote := 0, reading := reading }
           (s.modPlot p (fun x => { x with carts := x.carts ++ [t] })).tellUser p q .ok c
         else ((s.tally_ .cartCheck (plotDie p) 0 1).reportRing q).tellUser p q .faultInteg [])
    | r => s.tellUser p q r.status []

/-- Put the held cart back: one that was filled goes on the forward ring with its fill, one that was read on its return ring
with fill 0. -/
def State.tapPut (s : State) (p i : Nat) : State :=
  match (s.plot p).carts[i]? with
  | none => s
  | some c =>
    let to_ := (s.queue c.ring).pair
    match s.canPut to_ with
    | .wait => s
    | r =>
      let s := s.modPlot p (fun x => { x with carts := x.carts.eraseIdx i })
      if r = .ok then
        s.putFar to_ (reCart c.cart (if c.reading then 0 else c.wrote) (cartGen c.cart) 0) (some (s.plot p).pepoch.toNat)
      else (s.reportRing to_).tellUser p to_ r.status []

/-- What user logic does with its cart stages and streams (R382, R387). -/
def State.tapStage (s : State) (p : Nat) (op : TapOp) : State :=
  let d := plotDie p
  match op with
  | .take ring reading => s.tapTake p ring.toNat reading
  | .put i => s.tapPut p i
  | .write i off data =>
    (match (s.plot p).carts[i]? with
     | none => s
     | some c =>
       if c.reading ∨ cartLen c.cart < off.toNat + data.length then s.tellUser p c.ring .mismatch []
       else
         match s.streamWrite (.tap d) (cartAddr c.cart + off.toNat) data with
         | (some .ok, s) =>
           s.modPlot p (fun x =>
             { x with carts := x.carts.set i { c with wrote := max c.wrote (off.toNat + data.length) } })
         | (some st, s) => s.tellUser p c.ring st []
         | (none, s) => s)
  | .read i off len =>
    (match (s.plot p).carts[i]? with
     | none => s
     | some c =>
       if !c.reading ∨ cartFill c.cart < off.toNat + len.toNat then s.tellUser p c.ring .mismatch []
       else
         match s.streamRead (.tap d) (cartAddr c.cart + off.toNat) len.toNat with
         | (.ok (some b), s) => s.tellUser p c.ring .ok b
         | (.ok none, s) => s
         | (.error st, s) => s.tellUser p c.ring st [])
  | .streamStart tag => s.modPlot p (fun x => { x with streams := x.streams ++ [{ tag := tag.toNat, bytes := 0 }] })
  | .streamWrite tag va data =>
    if (s.plot p).streams.any (fun t => decide (t.tag = tag.toNat)) then
      match s.tapWrite d va.toNat data with
      | (some .ok, s) =>
        s.modPlot p (fun x => { x with streams := x.streams.map (fun (t : TapStream) =>
          if t.tag = tag.toNat then { t with bytes := t.bytes + data.length } else t) })
      | (some st, s) =>
        let ts := (s.plot p).streams.filter (fun t => decide (t.tag = tag.toNat))
        (ts.foldl (fun s t => s.endTapStream p st t) s).modPlot p (fun x =>
          { x with streams := x.streams.filter (fun t => !decide (t.tag = tag.toNat)) })
      | (none, s) => s
    else s
  | .streamEnd tag =>
    let ts := (s.plot p).streams.filter (fun t => decide (t.tag = tag.toNat))
    (ts.foldl (fun s t => s.endTapStream p .ok t) s).modPlot p (fun x =>
      { x with streams := x.streams.filter (fun t => !decide (t.tag = tag.toNat)) })

/-- TAP_CART_STAGE (R382). -/
def execTapCartStage (p : PlotIx) (op : TapOp) (s : State) : Res :=
  if (s.plot p.toNat).state = .live then .next (s.tapStage p.toNat op) else .next s

/-! ## Block memories (R377 to R381) -/

/-- `n` fabric cycles of a die pass. -/
def State.afterFab (s : State) (d : Die) : Nat → State
  | 0 => s
  | n + 1 => (s.advanceTo (s.clock.now + s.nextFab d)).afterFab d n

/-- A user port has the output register (R379). -/
def Plot.outReg (x : Plot) (b : Nat) (portB : Bool) : Bool :=
  x.image.ports.any (fun pt => decide (pt.mem = b) && decide (pt.portB = portB) && pt.outReg)

/-- BLOCK_MEMORY_USER_PORT_READ (R379, R381): word `w` of a block memory on port A, or on port B where that serves user logic. Its data
comes in the fabric cycle after the address, or one later with the output register. -/
def execBlockMemoryUserPortRead (p : PlotIx) (b : Byte) (portB : Bool) (w : BitVec 12) (s : State) : Res :=
  let k := p.toNat
  let x := s.plot k
  let m := Table.get {} x.brams b.toNat
  let width := aspectWidth m.aspect
  if 192 ≤ b.toNat ∨ (portB ∧ !m.portBUser) ∨ 36864 < w.toNat * width + width ∨ (x.state ≠ .live ∧ x.state ≠ .releasing) then .next s
  else
    let (v, bad, s) := s.userRead k b.toNat w.toNat m.aspect
    let s := s.afterFab (plotDie k) (1 + bn (x.outReg b.toNat portB))
    .next (s.modPlot k (fun x =>
      let m := Table.get {} x.brams b.toNat
      { x with brams := Table.put {} x.brams b.toNat (if portB then { m with portB := v, err := bad } else { m with portA := v, err := bad }) }))

/-! ## Probes (R395 to R397, R400, R401) -/

/-- The debug port is unlocked at level 2 or 3. -/
def State.unlocked (s : State) : Bool := decide (2 ≤ s.level.toNat)

/-- What probe multiplexer `m` of a die delivers, and its probe-valid bit (R395, R396). An index that the plot's logic does not
drive delivers zero with probe-valid 0. -/
def State.probeMux (s : State) (d : Die) (m : Nat) : BitVec 16 × Bool :=
  let sel := Table.get 0 s.fab.prbSel (d.num * 64 + m)
  let x := s.plot (d.num * 16 + m / 4)
  let net := sel.toNat % 2 ^ 20
  let held := x.image.cells.any (fun c => decide (c.outNet = net) || decide (c.flagNet = net)) ||
    x.image.hedges.any (fun h => decide (h.1 = net))
  if !sel.getLsbD 31 || x.state.closed || (x.sealed && !s.unlocked) || !held then (0, false)
  else (Table.get 0 x.nets net, true)

/-- FAB_PRB_CTLd. -/
def State.prbCtl (s : State) (d : Die) : Word :=
  match d with
  | .w => s.fab.prbCtlW
  | .e => s.fab.prbCtlE

/-- The probe bus of a die: its 32 bits and the probe-valid bits of its two halves (R395, R401). -/
def State.probeBus (s : State) (d : Die) : Word × Bool × Bool :=
  let c := s.prbCtl d
  if !c.getLsbD 31 then (0, false, false)
  else
    let (lo, vl) := s.probeMux d (c.toNat % 64)
    let (hi, vh) := s.probeMux d (c.toNat / 64 % 64)
    (hi ++ lo, vl, vh)

/-- The arithmetic cycles to the next change of the probe pins: n fabric cycles are 8 arithmetic ones for every n (R397). -/
def State.pinCycles (s : State) (d : Die) : Nat := if s.fabN d = 0 then 0 else 8 - s.clock.cyc % 8

/-- PROBE_PIN_UPDATE (R397): the pins carry the selected byte of the bus of the selected die, or float. -/
def execProbePinUpdate (s : State) : Res :=
  let c := s.fab.prbPin
  if !c.getLsbD 31 || !s.userIo then .next { s with fab := { s.fab with pins := none } }
  else
    let d := if c.getLsbD 2 then Die.e else Die.w
    let s := s.advanceTo (s.clock.now + s.pinCycles d)
    let (bus, _, _) := s.probeBus d
    let b := BitVec.ofNat 8 (bus.toNat / 2 ^ (8 * (c.toNat % 4)))
    .next ({ s with fab := { s.fab with pins := some b } }.send { kind := .probePin, unit := d.num, addr := 0, data := [b] })

end Sys2Proof.Machine
end

