-- ==== Sys2Proof/Machine/HostPort.lean ====
section
/-! DEFINITION. The Atvex host port (chapter 15): the receiving side of the link, link failures, the memory window, messages, alerts
and the relay head. -/

namespace Sys2Proof.Machine

open Sys2Proof

/-! ## Link (R470 to R474) -/

/-- Change the host port. -/
def State.modHp (s : State) (f : HostPort → HostPort) : State := { s with hp := f s.hp }

/-- The read waits for a credit and has not gone out. -/
def HostPort.unsent (x : HostPort) (tag : Nat) : Bool :=
  x.waitSend.any (fun w => decide (w.1 = 2) && decide (leAt w.2 2 2 = tag))

/-- A device read of a stream ends with a status, its host address reported (R481). -/
def State.failDevRead (s : State) (r : DevRead) (st : Status) : State :=
  ((s.modHp (fun x => { x with devReads := x.devReads.erase r })).failSlot (some (r.mill, r.slot)) st 0 0).report 18 0 .contained st 2
    r.addr false

/-- The device reads outstanding on the link. -/
def HostPort.outReads (x : HostPort) : List DevRead := x.devReads.filter (fun r => r.data.isNone && !x.unsent r.tag)

/-- The link fails (R474): replay buffer and unacknowledged packets go, device reads outstanding on the link end TIMEOUT, alerts
stay, and the ladder starts again. -/
def State.linkFail (s : State) (cause : Nat) : State :=
  let out := s.hp.outReads
  let s := s.modHp (fun x => { x with
    fails := min 255 (x.fails + 1), cause := cause, state := .ladder, rate := 0, upSince := none, sent := [], nextSend := 0
    nextRecv := 0, nak := false, unacked := 0, credit := {}, give := {}, held := { w := 256, r := 32, n := 64, m := 16 }
    alerts := x.alerts.map (fun (a : Alert) => { a with seq := none }) })
  out.foldl (fun s r => s.failDevRead r .timeout) s

/-- Send a link control frame (R472, Table 4). -/
def State.hostControl (s : State) (b : List Byte) : State :=
  s.send { kind := .hostControl, unit := 0, addr := 0, data := padTo 64 b }

/-- Credits from a list of four counts. -/
def creditsAt (b : List Byte) (off : Nat) : Credits :=
  { w := leAt b off 2, r := leAt b (off + 2) 2, n := leAt b (off + 4) 2, m := leAt b (off + 6) 2 }

/-- Sum of two credit counts. -/
def Credits.add (a b : Credits) : Credits := { w := a.w + b.w, r := a.r + b.r, n := a.n + b.n, m := a.m + b.m }

/-- LINK_INIT_RECEIVE (R472): after the last ladder step the control node's credits come, the device sends its own, and the link is
up at the rate the ladder reached (R470). -/
def execLinkInitReceive (rate : BitVec 3) (payload : List Byte) (s : State) : Res :=
  if s.hp.state = .up ∨ s.hp.maxRate.toNat < rate.toNat ∨ leAt payload 0 1 ≠ 0x40 then .next s
  else
    let s := s.modHp (fun x => { x with state := .up, rate := rate.toNat, upSince := some s.clock.now, credit := creditsAt payload 2 })
    .next ((s.hostControl (toLe 1 0x40 ++ toLe 1 0 ++ toLe 2 256 ++ toLe 2 32 ++ toLe 2 64 ++ toLe 2 16)).pumpHost)

/-- Resend packets in order (R472); eight resends of one packet without progress fail the link (R474). -/
def State.resendHost (s : State) : State :=
  if s.hp.sent.any (fun p => decide (8 ≤ p.resends)) then s.linkFail 2
  else
    let old := s.hp.sent
    let s := s.modHp (fun x => { x with
      sent := x.sent.map (fun (p : SentPkt) => { p with at_ := s.clock.now, resends := p.resends + 1 }) })
    old.foldl (fun s p => (s.send { kind := .hostPacket, unit := 0, addr := 0, data := p.bytes }).tallyW .hpReplay) s

/-- Sequence number `a` comes before `b`, within half the range. -/
def seqBefore (a b : Nat) : Bool := decide (0 < (b + 4096 - a) % 4096) && decide ((b + 4096 - a) % 4096 ≤ 2048)

/-- Packets before `next` are acknowledged: they leave the replay buffer, and the alerts that they carried leave the queue
(R472, R484). -/
def HostPort.acked (x : HostPort) (next : Nat) : HostPort :=
  let rest := x.sent.filter (fun p => !seqBefore p.seq next)
  let gone := x.sent.filter (fun p => seqBefore p.seq next)
  { x with
    sent := if gone.isEmpty then rest else rest.map (fun (p : SentPkt) => { p with resends := 0 })
    alerts := x.alerts.filter (fun a => !(gone.any (fun p => decide (a.seq = some p.seq)))) }

/-- HP_ACK_RECEIVE (R472). -/
def execHpAckReceive (payload : List Byte) (s : State) : Res :=
  if s.hp.state ≠ .up ∨ leAt payload 0 1 ≠ 0x41 then .next s
  else
    let s := s.modHp (fun x => { x.acked (leAt payload 2 2 % 4096) with credit := x.credit.add (creditsAt payload 4) })
    let s := if bitOf (leAt payload 1 1) 0 then s.resendHost else s
    .next s.pumpHost

/-- HP_ACK_SEND (R472): at 32 packets, at a nak, or 1 µs after the first packet that waits for its ack. -/
def execHpAckSend (s : State) : Res :=
  let x := s.hp
  if x.state ≠ .up ∨ (x.unacked = 0 ∧ !x.nak) then .next s
  else
    let s := if decide (32 ≤ x.unacked) || x.nak then s else s.advanceTo (x.firstUnacked + usCycles 1)
    let x := s.hp
    let b := toLe 1 0x41 ++ toLe 1 (bn x.nak) ++ toLe 2 x.nextRecv ++ toLe 2 x.give.w ++ toLe 2 x.give.r ++ toLe 2 x.give.n ++
      toLe 2 x.give.m
    .next ((s.hostControl b).modHp (fun x => { x with nak := false, unacked := 0, held := x.held.add x.give, give := {} }))

/-- HP_REPLAY_TIMEOUT (R472): a packet has gone 4 µs without an ack. -/
def execHpReplayTimeout (s : State) : Res :=
  match s.hp.sent with
  | [] => .next s
  | p :: _ => if s.hp.state = .up then .next ((s.advanceTo (p.at_ + usCycles 4)).resendHost) else .next s

/-- The offset of HP_CTL. -/
def offHpCtl : Nat := 0x3C00000

/-- The write of HP_CTL that a commit makes: max_rate 5 to 7 do not commit; retrain fails the link with cause 5 (R492). -/
def State.hpCtl (s : State) (v : Word) : Option State :=
  let rate : BitVec 3 := (v >>> 5).truncate 3
  if 5 ≤ rate.toNat then none
  else
    let s := s.modHp (fun x => { x with relayEn := v.getLsbD 8, maxRate := rate })
    some (if v.getLsbD 0 then s.linkFail 5 else s)

/-- RETRAIN (R492): a committed write of HP_CTL. -/
def execRetrain (w : Writer) (v : Word) (s : State) : Res :=
  if s.may w && !w.reeve && v.getLsbD 0 then .next (s.commit w offHpCtl (s.hpCtl v)) else .next s

/-- LANE_SIGNAL_LOSS (R441): a physical lane of a field port. Without a port it is a lane of the host port, whose loss fails the
link with cause 1 (R470, R474). -/
def execLaneSignalLoss (p : Option PortIx) (l : BitVec 4) (s : State) : Res :=
  match p with
  | some p => if s.laneAt p.toNat l.toNat then .next (s.laneDown p.toNat l.toNat 0) else .next s
  | none => if s.hp.state = .up ∧ l.toNat < 8 then .next (s.linkFail 1) else .next s

/-! ## Transactions (R475 to R478) -/

/-- A transaction (R475). -/
structure Trans where
  kind : Nat
  flags : Nat
  tag : Nat
  node : Nat
  len : Nat
  addr : Nat
  data : List Byte
  deriving DecidableEq, Repr

/-- The transaction of some bytes. -/
def transOf (b : List Byte) : Trans :=
  { kind := leAt b 0 1, flags := leAt b 1 1, tag := leAt b 2 2, node := leAt b 4 2, len := leAt b 6 2, addr := leAt b 8 8,
    data := b.drop 16 }

/-- The header is well formed: a known kind, reserved bits zero, and the payload its length says (R475, R486). -/
def Trans.ok (t : Trans) : Bool :=
  decide (t.flags < 2) && decide (t.node < 1024) &&
    (match t.kind with
     | 1 => decide (t.data = [])
     | 2 => decide (t.data.length = t.len)
     | 3 => decide (t.data.length = 8)
     | 4 => decide (t.data.length = t.len)
     | 6 => decide (t.data.length = t.len) && decide (16 ≤ t.len) && decide (t.len ≤ 4096) && decide (t.len % 16 = 0) &&
         decide (t.addr < 3)
     | _ => false)

/-- Record a refused or discarded transaction in HP_ERR (R494). -/
def State.hostErr (s : State) (reason kind node addr : Nat) : State :=
  let w1 := reason * 2 ^ 22 + kind % 8 * 2 ^ 19 + node % 1024 * 2 ^ 9 + addr / 2 ^ 32 % 512
  (s.modHp (fun x => { x with err := x.err.set1 (BitVec.ofNat 32 addr) (BitVec.ofNat 32 w1) 0 })).evBits s.clock.now 0x3C00014 [31]

/-- Complete a host request (R475): to the host, or to the relay head it came from (R489). -/
def State.completeHost (s : State) (via : Option Via) (tag : Nat) (st : Status) (data : List Byte) : State :=
  let t := transHdr 4 0 tag s.node.toNat data.length st.code ++ data
  match via with
  | none => s.sendTrans 4 t
  | some v => s.sendHome v t

/-- The address lies in the memory window (R476, R635). -/
def inWindow (a : Nat) : Bool := decide (2 ^ 40 ≤ a) && decide (a < 2 ^ 41)

/-- The address lies in an aperture: whether it is the privileged one, and the offset (R635). -/
def apertureOf (a : Nat) : Option (Bool × Nat) :=
  if a < 2 ^ 28 then some (false, a) else if a < 2 ^ 29 then some (true, a - 2 ^ 28) else none

/-- Why an access has a shape that is not accepted (R476): an HP_ERR reason of R494. -/
def shapeReason (a n : Nat) : Option Nat :=
  if inWindow a then
    if n = 0 ∨ 4096 < n then some 3 else if 4096 < a % 4096 + n then some 4 else none
  else if (apertureOf a).isSome then
    if (n = 4 ∨ n = 8) ∧ a % n = 0 then none else some 3
  else some 2

/-- Where a window access goes (R363, R477): a place, or a status with the HP_ERR reason of a discarded write, where one names it.
An access to a site that is not open completes ABSENT. -/
def State.windowPlace (s : State) (va : Nat) (wr : Bool) : Except (Option (Status × Option Nat)) Nat × State :=
  match s.lookup .window va with
  | (none, s) => (.error none, s)
  | (some none, s) => (.error (some (.faultInteg, some 8)), s)
  | (some (some e), s) =>
    if e.sealed then (.error (some (.denied, some 7)), s)
    else if !e.present || (wr && !e.writable) then (.error (some (.faultPage, some 6)), s)
    else
      match s.entryPlace e va with
      | .cell a => (.ok a, s)
      | .host _ => (.error (some (.mismatch, some 9)), s)
      | .wait => (.error none, s)
      | .fail st => (.error (some (st, none)), s)

/-- Serve a window read (R477); none while it waits for an update of its page (R361). -/
def State.windowRead (s : State) (r : HostRead) : Option State :=
  match s.windowPlace r.va false with
  | (.error none, _) => none
  | (.error (some (st, _)), s) => some (s.completeHost r.via r.tag st [])
  | (.ok a, s) =>
    match s.accRead (.cell a) r.len with
    | (.ok (some b), s) => some (s.completeHost r.via r.tag .ok b)
    | (.ok none, _) => none
    | (.error st, s) => some (s.completeHost r.via r.tag st [])

/-- Record a discarded write or doorbell: with its reason, or reason 10 when it came from a relay head (R491, R494). -/
def State.postedErr (s : State) (p : Posted) (reason : Nat) : State :=
  s.hostErr (if p.relayed then 10 else reason) (if p.bell then 3 else 2) 0 p.addr

/-- A window write is discarded: counted, and recorded where HP_ERR names the reason (R477). -/
def State.dropWindowWrite (s : State) (p : Posted) (reason : Option Nat) : State :=
  let s := s.tallyW .hpWrFault
  match reason with
  | some r => s.postedErr p r
  | none => if p.relayed then s.postedErr p 10 else s

/-- Make a window write land (R477); none while it waits for an update of its page (R361). -/
def State.windowWrite (s : State) (p : Posted) : Option State :=
  match s.windowPlace (p.addr - 2 ^ 40) true with
  | (.error none, _) => none
  | (.error (some (_, r)), s) => some (s.dropWindowWrite p r)
  | (.ok c, s) =>
    match s.accWrite (.cell c) p.data with
    | (some .ok, s) => some s
    | (some _, s) => some (s.dropWindowWrite p (some 8))
    | (none, _) => none

/-- A posted window write that has not landed. -/
def Posted.window (p : Posted) : Bool := !p.bell && inWindow p.addr

/-- Serve a window read, or hold it behind the earlier window writes and its page's update (R478). -/
def State.takeRead (s : State) (r : HostRead) : State :=
  let hold := s.modHp (fun x => { x with reads := x.reads ++ [r] })
  if s.hp.posted.any Posted.window then hold else (s.windowRead r).getD hold

/-- A read through the window, of a shape that is accepted. -/
def State.startRead (s : State) (via : Option Via) (tag addr len : Nat) : State :=
  s.takeRead { tag := tag, va := addr - 2 ^ 40, len := len, at_ := s.clock.now, via := via }

/-- Refuse a request (R476): a read or message completes MISMATCH; it is recorded in HP_ERR. -/
def State.refuseHost (s : State) (via : Option Via) (t : Trans) (reason : Nat) : State :=
  let s := s.hostErr reason t.kind t.node t.addr
  if t.kind = 1 ∨ t.kind = 6 then s.completeHost via t.tag .mismatch [] else s

/-- WINDOW_READ (R476 to R478). -/
def execWindowRead (tag : BitVec 16) (addr : BitVec 64) (len : BitVec 16) (s : State) : Res :=
  let t : Trans := { kind := 1, flags := 0, tag := tag.toNat, node := 0, len := len.toNat, addr := addr.toNat, data := [] }
  if !inWindow t.addr then .next s
  else
    match shapeReason t.addr t.len with
    | some r => .next (s.refuseHost none t r)
    | none => .next (s.startRead none t.tag t.addr t.len)

/-- A window write of an accepted shape: it lands, or waits behind what has not taken effect and its page's update (R478). -/
def State.postWindow (s : State) (p : Posted) : State :=
  let hold := s.modHp (fun x => { x with posted := x.posted ++ [p] })
  if s.hp.posted = [] then (s.windowWrite p).getD hold else hold

/-- WINDOW_WRITE (R476 to R478). -/
def execWindowWrite (addr : BitVec 64) (data : List Byte) (s : State) : Res :=
  let p : Posted := { bell := false, addr := addr.toNat, data := data }
  if !inWindow p.addr then .next s
  else
    match shapeReason p.addr data.length with
    | some r => .next (s.postedErr p r)
    | none => .next (s.postWindow p)

/-- WINDOW_READ_TIMEOUT (R479): a window read is not completed by 7.0 µs. -/
def execWindowReadTimeout (tag : BitVec 16) (s : State) : Res :=
  match s.hp.reads.find? (fun r => decide (r.tag = tag.toNat)) with
  | none => .next s
  | some r =>
    let s := s.advanceTo (r.at_ + usCycles 7)
    .next ((s.modHp (fun x => { x with reads := x.reads.erase r })).completeHost r.via r.tag .timeout [])

/-- HP_FLUSH (R482): done while every posted write and doorbell has taken effect. -/
def HostPort.flushed (x : HostPort) : Bool := x.posted.isEmpty

/-- HP_FLUSH_READ (R482): the register read passes the posted writes and is completed with HP_FLUSH. -/
def execHpFlushRead (tag : BitVec 16) (s : State) : Res :=
  .next (s.completeHost none tag.toNat .ok (toLe 4 (bn s.hp.flushed)))

/-! ## Device reads of host memory (R479, R481) -/

/-- The transfer of a slot goes on with what has arrived. -/
def State.moveOn (s : State) (m k : Nat) : State :=
  match s.runningSlot m k with
  | none => s
  | some (sl, d) =>
    let (r, sl, s) := s.piece m k sl d
    s.settle m k sl r

/-- A completion for a device read (R481): OK with all its bytes brings the data; anything else fails the transfer. -/
def State.devCompletion (s : State) (tag status : Nat) (data : List Byte) : State :=
  match s.hp.outReads.find? (fun r => decide (r.tag = tag)) with
  | none => s
  | some r =>
    if status = 0 ∧ data.length = r.len then
      let s := { s with hostSeen := noteHost s.hostSeen r.addr data }
      (s.modHp (fun x => { x with
        devReads := x.devReads.map (fun q => if q = r then { q with data := some data } else q) })).moveOn r.mill r.slot
    else s.failDevRead r .faultInteg

/-- DEVICE_READ_COMPLETION (R481). -/
def execDeviceReadCompletion (tag : BitVec 16) (status : Byte) (data : List Byte) (s : State) : Res :=
  .next (s.devCompletion tag.toNat status.toNat data)

/-- DEVICE_READ_DEADLINE (R479): 8 µs without a completion fail the link with cause 3 and the read with TIMEOUT. -/
def execDeviceReadDeadline (s : State) : Res :=
  match s.hp.outReads with
  | [] => .next s
  | r :: _ => .next ((s.advanceTo (r.at_ + usCycles 8)).linkFail 3)

/-! ## Management messages (R486, R487) -/

/-- A mailbox. -/
def HostPort.box (x : HostPort) : Nat → List Msg
  | 0 => x.box0
  | 1 => x.box1
  | _ => x.box2

/-- Replace a mailbox. -/
def HostPort.setBox (x : HostPort) (b : Nat) (l : List Msg) : HostPort :=
  match b with
  | 0 => { x with box0 := l }
  | 1 => { x with box1 := l }
  | _ => { x with box2 := l }

/-- The device sends a management message to the host (R486). -/
def State.sendMessage (s : State) (box : Nat) (data : List Byte) : State :=
  let tag := s.hp.nextTag
  (s.modHp (fun x => { x with nextTag := (tag + 1) % 65536 })).sendTrans 3 (transHdr 6 0 tag 0 data.length box ++ data)

/-! ## Alerts (R484, R485) -/

/-- ALERT_ACKNOWLEDGED (R484): the packet that carried the oldest alert is acknowledged, and the alert leaves the queue. -/
def execAlertAcknowledged (s : State) : Res :=
  match s.hp.alerts with
  | [] => .next s
  | a :: rest =>
    match a.seq with
    | none => .next s
    | some q =>
      if q < 4096 then .next ((s.modHp (fun x => x.acked ((q + 1) % 4096))).pumpHost)
      else .next (s.modHp (fun x => { x with alerts := rest }))

/-- The link has been up for 100 µs (R485). -/
def State.upLong (s : State) : Bool :=
  match s.hp.upSince with
  | some t => decide (t + hundredUs ≤ s.clock.now)
  | none => false

/-- HOST_ALERT_PIN_UPDATE (R485). An asserted pin whose link is up is released 100 µs after the link came up. -/
def execHostAlertPinUpdate (s : State) : Res :=
  let s := if s.hp.alertPin && !s.hp.alerts.isEmpty then
      (match s.hp.upSince with
       | some t => s.advanceTo (t + hundredUs)
       | none => s)
    else s
  .next (s.modHp (fun x => { x with alertPin := !x.alerts.isEmpty && !s.upLong }))

/-! ## The relay head (R488, R491) -/

/-- A word of a relay-table entry (R496). -/
def HostPort.route (x : HostPort) (n i : Nat) : Nat := (Table.get 0 x.rt (n * 8 + i)).toNat

/-- A 95-bit hop list of three words of an entry. -/
def HostPort.hops (x : HostPort) (n i : Nat) : Nat :=
  x.route n i + x.route n (i + 1) * 2 ^ 32 + x.route n (i + 2) % 2 ^ 31 * 2 ^ 64

/-- Send a relayed request on its route, or refuse it (R488). -/
def State.relay (s : State) (t : Trans) (bytes : List Byte) : State :=
  let x := s.hp
  let asks := decide (t.kind = 1) || decide (t.kind = 6)
  if x.relayEn && bitOf (x.route t.node 3) 31 then
    let left := x.route t.node 3 % 32
    let hdr := routeHeader left 1 t.node (x.hops t.node 0) ++ relayHeader (x.hops t.node 4) (x.route t.node 7 % 32) s.node.toNat
    let r : RelayReq := { tag := t.tag, node := t.node, read := decide (t.kind = 1), at_ := s.clock.now }
    let s := if asks then s.modHp (fun x => { x with relays := x.relays ++ [r] }) else s
    s.launchParcel hdr bytes
  else if asks then s.completeHost none t.tag .absent []
  else s.hostErr 5 t.kind t.node t.addr

/-- RELAY_REQUEST (R488): a request with flags.relay set arrives from the host. -/
def execRelayRequest (req : List Byte) (s : State) : Res :=
  let t := transOf req
  if t.ok ∧ t.flags = 1 ∧ t.kind ≠ 4 then .next (s.relay t req) else .next s

/-- The first arrived class-1 parcel of a port whose transaction meets a test, taken from its list. -/
def State.takeRelayed (s : State) (p : Nat) (f : Nat → Bool) : Option (Parcel × State) :=
  match (s.port p).arrived.find? (fun x => decide (leAt x.hdr 1 1 = 1) && f (leAt x.data 0 1)) with
  | none => none
  | some x => some (x, s.modPort p (fun y => ({ y with arrived := y.arrived.erase x }.giveBack x.frames)))

/-- The bytes of a transaction in a parcel, without the padding of its last frame. -/
def transBytes (b : List Byte) : List Byte :=
  let k := leAt b 0 1
  b.take (16 + (if k = 1 then 0 else if k = 3 then 8 else leAt b 6 2))

/-- RELAY_COMPLETION_RECEIVE (R491): a completion that some relayed request waits for goes to the host, a late one is discarded and
counted; an alert of a relayed device goes to the host with that device's node. -/
def execRelayCompletionReceive (p : PortIx) (s : State) : Res :=
  match s.takeRelayed p.toNat (fun k => decide (k = 4) || decide (k = 5)) with
  | none => .next s
  | some (x, s) =>
    let b := transBytes x.data
    let t := transOf b
    if t.kind = 5 then .next (s.sendTrans 4 b)
    else
      match s.hp.relays.find? (fun r => decide (r.tag = t.tag) && decide (r.node = t.node)) with
      | none => .next (s.tallyW .relayLate)
      | some r => .next ((s.modHp (fun x => { x with relays := x.relays.erase r })).sendTrans 4 b)

/-- RELAY_TIMEOUT (R491): no relayed completion by 7.0 µs. -/
def execRelayTimeout (tag : BitVec 16) (s : State) : Res :=
  match s.hp.relays.find? (fun r => decide (r.tag = tag.toNat)) with
  | none => .next s
  | some r =>
    let s := s.advanceTo (r.at_ + usCycles 7)
    .next ((s.modHp (fun x => { x with relays := x.relays.erase r })).completeHost none r.tag .timeout [])

/-- RELAY_FALLBACK (R490): 50 ms after cold reset without a link the boot ROM enables every fitted field port, and the first valid
class-1 parcel may latch its head. -/
def execRelayFallback (s : State) : Res :=
  if s.hp.fell ∨ s.hp.state = .up then .next s
  else
    let s := s.advanceTo (s.hp.coldAt + usCycles 50000)
    let s := s.modHp (fun x => { x with fell := true, latch := true })
    .next (s.fittedPorts.foldl (fun s p =>
      let v : Word := BitVec.ofNat 32 ((s.port p).maxRate.toNat * 32 + 1)
      (s.laneCtl p v).getD s) s)

end Sys2Proof.Machine
end

