-- ==== Sys2Proof/Machine/Secure.lean ====
section
/-! DEFINITION. The attestation log, the debug level and the outside standards of chapter 17. -/

namespace Sys2Proof.Machine

open Sys2Proof

/-- The 32 bytes of a SHA3-256 digest. -/
def sha3 (b : List Byte) : List Byte := padTo 32 (Config.sha3 b)

/-- id_hash of the device (R540). -/
def idHash : List Byte := sha3 Config.identityPub

/-- Change the security engine. -/
def State.modSec (s : State) (f : Sec → Sec) : State := { s with sec := f s.sec }

/-- Append an entry to the log (R553): it stands at index (c - 1) mod 1,024, and the head becomes the hash of head and entry. -/
def State.logEntry (s : State) (kind arg sheaf : Nat) (digest : List Byte) (ver : Nat) : State :=
  let e := toLe 8 s.clock.tick.toNat ++ toLe 1 kind ++ toLe 1 arg ++ toLe 2 0 ++ toLe 4 sheaf ++ padTo 32 digest ++ toLe 8 ver ++
    toLe 8 0
  s.modSec (fun x => { x with log := Table.insert x.log (x.count.toNat % 1024) e, head := sha3 (x.head ++ e), count := x.count + 1 })

/-- A debug halt is released and every breakpoint cleared (R608). A sieve that waits to halt goes on. -/
def Dbg.released (x : Dbg) : Dbg := { x with halt := .none, step := false, bps := [] }

/-- A mill when the level drops below 2: audit_stall clears and halts are released (R112, R549, R608). -/
def Mill.relocked (x : Mill) : Mill :=
  let free := fun (g : Engine) => { g with dbg := g.dbg.released }
  { x with
    auditStall := false, st := free x.st, mx := free x.mx, sv := free x.sv, ca := free x.ca, cb := free x.cb
    sieve := { x.sieve with req := match x.sieve.req with
      | some (_, .halt _ _) => none
      | r => r } }

/-- A counter that has counted a sealed mill's events is cleared when the level drops below 2 (R588). -/
def Counter.relocked (c : Counter) : Counter :=
  if tlySealedGated (field c.sel.toNat 0 8) && c.sealedSeen then { c with count := 0, ovf := false, sealedSeen := false, caps := [] }
  else c

/-- What a drop of the level below 2 does in its cycle (R112, R549, R588, R597, R608). -/
def State.relock (s : State) : State :=
  { s with
    mills := s.mills.map (fun e => (e.1, e.2.relocked))
    tally := { s.tally with mc := s.tally.mc.map (fun e => (e.1, e.2.relocked)), dc := s.tally.dc.map (fun e => (e.1, e.2.relocked)) }
    pb := if s.pb.sealed then { s.pb with entries := [], sealed := false } else s.pb
    reeveW := { s.reeveW with dbg := s.reeveW.dbg.released }
    reeveE := { s.reeveE with dbg := s.reeveE.dbg.released } }

/-- The debug level changes (R548, R549): a log entry of kind 4, and the effects of a drop below 2. -/
def State.setLevel (s : State) (l : BitVec 2) : State :=
  if l = s.level then s
  else
    let drop := decide (2 ≤ s.level.toNat) && decide (l.toNat < 2)
    let s := { s with level := l, sec := { s.sec with max := if s.sec.max.toNat < l.toNat then l else s.sec.max } }
    (if drop then s.relock else s).logEntry 4 l.toNat 0 [] 0

end Sys2Proof.Machine
end

