-- ==== Sys2Proof/Machine/Reeves.lean ====
section
/-! DEFINITION. The reeves (chapter 16): boot messages, images, terms, leases, heartbeats, handoff; mailboxes (R486, R487). -/

namespace Sys2Proof.Machine

open Sys2Proof

/-! ## A reeve and its alerts -/

/-- A reeve. -/
def State.reeve (s : State) : Die → Reeve
  | .w => s.reeveW
  | .e => s.reeveE

/-- Change a reeve. -/
def State.modReeve (s : State) (d : Die) (f : Reeve → Reeve) : State :=
  match d with
  | .w => { s with reeveW := f s.reeveW }
  | .e => { s with reeveE := f s.reeveE }

/-- Change the bellwether. -/
def State.modBw (s : State) (f : Bellwether → Bellwether) : State := { s with bw := f s.bw }

/-- The reeve runs and no debug halt holds it (R607). -/
def Reeve.acts (r : Reeve) : Bool := r.runs && decide (r.dbg.halt ≠ .halted)

/-- fw_version as REEVE_VERd and alerts report it: zero in Boot (R508, R528). -/
def Reeve.version (r : Reeve) : BitVec 64 := if r.state = .boot then 0 else r.ver

/-- Alert code 12 of a reeve (R508, Table 5). -/
def State.reeveAlert (s : State) (event : Nat) (d : Die) (column : Nat) : State :=
  s.alert 12 (toLe 1 event ++ toLe 1 d.num ++ toLe 1 column ++ toLe 1 0 ++ toLe 4 s.bw.term.toNat ++
    toLe 8 (s.reeve d).version.toNat)

/-- A leader holds a current lease: it renewed within the last 500 µs (R504, R529). -/
def State.leaseNow (s : State) : Bool :=
  match s.bw.lease with
  | some t => s.bw.lead.isSome && decide (s.clock.now < t + usCycles 500)
  | none => false

/-- A reeve starts in the boot ROM (R497, R506). -/
def State.bootReeve (s : State) (d : Die) : State :=
  s.modReeve d (fun r => { imgErr := r.imgErr, term := r.term, beat := r.beat, heard := s.clock.now
                           quiet := decide (r.state = .follower), dbg := { r.dbg with halt := .none, step := false } })

/-! ## Boot messages (R499, R500) -/

/-- The reeve answers boot messages: it is in the boot ROM and no image is being checked, or it runs and stages an image (R499). -/
def Reeve.takesImage (r : Reeve) : Bool :=
  r.runs || (decide (r.state = .boot) && r.verify.isNone && !r.testing)

/-- A begin message: seq is 0, and the image starts (R499). -/
def State.bootBegin (s : State) (d : Die) (seq total : Nat) : Status × State :=
  if !(s.reeve d).takesImage then (.mismatch, s)
  else if seq ≠ 0 then (.mismatch, s.modReeve d (fun r => { r with up := none }))
  else (.ok, s.modReeve d (fun r => { r with up := some { total := total, got := 0, seq := 0 } }))

/-- A data message: bytes in order, without a gap; padding of its last 16-byte unit beyond the image is not taken (R500). -/
def State.bootData (s : State) (d : Die) (seq off : Nat) (data : List Byte) : Status × State :=
  match if (s.reeve d).takesImage then (s.reeve d).up else none with
  | none => (.mismatch, s)
  | some u =>
    if seq = u.seq + 1 ∧ off = u.got ∧ 0 < data.length ∧ u.got < u.total ∧ u.got + data.length < u.total + 16 then
      let b := data.take (u.total - u.got)
      (.ok, (s.setBytes (reeveCell d u.got) b).modReeve d (fun r => { r with
        up := some { total := u.total, got := u.got + b.length, seq := seq } }))
    else (.mismatch, s.modReeve d (fun r => { r with up := none }))

/-- An end message completes OK when the byte count matches; the boot ROM then checks the image (R500). -/
def State.bootEnd (s : State) (d : Die) (seq off : Nat) : Status × State :=
  match if (s.reeve d).takesImage then (s.reeve d).up else none with
  | none => (.mismatch, s)
  | some u =>
    if seq = u.seq + 1 ∧ off = 0 ∧ u.got = u.total then
      (.ok, s.modReeve d (fun r => { r with up := none, verify := if r.state = .boot then some u.total else none }))
    else (.mismatch, s.modReeve d (fun r => { r with up := none }))

/-- A boot message of a mailbox: its header and data (R499, Table 2). Any other type completes MISMATCH. -/
def State.bootMessage (s : State) (d : Die) (b : List Byte) : Status × State :=
  match leAt b 0 2 with
  | 1 => s.bootBegin d (leAt b 4 4) (leAt b 8 8)
  | 2 => s.bootData d (leAt b 4 4) (leAt b 8 8) (b.drop 16)
  | 3 => s.bootEnd d (leAt b 4 4) (leAt b 8 8)
  | _ => (.mismatch, s)

/-- BOOT_BEGIN (R499). -/
def execBootBegin (d : Die) (tag : BitVec 16) (seq : Word) (total : BitVec 64) (s : State) : Res :=
  let (st, s) := s.bootBegin d seq.toNat total.toNat
  .next (s.completeHost none tag.toNat st [])

/-- BOOT_DATA (R500). -/
def execBootData (d : Die) (tag : BitVec 16) (seq : Word) (off : BitVec 64) (data : List Byte) (s : State) : Res :=
  let (st, s) := s.bootData d seq.toNat off.toNat data
  .next (s.completeHost none tag.toNat st [])

/-- BOOT_END (R500). -/
def execBootEnd (d : Die) (tag : BitVec 16) (seq : Word) (off : BitVec 64) (s : State) : Res :=
  let (st, s) := s.bootEnd d seq.toNat off.toNat
  .next (s.completeHost none tag.toNat st [])

/-! ## Mailboxes (R486, R487) -/

/-- The die whose recovery responder answers a mailbox: reeve W or E in the boot ROM (R487, R500). -/
def State.responder (s : State) (box : Nat) : Option Die :=
  let d := if box = 1 then some Die.w else if box = 2 then some Die.e else none
  d.filter (fun d => decide ((s.reeve d).state = .boot))

/-- Put a message in its mailbox and complete it, or let it wait for an entry (R487). The recovery responder of a die in the boot ROM
takes its messages as boot messages. -/
def State.takeMessage (s : State) (box : Nat) (m : Msg) : State :=
  match s.responder box with
  | some d =>
    let (st, s) := s.bootMessage d m.data
    s.completeHost m.via m.tag st []
  | none =>
  if 16 ≤ (s.hp.box box).length then s.modHp (fun x => { x with boxWait := x.boxWait ++ [(box, m)] })
  else (s.modHp (fun x => x.setBox box (x.box box ++ [m]))).completeHost m.via m.tag .ok []

/-- MANAGEMENT_MESSAGE (R486, R487). -/
def execManagementMessage (tag : BitVec 16) (box : BitVec 64) (data : List Byte) (s : State) : Res :=
  let t : Trans := { kind := 6, flags := 0, tag := tag.toNat, node := 0, len := data.length, addr := box.toNat, data := data }
  if t.ok then .next (s.takeMessage t.addr { tag := t.tag, data := data, at_ := s.clock.now, via := none })
  else .next (s.refuseHost none t 1)

/-- MAILBOX_TIMEOUT (R487): the oldest waiting message finds no free entry for 1.5 µs and is discarded. -/
def execMailboxTimeout (s : State) : Res :=
  match s.hp.boxWait with
  | [] => .next s
  | (_, m) :: rest =>
    let s := s.advanceTo (m.at_ + 1950)
    .next ((s.modHp (fun x => { x with boxWait := rest })).completeHost m.via m.tag .timeout [])

/-- A reeve takes the oldest message of a mailbox; a message that waits for the entry moves in (R487). -/
def State.readMailbox (s : State) (box : Nat) : Option (Msg × State) :=
  match s.hp.box box with
  | [] => none
  | m :: rest =>
    let s := s.modHp (fun x => x.setBox box rest)
    match s.hp.boxWait.find? (fun w => decide (w.1 = box)) with
    | none => some (m, s)
    | some w => some (m, (s.modHp (fun x => { x with boxWait := x.boxWait.erase w })).takeMessage box w.2)

/-! ## Images (R498, R500, R501) -/

/-- The image in a reeve's memory passes the checks of the boot ROM: magic, format, length, and a Frarel signature (R498, R500,
R541). -/
def State.imageOk (s : State) (b : List Byte) : Bool :=
  let blen := leAt b 8 8
  let digest := sha3 (b.take (64 + blen))
  let sig := (b.drop (64 + blen)).take 2420
  decide (leAt b 0 4 = 0x56454552) && decide (leAt b 4 2 = 1) && decide (blen % 16 = 0) && decide (16 ≤ blen) &&
    decide (blen ≤ 8388608) && decide (b.length = 64 + blen + 2420) &&
    (Config.mlDsaVerify (Config.frarelKey true) digest sig ||
      (!s.sec.frarel0 && Config.mlDsaVerify (Config.frarelKey false) digest sig))

/-- The other reeve leads. -/
def State.otherLeads (s : State) (d : Die) : Bool := decide ((s.reeve (otherDie d)).state = .leader)

/-- IMAGE_VERIFY_DONE (R500, R511, R553): the image runs, or it is discarded with img_err; a refused handoff image raises event 6. -/
def execImageVerifyDone (d : Die) (s : State) : Res :=
  match (s.reeve d).verify with
  | none => .next s
  | some n =>
    let b := s.bytes (reeveCell d 0) n
    if s.imageOk b then
      let digest := sha3 (b.take (64 + leAt b 8 8))
      let ver := leAt b 16 8
      .next ((s.modReeve d (fun r => { r with verify := none, testing := true, digest := digest, ver := BitVec.ofNat 64 ver }))
        |>.logEntry 3 d.num 0 digest ver)
    else
      let s := (s.modReeve d (fun r => { r with verify := none, imgErr := true })).evBits s.clock.now (0x100010 + 4 * d.num) [4]
      .next (if s.otherLeads d then s.reeveAlert 6 d 0 else s)

/-! ## Terms and leadership (R502 to R507) -/

/-- The bellwether allows a swap (R502, R504): the term named is current, and the requester leads or no lease is current. -/
def State.swapAllowed (s : State) (d : Die) (expected : Word) : Bool :=
  decide (expected = s.bw.term) && (decide (s.bw.lead = some d) || !s.leaseNow)

/-- A reeve demotes itself when the broadcast shows a newer term (R506). -/
def State.demote (s : State) (d : Die) : State :=
  if (s.reeve d).state = .leader ∧ (s.reeve d).acts then s.modReeve d (fun r => { r with state := .follower, term := s.bw.term }) else s

/-- A swap that succeeds (R502, R503): every shared resource has latched the new term, the requester leads with a new lease, and
another leader that sees the broadcast demotes itself. -/
def State.swapDone (s : State) (d : Die) : State :=
  let t := s.bw.term + 1
  let s := s.modBw (fun b => { b with term := t, lead := some d, lease := some s.clock.now, alive := some s.clock.now })
  let s := s.modReeve d (fun r => { r with state := .leader, term := t, renewed := s.clock.now, answered := s.clock.now })
  (s.demote (otherDie d)).reeveAlert 1 d 0

/-- A running reeve asks for a swap. -/
def State.swap (s : State) (d : Die) (expected : Word) : State :=
  if s.swapAllowed d expected then s.swapDone d
  else s.modReeve d (fun r => { r with answered := s.clock.now, swapAt := s.clock.now })

/-- SWAP (R502). A reeve in Follower or Leader state asks; one in the boot ROM, failed or in Hold sends no swap. -/
def execSwap (d : Die) (expected : Word) (s : State) : Res :=
  if !(s.reeve d).acts then .next s
  else
  match (s.reeve d).state with
  | .follower => .next (s.swap d expected)
  | .leader => .next (s.swap d expected)
  | .boot => .next s
  | .failed => .next s
  | .hold => .next s

/-- REEVE_SELF_TEST_DONE (R501, R506). -/
def execReeveSelfTestDone (d : Die) (passed : Bool) (s : State) : Res :=
  let r := s.reeve d
  let o := s.reeve (otherDie d)
  if !r.testing then .next s
  else if !passed then
    .next ((s.modReeve d (fun r => { r with testing := false, state := .failed })).reeveAlert 4 d 0)
  else
    let s := s.modReeve d (fun r => { r with testing := false, state := .follower, term := s.bw.term, heard := s.clock.now
                                             beat := s.clock.now, answered := s.clock.now })
    let silent := decide (o.beat + usCycles 1000 ≤ s.clock.now)
    let mine := decide (d = .w) || decide (o.state = .failed) || decide (o.state = .boot) || silent
    .next (if !s.leaseNow && mine then s.swap d s.bw.term else s)

/-- LEASE_RENEWAL (R504): every 100 µs; a leader that sees a newer term demotes itself (R506). -/
def execLeaseRenewal (d : Die) (s : State) : Res :=
  if (s.reeve d).state ≠ .leader ∨ !(s.reeve d).acts then .next s
  else
    let s := s.advanceTo ((s.reeve d).renewed + usCycles 100)
    if (s.reeve d).term = s.bw.term ∧ s.bw.lead = some d then
      .next ((s.modBw (fun b => { b with lease := some s.clock.now, alive := some s.clock.now })).modReeve d (fun r =>
        { r with renewed := s.clock.now, answered := s.clock.now }))
    else .next (s.demote d)

/-- LEASE_EXPIRY (R504): 500 µs pass without a renewal. -/
def execLeaseExpiry (s : State) : Res :=
  match s.bw.lease with
  | none => .next s
  | some t => .next ((s.advanceTo (t + usCycles 500)).modBw (fun b => { b with lease := none }))

/-- LEADER_HOLD_TIMEOUT (R504, R506): no renewal acknowledged for 400 µs. -/
def execLeaderHoldTimeout (d : Die) (s : State) : Res :=
  if (s.reeve d).state ≠ .leader ∨ !(s.reeve d).acts then .next s
  else .next (((s.advanceTo ((s.reeve d).renewed + usCycles 400)).modReeve d (fun r => { r with state := .hold })).reeveAlert 2 d 0)

/-- HEARTBEAT (R505): every 10 µs to the other reeve. -/
def execHeartbeat (d : Die) (s : State) : Res :=
  if !(s.reeve d).acts then .next s
  else
    let s := s.advanceTo ((s.reeve d).beat + usCycles 10)
    let s := (s.modReeve d (fun r => { r with beat := s.clock.now, quiet := false })).modReeve (otherDie d) (fun r =>
      { r with heard := s.clock.now, peerLost := false })
    .next (s.modBw (fun b => { b with alive := some s.clock.now }))

/-- PEER_LOST (R505, R508, R509): 100 µs without a heartbeat; event 5, but not for a follower restarted by REEVE_CTL. -/
def execPeerLost (d : Die) (s : State) : Res :=
  if !(s.reeve d).acts || (s.reeve d).peerLost then .next s
  else
    let s := s.advanceTo ((s.reeve d).heard + usCycles 100)
    let s := s.modReeve d (fun r => { r with peerLost := true, lostAt := s.clock.now })
    .next (if (s.reeve (otherDie d)).quiet then s else s.reeveAlert 5 d 0)

/-- The reeve is a follower whose leader is lost (R506). -/
def State.leaderLost (s : State) (d : Die) : Bool :=
  decide ((s.reeve d).state = .follower) && (s.reeve d).acts && (s.reeve d).peerLost && decide (s.bw.lead = some (otherDie d))

/-- FOLLOWER_SWAP_RETRY (R506): every 100 µs. -/
def execFollowerSwapRetry (d : Die) (s : State) : Res :=
  if !s.leaderLost d then .next s
  else
    let s := s.advanceTo ((s.reeve d).swapAt + usCycles 100)
    .next (s.swap d s.bw.term)

/-- FOLLOWER_HOLD_TIMEOUT (R506): no answer of the bellwether for 500 µs while the leader is lost. -/
def execFollowerHoldTimeout (d : Die) (s : State) : Res :=
  if !s.leaderLost d then .next s
  else
    let r := s.reeve d
    .next (((s.advanceTo (max r.lostAt r.answered + usCycles 500)).modReeve d (fun r => { r with state := .hold })).reeveAlert 2 d 0)

/-- HOLD_ANSWER (R506): the bellwether answers; a current term whose renewal is accepted leads on, otherwise it follows. -/
def execHoldAnswer (d : Die) (s : State) : Res :=
  let r := s.reeve d
  if r.state ≠ .hold ∨ !r.acts then .next s
  else if r.term = s.bw.term ∧ s.bw.lead = some d then
    let s := s.modBw (fun b => { b with lease := some s.clock.now, alive := some s.clock.now })
    .next ((s.modReeve d (fun r => { r with state := .leader, renewed := s.clock.now, answered := s.clock.now })).reeveAlert 3 d 0)
  else
    .next ((s.modReeve d (fun r => { r with state := .follower, term := s.bw.term, answered := s.clock.now })).reeveAlert 3 d 0)

/-- NO_LIVE_REEVE (R508): no renewal and no heartbeat for 500 µs; the bellwether raises event 8. -/
def execNoLiveReeve (s : State) : Res :=
  match s.bw.alive with
  | none => .next s
  | some t =>
    let s := (s.advanceTo (t + usCycles 500)).modBw (fun b => { b with alive := none })
    .next (s.alert 12 (toLe 1 8 ++ toLe 1 0xFF ++ toLe 2 0 ++ toLe 4 s.bw.term.toNat ++ toLe 8 0))

/-- LEADER_YIELD (R510): the follower holds the leader's state, the leader's changes have completed, its lease ends and it
restarts. -/
def execLeaderYield (d : Die) (s : State) : Res :=
  if (s.reeve d).state = .leader ∧ (s.reeve (otherDie d)).state = .follower ∧ s.ledger.reeve = none then
    .next ((s.modBw (fun b => { b with lease := none })).bootReeve d)
  else .next s

/-- The offset of REEVE_CTL. -/
def offReeveCtl : Nat := 0x100000

/-- The write of REEVE_CTL that a commit makes: both restart bits do not commit (R509, R527). -/
def State.reeveCtl (s : State) (v : Word) : Option State :=
  if v.getLsbD 0 && v.getLsbD 1 then none
  else if v.getLsbD 0 then some (s.bootReeve .w)
  else if v.getLsbD 1 then some (s.bootReeve .e)
  else some s

/-- REEVE_RESTART (R527): a committed write of REEVE_CTL. -/
def execReeveRestart (w : Writer) (v : Word) (s : State) : Res :=
  if s.may w then .next (s.commit w offReeveCtl (s.reeveCtl v)) else .next s

/-- REEVE_MEMORY_UNCORRECTABLE (R570): that reeve restarts into Boot. -/
def execReeveMemoryUncorrectable (d : Die) (s : State) : Res :=
  .next ((s.bootReeve d).report 2 d.num .contained .faultInteg 15 0 false)

end Sys2Proof.Machine
end

