-- ==== Sys2Proof/Machine/Loader.lean ====
section
/-! DEFINITION. Sheaves and the loader (chapter 13): the checks of R407 and R408, the load steps of R411, chain loads, failure and
abort. -/

namespace Sys2Proof.Machine

open Sys2Proof

/-! ## Ending work and zeroing (R411, R521, R536) -/

/-- End the work of a mill: queued items are cancelled, started invocations and streams are aborted (R271, R308, R521). -/
def State.endMill (s : State) (m : Nat) : State :=
  let s := Eng.all.foldl (fun s e => s.cancelQueue m e) s
  let s := Eng.all.foldl (fun s e => s.endRunning m e .aborted) s
  (List.range 8).foldl (fun s k => s.stopSlot m k) s

/-- An engine with its state zero; the count of ended invocations that fences go by and the breakpoints
stay, and a debug halt is released (R606). -/
def Engine.cleared (g : Engine) : Engine := { ended := g.ended, dbg := { g.dbg with halt := .none, step := false } }

/-- A mill whose engine state, sync counters and stationary operands are zero (R47, R80, R94, R119). -/
def Mill.cleared (x : Mill) : Mill :=
  { x with
    st := x.st.cleared, mx := x.mx.cleared, sv := x.sv.cleared, ca := x.ca.cleared, cb := x.cb.cleared
    sieve := { stat := x.sieve.stat }, fifos := [], slots := [], flights := [], busy := [], tiles := [], sync := [], incs := []
    marks := [], lands := [], loads := [], turn := [], moveFree := [], stopped := none, frozen := false, reshape := none, ports := []
    parity := [] }

/-- A mill whose frames and program are blank (R411, R416). -/
def Mill.blanked (x : Mill) : Mill :=
  { x with configured := false, program := false, part := {}, cap := 0, syncInit := [], tilled := false, gslot := none }

/-- Zero the instruction memories of a mill (R411). -/
def State.zeroImem (s : State) (m : Nat) : State := s.zeroRange (imemCell m .st 0) (5 * 2 ^ 14)

/-- Zero the instruction memories of `n` mills from `m` on. -/
def State.zeroImems (s : State) (m n : Nat) : State := s.zeroRange (imemCell m .st 0) (n * 2 ^ 17)

/-- Zero the state of a sealed mill (R536). -/
def State.zeroSealedMill (s : State) (m : Nat) : State :=
  if (s.mill m).sealed then
    (((s.zeroRange (loftCell m 0) (2 ^ 20)).zeroRange (bankCell m false 0) (2 ^ 15)).zeroRange (cstoreCell m 0) (2 ^ 13)).modMill m
      (fun x => { x with sealed := false
                         sieve := { x.sieve with d := [], bx := [], a := [], ax := [], e := [], fifo := [] } })
  else s

/-- Zero the state of a sealed plot: its block memories and hold registers (R536). -/
def State.zeroSealedPlot (s : State) (p : Nat) : State :=
  if (s.plot p).sealed then
    (s.zeroRange (bramCell p 0 0) (192 * 2 ^ 13)).modPlot p (fun x => { x with sealed := false, regs := [], nets := [] })
  else s

/-- Blank a plot (R385, R416). -/
def State.blankPlot (s : State) (p : Nat) : State :=
  s.modPlot p (fun x => { pepoch := x.pepoch, accepted := x.accepted, sealed := x.sealed, hold := x.hold, ue := x.ue })

/-- Clear gmask bit g, and tilled-use with the last bit, in an entry (R358). -/
def clearGmask (g : Nat) (e : LedgerEntry) : LedgerEntry :=
  let ctl := e.ctl &&& ~~~ (BitVec.ofNat 32 (2 ^ (8 + g)))
  let ctl := if ctl &&& 0xFF00 = 0 then ctl &&& ~~~ 0x10 else ctl
  { e with ctl := ctl, ctlN := ~~~ ctl }

/-- Set gmask bit g and tilled-use in an entry (R358). -/
def setGmask (g : Nat) (e : LedgerEntry) : LedgerEntry :=
  let ctl := e.ctl ||| BitVec.ofNat 32 (2 ^ (8 + g) + 16)
  { e with ctl := ctl, ctlN := ~~~ ctl }

/-- Change an entry in both copies, where a copy passes its checks. -/
def Ledger.modBoth (l : Ledger) (page : Nat) (f : LedgerEntry → LedgerEntry) : Ledger :=
  let one := fun (l : Ledger) (d : Die) => if (l.copy d page).ok then l.setCopy d page (f (l.copy d page)) else l
  one (one l .w) .e

/-- A group slot returns to Empty, and the ledger clears its gmask bit (R358). -/
def State.emptySlot (s : State) (g : Nat) : State :=
  let l := (Table.get [] s.ledger.pages g).foldl (fun l p => l.modBoth p (clearGmask g)) s.ledger
  let old := s.group g
  { s with
    groups := Table.put {} s.groups g { seatErr := old.seatErr, cause := old.cause, halt := old.halt }
    ledger := { l with pages := Table.erase l.pages g } }

/-! ## The sheaf (R403 to R406) -/

/-- Sections of a header. -/
def nsect (b : List Byte) : Nat := leAt b 26 2
/-- Bytes of a sheaf. -/
def sheafLen (b : List Byte) : Nat := leAt b 8 8
/-- The sheaf is full. -/
def sheafFull (b : List Byte) : Bool := decide (leAt b 22 1 = 1)
/-- An entry of the section table. -/
def secEntry (b : List Byte) (i : Nat) : List Byte := (b.drop (256 + 96 * i)).take 96
/-- Type of an entry. -/
def secType (e : List Byte) : Nat := leAt e 0 2
/-- Flag i of an entry: 0 encrypted, 1 sealed, 2 release, 3 tilled. -/
def secFlag (e : List Byte) (i : Nat) : Bool := bitOf (leAt e 2 2) i
/-- Target of an entry. -/
def secTarget (e : List Byte) : Nat := leAt e 8 4
/-- Offset of a body. -/
def secOff (e : List Byte) : Nat := leAt e 16 8
/-- Length of a body. -/
def secLen (e : List Byte) : Nat := leAt e 24 8
/-- All entries. -/
def secEntries (b : List Byte) : List (List Byte) := (List.range (nsect b)).map (secEntry b)
/-- Where the signature block starts. -/
def sigAt (b : List Byte) : Nat := 256 + 96 * nsect b
/-- The bytes of header, table and signature block. -/
def headLen (b : List Byte) : Nat := sigAt b + 3744
/-- The signed digest (R405). -/
def sheafDigest (b : List Byte) : List Byte := sha3 (b.take (sigAt b))

/-- The targets of the entries of one of some types. -/
def namedBy (b : List Byte) (ts : List Nat) : List Nat :=
  ((secEntries b).filter (fun e => ts.contains (secType e))).map secTarget

/-- The header fields are those of 13 Table 2. -/
def headerOk (b : List Byte) : Bool :=
  let fab := leAt b 25 1
  let n := fun (x : Nat) => decide (1 ≤ x) && decide (x ≤ 6)
  decide (leAt b 0 4 = 0x48534653) && decide (leAt b 4 2 = 1) && decide (leAt b 6 2 = 256) && decide (leAt b 19 1 = 0) &&
    decide (leAt b 20 1 ≤ 2) && decide (1 ≤ leAt b 21 1) && decide (leAt b 21 1 ≤ 2) &&
    decide (leAt b 22 1 = 1 ∨ leAt b 22 1 = 2) && decide (leAt b 23 1 < leAt b 24 1) &&
    (if sheafFull b then n (fab % 16) && n (fab / 16) else decide (fab = 0)) &&
    decide (1 ≤ nsect b) && decide (nsect b ≤ 4096) && decide (leAt b 40 216 = 0) && decide (headLen b ≤ sheafLen b)

/-- The target of an entry is one that 13 Table 4 gives its type, and the body has a length of that type. -/
def secShape (e : List Byte) : Bool :=
  let t := secTarget e
  let n := secLen e
  match secType e with
  | 1 => decide (t < 32) && decide (n % 416 = 0)
  | 2 => decide (t < 1152) && decide (n = 3328)
  | 3 => decide (t < 1152) && decide (n = 40960)
  | 4 => decide (t < 2) && decide (n % 416 = 0)
  | 5 => decide (t < 8)
  | 6 => decide (t = 0) && decide (n % 16 = 0)
  | 7 => decide (t = 0) && decide (n % 32 = 0)
  | 8 => decide (t < 2)
  | 9 => decide (t = 0)
  | _ => false

/-- The fields of an entry are those of 13 Tables 3 and 4. -/
def secOk (e : List Byte) : Bool :=
  let enc := secFlag e 0
  secShape e && decide (leAt e 2 2 < 16) && (enc || (decide (leAt e 4 1 = 0) && decide (leAt e 64 28 = 0))) &&
    decide (leAt e 5 3 = 0) && decide (leAt e 12 4 = 0) && decide (leAt e 92 4 = 0) && decide (secOff e % 64 = 0)

/-- The first entry that breaks a field, the order of bodies, the sheaf's length, or the place of the key section (R403, R542). -/
def badSection (len : Nat) : Nat → Nat → Bool → List (List Byte) → Option Nat
  | _, _, _, [] => none
  | i, at_, keys, e :: rest =>
    if !secOk e || decide (secOff e < at_) || decide (len < secOff e + secLen e) || (secFlag e 0 && !keys) then some i
    else badSection len (i + 1) (secOff e + secLen e) (keys || decide (secType e = 9)) rest

/-- The option code of a sheaf header. -/
def optionCode : Option3 → Nat
  | .m => 0
  | .b => 1
  | .l => 2

/-- The owner's signature verifies under an active slot (R405, reason 3). -/
def State.signatureOk (s : State) (b : List Byte) : Bool :=
  let g := (b.drop (sigAt b)).take 3744
  let pub := (g.drop 8).take 1312
  decide (leAt g 0 1 = 1) &&
    (match s.sec.slots[leAt g 1 1]? with
     | some o => !o.revoked && decide (sha3 pub = o.hash) && Config.mlDsaVerify pub (sheafDigest b) ((g.drop 1320).take 2420)
     | none => false)

/-- A load names something that a group slot in states 2 to 5 holds, a slot that is not Empty, or a part whose power domain is not ON
(reason 8). -/
def State.loadBusy (s : State) (b : List Byte) : Bool :=
  let plots := namedBy b [1]
  let mills := namedBy b [2, 3]
  (if sheafFull b then s.groups.any (fun g => g.2.state.held)
   else plots.any s.plotHeld || mills.any s.millHeld ||
     (namedBy b [5]).any (fun g => !decide ((s.group g).state = .empty))) ||
    plots.any (fun p => decide (s.domState p ≠ 0)) || mills.any (fun m => decide (s.domState (s.millDomain m) ≠ 0))

/-- Stage A (R407): the first failure in the order of 13 Table 7, with the section it lies in. -/
def State.stageA (s : State) (hop : Nat) (b : List Byte) : Option (Nat × Nat) :=
  if !headerOk b then some (1, 0)
  else
    match badSection (sheafLen b) 0 (headLen b) false (secEntries b) with
    | some i => some (1, i)
    | none =>
      if leAt b 16 3 ≠ 0x017160 ∨ leAt b 20 1 ≠ optionCode s.ident.option ∨ leAt b 21 1 ≠ (if s.ident.grade2 then 2 else 1) ∨
          leAt b 23 1 ≠ hop then some (2, 0)
      else if !s.signatureOk b then some (3, 0)
      else
        match (secEntries b).findIdx? (fun e => (decide (secType e = 2) || decide (secType e = 3)) &&
            (!s.millPresent (secTarget e) || (s.mill (secTarget e)).oos)) with
        | some i => some (7, i)
        | none => if s.loadBusy b then some (8, 0) else none

/-! ## Running loads, failure and abort (R409, R415 to R418) -/

/-- Change the loader. -/
def State.modCfg (s : State) (f : Cfg → Cfg) : State := { s with cfg := f s.cfg }

/-- Change the running load. -/
def State.modRun (s : State) (f : LoadRun → LoadRun) : State := s.modCfg (fun c => { c with run := c.run.map f })

/-- A load is in progress, or its chain has bytes left to forward. -/
def Cfg.loading (c : Cfg) : Bool := c.run.isSome || c.chain.isSome

/-- Send a chain control frame on AE3 (R414, Table 9). -/
def State.chainFrame (s : State) (b : List Byte) : State :=
  s.send { kind := .chainFrame, unit := 7, addr := 0, data := padTo 64 b }

/-- Send a chain abort (R415). -/
def State.chainAbort (s : State) (hop reason : Nat) : State := s.chainFrame (toLe 1 0x33 ++ toLe 1 hop ++ toLe 1 reason)

/-- The chain has begun forwarding or has bytes left to forward (R415). -/
def Cfg.forwards (c : Cfg) : Bool :=
  match c.chain with
  | none => false
  | some k => k.started || !k.buf.isEmpty ||
      (match c.run, k.follow with
       | some r, some n => decide (16 ≤ r.rx.length) && decide (sheafLen r.rx < n)
       | some r, none => decide (25 ≤ r.rx.length) && decide (leAt r.rx 23 1 + 1 < leAt r.rx 24 1)
       | none, some n => decide (k.got < n)
       | none, none => false)

/-- Both chain ports return to field use, and the rest of the stream is discarded. -/
def Cfg.endChain (c : Cfg) : Cfg := { c with chain := none, aw3 := false, ae3 := false }

/-- The frames of a class and target: plots and mills by their frame-address fields (R402). -/
def frameOf (cls target fa : Nat) : Bool :=
  decide (fa / 2 ^ 29 = cls) &&
    decide ((match cls with
      | 0 => field fa 24 5
      | 1 => field fa 10 11
      | _ => field fa 24 1) = target)

/-- Drop frames from configuration memory. -/
def State.dropFrames (s : State) (f : Nat → Bool) : State :=
  s.modCfg (fun c => { c with frames := c.frames.filter (fun e => !f e.1), frames2 := c.frames2.filter (fun e => !f e.1) })

/-- Undo a load that passed stage A (R416). -/
def State.undoLoad (s : State) (b : List Byte) : State :=
  if sheafFull b then
    let s := s.dropFrames (fun fa => decide (fa / 2 ^ 29 < 2))
    let s := (s.fab.plots.map Prod.fst).foldl State.blankPlot s
    let s := (s.mills.map Prod.fst).foldl (fun s m => (s.zeroImem m).modMill m Mill.blanked) s
    let s := (List.range 8).foldl State.emptySlot s
    { s.modCfg (fun c => { c with fullOk := false }) with fab := { s.fab with clkW := 0, clkE := 0 } }
  else
    let plots := namedBy b [1]
    let mills := namedBy b [2, 3]
    let s := s.dropFrames (fun fa => plots.any (fun p => frameOf 0 p fa) || mills.any (fun m => frameOf 1 m fa))
    let s := plots.foldl State.blankPlot s
    let s := mills.foldl (fun s m => (s.zeroImem m).modMill m Mill.blanked) s
    (namedBy b [5]).foldl State.emptySlot s

/-- The running load fails or is aborted (R410, R415, R416, R418): what it wrote is undone, the reason is recorded, CONF_ERR_N is
asserted but for an abort, and a chain abort is sent where the chain goes on. -/
def State.loadFail (s : State) (reason sect faddr : Nat) : State :=
  match s.cfg.run with
  | none => s
  | some r =>
    let fwd := s.cfg.forwards
    let s := if r.passed then s.undoLoad r.rx else s
    let s := s.modCfg (fun c => { c.endChain with
      run := none, state := 6, reason := BitVec.ofNat 4 reason, sect := BitVec.ofNat 12 sect
      faddrHi := BitVec.ofNat 16 (faddr / 65536), err := c.err || decide (reason ≠ 12) })
    let s := if reason ≠ 12 then s.evBits s.clock.now 0x3040008 [31] else s
    let s := if fwd then s.chainAbort r.hop reason else s
    if r.passed then s.alert 9 (toLe 1 reason ++ toLe 1 0 ++ toLe 2 sect ++ toLe 4 faddr) else s

/-- The offset of CFG_LOAD. -/
def offCfgLoad : Nat := 0x3040000

/-- The write of CFG_LOAD that a commit makes (R409, R418, R427): abort ends the running load; while a load runs any other write
fails with reason 8 recorded; src 3 does not commit. -/
def State.cfgLoad (s : State) (v : Word) : Option State :=
  let src := v.toNat % 4
  if src = 3 then none
  else if v.getLsbD 2 then some (s.loadFail 12 0 0)
  else if s.cfg.loading then none
  else if src = 0 then some s
  else
    let r : LoadRun := { src := src, armed := decide (src = 2), lastAt := s.clock.now }
    let k : ChainRun := { hop := 0 }
    some (s.modCfg (fun c => { c with
      run := some r, chain := if src = 1 then some k else none, aw3 := decide (src = 2)
      state := if src = 2 then 1 else 2, reason := 0, sect := 0, faddrHi := 0, pos := 0
      chainPos := if src = 1 then 0 else c.chainPos }))

/-- A committed CFG_LOAD, with the reason 8 that a refused one records. -/
def State.commitLoad (s : State) (w : Writer) (v : Word) : State :=
  let busy := s.cfg.loading && !v.getLsbD 2 && decide (v.toNat % 4 ≠ 3)
  let s' := s.commit w offCfgLoad ((s.cfgLoad v).map (fun s => s.cwHold offCfgLoad (v &&& 3)))
  if busy then s'.modCfg (fun c => { c with reason := 8 }) else s'

/-- LOAD_START (R409): CFG_LOAD with src 1. -/
def execLoadStart (w : Writer) (s : State) : Res := if s.may w then .next (s.commitLoad w 1) else .next s

/-- CHAIN_ARM (R409): CFG_LOAD with src 2. -/
def execChainArm (w : Writer) (s : State) : Res := if s.may w then .next (s.commitLoad w 2) else .next s

/-- LOAD_ABORT (R418): CFG_LOAD with abort. -/
def execLoadAbort (w : Writer) (s : State) : Res := if s.may w then .next (s.commitLoad w 4) else .next s

/-! ## Stage B (R407, R411 step 3) -/

/-- The data and the CRC of a frame record agree with its crc and syn (reason 6). -/
def recordCheck (r : List Byte) : Bool :=
  let data := (r.drop 4).take 400
  decide (crc32 data = leAt r 404 4) && decide ((Config.frameSyn (data ++ toLe 4 (leAt r 404 4))).toNat = leAt r 408 2)

/-- The frame address of a record is one of the section's target (R402, R404). -/
def recordAddrOk (typ target fa : Nat) : Bool :=
  match typ with
  | 1 => frameOf 0 target fa && decide (field fa 14 10 = 0) && decide (fa % 2 ^ 14 < 12288)
  | 2 => frameOf 1 target fa && decide (field fa 21 8 = 0) && decide (field fa 3 7 = 0)
  | _ => frameOf 2 target fa && decide (field fa 25 4 = 0) && decide (field fa 10 14 = 0)

/-- The records of a body. -/
def records : Nat → List Byte → List (List Byte)
  | 0, _ => []
  | n + 1, b => b.take 416 :: records n (b.drop 416)

/-- The first failing record of a frame section: its reason and frame address (reasons 1 and 6). -/
def badRecord (typ target : Nat) : List Nat → List (List Byte) → Option (Nat × Nat)
  | _, [] => none
  | seen, r :: rest =>
    let fa := leAt r 0 4
    if !recordAddrOk typ target fa || seen.contains fa || decide (leAt r 410 6 ≠ 0) then some (1, fa)
    else if !recordCheck r then some (6, fa)
    else badRecord typ target (fa :: seen) rest

/-- Write the frames of a section (R411 step 3); die frames are stored twice (R425). -/
def State.writeFrames (s : State) (enc : Bool) (rs : List (List Byte)) : State :=
  rs.foldl (fun s r =>
    let fa := leAt r 0 4
    let f : FrameRec :=
      { data := (r.drop 4).take 400, crc := BitVec.ofNat 32 (leAt r 404 4), syn := BitVec.ofNat 12 (leAt r 408 2), enc := enc }
    s.modCfg (fun c => { c with
      frames := Table.insert c.frames fa f
      frames2 := if fa / 2 ^ 29 = 2 then Table.insert c.frames2 fa f else c.frames2 })) s

/-- A ledger record is one of 13 Table 4. -/
def ledgerRecords : Nat → List Byte → List (Nat × Word × Word)
  | 0, _ => []
  | n + 1, b => (leAt b 0 4, BitVec.ofNat 32 (leAt b 4 4), BitVec.ofNat 32 (leAt b 8 4)) :: ledgerRecords n (b.drop 16)

/-- The key section is one for this device: magic, id_hash, and every key unwraps (R542, R543). -/
def State.keysOk (s : State) (b : List Byte) : Bool :=
  decide (leAt b 0 4 = 0x4B455953) && decide (1 ≤ leAt b 4 2) && decide (leAt b 4 2 ≤ 255) && decide (leAt b 6 2 = 0) &&
    decide ((b.drop 8).take 32 = idHash) && !s.sec.killed &&
    (List.range (leAt b 4 2)).all (fun i => (Config.sectionKey b (i + 1)).isSome)

/-- The plain body of an encrypted section (R406, R543): none fails with reason 5. -/
def State.openBody (s : State) (r : LoadRun) (e body : List Byte) : Option (List Byte) :=
  if !secFlag e 0 then some body
  else
    match r.keys with
    | none => none
    | some ks =>
      let k := leAt e 4 1
      if k = 0 ∨ leAt ks 4 2 < k ∨ s.sec.killed then none
      else (Config.sectionKey ks k).bind (fun key =>
        Config.gcmOpen key (e.take 32) ((e.drop 64).take 12) ((e.drop 76).take 16) body)

/-- The image of each engine in a program body: its offset. -/
def progOff : Eng → Nat
  | .st => 0
  | .mx => 16384
  | .sv => 24576
  | .ca => 32768
  | .cb => 36864

/-- Process the body of section `i`, which has arrived whole (R407 stage B, R411 step 3): the first failure, or the state with its
frames or program written or its records kept for the commit. -/
def State.takeBody (s : State) (r : LoadRun) (i : Nat) : Except (Nat × Nat) State :=
  let e := secEntry r.rx i
  let body := (r.rx.drop (secOff e)).take (secLen e)
  let t := secTarget e
  if sha3 body ≠ (e.drop 32).take 32 then .error (4, 0)
  else
    match s.openBody r e body with
    | none => .error (5, 0)
    | some p =>
      let keep := s.modRun (fun x => { x with bodies := Table.insert x.bodies i p })
      match secType e with
      | 3 => .ok (Eng.all.foldl (fun s g => s.setBytes (imemCell t g 0) ((p.drop (progOff g)).take g.imemBytes)) s)
      | 9 => if s.keysOk p then .ok (s.modRun (fun x => { x with keys := some p })) else .error (5, 0)
      | 6 =>
        if (ledgerRecords (p.length / 16) p).any (fun x => decide (2 ^ 19 ≤ x.1)) then .error (1, 0) else .ok keep
      | 5 => .ok keep
      | 7 => .ok keep
      | 8 => .ok keep
      | typ =>
        let rs := records (p.length / 416) p
        match badRecord typ t [] rs with
        | some x => .error x
        | none =>
          let s := if typ = 1 then s.modPlot t (fun x => { x with state := .writing }) else s
          .ok (s.writeFrames (secFlag e 0 && secFlag e 3) rs)

/-- Process the bodies that have arrived, in order (R407 stage B). With the last one the load stands before stage C. -/
def State.takeBodies (s : State) : Nat → State
  | 0 => s
  | n + 1 =>
    match s.cfg.run with
    | none => s
    | some r =>
      if !r.passed then s
      else if r.secs < nsect r.rx then
        let e := secEntry r.rx r.secs
        if r.rx.length < secOff e + secLen e then s
        else
          match s.takeBody r r.secs with
          | .error (why, fa) => s.loadFail why r.secs fa
          | .ok s => (s.modRun (fun x => { x with secs := x.secs + 1 })).takeBodies n
      else if r.rx.length = sheafLen r.rx then s.modCfg (fun c => { c with state := 4 })
      else s

/-- Process what has arrived. -/
def State.pumpLoad (s : State) : State :=
  match s.cfg.run with
  | some r => if r.passed then s.takeBodies (nsect r.rx + 1) else s
  | none => s

/-! ## The stream (R412, R414, R415) -/

/-- The bytes of `n` sheaves of a stream, where their headers have come. -/
def streamLen (b : List Byte) : Nat → Option Nat
  | 0 => some 0
  | n + 1 =>
    if b.length < 16 ∨ sheafLen b < 16 then none
    else (streamLen (b.drop (sheafLen b)) n).map (fun k => sheafLen b + k)

/-- Send the whole forwarded frames; with `flush` the last one too, padded (R414). -/
def State.sendChain (s : State) (flush : Bool) : Nat → State
  | 0 => s
  | n + 1 =>
    match s.cfg.chain with
    | none => s
    | some k =>
      if 64 ≤ k.buf.length ∨ (flush ∧ 0 < k.buf.length) then
        (s.send { kind := .chainFrame, unit := 7, addr := 1, data := padTo 64 (k.buf.take 64) }).modCfg (fun c => { c with
          chain := some { k with buf := k.buf.drop 64 } }) |>.sendChain flush n
      else s

/-- The last stream byte has been forwarded: a chain end follows, and the chain ports return to field use (R414, R415). -/
def State.finishChain (s : State) : State :=
  let s := match s.cfg.chain with
    | some k => if k.started then (s.sendChain true (k.buf.length + 1)).chainFrame (toLe 1 0x32) else s
    | none => s
  s.modCfg Cfg.endChain

/-- Forward stream bytes: AE3 enters chain mode and a chain start with hop + 1 goes before the first of them (R414, R415). The count of
a host load's chain start is not in the sheaf, and is a free value. -/
def State.forwardBytes (s : State) (k : ChainRun) (b : List Byte) : State :=
  let s := if k.started || b.isEmpty then s
    else
      let (v, s) := s.draw
      let n := match k.follow with
        | some n => n - (k.got - b.length)
        | none => v % 2 ^ 64
      s.chainFrame (toLe 1 0x31 ++ toLe 1 (k.hop + 1) ++ toLe 6 0 ++ toLe 8 n ++ toLe 8 (2 ^ 64 - 1 - n))
  let k := { k with started := k.started || !b.isEmpty, buf := k.buf ++ b, fwd := k.fwd ++ b }
  (s.modCfg (fun c => { c with chain := some k, ae3 := k.started })).sendChain false (k.buf.length + 1)

/-- The header of the device's own sheaf, where its first 32 bytes have come: how long the sheaf is. -/
def LoadRun.ownLen (r : LoadRun) : Option Nat := if r.rx.length < 16 then none else some (sheafLen r.rx)

/-- Bytes of the stream: the first sheaf is the device's own, the rest is forwarded (R412, R415). -/
def State.feed (s : State) (b : List Byte) : State :=
  match s.cfg.chain with
  | none => s
  | some k =>
    let k := { k with got := k.got + b.length }
    let s := s.modCfg (fun c => { c with chain := some k })
    let mine := match s.cfg.run with
      | none => 0
      | some r =>
        let n := match (r.rx ++ b).length, sheafLen (r.rx ++ b) with
          | l, n => if l < 16 then l else max n 256
        min b.length (n - r.rx.length)
    let s := if mine = 0 then s
      else
        let s := s.modRun (fun r => { r with rx := r.rx ++ b.take mine, lastAt := s.clock.now })
        (s.modCfg (fun c => { c with pos := c.pos + BitVec.ofNat 64 mine })).pumpLoad
    match s.cfg.chain with
    | some k => if b.length ≤ mine then s else s.forwardBytes k (b.drop mine)
    | none => s

/-- The stream has ended: a chain start's count has come, or the sheaves that a host load's header counts. -/
def State.streamDone (s : State) : Bool :=
  match s.cfg.chain with
  | none => false
  | some k =>
    (match k.follow, s.cfg.run with
     | some n, _ => decide (n ≤ k.got)
     | none, some r =>
       decide (25 ≤ r.rx.length) && decide (sheafLen r.rx ≤ r.rx.length) &&
         (match streamLen k.fwd (leAt r.rx 24 1 - leAt r.rx 23 1 - 1) with
          | some n => decide (n ≤ k.fwd.length)
          | none => false)
     | none, none => true)

/-- Take stream bytes, and end the chain with the last of them. -/
def State.stream (s : State) (b : List Byte) : State :=
  let s := s.feed b
  if s.streamDone then s.finishChain else s

/-- Bytes at an offset of CFG_WIN (R412): bytes at the window offset that follows are taken; another offset fails the load with
reason 11. -/
def State.sheafWrite (s : State) (off : Nat) (data : List Byte) : State :=
  match s.cfg.run, s.cfg.chain with
  | some r, some k =>
    if r.src ≠ 1 ∨ data = [] then s
    else if off ≠ k.got % 2 ^ 20 then s.loadFail 11 r.secs 0
    else s.stream data
  | none, some k => if k.follow.isSome ∨ off ≠ k.got % 2 ^ 20 then s else s.stream data
  | _, none => s

/-- SHEAF_WINDOW_WRITE (R412). -/
def execSheafWindowWrite (off : BitVec 20) (data : List Byte) (s : State) : Res := .next (s.sheafWrite off.toNat data)

/-- CHAIN_START_RECEIVE (R415): accepted while armed, when its count matches its complement. -/
def execChainStartReceive (payload : List Byte) (s : State) : Res :=
  let n := leAt payload 8 8
  let ok := decide (leAt payload 0 1 = 0x31) && decide (leAt payload 16 8 = 2 ^ 64 - 1 - n)
  match s.cfg.run with
  | some r =>
    if r.armed && ok then
      let hop := leAt payload 1 1
      let k : ChainRun := { hop := hop, follow := some n }
      .next ((s.modCfg (fun c => { c with state := 2, chainPos := BitVec.ofNat 8 hop, chain := some k })).modRun (fun r =>
        { r with armed := false, hop := hop, lastAt := s.clock.now }))
    else .next (s.tallyW .chainDrop)
  | none => .next (s.tallyW .chainDrop)

/-- CHAIN_DATA_RECEIVE (R414, R462): 64 stream bytes on AW3; padding beyond the announced bytes is not taken. A port that is armed
and has received no chain start discards and counts the frame. -/
def execChainDataReceive (data : List Byte) (s : State) : Res :=
  match s.cfg.chain with
  | none => .next (if (s.cfg.run.map (·.armed)) = some true then s.tallyW .chainDrop else s)
  | some k =>
    match k.follow with
    | none => .next s
    | some n => .next (s.feed ((padTo 64 data).take (n - k.got)))

/-- CHAIN_END_RECEIVE (R415): the stream ends and the end goes on. -/
def execChainEndReceive (s : State) : Res :=
  match s.cfg.chain with
  | some k => if k.follow.isSome then .next s.finishChain else .next s
  | none => .next s

/-- CHAIN_ABORT_RECEIVE (R415): the load fails with reason 10 unless it is done; a chain that has begun forwarding passes it on. -/
def execChainAbortReceive (payload : List Byte) (s : State) : Res :=
  match s.cfg.run, s.cfg.chain with
  | some r, _ => if r.src = 2 ∧ !r.armed then .next (s.loadFail 10 r.secs 0) else .next s
  | none, some k =>
    if k.follow.isSome then
      .next ((if k.started then s.chainAbort k.hop (leAt payload 2 1) else s).modCfg Cfg.endChain)
    else .next s
  | none, none => .next s

/-- LOAD_SEQUENCE_TIMEOUT (R407): no sheaf byte for 10 ms, while bytes are still to come. -/
def execLoadSequenceTimeout (s : State) : Res :=
  match s.cfg.run with
  | none => .next s
  | some r =>
    let all := match r.ownLen with
      | some n => decide (n ≤ r.rx.length)
      | none => false
    if r.armed || all then .next s else .next ((s.advanceTo (r.lastAt + usCycles 10000)).loadFail 11 r.secs 0)

/-! ## Stage A and load steps 1 and 2 (R410, R411) -/

/-- Work of some mills runs. -/
def State.anyWork (s : State) (ms : List Nat) : Bool :=
  ms.any (fun m => Eng.all.any (fun e => ((s.mill m).eng e).running.isSome) || !(s.mill m).streamsDone)

/-- Withdraw mills with force and a limit of 100 µs (R411 step 1): queued work is cancelled, and what still runs at the limit is
aborted. -/
def State.forceMills (s : State) (ms : List Nat) : State :=
  let s := ms.foldl (fun s m => Eng.all.foldl (fun s e => s.cancelQueue m e) s) s
  let s := if s.anyWork ms then s.advanceTo (s.clock.now + hundredUs) else s
  ms.foldl State.endMill s

/-- At the next tick, plots that are Live close (R386, R411 step 1). -/
def State.closeAtTick (s : State) (ps : List Nat) : State :=
  let live := ps.filter (fun p => !(s.plot p).state.closed)
  if live.isEmpty then s else live.foldl (fun s p => s.closePlot p .configured) s.nextTick

/-- A plot's frames are cleared: it is blank, and a sealed one is zeroed first (R411 step 2, R536). -/
def State.clearPlot (s : State) (p : Nat) : State := (s.zeroSealedPlot p).blankPlot p

/-- A mill's frames are cleared and its instruction memories zeroed; a sealed one that is named is zeroed first (R411 step 2, R536). -/
def State.clearMill (s : State) (named : Bool) (m : Nat) : State :=
  ((if named then s.zeroSealedMill m else s).zeroImem m).modMill m (fun x => { x.blanked with sfr := none })

/-- Load steps 1 and 2 (R411). -/
def State.loadClear (s : State) (b : List Byte) : State :=
  let plots := namedBy b [1]
  let mills := namedBy b [2, 3]
  if sheafFull b then
    let s := s.modCfg (fun c => { c with fullOk := false })
    let all := s.mills.map Prod.fst
    let s := s.forceMills all
    let s := (s.fab.plots.map Prod.fst).foldl (fun s p => s.closePlot p .configured)
      (if s.fab.plots.any (fun p => !p.2.state.closed) then s.nextTick else s)
    let s := { s with fab := { s.fab with clkW := 0, clkE := 0 }, routes := {}, bell := { s.bell with crossings := [] } }
    let s := (s.fab.plots.map Prod.fst).foldl (fun s p => if plots.contains p then s.clearPlot p else s.blankPlot p) s
    let s := (all ++ mills).foldl (fun s m => s.clearMill (mills.contains m) m) (s.zeroImems 0 1152)
    let s := (List.range 8).foldl State.emptySlot s
    s.modCfg (fun c => { c with frames := [], frames2 := [] })
  else
    let s := (s.forceMills mills).closeAtTick plots
    let s := plots.foldl State.clearPlot s
    let s := mills.foldl (State.clearMill · true) s
    s.dropFrames (fun fa => plots.any (fun p => frameOf 0 p fa) || mills.any (fun m => frameOf 1 m fa))

/-- Header, table and signature block have come, or a header whose section count is refused. -/
def LoadRun.headReady (r : LoadRun) : Bool :=
  decide (256 ≤ r.rx.length) && (decide (headLen r.rx ≤ r.rx.length) || !headerOk r.rx)

/-- STAGE_A_DONE (R407, R410, R411): the checks before any write; on a pass steps 1 and 2 run and the bodies that have arrived are
taken. -/
def execStageADone (s : State) : Res :=
  match s.cfg.run with
  | none => .next s
  | some r =>
    if r.armed || r.passed || !r.headReady then .next s
    else
      match s.stageA r.hop r.rx with
      | some (why, i) => .next (s.loadFail why i 0)
      | none =>
        let s := s.loadClear r.rx
        .next (((s.modCfg (fun c => { c with state := 3 })).modRun (fun r => { r with passed := true })).pumpLoad)

/-! ## Stage C and the commit (R408, R411 steps 4 to 7) -/

/-- The bodies of a type with their entries. -/
def LoadRun.plain (r : LoadRun) (typ : Nat) : List (List Byte × List Byte) :=
  r.bodies.filterMap (fun p =>
    let e := secEntry r.rx p.1
    if secType e = typ then some (e, p.2) else none)

/-- The frames stored for a target, by frame number. -/
def Cfg.framesOf (c : Cfg) (cls target : Nat) : List (Nat × List Byte) :=
  (c.frames.filter (fun e => frameOf cls target e.1)).map (fun e => (e.1 % 2 ^ 14, e.2.data))

/-- The image of a named plot. -/
def State.plotImg (s : State) (p : Nat) : PlotImage := Config.plotImage (s.cfg.framesOf 0 p)

/-- The image of a named mill. -/
def State.millImg (s : State) (m : Nat) : MillImage := Config.millImage (s.cfg.framesOf 1 m)

/-- W of a crossing type (R161); the X6 allowance is 2 (R625). -/
def crossW : Nat → Nat
  | 1 => 4
  | 2 => 5
  | 3 => 9
  | 4 => 6
  | 5 => 24
  | 6 => 9
  | 7 => 4
  | _ => 6

/-- A fixed-latency crossing has a CROSS_DELAY below W + 1, or beyond 48 cycles (R163). -/
def crossBad (t : Table Crossing) : Bool :=
  t.any (fun c => c.2.isFixed && (decide (c.2.delay < crossW c.2.typ + 1) || decide (48 < c.2.delay)))

/-- A frame slot is no bookable one in a tick (R194, R457): no frame of its lane starts there, or it is the bell slot, the notice slot
or a block-end frame. -/
def frameClosed (f : FrameSlot) (tick : Nat) : Bool :=
  let st := tick % 1024 * 6144 + f.start.toNat
  decide (6144 ≤ f.start.toNat) || decide (laneStart f.lane.toNat st ≠ st) || endsBlock st || bellSlotAt f.lane.toNat st

/-- An almanac books a refresh window of its cadence or a training slot with a granary command, or a frame slot that is not bookable
(R194, R333, R334, R457). -/
def booksWindow (a : Almanac) : Bool :=
  a.bookings.any (fun b =>
    match b.act with
    | .granary _ =>
      decide (b.tick % 1024 < 2) || (decide (b.tick % (if a.hot then 2 else 4) = 0) && decide (b.cycle < 540))
    | .send _ f _ => frameClosed f b.tick
    | .expect _ f _ => frameClosed f b.tick
    | .transit _ f _ => frameClosed f b.tick
    | _ => false)

/-- Two marks of an almanac stand fewer than 64 ticks apart in its span (R216). -/
def marksClose (a : Almanac) : Bool :=
  let n := 2 ^ a.lgSpan
  a.marks.any (fun x => a.marks.any (fun y => decide (x.num < y.num) &&
    (decide ((x.pos + n - y.pos % n) % n < 64) || decide ((y.pos + n - x.pos % n) % n < 64))))

/-- An update of the ledger section, on the loader's own path (R356, R366). -/
def State.loaderUpdate (s : State) (u : Nat × Word × Word) : State :=
  match s.applyUpdate u.1 u.2.1 u.2.2 none with
  | (.error _, s) => s
  | (.ok x, s) => { s with ledger := { s.ledger with seals := x.zero.foldl Table.erase s.ledger.seals } }

/-- Apply the ledger section of a sheaf (R356, R360, R411 step 5). -/
def State.ledgerSection (s : State) (r : LoadRun) : State :=
  ((r.plain 6).flatMap (fun x => ledgerRecords (x.2.length / 16) x.2)).foldl State.loaderUpdate s

/-- The entry of a page as the sheaf's own ledger section will leave it (R408). -/
def State.pageAfter (s : State) (r : LoadRun) (page : Nat) : LedgerEntry := ((s.ledgerSection r).oldEntry page).1

/-- Stage C of an almanac in a slot (R408). -/
def State.almanacBad (s : State) (r : LoadRun) (g : Nat) (a : Almanac) : Bool :=
  booksWindow a ||
    a.masks.any (fun m => decide ((s.granary m.1.toNat).mask m.2.1 ≠ m.2.2)) ||
    a.mills.any (fun m => !s.cfg.frames.any (fun e => frameOf 1 m.toNat e.1) || decide ((s.millImg m.toNat).gslot.toNat ≠ g)) ||
    a.plots.any (fun p => decide (((s.plotImg p.toNat).gslot.map BitVec.toNat) ≠ some g)) ||
    marksClose a || decide (31 < a.hops) ||
    a.pages.any (fun p =>
      let e := s.pageAfter r p
      !e.present || !e.pinned || decide (e.target = 2)) ||
    a.plots.any (fun p => (s.plotImg p.toNat).hedges.any (fun h => !(a.plots.map BitVec.toNat).contains h.2.plot))

/-- Stage C (R408): the sheaf is refused with reason 9. -/
def State.stageCBad (s : State) (r : LoadRun) : Bool :=
  (namedBy r.rx [2]).any (fun m => crossBad (s.millImg m).crossings) ||
    (namedBy r.rx [4]).any (fun d => crossBad (Config.dieImage (s.cfg.framesOf 2 d)).crossings) ||
    (r.plain 5).any (fun x => s.almanacBad r (secTarget x.1) (Config.almanac x.2))

/-- Ring records of a rings section (13 Table 4). -/
def ringRecords : Nat → List Byte → List (Nat × BitVec 192)
  | 0, _ => []
  | n + 1, b => (leAt b 0 2, BitVec.ofNat 192 (leAt b 8 24)) :: ringRecords n (b.drop 32)

/-- Step 5 (R411): ledger section, gmask, ring records, group slots. -/
def State.loadStep5 (s : State) (r : LoadRun) : State :=
  let s := s.ledgerSection r
  let s := ((r.plain 7).flatMap (fun x => ringRecords (x.2.length / 32) x.2)).foldl (fun s x =>
    let q : Queue := { record := x.2 }
    if 8192 ≤ x.1 ∧ x.1 < 32768 ∧ q.ringRecordOk then s.setRing x.1 x.2 else s) s
  (r.plain 5).foldl (fun s x =>
    let g := secTarget x.1
    let a := Config.almanac x.2
    let l := a.pages.foldl (fun (l : Ledger) p => l.modBoth p (setGmask g)) s.ledger
    let old := s.group g
    let grp : Group := { state := .loaded, almanac := some a, seatErr := old.seatErr, cause := old.cause, halt := old.halt }
    { s with ledger := { l with pages := Table.put [] l.pages g a.pages }, groups := Table.put {} s.groups g grp }) s

/-- A mill receives its program's state (R411 step 6): its frames' fields, zero engine state, its sync counters. The schedule-fault record
is clear (R115). DESIGN CHOICE: frames that name no partition of R42 leave the one of the reset (log entry 175). -/
def State.armMill (s : State) (r : LoadRun) (m : Nat) : State :=
  let i := s.millImg m
  let es := (secEntries r.rx).filter (fun e => (decide (secType e = 2) || decide (secType e = 3)) && decide (secTarget e = m))
  let frames := es.any (fun e => decide (secType e = 2))
  let s := s.modMill m (fun x => { x.cleared with
    sfr := none, configured := frames, program := es.any (fun e => decide (secType e = 3))
    sealed := es.any (fun e => secFlag e 0 || secFlag e 1) })
  if frames then
    s.modMill m (fun x =>
      let x := { x with part := if i.part.legal then i.part else {}, cap := i.cap, syncInit := i.syncInit, tilled := i.tilled
                        gslot := if i.tilled then some i.gslot.toNat else none, held := i.pepoch, accepted := i.pepoch }
      (List.range 16).foldl (fun x c => x.setCnt c (i.syncInit.getD c 0).toNat) x)
  else s

/-- A plot has 384 crofts of 16 word cells and 192 block memories, and no others (R32, R369). -/
def PlotImage.bounded (i : PlotImage) : PlotImage :=
  { i with cells := i.cells.filter (fun c => decide (c.num < 6144)), contents := i.contents.filter (fun b => decide (b.1 < 192 * 2 ^ 13)) }

/-- A plot enters Configured (R411 step 6, R385, R399). -/
def State.armPlot (s : State) (r : LoadRun) (p : Nat) : State :=
  let i := (s.plotImg p).bounded
  let es := (secEntries r.rx).filter (fun e => decide (secType e = 1) && decide (secTarget e = p))
  let s := { s with mem := i.contents.foldl (fun mem (b : Nat × Byte) => Memory.write mem (bramCell p 0 0 + b.1) b.2) s.mem }
  s.modPlot p (fun x =>
    { (({ x with image := i } : Plot).initRegs) with
      state := .configured, pepoch := i.pepoch, accepted := i.pepoch, ue := false
      sealed := es.any (fun e => secFlag e 0 || secFlag e 1), tilled := es.any (fun e => secFlag e 3)
      gslot := i.gslot.getD 0 })

/-- The crossings that a unit's frames set up stand in place of those that they set up before, which are elastic again where the new
frames do not mark them (R162). -/
def putCrossings (t : Table Crossing) (u : Nat × Table Crossing) : Table Crossing :=
  u.2.foldl (fun t c => Table.insert t c.1 { c.2 with owner := u.1 }) (t.filter (fun c => !decide (c.2.owner = u.1)))

/-- Crossings and routes of a load take effect. -/
def State.armDies (s : State) (r : LoadRun) : State :=
  let xs := ((namedBy r.rx [2]).map (fun m => (m, (s.millImg m).crossings))) ++
    ((namedBy r.rx [4]).map (fun d => (4096 + d, (Config.dieImage (s.cfg.framesOf 2 d)).crossings)))
  let rt := (r.plain 8).map (fun x => Config.routeImage x.2)
  { s with
    bell := { s.bell with crossings := xs.foldl putCrossings s.bell.crossings }
    routes := rt.foldl (fun (t : Routes) i =>
      { rows := i.rows.foldl (fun t c => Table.insert t c.1 c.2) t.rows
        paths := i.paths.foldl (fun t c => Table.insert t c.1 c.2) t.paths }) s.routes }

/-- A release of a Configured plot is asked (R389, R419). -/
def State.askRelease (s : State) (p : Nat) : State :=
  s.modPlot p (fun x => if x.state = .configured then { x with releaseAt := some s.clock.tick } else x)

/-- Steps 5 to 7 (R411): the load commits. -/
def State.loadDone (s : State) (r : LoadRun) : State :=
  let full := sheafFull r.rx
  let s := s.loadStep5 r
  let s := if full then
      { s with fab := { s.fab with clkW := BitVec.ofNat 3 (leAt r.rx 25 1 % 16), clkE := BitVec.ofNat 3 (leAt r.rx 25 1 / 16) } }
    else s
  let s := s.armDies r
  let s := (namedBy r.rx [2, 3]).eraseDups.foldl (fun s m => s.armMill r m) s
  let s := (namedBy r.rx [1]).eraseDups.foldl (fun s p => s.armPlot r p) s
  let rel := ((secEntries r.rx).filter (fun e => decide (secType e = 1) && secFlag e 2)).map secTarget
  let s := rel.foldl State.askRelease s
  let s := s.modCfg (fun c => { c with
    run := none, state := 5, err := false, fullOk := c.fullOk || full, sheafId := BitVec.ofNat 32 (leAt r.rx 28 4) })
  let slot := leAt (r.rx.drop (sigAt r.rx)) 1 1
  ((s.modSec (fun x => { x with loaded := true })).logEntry (if full then 1 else 2) slot (leAt r.rx 28 4) (sheafDigest r.rx) 0).modCfg
    (fun c => if c.chain.isSome then c else c.endChain)

/-- LOAD_COMMIT (R407, R408, R411): after the last body stage C runs, and the load commits or fails with reason 9. -/
def execLoadCommit (s : State) : Res :=
  match s.cfg.run with
  | none => .next s
  | some r =>
    if s.cfg.state ≠ 4 then .next s
    else if s.stageCBad r then .next (s.loadFail 9 0 0)
    else .next (s.loadDone r)

/-- CONF_ERR_RELEASE (R417): a 1 written to CFG_STAT0.err while full_ok is 1 and no load runs. -/
def execConfErrRelease (w : Writer) (s : State) : Res :=
  if s.may w && s.cfg.fullOk && s.cfg.run.isNone && (s.clearable 0x3040008 0x80000000).getLsbD 31 then .next (s.modCfg (fun c => { c with err := false })) else .next s

/-- The plots that a CFG_REL value names are released (R419). -/
def State.cfgRel (s : State) (v : Word) : State :=
  (List.range 32).foldl (fun s p => if v.getLsbD p then s.askRelease p else s) s

/-- CFG_REL (R419). -/
def execCfgRel (w : Writer) (v : Word) (s : State) : Res := if s.may w then .next (s.cfgRel v) else .next s

/-- The copy is withheld (R420): below level 3 the frame is of a sealed plot, or a mill or die frame that an encrypted section of a
tilled group wrote. -/
def State.withheld (s : State) (fa : Nat) : Bool :=
  decide (s.level.toNat < 3) &&
    (if fa / 2 ^ 29 = 0 then (s.plot (field fa 24 5)).sealed
     else match s.cfg.frames.find? (fun e => decide (e.1 = fa)) with
       | some e => e.2.enc
       | none => false)

/-- A committed CFG_RBA: the frame is copied, or withheld and reads zero (R420). -/
def State.readback (s : State) (fa : Word) : State :=
  let a := fa.toNat
  let no := s.withheld a
  let f := if no then none else (s.cfg.frames.find? (fun e => decide (e.1 = a))).map Prod.snd
  s.modCfg (fun c => { c with rba := fa, rbDone := true, rbDenied := no, rbd := f })

/-- FRAME_READBACK (R420). -/
def execFrameReadback (w : Writer) (fa : Word) (s : State) : Res := if s.may w then .next (s.readback fa) else .next s

end Sys2Proof.Machine
end

