-- ==== Sys2Proof/Machine/Sexton.lean ====
section
/-! DEFINITION. The sexton (R421 to R426): passes over configuration memory, corrections, uncorrectable frames and repairs. -/

namespace Sys2Proof.Machine

open Sys2Proof

/-- Change the sexton. -/
def State.modSxt (s : State) (f : Sexton → Sexton) : State := s.modCfg (fun c => { c with sxt := f c.sxt })

/-- The frame is in use (R421): a plot in states 2 to 7, or a mill or die frame that a load has written. -/
def State.frameInUse (s : State) (fa : Nat) : Bool :=
  if fa / 2 ^ 29 = 0 then
    match (s.plot (field fa 24 5)).state with
    | .blank => false
    | .writing => false
    | .configured | .releasing | .live | .retained | .stopped | .idle => true
  else true

/-- The next frame in use from an address on, in frame-address order. -/
def State.nextFrame (s : State) (fa : Nat) : Option Nat :=
  (s.cfg.frames.find? (fun e => decide (fa ≤ e.1) && s.frameInUse e.1)).map Prod.fst

/-- SEXTON_PASS_START (R421): a pass starts every 52,084 ticks, over the frames in use. A pass over no frame ends at once. -/
def execSextonPassStart (s : State) : Res :=
  let x := s.cfg.sxt
  let due := match x.start with
    | some t => decide (t.toNat + 52084 ≤ s.clock.tick.toNat)
    | none => true
  if !due || x.ptr.isSome then .next s
  else
    let p := s.nextFrame 0
    .next (s.modSxt (fun x => { x with ptr := p, start := some s.clock.tick, passes := if p.isSome then x.passes else x.passes + 1 }))

/-- Words and CRC of a frame, 3,232 bits. -/
def FrameRec.code (f : FrameRec) : List Byte := f.data ++ toLe 4 f.crc.toNat

/-- Invert bits of a frame: 0 to 3,231 are words and CRC, from 3,232 on the syndrome. -/
def FrameRec.flip (f : FrameRec) (bits : List Nat) : FrameRec :=
  bits.foldl (fun (f : FrameRec) b =>
    if b < 3200 then { f with data := f.data.set (b / 8) ((f.data.getD (b / 8) 0) ^^^ BitVec.ofNat 8 (2 ^ (b % 8))) }
    else if b < 3232 then { f with crc := f.crc ^^^ BitVec.ofNat 32 (2 ^ (b - 3200)) }
    else { f with syn := f.syn ^^^ BitVec.ofNat 12 (2 ^ (b - 3232)) }) f

/-- Syndrome and CRC both match (R422). -/
def FrameRec.ok (f : FrameRec) : Bool := decide (Config.frameSyn f.code = f.syn) && decide (crc32 f.data = f.crc.toNat)

/-- What the sexton makes of a frame (R422): unchanged, corrected in one bit, or uncorrectable. -/
inductive FrameCheck where
  | same
  | fixed (f : FrameRec)
  | bad
  deriving DecidableEq, Repr

/-- Check a frame (R422). -/
def FrameRec.check (f : FrameRec) : FrameCheck :=
  if f.ok then .same
  else
    match Config.frameBit (Config.frameSyn f.code ^^^ f.syn) with
    | none => .bad
    | some b =>
      let g := f.flip [b]
      if crc32 g.data = g.crc.toNat then .fixed g else .bad

/-- Count a corrected bit (R422). -/
def State.countFixed (s : State) : State :=
  (s.modSxt (fun x => { x with corr := if x.corr = 0xFFFFFFFF then x.corr else x.corr + 1 })).tallyW .sxtCorr

/-- Record an uncorrectable frame in SXT_UE, report it and alert the host (R422). -/
def State.frameBad (s : State) (fa : Nat) (both : Bool) : State :=
  let s := s.modSxt (fun x => { x with
    ue := x.ue.set3 (BitVec.ofNat 32 fa) (s.clock.tick.truncate 32) x.passes (BitVec.ofNat 32 (bn both)) })
  ((s.evBits s.clock.now 0x306001C [31]).report 14 0 .contained .faultInteg 3 fa true).alert 10 (toLe 4 fa)

/-- What an uncorrectable plot or mill frame does (R425). -/
def State.frameEffect (s : State) (fa : Nat) : State :=
  if fa / 2 ^ 29 = 0 then
    let p := field fa 24 5
    let x := s.plot p
    let s := s.askClose p .stopped
    if x.tilled then s.raiseHalt x.gslot.toNat 1 (0x8000 + p) else s
  else
    let m := field fa 10 11
    if (s.mill m).tilled then s.raiseMill m 1
    else
      let s := s.endRunning m .st .faultInteg
      s.stopMill m .faultInteg

/-- Store a frame of the first or the second copy. -/
def State.putFrame (s : State) (second : Bool) (fa : Nat) (f : FrameRec) : State :=
  s.modCfg (fun c =>
    if second then { c with frames2 := Table.insert c.frames2 fa f } else { c with frames := Table.insert c.frames fa f })

/-- Check a copy and write back a correction; the result says whether the copy is good. -/
def State.checkCopy (s : State) (second : Bool) (fa : Nat) (f : FrameRec) : Bool × State :=
  match f.check with
  | .same => (true, s)
  | .fixed g => (true, (s.putFrame second fa g).countFixed)
  | .bad => (false, s)

/-- Check the frame at an address (R422, R425). A failing copy of a die frame is rewritten from the passing one and a correction is
reported. -/
def State.checkFrame (s : State) (fa : Nat) : State :=
  match s.cfg.frames.find? (fun e => decide (e.1 = fa)) with
  | none => s
  | some (_, f) =>
    let (ok1, s) := s.checkCopy false fa f
    if fa / 2 ^ 29 ≠ 2 then (if ok1 then s else (s.frameBad fa false).frameEffect fa)
    else
      match s.cfg.frames2.find? (fun e => decide (e.1 = fa)) with
      | none => if ok1 then s else s.frameBad fa true
      | some (_, g) =>
        let (ok2, s) := s.checkCopy true fa g
        let first := ((s.cfg.frames.find? (fun e => decide (e.1 = fa))).map Prod.snd).getD f
        let second := ((s.cfg.frames2.find? (fun e => decide (e.1 = fa))).map Prod.snd).getD g
        match ok1, ok2 with
        | true, true => s
        | true, false => (s.putFrame true fa first).report 14 0 .corrected .ok 3 fa true
        | false, true => (s.putFrame false fa second).report 14 0 .corrected .ok 3 fa true
        | false, false => s.frameBad fa true

/-- SEXTON_FRAME_CHECK (R421, R422, R424): 120 ns after the last frame the pass reads its next frame, in which the named bits have
been upset, and moves on; the last frame ends the pass. A plot no longer in use is skipped. -/
def execSextonFrameCheck (upsets : List (BitVec 12)) (second : Bool) (s : State) : Res :=
  match s.cfg.sxt.ptr with
  | none => .next s
  | some fa =>
    let s := s.advanceTo (s.clock.now + 156)
    let bits := upsets.map BitVec.toNat
    let hit := fun (t : Table FrameRec) => t.map (fun e => if e.1 = fa then (e.1, e.2.flip bits) else e)
    let s := s.modCfg (fun c => if second then { c with frames2 := hit c.frames2 } else { c with frames := hit c.frames })
    let s := if s.frameInUse fa then s.checkFrame fa else s
    let n := s.nextFrame (fa + 1)
    .next (s.modSxt (fun x => { x with ptr := n, passes := if n.isSome then x.passes else x.passes + 1 }))

/-- SEXTON_LATCH_REPAIR (R426): a repair of voted latches or of the frame table is counted; when all three copies of the frame
pointer differ the pass restarts at frame 0. -/
def execSextonLatchRepair (restart : Bool) (s : State) : Res :=
  let s := s.modSxt (fun x => { x with repair := if x.repair = 0xFFFFFFFF then x.repair else x.repair + 1 })
  .next (if restart && s.cfg.sxt.ptr.isSome then s.modSxt (fun x => { x with ptr := s.nextFrame 0 }) else s)

end Sys2Proof.Machine
end

