-- ==== Sys2Proof/Machine/PowerOps.lean ====
section
/-! DEFINITION. Power domains (R512 to R519): requests, handshakes, entry into a state and the return to ON. -/

namespace Sys2Proof.Machine

open Sys2Proof

/-! ## Domains (R512) -/

/-- The logical mills of a mill-row domain. -/
def State.rowMills (s : State) (i : Nat) : List Nat :=
  let d := if i < 56 then Die.w else Die.e
  let rows := (List.range 24).filter (fun y => decide (s.physRow d y = (i - 32) % 24) && s.millPresent (576 * d.num + 24 * y))
  rows.flatMap (fun y => (List.range 24).map (fun x => 576 * d.num + 24 * y + x))

/-- The field ports of link die k (R11). -/
def diePorts (k : Nat) : List Nat := (List.range 6).map (fun j => 8 + 6 * k + j)

/-- A domain may have a state (R512): a link die has no IDLE and no RETAIN, a reeve's peripheral block no RETAIN. -/
def State.domAllows (s : State) (i : Nat) (t : BitVec 2) : Bool :=
  if i < 80 then true
  else if i < 92 then (linkDieAt s.ident.option (i - 80)).isNone || decide (t = 0) || decide (t = 3)
  else decide (t ≠ 2)

/-- An almanac uses a domain: a plot, a mill of the row, the ports of a link die, a granary that it books (R515). -/
def State.usesDomain (s : State) (a : Almanac) (i : Nat) : Bool :=
  if i < 32 then a.plots.any (fun p => decide (p.toNat = i))
  else if i < 80 then a.mills.any (fun m => decide (s.millDomain m.toNat = i))
  else if i < 92 then
    match linkDieAt s.ident.option (i - 80) with
    | some k => a.ports.any (fun p => (diePorts k).contains p.1.toNat)
    | none => a.bookings.any (fun b =>
        match b.act with
        | .granary c => decide (c.site.toNat = i - 80)
        | _ => false)
  else false

/-- The group slot in states 2 to 5 that uses a domain (R515). -/
def State.domGroup (s : State) (i : Nat) : Option Nat :=
  (s.groups.find? (fun g => g.2.state.held && (g.2.almanac.map (fun a => s.usesDomain a i)).getD false)).map Prod.fst

/-- The positions of a span at which the almanac marks the domain idle (R193, R515). -/
def domMarks (a : Almanac) (i : Nat) : List Nat :=
  a.bookings.filterMap (fun b =>
    match b.act with
    | .power d _ => if d.toNat = i then some b.tick else none
    | _ => none)

/-- The bell stands at an epoch boundary that the group's almanac marks for the domain. -/
def State.atMark (s : State) (g i : Nat) : Bool :=
  let x := s.group g
  s.atEpoch && (x.almanac.map (fun a => (domMarks a i).any (fun t => decide (t % x.span = s.posOf x)))).getD false

/-- The running load names the plot (R514, R520). -/
def State.loadNamesPlot (s : State) (p : Nat) : Bool :=
  match s.cfg.run with
  | some r => r.headReady && (sheafFull r.rx || (namedBy r.rx [1]).contains p)
  | none => false

/-- The running load names the mill (R520). -/
def State.loadNamesMill (s : State) (m : Nat) : Bool :=
  match s.cfg.run with
  | some r => r.headReady && (sheafFull r.rx || (namedBy r.rx [2, 3]).contains m)
  | none => false

/-! ## The handshake (R514, Table 8) -/

/-- A block's answer: ACCEPT, DELAY in µs, or REFUSE. -/
inductive Answer where
  | accept
  | delay (n : Nat)
  | refuse
  deriving DecidableEq, Repr

/-- A refusal stands before a delay, and the largest delay counts. -/
def Answer.and : Answer → Answer → Answer
  | .refuse, _ => .refuse
  | _, .refuse => .refuse
  | .delay a, .delay b => .delay (max a b)
  | .delay a, .accept => .delay a
  | .accept, b => b

/-- The answer of a mill: refused while a debug halt holds an engine, delayed while work has started. -/
def State.millAnswer (s : State) (m : Nat) : Answer :=
  if Eng.all.any (fun e => decide (((s.mill m).eng e).dbg.halt = .halted)) then .refuse
  else if s.anyWork [m] then .delay 1000
  else .accept

/-- The answer of a domain's blocks, and their PWR_STAT.block code (R530). -/
def State.domAnswer (s : State) (i : Nat) (t : BitVec 2) : Answer × Nat :=
  if i < 32 then
    let x := s.plot i
    (if s.loadNamesPlot i then .refuse else if x.carts.isEmpty && x.streams.isEmpty then .accept else .delay 100, 2)
  else if i < 80 then
    (((s.rowMills i).map s.millAnswer).foldl Answer.and .accept, 1)
  else if i < 92 then
    match linkDieAt s.ident.option (i - 80) with
    | none =>
      let k := i - 80
      let names := decide (t = 3) && s.ledger.copyW.any (fun e =>
        e.2.present && decide (e.2.target = 1) && decide (frameSite e.2.frame = k))
      (if names then .refuse
       else if (s.granary k).queues.any (fun q => !q.2.rd.isEmpty || !q.2.wr.isEmpty) then .delay 10
       else .accept, 3)
    | some k =>
      let ps := diePorts k
      let up := decide (s.bell.state = .locked) && ps.contains s.bell.upPort.toNat
      (if up || ps.any (fun p => decide (s.portMode p = 1)) then .refuse
       else if ps.any (fun p => !(s.port p).replay.isEmpty) then .delay 100
       else .accept, 4)
  else
    let r := s.reeve (if i = 92 then .w else .e)
    (if r.state = .leader ∨ r.up.isSome then .refuse else .accept, 5)

/-- Work queued on a domain's mills and not started completes with CANCELLED, but on a mill that refuses (R514). -/
def State.cancelQueued (s : State) (i : Nat) : State :=
  if 32 ≤ i ∧ i < 80 then
    (s.rowMills i).foldl (fun s m =>
      if s.millAnswer m = .refuse then s else Eng.all.foldl (fun s e => s.cancelQueue m e) s) s
  else s

/-- A forced request stops the work that remains in a domain (R271, R308, R514). -/
def State.forceDomain (s : State) (i : Nat) : State :=
  if i < 32 then s.endTapStages i
  else if i < 80 then (s.rowMills i).foldl State.endMill s
  else if i < 92 then
    match linkDieAt s.ident.option (i - 80) with
    | none =>
      let k := i - 80
      let rs := (s.granary k).queues.flatMap (fun q => q.2.rd ++ q.2.wr)
      (rs.foldl (fun s r => s.grnControl k r .absent) s).modGranary k (fun g => { g with queues := [] })
    | some _ => s
  else s

/-! ## Entering a state (R512, R518, R519) -/

/-- A plot enters IDLE, RETAIN or OFF (R385, R394). A live plot closes at the next tick. -/
def State.powerPlot (s : State) (p : Nat) (t : BitVec 2) : State :=
  let x := s.plot p
  if t = 1 then s.modPlot p (fun x => if x.state = .live then { x with state := .idle } else x)
  else
    let s := if x.state.closed then s else s.nextTick
    let keep := match x.state with
      | .blank => false
      | .writing => false
      | _ => true
    let s := s.closePlot p (if x.state = .stopped then .stopped else if keep then .retained else .blank)
    if t = 2 then s
    else
      let s := s.zeroRange (bramCell p 0 0) (192 * 2 ^ 13)
      ((s.modPlot p (fun x => { x with sealed := false })).blankPlot p).dropFrames (frameOf 0 p)

/-- A mill's row enters RETAIN or OFF: engine state is lost; OFF loses its stores, program and frames too (R512). -/
def State.powerMill (s : State) (m : Nat) (t : BitVec 2) : State :=
  let s := s.modMill m Mill.cleared
  if t = 2 then s
  else
    let s := ((s.zeroRange (loftCell m 0) (2 ^ 20)).zeroRange (bankCell m false 0) (2 ^ 15)).zeroRange (cstoreCell m 0) (2 ^ 13)
    (((s.zeroImem m).modMill m Mill.blanked).modMill m (fun x => { x with sealed := false })).dropFrames (frameOf 1 m)

/-- A granary enters self-refresh or OFF: it closes, and OFF loses its contents (R512, R518). -/
def State.powerGranary (s : State) (k : Nat) (t : BitVec 2) : State :=
  let s := s.modGranary k (fun g =>
    { g with openBefore := g.opened, opened := false, before := if g.state = 4 then 1 else g.state, state := if t = 2 then 3 else 4, window := none
             slot := false, busy := false })
  if t = 2 then s else s.zeroRange (stackCell (k * 2 ^ 36)) (2 ^ 36)

/-- A domain enters IDLE, RETAIN or OFF. -/
def State.enterDomain (s : State) (i : Nat) (t : BitVec 2) : State :=
  let s :=
    if i < 32 then s.powerPlot i t
    else if i < 80 then (if t = 1 then s else (s.rowMills i).foldl (fun s m => s.powerMill m t) s)
    else if i < 92 then
      match linkDieAt s.ident.option (i - 80) with
      | none => if t = 1 then s else s.powerGranary (i - 80) t
      | some k => (diePorts k).foldl (fun s p => (s.portLost p).modPort p (fun x => { x with state := .idle, deadline := none })) s
    else if t = 3 then s.zeroRange (reeveCell (if i = 92 then .w else .e) 0) (2 ^ 32)
    else s
  { s with pwr := { s.pwr with dom := Table.put 0 s.pwr.dom i t } }

/-- The request ends with a result (R530). -/
def State.powerEnd (s : State) (result block : Nat) : State :=
  { s with pwr := { s.pwr with busy := false, result := result, block := block, delay := none, step := 0 } }

/-- The domain enters its target and the request is done. -/
def State.powerEnter (s : State) : State := (s.enterDomain s.pwr.domain s.pwr.target).powerEnd 0 s.pwr.block

/-- A domain in IDLE wakes (R516): its islands count from the next tick strobe, and take no crossing item before it (R160); an idle plot is
live again (R384). -/
def State.wakeDomain (s : State) (i : Nat) : State :=
  let s := { s with pwr := { s.pwr with dom := Table.put 0 s.pwr.dom i 0, fresh := s.pwr.fresh ++ [i] } }
  if i < 32 then s.modPlot i (fun x => if x.state = .idle then { x with state := .live } else x) else s

/-- Begin the return to ON (R517). -/
def State.startReturn (s : State) : State :=
  { s with pwr := { s.pwr with step := 1, stepAt := s.clock.now, ready := 0 } }

/-- Carry out a request (R514, R516, R517): a domain that leaves ON or IDLE is asked first; one that comes back runs the steps of a
return; IDLE returns to ON at once. -/
def State.powerRun (s : State) : State :=
  let i := s.pwr.domain
  let t := s.pwr.target
  let cur := s.domState i
  if cur = t then s.powerEnd 0 0
  else if cur.toNat < 2 then
    if cur = 1 ∧ t = 0 then (s.wakeDomain i).powerEnd 0 0
    else
      let a := s.domAnswer i t
      let s := s.cancelQueued i
      match a.1 with
      | .refuse => s.powerEnd 1 a.2
      | .accept => s.powerEnter
      | .delay n => { s with pwr := { s.pwr with delay := some (s.clock.now + usCycles n), block := a.2 } }
  else if 2 ≤ t.toNat then s.powerEnter
  else s.startReturn

/-- Take a request (R512, R513, R515). -/
def State.powerTake (s : State) (v : Word) : State :=
  let i := v.toNat % 128
  let t : BitVec 2 := (v >>> 8).truncate 2
  let s := { s with pwr := { s.pwr with
    busy := true, result := 0, block := 0, domain := i, target := t, force := v.getLsbD 10, delay := none, step := 0 } }
  if !s.domFitted i || !s.domAllows i t then s.powerEnd 3 0
  else
    match s.domGroup i with
    | none => s.powerRun
    | some g =>
      let marks := ((s.group g).almanac.map (fun a => domMarks a i)).getD []
      if marks.isEmpty then s.powerEnd 3 0 else { s with pwr := { s.pwr with result := 4 } }

/-- The write of PWR_REQ that a commit makes: none for domains 94 to 127 and while a request is in progress (R513, R530). -/
def State.pwrReq (s : State) (v : Word) : Option State :=
  if 94 ≤ v.toNat % 128 ∨ s.pwr.busy then none else some ((s.powerTake v).cwHold 0x100200 (v &&& 0x77F))

/-- The offset of PWR_REQ. -/
def offPwrReq : Nat := 0x100200

/-- A change carries a term that is not the latched one: refused with DENIED and counted (R503). -/
def State.termDenied (s : State) : State :=
  (s.tallyW .termStale).send { kind := .ringMessage, unit := 4, addr := 0, data := toLe 1 Status.denied.code }

/-- POWER_REQUEST (R513, R514): a committed PWR_REQ, or the leader's request with its term. -/
def execPowerRequest (path : ReqPath) (v : Word) (s : State) : Res :=
  match path with
  | .reg w => if s.may w then .next (s.commit w offPwrReq (s.pwrReq v)) else .next s
  | .reeve term => if term ≠ s.bw.term then .next s.termDenied else .next ((s.pwrReq v).getD s)

/-- POWER_DELAY_EXPIRY (R514): a domain whose blocks all accept by now changes state; else the largest DELAY passes, and a forced
request stops the remaining work while an unforced one fails with result 2. -/
def execPowerDelayExpiry (s : State) : Res :=
  match s.pwr.delay with
  | none => .next s
  | some t =>
    let i := s.pwr.domain
    if (s.domAnswer i s.pwr.target).1 = .accept then .next s.powerEnter
    else
      let s := s.advanceTo t
      if (s.domAnswer i s.pwr.target).1 = .accept then .next s.powerEnter
      else if s.pwr.force then .next (s.forceDomain i).powerEnter
      else .next (s.powerEnd 2 s.pwr.block)

/-- POWER_BOUNDARY (R515): at an epoch boundary that the almanac marks, the waiting request is carried out. -/
def execPowerBoundary (s : State) : Res :=
  if s.pwr.busy ∧ s.pwr.result = 4 then
    let go := match s.domGroup s.pwr.domain with
      | some g => s.atMark g s.pwr.domain
      | none => true
    if go then .next ({ s with pwr := { s.pwr with result := 0 } }.powerRun) else .next s
  else .next s

/-- What a domain is when it has returned (R394, R512, R517, R518). -/
def State.returned (s : State) (i : Nat) (t : BitVec 2) : State :=
  let was := s.domState i
  let s := { s with pwr := { s.pwr with dom := Table.put 0 s.pwr.dom i t } }
  if i < 32 then
    s.modPlot i (fun x => if x.state = .retained then { x.initRegs with state := .configured, brams := x.brams } else x)
  else if 80 ≤ i ∧ i < 92 then
    match linkDieAt s.ident.option (i - 80) with
    | none => s.modGranary (i - 80) (fun g =>
        if was = 2 then { g with state := g.before, opened := g.openBefore } else { g with state := 1, opened := false })
    | some k => (diePorts k).foldl (fun s p => s.modPort p (fun x => { x with state := .idle, rate := 0 })) s
  else s

/-- POWER_RETURN_STEP (R517): the step in progress is ready and the next one starts; step 4 ends at the next tick strobe. -/
def execPowerReturnStep (s : State) : Res :=
  let k := s.pwr.step
  if k = 0 then .next s
  else
    let s := if k = 4 then s.nextTick else s
    let s := { s with pwr := { s.pwr with
      ready := s.pwr.ready ||| BitVec.ofNat 4 (2 ^ (k - 1)), step := k + 1, stepAt := s.clock.now } }
    .next (if k = 4 then (s.returned s.pwr.domain s.pwr.target).powerEnd 0 0 else s)

/-- The limit of a step in cycles (R517): 40 µs, 8 µs, 2 µs or 4 ticks for a granary, 1 tick. -/
def State.stepLimit (s : State) (k : Nat) : Nat :=
  match k with
  | 1 => usCycles 40
  | 2 => usCycles 8
  | 3 => if s.hasGranary (s.pwr.domain - 80) && decide (80 ≤ s.pwr.domain) then 4 * 1248 else usCycles 2
  | _ => 1248

/-- POWER_RETURN_TIMEOUT (R517): a step is not ready within its limit; the domain goes back to OFF with result 5 and alert 13. -/
def execPowerReturnTimeout (s : State) : Res :=
  let k := s.pwr.step
  if k = 0 then .next s
  else
    let s := s.advanceTo (s.pwr.stepAt + s.stepLimit k)
    .next (((s.enterDomain s.pwr.domain 3).powerEnd 5 0).report 4 s.pwr.domain .contained .timeout 15 0 false)

/-- IDLE_WAKE (R516): an access to a domain in IDLE wakes it; it then stays ON. -/
def execIdleWake (i : BitVec 7) (s : State) : Res := .next (if s.domState i.toNat = 1 then s.wakeDomain i.toNat else s)

end Sys2Proof.Machine
end

