-- ==== Sys2Proof/Machine/Resets.lean ====
section
/-! DEFINITION. Resets (R520 to R524, R621 to R623) and the substitution of a spare mill column (R526). -/

namespace Sys2Proof.Machine

open Sys2Proof

/-! ## Parts of a reset (Table 10) -/

/-- A mill after a mill, die or warm reset: sealed state and instruction memories zero, engine state zero, frames blank, stream-state
records clear, placement epoch 0 (R520, R535, R536). DESIGN CHOICE: MILL_ARITH_STAT stands through a mill, die or warm reset (log
entry 173). -/
def State.resetMill (s : State) (m : Nat) : State :=
  let s := (s.zeroSealedMill m).zeroImem m
  (s.modMill m (fun x => { x.cleared.blanked with ssr := [], held := 0, accepted := 0, sealed := false })).dropFrames (frameOf 1 m)

/-- A plot after a plot, die or warm reset: sealed state zero, blank, placement epoch 0. -/
def State.resetPlot (s : State) (p : Nat) : State :=
  let s := ((s.endTapStages p).zeroSealedPlot p).blankPlot p
  (s.modPlot p (fun x => { x with pepoch := 0, accepted := 0, sealed := false, ue := false })).dropFrames (frameOf 0 p)

/-- Loaded group slots with a member that meets a test return to Empty. -/
def State.emptyLoaded (s : State) (f : Group → Bool) : State :=
  (s.groups.filter (fun g => decide (g.2.state = .loaded) && f g.2)).foldl (fun s g => s.emptySlot g.1) s

/-- The mills of a die that the model has touched. -/
def State.dieMills (s : State) (d : Nat) : List Nat := (s.mills.map Prod.fst).filter (fun m => decide (m / 576 = d))

/-- The plots of a die that the model has touched. -/
def State.diePlots (s : State) (d : Nat) : List Nat := (s.fab.plots.map Prod.fst).filter (fun p => decide (p / 16 = d))

/-- A granary in a warm reset: full training in progress starts again, re-centring writes of a slot are discarded (R523). -/
def Granary.warm (g : Granary) : Granary :=
  if g.state = 1 ∧ !g.opened then { g with delays := [], newDelays := [], busy := false, done := false, errs := [], booked := [] }
  else { g with newDelays := [], busy := false, booked := [] }

/-- The loader in a warm reset (R522): a running load is aborted with reason 12, and configuration memory is blank. -/
def Cfg.warm (c : Cfg) : Cfg :=
  { c.endChain with
    run := none, fullOk := false, err := false, chainPos := 0, state := 0, frames := [], frames2 := []
    reason := if c.run.isSome then 12 else c.reason
    sxt := { c.sxt with ptr := none } }

/-- The effects of a warm reset (R520, R522, R523, Table 10). -/
def State.warmReset (s : State) : State :=
  let s := if s.cfg.run.isSome && s.cfg.forwards then s.chainAbort ((s.cfg.chain.map ChainRun.hop).getD 0) 12 else s
  let s := (s.mills.map Prod.fst).foldl (fun s m => (s.resetMill m).modMill m (fun x => { x with sfr := none })) (s.zeroImems 0 1152)
  let s := (s.fab.plots.map Prod.fst).foldl State.resetPlot s
  let s := s.setLevel 0
  let boot := fun (s : State) (d : Die) => (s.bootReeve d).modReeve d (fun r => { r with quiet := false })
  let s := boot (boot s .w) .e
  { s with
    cfg := s.cfg.warm
    fab := { s.fab with clkW := 0, clkE := 0 }
    routes := {}
    bell := { s.bell with crossings := [] }
    groups := []
    ledger := { s.ledger with copyW := [], copyE := [], pages := [], caches := [], host := none, reeve := none }
    qs := { err := s.qs.err }
    hp := { s.hp with devReads := [] }
    ports := s.ports.map (fun p => (p.1, { p.2 with sends := [], ingress := [] }))
    granaries := s.granaries.map (fun g => (g.1, g.2.warm))
    sec := { s.sec with l1Allow := false } }

/-! ## Cold and warm reset inputs (R621 to R623) -/

/-- What a cold reset leaves (Table 10): every piece of state at its reset value but the fuses, what was built, the waiting commands,
and what stands outside the device. -/
def State.cold (s : State) : State :=
  { pending := s.pending
    free := s.free
    outbox := s.outbox
    hostSeen := s.hostSeen
    clock := { now := s.clock.now }
    ident := { option := s.ident.option, grade2 := s.ident.grade2, rowsW := s.ident.rowsW, rowsE := s.ident.rowsE, found := s.ident.found }
    sec := { slots := s.sec.slots, frarel0 := s.sec.frarel0, killed := s.sec.killed }
    hp := { coldAt := s.clock.now }
    board := { powered := s.board.powered, trip := s.board.trip, held := true, low := true } }

/-- COLD_RESET (R622): PORST_N low for 10 µs while the device is powered. -/
def execColdReset (s : State) : Res := if s.board.powered then .next s.cold else .next s

/-- Fitted granaries are untrained after the power-on sequence (R340, R520). -/
def State.siteStates (s : State) : Table Granary :=
  ((List.range 12).filter s.hasGranary).map (fun k => (k, ({ state := 1 } : Granary)))

/-- PORST_RELEASE (R621, R629): the device leaves cold reset when PORST_N has been low long enough since the input returned; a trip
holds until every sensor reads 100 °C or below. At tR + 0.5 ms the bell stands at tick 0, cycle 0 (R168). The self-test of quern rows
finds what earlier ones have found (R70, R77). -/
def execPorstRelease (tj : Byte) (s : State) : Res :=
  let b := s.board
  if !b.held || !b.powered || !b.low || (b.trip && decide (100 < tj.toNat)) then .next s
  else
    let s := { s with
      clock := { now := s.clock.now + usCycles 500 }
      granaries := s.siteStates
      hp := { s.hp with coldAt := s.clock.now }
      board := { b with held := false, trip := false, monAt := s.clock.now + usCycles 500 } }
    .next (s.ident.found.foldl (fun s f => s.failRow f.1 f.2.1 f.2.2) s)

/-- WARM_RESET (R623): WRST_N low for 1 µs, ignored during a cold reset. -/
def execWarmReset (s : State) : Res :=
  if s.board.held then .next s else .next (let s := s.warmReset; { s with rst := { s.rst with warm := true } })

/-- WARM_RESET_RELEASE (R623): WRST_N rises and the warm reset completes. -/
def execWarmResetRelease (s : State) : Res := .next { s with rst := { s.rst with warm := false } }

/-! ## Reset requests (R520, R521, R524, R532) -/

/-- The target of a request does not exist or is out of service. -/
def State.rstAbsent (s : State) (r : RstReq) : Bool :=
  match r.scope with
  | 2 => decide (2 ≤ r.target)
  | 3 => decide (32 ≤ r.target)
  | 4 => !s.millPresent r.target || (s.mill r.target).oos
  | 5 => !s.millPresent r.target || (s.mill r.target).oos
  | _ => false

/-- A part's power domain is neither ON nor IDLE, or a power request on it is in progress. -/
def State.domBarred (s : State) (i : Nat) : Bool := !s.domOn i || (s.pwr.busy && decide (s.pwr.domain = i))

/-- The running load names a part of a die. -/
def State.loadNamesDie (s : State) (d : Nat) : Bool :=
  match s.cfg.run with
  | some r => r.headReady && (sheafFull r.rx || (namedBy r.rx [1]).any (fun p => decide (p / 16 = d)) ||
      (namedBy r.rx [2, 3]).any (fun m => decide (m / 576 = d)) || (namedBy r.rx [4, 8]).contains d)
  | none => false

/-- The request is refused (R520). -/
def State.rstRefused (s : State) (r : RstReq) : Bool :=
  match r.scope with
  | 2 => s.loadNamesDie r.target ||
      s.groups.any (fun g => g.2.state.held && (g.2.mills.any (fun m => decide (m / 576 = r.target)) ||
        g.2.plots.any (fun p => decide (p / 16 = r.target))))
  | 3 => s.plotHeld r.target || s.loadNamesPlot r.target || s.domBarred r.target
  | _ => s.millHeld r.target || s.loadNamesMill r.target || s.domBarred (s.millDomain r.target)

/-- A die reset: work ends, plots leave Live at a tick, and the die's frames, engines and Loaded slots are cleared. -/
def State.dieReset (s : State) (d : Nat) : State :=
  let ms := s.dieMills d
  let ps := s.diePlots d
  let s := (ms.foldl State.endMill s).closeAtTick ps
  let s := ms.foldl State.resetMill (s.zeroImems (d * 576) 576)
  let s := ps.foldl State.resetPlot s
  (s.emptyLoaded (fun g => g.mills.any (fun m => decide (m / 576 = d)) || g.plots.any (fun p => decide (p / 16 = d)))).dropFrames
    (frameOf 2 d)

/-- A plot reset: at the next tick where the plot is live (R386, R521). -/
def State.plotReset (s : State) (p : Nat) : State :=
  ((s.closeAtTick [p]).resetPlot p).emptyLoaded (fun g => g.plots.contains p)

/-- A mill reset. Carts that waited on post rings for the stopped mill are posted after it (R109, R276). -/
def State.millReset (s : State) (m : Nat) : State :=
  Eng.all.foldl (fun s e => s.postWaiting m e) (((s.endMill m).resetMill m).emptyLoaded (fun g => g.mills.contains m))

/-- A stream reset: the slot's stream and its shadow end, and its record is clear (R521). -/
def State.streamReset (s : State) (m k : Nat) : State :=
  let s := if ((s.mill m).slot k).any Slot.isStream then s.stopSlot m k else s
  s.modMill m (fun x => { x with ssr := Table.erase x.ssr k })

/-- Carry out a request: its result and its effect. -/
def State.runReset (s : State) (r : RstReq) : State :=
  let finish := fun (s : State) (n : Nat) => { s with rst := { s.rst with result := n, last := r } }
  if r.scope = 1 then finish s.warmReset 0
  else if s.rstAbsent r then finish s 2
  else if s.rstRefused r then finish s 3
  else
    match r.scope with
    | 2 => finish (s.dieReset r.target) 0
    | 3 => finish (s.plotReset r.target) 0
    | 4 => finish (s.millReset r.target) 0
    | _ => finish (s.streamReset r.target r.slot) 0

/-- Take a request (R524, R532): while a warm reset is held, one of a narrower scope waits. Scope 0 does nothing, scopes 6 and 7 do
not commit. -/
def State.takeReset (s : State) (r : RstReq) : Option State :=
  let s := s.cwHold 0x100210 (BitVec.ofNat 32 (r.scope * 2 ^ 16 + r.slot * 2 ^ 11 + r.target))
  if 6 ≤ r.scope then none
  else if r.scope = 0 then some s
  else if s.rst.warm ∧ r.scope ≠ 1 then
    some { s with rst := { s.rst with waiting := s.rst.waiting ++ [r], result := 1, last := r } }
  else some (s.runReset r)

/-- The request that a PWR_RST value makes. -/
def rstOf (v : Word) : RstReq := { scope := field v.toNat 16 3, target := field v.toNat 0 11, slot := field v.toNat 11 3 }

/-- The offset of PWR_RST. -/
def offPwrRst : Nat := 0x100210

/-- A request on its path (R503, R520). -/
def State.askReset (s : State) (path : ReqPath) (r : RstReq) : State :=
  match path with
  | .reg w => if s.may w then s.commit w offPwrRst (s.takeReset r) else s
  | .reeve term => if term ≠ s.bw.term then s.termDenied else (s.takeReset r).getD s

/-- PWR_RST_WARM (R520). -/
def execPwrRstWarm (path : ReqPath) (s : State) : Res := .next (s.askReset path { scope := 1, target := 0, slot := 0 })

/-- PWR_RST_DIE (R520, R521). -/
def execPwrRstDie (path : ReqPath) (target : BitVec 11) (s : State) : Res :=
  .next (s.askReset path { scope := 2, target := target.toNat, slot := 0 })

/-- PWR_RST_PLOT (R520, R521). -/
def execPwrRstPlot (path : ReqPath) (target : BitVec 11) (s : State) : Res :=
  .next (s.askReset path { scope := 3, target := target.toNat, slot := 0 })

/-- PWR_RST_MILL (R520, R521). -/
def execPwrRstMill (path : ReqPath) (target : BitVec 11) (s : State) : Res :=
  .next (s.askReset path { scope := 4, target := target.toNat, slot := 0 })

/-- PWR_RST_STREAM (R521). -/
def execPwrRstStream (path : ReqPath) (target : BitVec 11) (slot : BitVec 3) (s : State) : Res :=
  .next (s.askReset path { scope := 5, target := target.toNat, slot := slot.toNat })

/-- RESET_WAIT_ENDS (R524): the reset in progress has completed, and the oldest waiting request starts. -/
def execResetWaitEnds (s : State) : Res :=
  match s.rst.waiting with
  | [] => .next s
  | r :: rest => if s.rst.warm then .next s else .next ({ s with rst := { s.rst with waiting := rest } }.runReset r)

/-! ## The spare mill column (R526) -/

/-- Copy a range of a byte store over another. -/
def State.copyRange (s : State) (src dst n : Nat) : State :=
  let cells := s.mem.filter (fun c => decide (src ≤ c.1) && decide (c.1 < src + n))
  let s := s.zeroRange dst n
  { s with mem := cells.foldl (fun mem (c : Nat × Byte) => Memory.write mem (dst + (c.1 - src)) c.2) s.mem }

/-- The logical mills of columns x to 23 of a die. -/
def columnMills (d : Die) (x : Nat) : List Nat :=
  (List.range 576).filterMap (fun i => if x ≤ i % 24 then some (d.num * 576 + i) else none)

/-- The die's spare column (R643). -/
def Identity.spare (i : Identity) : Die → Option (BitVec 5)
  | .w => i.spareW
  | .e => i.spareE

/-- The substitution can be made now (R526): a mill of column x is out of service, the spare is unused, and the mills of columns x to 23
stand in an idle window of at least 64 ticks and in no held group. -/
def State.canSubstitute (s : State) (d : Die) (x : Nat) : Bool :=
  let ms := (columnMills d x).filter s.millPresent
  decide (x < 24) && (s.ident.spare d).isNone &&
    ms.any (fun m => decide (m % 24 = x) && (s.mill m).oos) && ms.all (fun m => s.idleFor m 64 && !s.millHeld m)

/-- A mill of the replaced column starts on its successor as a mill reset leaves it, with its frames (R526): the byte stores are those
of the physical mill one column east, which a sealed mill there has zeroed. -/
def State.restoreMill (s : State) (m : Nat) : State :=
  let east := decide (m % 24 < 23) && !(s.mill (m + 1)).sealed
  let move := fun (s : State) (src dst n : Nat) => if east then s.copyRange src dst n else s.zeroRange dst n
  let s := move s (loftCell (m + 1) 0) (loftCell m 0) (2 ^ 20)
  let s := move s (bankCell (m + 1) false 0) (bankCell m false 0) (2 ^ 15)
  let s := move s (cstoreCell (m + 1) 0) (cstoreCell m 0) (2 ^ 13)
  (s.zeroImem m).modMill m (fun x =>
    { x.cleared with program := false, ssr := [], held := 0, accepted := 0, sealed := false, oos := false })

/-- The substitution (R526, R643, R644, R646): stationary operands are zero, each logical column takes the quern spares of the
physical column one east, and the mills of column x are in service again. -/
def State.substitute (s : State) (d : Die) (x : Nat) : State :=
  let ms := (columnMills d x).filter s.millPresent
  let bad := ms.filter (fun m => decide (m % 24 = x) && (s.mill m).oos)
  let s := bad.foldl State.restoreMill s
  let spares := fun (m : Nat) => if m % 24 = 23 then [] else (s.mill (m + 1)).qspare
  let s := ms.foldl (fun (t : State) m => t.modMill m (fun y => { y with tiles := [], qspare := spares m })) s
  let i := s.ident
  let n : BitVec 5 := BitVec.ofNat 5 x
  let i := match d with
    | .w => { i with spareW := some n }
    | .e => { i with spareE := some n }
  { s with ident := { i with oos := i.oos - bad.length, gen := i.gen + 1 } }

/-- SPARE_COLUMN_SUBSTITUTION (R503, R526): the leader's request, with its term. -/
def execSpareColumnSubstitution (term : Word) (d : Die) (x : BitVec 5) (s : State) : Res :=
  if term ≠ s.bw.term then .next s.termDenied
  else
    match s.bw.lead with
    | none => .next s
    | some l => if s.canSubstitute d x.toNat then .next ((s.substitute d x.toNat).reeveAlert 7 l x.toNat) else .next s

end Sys2Proof.Machine
end

