-- ==== Sys2Proof/Machine/SecurityOps.lean ====
section
/-! DEFINITION. The security engine (chapter 17): SEC_CMD, signed requests, attestation, debug levels, owner slots. -/

namespace Sys2Proof.Machine

open Sys2Proof

/-! ## The mailbox and commands (R551, R557) -/

/-- Bytes of SEC_MBX. -/
def Sec.bytes (x : Sec) (off n : Nat) : List Byte := (List.range n).map (fun i => Table.get 0 x.mbx (off + i))

/-- Write bytes of SEC_MBX. -/
def Sec.putBytes (x : Sec) (off : Nat) (b : List Byte) : Sec :=
  { x with mbx := ((List.range b.length).zip b).foldl (fun t e => Table.put 0 t (off + e.1) e.2) x.mbx }

/-- The offset of SEC_CMD. -/
def offSecCmd : Nat := 0x200000

/-- The write of SEC_CMD that a commit makes: none while a command runs, and for ops 6 to 15 (R551, R557). An op 2 consumes the
nonce (R546). -/
def State.secCmd (s : State) (v : Word) : Option State :=
  let op : BitVec 4 := v.truncate 4
  let cmd := s.sec.cmd
  let s := s.cwHold 0x200000 (v &&& 0xC00)
  if cmd.isSome ∨ 6 ≤ op.toNat then none
  else if op = 0 then some s
  else
    some (s.modSec (fun x => { x with
      cmd := some (op, (v >>> 10).truncate 2), done := false, op := op
      used := if op = 2 then x.nonce else none, nonce := if op = 2 then none else x.nonce }))

/-- The command that runs ends with a status and a reason (R557). -/
def State.secEnd (s : State) (st : Status) (reason : Nat) : State :=
  s.modSec (fun x => { x with cmd := none, done := true, status := st.code, reason := reason, used := none })

/-- The writer may write SEC_CMD and SEC_MBX: a privileged one, and the debug port at every level (R601). -/
def secWriter (w : Writer) : Bool := w.priv

/-- The command of an op ends: the one that runs, or one that commits now (R551, R557). While another one runs the write does not
commit. -/
def State.secRun (s : State) (w : Writer) (v : Word) (effect : State → State) : State :=
  if !secWriter w then s
  else
    match s.sec.cmd with
    | some c => if c.1 = v.truncate 4 then effect s else s.cwFail w offSecCmd 5
    | none =>
      match s.secCmd v with
      | some s => effect s
      | none => s.cwFail w offSecCmd 5

/-- CHALLENGE (R546): a fresh nonce. -/
def execChallenge (w : Writer) (s : State) : Res :=
  .next (s.secRun w 1 (fun s =>
    let (v, s) := s.draw
    (s.modSec (fun x => { x with nonce := some (toLe 32 v) })).secEnd .ok 0))

/-! ## Signed requests (R545, R546) -/

/-- All bytes are zero. -/
def allZero (b : List Byte) : Bool := b.all (fun x => decide (x = 0))

/-- The form of a signed request (R545): magic, op, signer, and the fields that are zero. -/
def requestForm (b : List Byte) : Bool :=
  let op := leAt b 4 1
  let signer := leAt b 5 1
  let zero := fun (off n : Nat) => allZero ((b.drop off).take n)
  decide (leAt b 0 4 = 0x51525347) && zero 7 1 && zero 104 24 &&
    (match op with
     | 1 => decide (signer < 4) && zero 6 1 && zero 72 32
     | 2 => decide (signer < 2) && zero 6 1 && zero 72 32 && zero 128 1312
     | 3 => decide (signer < 4)
     | 4 => decide (signer < 4) && zero 72 32
     | 5 => decide (signer = 1) && zero 6 1 && zero 72 32 && zero 128 1312
     | _ => false)

/-- The signer's public key, where the signer may sign (R546 check 4): an active owner slot whose hash is that of the key, or a Frarel
key that is not revoked. -/
def Sec.signerKey (x : Sec) (b : List Byte) : Option (List Byte) :=
  let signer := leAt b 5 1
  let pub := (b.drop 128).take 1312
  if leAt b 4 1 = 2 ∨ leAt b 4 1 = 5 then
    if signer = 0 ∧ x.frarel0 then none else some (Config.frarelKey (decide (signer = 1)))
  else
    match x.slots[signer]? with
    | some o => if !o.revoked && decide (sha3 pub = o.hash) then some pub else none
    | none => none

/-- The condition of an op (R546, Table 6). -/
def State.requestMet (s : State) (b : List Byte) : Bool :=
  let x := s.sec
  let target := leAt b 6 1
  match leAt b 4 1 with
  | 1 => decide (s.level.toNat < 2)
  | 2 => !x.loaded
  | 3 => decide (target = x.slots.length) && decide (target < 4) && !allZero ((b.drop 72).take 32)
  | 4 => (x.slots[target]?.map (fun o => !o.revoked)).getD false &&
      ((List.range x.slots.length).any (fun i => decide (i ≠ target) && (x.slots[i]?.map (fun o => !o.revoked)).getD false))
  | _ => !x.frarel0

/-- The checks of a signed request, in order (R546): the first failure. A destroyed identity matches no id_hash (R550). -/
def State.requestFails (s : State) (b : List Byte) : Option (Status × Nat) :=
  if !requestForm b then some (.mismatch, 1)
  else if s.sec.killed ∨ (b.drop 8).take 32 ≠ idHash then some (.denied, 2)
  else if s.sec.used ≠ some ((b.drop 40).take 32) then some (.denied, 3)
  else
    match s.sec.signerKey b with
    | none => some (.denied, 4)
    | some key =>
      if !Config.mlDsaVerify key (sha3 (b.take 1440)) ((b.drop 1440).take 2420) then some (.denied, 5)
      else if !s.requestMet b then some (.denied, 6)
      else none

/-- A running signed request ends: its failure, or its effect (R546). -/
def State.signed (s : State) (effect : List Byte → State → State) : State :=
  let b := s.sec.bytes 0 3860
  match s.requestFails b with
  | some (st, n) => s.secEnd st n
  | none => (effect b s).secEnd .ok 0

/-- The request in the mailbox is one that the command of op `k` handles: of that op, or of no op. -/
def Sec.asks (x : Sec) (k : Nat) : Bool :=
  let op := (Table.get 0 x.mbx 4).toNat
  decide (op = k) || decide (op = 0) || decide (5 < op)

/-- A signed request of op `k`. -/
def State.signedRun (s : State) (w : Writer) (k : Nat) (effect : List Byte → State → State) : State :=
  if s.sec.asks k then s.secRun w 2 (fun s => s.signed effect) else s

/-- SIGNED_DEBUG_LEVEL_2 (R546, R547). -/
def execSignedDebugLevel2 (w : Writer) (s : State) : Res := .next (s.signedRun w 1 (fun _ s => s.setLevel 2))

/-- The byte stores that a level 3 zeroes: lofts, sieve banks, C stores, block memories, and fitted, trained granaries (R550). -/
def State.wipes (s : State) (a : Nat) : Bool :=
  match a / 2 ^ 56 with
  | 1 => true
  | 2 => true
  | 3 => true
  | 6 => true
  | 5 =>
    let g := s.granary (a % 2 ^ 56 / 2 ^ 36)
    decide (g.state = 2) || decide (g.state = 3 ∧ g.before = 2)
  | _ => false

/-- Every loft, sieve bank, C store and block memory is zeroed, and every granule of every fitted, trained granary (R550). -/
def State.zeroAll (s : State) : State :=
  { s with mem := s.mem.filter (fun c => !s.wipes c.1), bad := s.bad.filter (fun c => !s.wipes c.1)
           soft := s.soft.filter (fun c => !s.wipes c.1) }

/-- SIGNED_DEBUG_LEVEL_3 (R550): memories zero, the kill fuse blown, the keys erased, level 3. -/
def execSignedDebugLevel3 (w : Writer) (s : State) : Res :=
  .next (s.signedRun w 2 (fun _ s => (s.zeroAll.modSec (fun x => { x with killed := true })).setLevel 3))

/-- SIGNED_PROGRAM_SLOT (R544, R546, R553). -/
def execSignedProgramSlot (w : Writer) (s : State) : Res :=
  .next (s.signedRun w 3 (fun b s =>
    let h := (b.drop 72).take 32
    let o : OwnerSlot := { hash := h }
    (s.modSec (fun x => { x with slots := x.slots ++ [o] })).logEntry 5 (leAt b 6 1) 0 h 0))

/-- SIGNED_REVOKE_SLOT (R546, R553). -/
def execSignedRevokeSlot (w : Writer) (s : State) : Res :=
  .next (s.signedRun w 4 (fun b s =>
    let t := leAt b 6 1
    let h := ((s.sec.slots[t]?).map OwnerSlot.hash).getD []
    let o : OwnerSlot := { hash := h, revoked := true }
    (s.modSec (fun x => { x with slots := x.slots.set t o })).logEntry 5 (t + 128) 0 h 0))

/-- SIGNED_REVOKE_FRAREL_KEY0 (R541, R546, R553). -/
def execSignedRevokeFrarelKey0 (w : Writer) (s : State) : Res :=
  .next (s.signedRun w 5 (fun _ s => (s.modSec (fun x => { x with frarel0 := true })).logEntry 6 0 0 [] 0))

/-! ## Attestation (R552) -/

/-- The image digest of a reeve as a report names it: zero in Boot or Failed. -/
def State.fwDigest (s : State) (d : Die) : List Byte := if (s.reeve d).runs then padTo 32 (s.reeve d).digest else padTo 32 []

/-- The fw_version of a reeve as a report names it. -/
def State.fwVersion (s : State) (d : Die) : Nat := if (s.reeve d).runs then (s.reeve d).ver.toNat else 0

/-- Slots programmed in bits 3 to 0, revoked in bits 7 to 4. -/
def Sec.slotBits (x : Sec) : Nat :=
  (List.range 4).foldl (fun n i => n + (match x.slots[i]? with
    | some o => 2 ^ i + bn o.revoked * 2 ^ (4 + i)
    | none => 0)) 0

/-- Bytes 0 to 1,567 of the attestation report (R552, Table 9). -/
def State.report0 (s : State) (nonce : List Byte) : List Byte :=
  toLe 4 0x54535441 ++ toLe 2 1 ++ toLe 2 3988 ++ nonce ++ idHash ++ sha3 Config.encapPub ++ toLe 4 0x00017160 ++
    toLe 1 (optionCode s.ident.option) ++ toLe 1 (if s.ident.grade2 then 2 else 1) ++
    toLe 1 (s.level.toNat + 4 * s.sec.max.toNat) ++ toLe 1 s.sec.slotBits ++ s.fwDigest .w ++ s.fwDigest .e ++
    toLe 8 (s.fwVersion .w) ++ toLe 8 (s.fwVersion .e) ++ padTo 32 s.sec.head ++ toLe 4 s.sec.count.toNat ++
    toLe 4 s.bw.term.toNat ++ toLe 8 s.clock.tick.toNat ++ toLe 4 s.cfg.sheafId.toNat ++ toLe 1 (bn s.sec.frarel0) ++ toLe 11 0 ++
    padTo 1312 Config.identityPub

/-- ATTEST (R550, R552): the signed report in SEC_MBX; ABSENT with reason 7 once the identity has been destroyed. -/
def execAttest (w : Writer) (s : State) : Res :=
  .next (s.secRun w 3 (fun s =>
    if s.sec.killed then s.secEnd .absent 7
    else
      let r := s.report0 (s.sec.bytes 0 32)
      (s.modSec (fun x => x.putBytes 0 (r ++ padTo 2420 (Config.identitySign (sha3 r))))).secEnd .ok 0))

/-! ## Levels and slot 0 (R544, R548) -/

/-- LOWER_LEVEL (R548): the level that the command names, when it is below the current one. -/
def execLowerLevel (w : Writer) (l : BitVec 2) (s : State) : Res :=
  let v : Word := 4 ||| (l.zeroExtend 32 <<< 10)
  .next (s.secRun w v (fun s =>
    let l := (s.sec.cmd.map Prod.snd).getD l
    (if l.toNat < s.level.toNat then s.setLevel l else s).secEnd .ok 0))

/-- CLAIM_SLOT_0 (R544, R553): the hash in SEC_MBX becomes slot 0 while all slots are empty. -/
def execClaimSlot0 (w : Writer) (s : State) : Res :=
  .next (s.secRun w 5 (fun s =>
    let h := s.sec.bytes 0 32
    if s.sec.slots ≠ [] then s.secEnd .denied 6
    else if allZero h then s.secEnd .mismatch 1
    else
      let o : OwnerSlot := { hash := h }
      ((s.modSec (fun x => { x with slots := [o] })).logEntry 5 0 0 h 0).secEnd .ok 0))

/-- The write of a word of SEC_MBX: discarded while a command runs (R551). -/
def State.mbxWrite (s : State) (i : Nat) (v : Word) : State :=
  if s.sec.cmd.isSome then s else s.modSec (fun x => x.putBytes (4 * i) (toLe 4 v.toNat))

/-- SEC_MBX_WRITE (R551). -/
def execSecMbxWrite (w : Writer) (i : BitVec 10) (v : Word) (s : State) : Res :=
  .next (if secWriter w then s.mbxWrite i.toNat v else s)

/-- The write of SEC_DBG_CTL that a commit makes (R548, R558). -/
def State.dbgCtl (s : State) (v : Word) : Option State :=
  let s := s.modSec (fun x => { x with l1Allow := v.getLsbD 0 })
  some (if !v.getLsbD 0 && decide (s.level = 1) then s.setLevel 0 else s)

/-- L1_ALLOW_WRITE (R548). -/
def execL1AllowWrite (w : Writer) (allow : Bool) (s : State) : Res :=
  .next (if s.may w then s.commit w 0x200018 (s.dbgCtl (BitVec.ofNat 32 (bn allow))) else s)

/-- KEY_STORE_REDERIVE (R571): the engine derives its keys again, which changes none of them; when the word held a key of the running
load, that load fails with reason 5. -/
def execKeyStoreRederive (loadKey : Bool) (s : State) : Res :=
  match s.cfg.run with
  | some r => if loadKey && r.keys.isSome then .next (s.loadFail 5 r.secs 0) else .next s
  | none => .next s

end Sys2Proof.Machine
end

