-- ==== Sys2Proof/Machine/Watch.lean ====
section
/-! DEFINITION. The loft patrol (R567), the report collector (R578), tally registers (R583 to R594) and the probe buffer (R595 to
R597). -/

namespace Sys2Proof.Machine

open Sys2Proof

/-! ## The patrol (R567) -/

/-- The words of a line of a loft, 8 bytes each. -/
def patrolWords (m line : Nat) : List Nat := (List.range 64).map (fun i => loftCell m (512 * line + 8 * i))

/-- Time moves on to a cycle in which a port serves no engine, within `n` cycles. -/
def State.untilFree (s : State) (m key : Nat) : Nat → State
  | 0 => s
  | n + 1 => if ((s.mill m).portUser s.clock.now key).isSome then (s.advanceTo (s.clock.now + 1)).untilFree m key n else s

/-- LOFT_PATROL (R567): in a cycle in which the region's read port serves no engine, at most once every 16 cycles, the patrol reads its
next line. It writes corrected words back in a cycle in which the write port serves none, and reports an uncorrectable word. -/
def execLoftPatrol (m : MillIx) (s : State) : Res :=
  let k := m.toNat
  if !s.millLive k then .next s
  else
    let s := s.advanceTo (s.mill k).patrolNext
    let line := (s.mill k).patrolLine
    let region := 512 * line / 0x8000
    let s := s.untilFree k (2 * region) ((s.mill k).portLoad + 1)
    let s := s.modMill k (fun x => { x with patrolLine := (line + 1) % 2048, patrolNext := s.clock.now + 16 })
    let ws := patrolWords k line
    let bad := ws.filter (Table.get false s.bad)
    let soft := ws.filter (fun w => Table.get false s.soft w && !Table.get false s.bad w)
    let s := bad.foldl (fun s w => s.report 10 k .contained .faultInteg 4 (loftAddr k (w - loftCell k 0)) false) s
    if soft.isEmpty then .next s
    else
      let s := s.tallyMill .loftCorr k soft.length
      let s := s.untilFree k (2 * region + 1) ((s.mill k).portLoad + 1)
      .next { s with soft := soft.foldl Table.erase s.soft }

/-! ## The report collector (R578) -/

/-- The 32 bytes of a schedule-fault record (R108). -/
def SchedRec.bytes (r : SchedRec) : List Byte :=
  toLe 8 r.tick.toNat ++ toLe 2 (r.cycle % 2048) ++ toLe 2 r.mill ++ toLe 1 r.engine ++ toLe 1 r.kind ++ toLe 1 r.resource ++
    toLe 1 (1 + bn r.more * 2 + bn r.audit * 4) ++ toLe 4 r.pc.toNat ++ toLe 4 r.seq.toNat ++ toLe 4 r.stamp.toNat ++
    toLe 4 r.early.toNat

/-- The number of an error class. -/
def ErrClass.num : ErrClass → Nat
  | .corrected => 0
  | .contained => 1
  | .group => 2
  | .device => 3

/-- The record that a report carries: a schedule-fault record, a first-error record, or the quern and row of a failed residue check
(R69, R108, R166, R254). -/
def Report.carries (r : Report) : List Byte :=
  (r.sched.map SchedRec.bytes).getD [] ++
    (r.record.map (fun x => toLe 4 x.w0.toNat ++ toLe 4 x.w1.toNat ++ toLe 4 x.w2.toNat ++ toLe 4 x.w3.toNat)).getD [] ++
    (r.row.map (fun p => toLe 1 p.1 ++ toLe 1 p.2)).getD []

/-- A report is passed to the leading reeve over the management ring: class, status, tick, address and the record it carries.
DESIGN CHOICE: the order of its bytes (log entry 184). -/
def State.passReport (s : State) (r : Report) : State :=
  let b := toLe 1 r.cls.num ++ toLe 1 r.status ++ toLe 8 r.tick.toNat ++ toLe 1 r.addrKind ++ toLe 8 r.addr ++ r.carries
  s.send { kind := .ringMessage, unit := r.block, addr := r.unit, data := b }

/-- The alert that a report queues: code 5 for a stream page fault, code 13 for any other of contained, group or device class that no
other code covers. -/
def State.alertReport (s : State) (r : Report) : State :=
  match r.page with
  | some d => s.alert 5 d
  | none => if r.covered || decide (r.cls = .corrected) then s else s.alert 13 (alert13 r)

/-- FAULT_REPORT (R578): the oldest report reaches the collector, which holds 256 until a reeve leads and drops what comes when it is
full. -/
def execFaultReport (s : State) : Res :=
  match s.reports with
  | [] => .next s
  | r :: rest =>
    let s := { s with reports := rest }
    if 256 ≤ s.collector.length then .next (s.tallyW .reportDrop)
    else
      let s := s.alertReport r
      if s.bw.lead.isSome then
        .next ((s.collector ++ [r]).foldl State.passReport { s with collector := [] })
      else .next { s with collector := s.collector ++ [r] }

/-! ## Tally registers (R588 to R594) -/

/-- A counter of the device, where its number names one: MCm_n of a present mill, or DCd_k. -/
def State.counter (s : State) (c : TalCtr) : Option Counter :=
  match c with
  | .mc i => if s.millPresent (i.toNat / 8) then some (Table.get {} s.tally.mc i.toNat) else none
  | .dc i => some (Table.get {} s.tally.dc i.toNat)

/-- Change a counter. -/
def State.modCounter (s : State) (c : TalCtr) (f : Counter → Counter) : State :=
  match c with
  | .mc i => { s with tally := { s.tally with mc := Table.upd {} s.tally.mc i.toNat f } }
  | .dc i => { s with tally := { s.tally with dc := Table.upd {} s.tally.dc i.toNat f } }

/-- A counter with its count and ovf clear. -/
def Counter.clear (c : Counter) : Counter := { c with count := 0, ovf := false, sealedSeen := false }

/-- The write of a selection register (R590, R593): the count and ovf clear. -/
def State.selectTally (s : State) (c : TalCtr) (v : Word) : State :=
  if (s.counter c).isNone then s else s.modCounter c (fun x => { x.clear with sel := v &&& 0x8007FFFF })

/-- TALLY_SELECT_WRITE (R590, R593). -/
def execTallySelectWrite (w : Writer) (c : TalCtr) (v : Word) (s : State) : Res :=
  .next (if s.mayReg w then s.selectTally c v else s)

/-- The write of TAL_CTL (R590, R592). -/
def State.talCtl (s : State) (clr freeze : Bool) : State :=
  let t := s.tally
  let t := if clr then { t with mc := t.mc.map (fun e => (e.1, e.2.clear)), dc := t.dc.map (fun e => (e.1, e.2.clear)) } else t
  { s with tally := { t with freeze := freeze } }

/-- TALLY_CLEAR (R592): TAL_CTL written with clr. -/
def execTallyClear (w : Writer) (freeze : Bool) (s : State) : Res := .next (if s.mayReg w then s.talCtl true freeze else s)

/-- The codes of U sources (R586). -/
def tlyUnpriv (code : Nat) : Bool := decide (code ≤ 0x0B) || decide (0x40 ≤ code ∧ code ≤ 0x42)

/-- The reader sees the counter: through the unprivileged aperture only one whose selected source is U (R588, R589). -/
def Counter.seenBy (c : Counter) (w : Writer) : Bool := decide (w ≠ .hostU) || tlyUnpriv (field c.sel.toNat 0 8)

/-- A capture of the count for a reader (R591). -/
def Counter.capture (c : Counter) (w : Writer) : Counter :=
  { c with caps := (w, c.count, c.ovf) :: c.caps.filter (fun x => !decide (x.1 = w)) }

/-- A read of a LO register (R589, R591). -/
def State.readLo (s : State) (w : Writer) (c : TalCtr) : Word × State :=
  match s.counter c with
  | none => (0, s)
  | some x => (if x.seenBy w then x.count.truncate 32 else 0, s.modCounter c (fun y => y.capture w))

/-- A read of a HI register: the reader's capture, or the live value (R591, R594). -/
def State.readHi (s : State) (w : Writer) (c : TalCtr) : Word :=
  match s.counter c with
  | none => 0
  | some x =>
    let v := match x.caps.find? (fun e => decide (e.1 = w)) with
      | some e => e.2
      | none => (x.count, x.ovf)
    if x.seenBy w then BitVec.ofNat 32 (v.1.toNat / 2 ^ 32 + bn v.2 * 2 ^ 31) else 0

/-- The reader may read registers: any but the debug port at level 0 (R601). -/
def State.mayRead (s : State) (w : Writer) : Bool := decide (w ≠ .debug) || decide (0 < s.level.toNat)

/-- TALLY_LO_READ (R591). -/
def execTallyLoRead (w : Writer) (c : TalCtr) (s : State) : Res := .next (if s.mayRead w && !s.bootRom then (s.readLo w c).2 else s)

/-- The die of a counter. -/
def talDie : TalCtr → Die
  | .mc i => millDie (i.toNat / 8)
  | .dc i => if i.toNat < 64 then .w else .e

/-- TALLY_PARITY_FAIL (R572): the word is zero, and the event is counted. -/
def execTallyParityFail (t : TalWord) (s : State) : Res :=
  match t with
  | .counter c =>
    if (s.counter c).isNone then .next s
    else .next ((s.modCounter c Counter.clear).tally_ .talInteg (talDie c) 0 1)
  | .probe i w =>
    let e := Table.get [] s.pb.entries i.toNat
    let e := if e = [] then [] else spliceAt e (4 * w.toNat) (toLe 4 0)
    .next ({ s with pb := { s.pb with entries := Table.put [] s.pb.entries i.toNat e } }.tallyW .talInteg)

/-! ## The probe buffer (R595 to R597) -/

/-- Capture runs. -/
def ProbeBuf.runs (x : ProbeBuf) : Bool := x.ctl.getLsbD 31 && !x.stopped
/-- Only changes are stored. -/
def ProbeBuf.chg (x : ProbeBuf) : Bool := x.ctl.getLsbD 30
/-- The buffer is a ring. -/
def ProbeBuf.ring (x : ProbeBuf) : Bool := x.ctl.getLsbD 29
/-- The sampling die. -/
def ProbeBuf.die (x : ProbeBuf) : Die := if x.ctl.getLsbD 28 then .e else .w
/-- Entries after the trigger. -/
def ProbeBuf.post (x : ProbeBuf) : Nat := x.ctl.toNat % 65536

/-- Store an entry; a full buffer stops or loses its oldest entry (R596). -/
def ProbeBuf.store (x : ProbeBuf) (e : List Byte) (trig : Bool) : ProbeBuf :=
  let i := (x.oldest + x.count) % 65536
  let full := decide (65536 ≤ x.count)
  let y := { x with
    entries := Table.insert x.entries i e
    count := if full then x.count else x.count + 1
    oldest := if full then (x.oldest + 1) % 65536 else x.oldest
    trig := x.trig || trig }
  if !x.ring then { y with stopped := decide (65536 ≤ y.count) }
  else if trig then { y with left := x.post, stopped := decide (x.post = 0) }
  else if x.trig then { y with left := x.left - 1, stopped := decide (x.left ≤ 1) }
  else y

/-- The trigger is armed and has not come, and the bell stands at or after its cycle (R596). -/
def State.trigDue (s : State) : Bool :=
  let t := s.clock.tick.truncate 32 - s.pb.trig0
  let c := s.pb.trig1.toNat % 2048
  s.pb.trig1.getLsbD 31 && !s.pb.trig &&
    (if t = 0 then decide (c ≤ s.clock.cyc) else decide (t.toNat < 2 ^ 31))

/-- A bus shows a net of a sealed plot. -/
def State.showsSealed (s : State) (d : Die) : Bool :=
  let c := s.prbCtl d
  let one := fun (m : Nat) => (s.probeMux d m).2 && (s.plot (d.num * 16 + m / 4)).sealed
  c.getLsbD 31 && (one (c.toNat % 64) || one (c.toNat / 64 % 64))

/-- One sample (R595, R596): a fabric cycle of the sampling die passes, and both buses are stored as chg directs. -/
def State.sample (s : State) : State :=
  let d := s.pb.die
  let s := s.advanceTo (s.clock.now + s.nextFab d)
  let (w, wl, wh) := s.probeBus .w
  let (e, el, eh) := s.probeBus .e
  let valid : BitVec 4 := BitVec.ofNat 4 (bn wl + 2 * bn wh + 4 * bn el + 8 * bn eh)
  let trig := s.trigDue
  if s.pb.chg && !trig && decide (s.pb.last = some (w, e, valid)) then s
  else
    let b := toLe 4 s.clock.tick.toNat ++ toLe 2 s.clock.cyc ++ toLe 1 (valid.toNat + 16 * bn trig) ++ toLe 1 0 ++
      toLe 4 w.toNat ++ toLe 4 e.toNat
    let mark := s.unlocked && (s.showsSealed .w || s.showsSealed .e)
    { s with pb := { s.pb.store b trig with last := some (w, e, valid), sealed := s.pb.sealed || mark } }

/-- PROBE_BUFFER_SAMPLE (R595): while capture runs and the sampling die has a FABRIC clock. -/
def execProbeBufferSample (s : State) : Res :=
  .next (if s.pb.runs && decide (s.fabN s.pb.die ≠ 0) then s.sample else s)

/-- PROBE_TRIGGER (R596): the first sample at or after the trigger cycle, which may lie ahead in this tick. -/
def execProbeTrigger (s : State) : Res :=
  if !s.pb.runs || decide (s.fabN s.pb.die = 0) || !s.pb.trig1.getLsbD 31 || s.pb.trig then .next s
  else
    let c := s.pb.trig1.toNat % 2048
    let s := if s.clock.tick.truncate 32 = s.pb.trig0 ∧ c < 1248 then s.advanceTo (s.clock.now + (c - s.clock.cyc)) else s
    .next (if s.trigDue then s.sample else s)

/-- The write of DBG_PB_CTL (R595, R596, R609). -/
def State.pbCtl (s : State) (v : Word) : State :=
  let x := s.pb
  let v := v &&& 0xF000FFFF
  let x := { x with ctl := v, stopped := x.stopped || (x.ctl.getLsbD 31 && !v.getLsbD 31 && x.ring && !x.trig) }
  { s with pb := if v.getLsbD 31 && !s.pb.ctl.getLsbD 31 then
      { x with entries := [], count := 0, oldest := 0, trig := false, stopped := false, last := none, left := 0, sealed := false }
    else x }

/-- PROBE_BUFFER_RUN (R595): DBG_PB_CTL.run goes from 0 to 1. -/
def execProbeBufferRun (w : Writer) (v : Word) (s : State) : Res :=
  .next (if s.mayReg w && v.getLsbD 31 && !s.pb.ctl.getLsbD 31 then s.pbCtl v else s)

end Sys2Proof.Machine
end

