-- ==== Sys2Proof/Machine/DebugOps.lean ====
section
/-! DEFINITION. The debug port's engine control (R603 to R610), the test access port, and the board's power input (chapter 20). -/

namespace Sys2Proof.Machine

open Sys2Proof

/-! ## Engine control (R603 to R607, R610) -/

/-- What a debug-space number names: an engine of a mill, or a reeve (R610). -/
inductive DbgWho where
  | eng (m : Nat) (e : Eng)
  | reeve (d : Die)
  deriving DecidableEq, Repr

/-- The engine or reeve of a debug-space number. -/
def dbgWho (x : Nat) : Option DbgWho :=
  if x < 5760 then (Eng.ofNum (x % 5)).map (.eng (x / 5))
  else if x = 5760 then some (.reeve .w)
  else if x = 5761 then some (.reeve .e)
  else none

/-- The debug registers of an engine or reeve. -/
def State.dbgOf (s : State) : DbgWho → Dbg
  | .eng m e => ((s.mill m).eng e).dbg
  | .reeve d => (s.reeve d).dbg

/-- Change the debug registers of an engine or reeve. -/
def State.modDbg (s : State) (w : DbgWho) (f : Dbg → Dbg) : State :=
  match w with
  | .eng m e => s.modEng m e (fun g => { g with dbg := f g.dbg })
  | .reeve d => s.modReeve d (fun r => { r with dbg := f r.dbg })

/-- The mill's group runs: Restoring or Running (R604). -/
def State.groupRuns (s : State) (m : Nat) : Bool :=
  match (s.mill m).gslot with
  | none => false
  | some g =>
    match (s.group g).state with
    | .restoring => true
    | .running => true
    | _ => false

/-- The mill's group has halted. -/
def State.groupHalted (s : State) (m : Nat) : Bool :=
  match (s.mill m).gslot with
  | none => false
  | some g => decide ((s.group g).state = .halted)

/-- Halt an engine or reeve (R603 to R606): an engine of a running tilled group halts its group with cause 11; a sieve halts at its
next accepted point; one that is stopped or frozen stays so. -/
def State.haltEng (s : State) (w : DbgWho) (why bp : Nat) : State :=
  let mark := fun (x : Dbg) => { x with halt := .halted, step := false, why := BitVec.ofNat 2 why, bp := BitVec.ofNat 2 bp }
  match w with
  | .reeve _ => s.modDbg w mark
  | .eng m e =>
    let x := s.mill m
    if s.groupRuns m then s.raiseMill m 11
    else if x.frozen || x.stopped.isSome || (x.eng e).stopped.isSome || decide ((x.eng e).dbg.halt = .halted) then s
    else if e = .sv ∧ (x.eng e).running.isSome then
      (s.modMill m (fun x => { x with
        sieve := { x.sieve with req := x.sieve.req.or (some (s.clock.now, .halt why bp)) } })).modEng m e (fun g =>
          { g with dbg := { g.dbg with halt := .pending } })
    else s.modDbg w mark

/-- A halted engine runs on, for one instruction where `step` is set (R603). A halt that a sieve waits to make is withdrawn. -/
def State.runOn (s : State) (w : DbgWho) (step : Bool) : State :=
  match (s.dbgOf w).halt with
  | .none => s
  | .halted => s.modDbg w (fun x => { x with halt := .none, step := step })
  | .pending =>
    if step then s
    else
      let s := s.modDbg w (fun x => { x with halt := .none })
      match w with
      | .eng m .sv => s.modMill m (fun x => { x with sieve := { x.sieve with req := match x.sieve.req with
          | some (_, .halt _ _) => none
          | r => r } })
      | _ => s

/-- The target exists: its mill is present, in service and powered (R601). -/
def State.dbgPresent (s : State) : DbgWho → Bool
  | .eng m _ => s.millLive m
  | .reeve _ => true

/-- A write of DBG_ECTL (R601, R603, R604, R610): halt before resume before step. -/
def State.ectl (s : State) (x : Nat) (v : Word) : Status × State :=
  if s.level.toNat < 2 then (.denied, s)
  else
    match dbgWho x with
    | none => (.mismatch, s)
    | some w =>
      if !s.dbgPresent w then (.absent, s)
      else
        let halted := match w with
          | .eng m _ => s.groupHalted m
          | .reeve _ => false
        let running := match w with
          | .eng m _ => s.groupRuns m
          | .reeve _ => false
        if (v.getLsbD 1 || v.getLsbD 2) && halted then (.mismatch, s)
        else
          let s := if v.getLsbD 0 then s.haltEng w 0 0 else s
          if v.getLsbD 1 then (.ok, s.runOn w false)
          else if v.getLsbD 2 then (.ok, if running then s.haltEng w 1 0 else s.runOn w true)
          else (.ok, s)

/-- ENGINE_HALT (R603, R604). -/
def execEngineHalt (x : BitVec 13) (s : State) : Res := .next (s.ectl x.toNat 1).2

/-- ENGINE_STEP (R603, R604, R135). -/
def execEngineStep (x : BitVec 13) (s : State) : Res := .next (s.ectl x.toNat 4).2

/-- ENGINE_RESUME (R603, R604). -/
def execEngineResume (x : BitVec 13) (s : State) : Res := .next (s.ectl x.toNat 2).2

/-- BREAKPOINT_HIT (R605): an address breakpoint whose instruction is next to issue, or a bell breakpoint whose cycle has come or lies
ahead in this tick. A reeve's program counter is not in the model, and its address breakpoints hit when this event says so. -/
def execBreakpointHit (x : BitVec 13) (k : BitVec 2) (s : State) : Res :=
  match dbgWho x.toNat with
  | none => .next s
  | some w =>
    let b := Table.get {} (s.dbgOf w).bps k.toNat
    if !b.en || !s.dbgPresent w then .next s
    else if b.bell then
      let c := b.cycle.toNat
      if s.clock.tick.truncate 32 = b.val ∧ s.clock.cyc ≤ c ∧ c < 1248 then
        .next ((s.advanceTo (s.clock.now + (c - s.clock.cyc))).haltEng w 3 k.toNat)
      else .next s
    else
      let next := match w with
        | .eng m e => ((s.mill m).eng e).running.isSome && decide (((s.mill m).eng e).pc = b.val)
        | .reeve d => (s.reeve d).runs
      if next then .next (s.haltEng w 2 k.toNat) else .next s

/-! ## Levels and the test access port (R598, R610) -/

/-- A request of level 1 (R547, R610): DENIED while l1_allow is 0; at a higher level nothing changes. -/
def State.askLevel1 (s : State) : Status × State :=
  if !s.sec.l1Allow then (.denied, s) else (.ok, if s.level = 0 then s.setLevel 1 else s)

/-- DEBUG_LEVEL_1_REQUEST (R610). -/
def execDebugLevel1Request (s : State) : Res := .next s.askLevel1.2

/-- TAP_RESET (R598): the instruction is IDCODE, and the result of the last access is gone. -/
def execTapReset (s : State) : Res :=
  .next { s with dbg := { s.dbg with ir := 1, extest := none, op := 0, status := 0, addr := 0, data := 0 } }

/-- EXTEST_UPDATE (R598): under EXTEST an Update-DR drives the boundary pins at levels 2 and 3; below, the port acts as in BYPASS. -/
def execExtestUpdate (cells : BitVec 15) (s : State) : Res :=
  let s := { s with dbg := { s.dbg with ir := 0 } }
  .next (if s.unlocked then { s with dbg := { s.dbg with extest := some cells } } else s)

/-! ## Registers of a mill (R112) -/

/-- The write of MILL_SB_CTL.audit_stall (R112): at debug levels 2 and 3 only. -/
def State.auditWrite (s : State) (m : Nat) (v : Bool) : State :=
  if s.unlocked then s.modMill m (fun x => { x with auditStall := v }) else s

/-- AUDIT_STALL_WRITE (R112). -/
def execAuditStallWrite (w : Writer) (m : MillIx) (v : Bool) (s : State) : Res :=
  .next (if s.mayHost w && s.millLive m.toNat then s.auditWrite m.toNat v else s)

/-- SFR_CLR (R112, R115). -/
def execSfrClr (w : Writer) (m : MillIx) (s : State) : Res :=
  .next (if s.mayHost w && s.millLive m.toNat then s.modMill m.toNat (fun x => { x with sfr := none }) else s)

/-! ## The board (R618, R619, R629, R634) -/

/-- The device has shut down (R619): every piece of state is lost, and it waits for the input and a release of PORST_N. -/
def State.shutDown (s : State) (powered trip : Bool) : State :=
  let t := s.cold
  { t with hp := {}, board := { powered := powered, held := true, low := false, trip := trip } }

/-- INPUT_POWER_RISE (R618, R619): the input rises through 58.0 V; the device charges within 8 ms and holds itself in cold reset. -/
def execInputPowerRise (s : State) : Res :=
  if s.board.powered then .next s
  else .next { s with clock := { s.clock with now := s.clock.now + usCycles 8000 }, board := { s.board with powered := true } }

/-- INPUT_POWER_SHUTDOWN (R619): below 55.0 V for 10 µs, or above 85.0 V for 1 ms. Removing the input releases a trip (R629). -/
def execInputPowerShutdown (s : State) : Res := .next (s.shutDown false false)

/-- THERMAL_TRIP (R629): at 115 °C the device asserts THERM_TRIP_N and shuts down. -/
def execThermalTrip (s : State) : Res := if s.board.powered then .next (s.shutDown true true) else .next s

/-- A flag of PWR_MON1 sets, and setting it queues alert code 13 with source block 4 and address kind 15 (R629, R634). -/
def State.monFlag (s : State) (was is_ : Bool) : State :=
  if is_ && !was then s.alert 13 (toLe 1 4 ++ toLe 7 0 ++ toLe 8 (15 * 2 ^ 60)) else s

/-- JUNCTION_HOT (R629): the junction reads above 105 °C. -/
def execJunctionHot (s : State) : Res :=
  .next ({ s.monFlag s.board.hot true with board := { s.board with hot := true } }.evBits s.clock.now 0x100304 [0])

/-- POWER_MONITOR_UPDATE (R634): every 100 µs the readings are updated, each an average; vin_lo and vin_hi set with them, and hot. -/
def execPowerMonitorUpdate (vin iin : BitVec 10) (tjMax tjW tjE : Byte) (s : State) : Res :=
  if s.board.held then .next s
  else
    let s := s.advanceTo (s.board.monAt + usCycles 100)
    let b := s.board
    let lo := b.vinLo || decide (vin.toNat < 600)
    let hi := b.vinHi || decide (800 < vin.toNat)
    let hot := b.hot || decide (105 < tjMax.toNat)
    let s := ((s.monFlag b.vinLo lo).monFlag b.vinHi hi).monFlag b.hot hot
    let s := s.evBits s.clock.now 0x100304 ((if vin.toNat < 600 then [2] else []) ++ (if 800 < vin.toNat then [1] else []) ++
      (if 105 < tjMax.toNat then [0] else []))
    .next { s with board := { b with
      vin := vin, iin := iin, tjMax := tjMax, tjW := tjW, tjE := tjE, vinLo := lo, vinHi := hi, hot := hot, monAt := s.clock.now } }

end Sys2Proof.Machine
end

