-- ==== Sys2Proof/Machine/RegRead.lean ====
section
/-! DEFINITION. The register map (chapter 21 and the register tables of every chapter): what a read of a register returns. -/

namespace Sys2Proof.Machine

open Sys2Proof

/-! ## Which register stands at an offset -/

/-- The blocks that answer while the reeves run the boot ROM: IDN, REEVE, BWTH, PWR, SEC, CFG with its window, HP (R480). -/
def bootAnswers (off : Nat) : Bool :=
  decide (off < 0x400000) || decide (0x3040000 ≤ off ∧ off < 0x3060000) || decide (0x3100000 ≤ off ∧ off < 0x3200000) ||
    decide (0x3C00000 ≤ off ∧ off < 0x3C10000)

/-- The register service answers at an offset (R480). -/
def State.answers (s : State) (off : Nat) : Bool := !s.bootRom || bootAnswers off

/-- The registers of the management plane (R24): identity, reeves, bellwether, power, monitor and security engine; loader and sexton; the
bell; tally counters, debug port and probe buffer. -/
def managed (off : Nat) : Bool :=
  decide (off < 0xD00) || decide (0x100000 ≤ off ∧ off < 0x101000) || decide (0x200000 ≤ off ∧ off < 0x240000) ||
    decide (0x3040000 ≤ off ∧ off < 0x3060020) || decide (0x3100000 ≤ off ∧ off < 0x3200000) ||
    decide (0x3B00000 ≤ off ∧ off < 0x3B00180) || decide (0x4000000 ≤ off ∧ off < 0x4124000) ||
    decide (0x4800000 ≤ off ∧ off < 0x4A00000)

/-- A reader or writer reaches a register: the reeves those of their own plane alone (R26, R27). -/
def inPlane (w : Writer) (off : Nat) : Bool := !w.reeve || managed off

/-- The registers of access type CW (R560). -/
inductive CwReg where
  | doorbell (q : Nat)
  | qctl
  | ledgerUpdate
  | grnCtl (k : Nat)
  | hash (k h : Nat) (high : Bool)
  | cadence
  | streamResume (m : Nat)
  | cfgLoad
  | cfgRel
  | cfgRba
  | laneCtl (p : Nat)
  | node
  | seat (g : Nat)
  | bellCtl
  | bellDown
  | hpCtl
  | hpRctl
  | reeveCtl
  | pwrReq
  | pwrRst
  | secCmd
  | secDbg
  deriving DecidableEq, Repr

/-- The CW register whose value word stands at an offset of the privileged aperture. -/
def State.cwAt (s : State) (b : Nat) : Option CwReg :=
  if 0x400000 ≤ b ∧ b < 0x440000 then (if b % 8 = 0 then some (.doorbell ((b - 0x400000) / 8)) else none)
  else if 0x3800000 ≤ b ∧ b < 0x3808000 then
    (if b % 0x400 = 0 ∧ s.portFitted ((b - 0x3800000) / 0x400) then some (.laneCtl ((b - 0x3800000) / 0x400)) else none)
  else if 0x3908000 ≤ b ∧ b < 0x3908800 then (if b % 0x100 = 0 then some (.seat ((b - 0x3908000) / 0x100)) else none)
  else if 0x1000000 ≤ b ∧ b < 0x1480000 then
    (if b % 0x1000 = 0x400 ∧ s.millLive ((b - 0x1000000) / 0x1000) then some (.streamResume ((b - 0x1000000) / 0x1000)) else none)
  else if 0xC00000 ≤ b ∧ b < 0xCC0000 then
    let k := (b - 0xC00000) / 0x10000
    let o := b % 0x10000
    if !s.hasGranary k then none
    else if o = 0 then some (.grnCtl k)
    else if 0x100 ≤ o ∧ o < 0x1C0 ∧ o % 8 = 0 then some (.hash k ((o - 0x100) / 16) (o % 16 = 8))
    else none
  else
    match b with
    | 0x100000 => some .reeveCtl
    | 0x100200 => some .pwrReq
    | 0x100210 => some .pwrRst
    | 0x200000 => some .secCmd
    | 0x200018 => some .secDbg
    | 0x440000 => some .qctl
    | 0x800008 => some .ledgerUpdate
    | 0xCF0000 => some .cadence
    | 0x3040000 => some .cfgLoad
    | 0x3040020 => some .cfgRel
    | 0x3040030 => some .cfgRba
    | 0x3907F00 => some .node
    | 0x3B00000 => some .bellCtl
    | 0x3B00008 => some .bellDown
    | 0x3C00000 => some .hpCtl
    | 0x3C00020 => some .hpRctl
    | _ => none

/-- The CW register of the word at `off` for a writer: the unprivileged aperture holds the doorbells only (R636). -/
def State.cwOf (s : State) (w : Writer) (off : Nat) : Option CwReg :=
  match s.cwAt (off / 8 * 8) with
  | some (.doorbell q) => some (.doorbell q)
  | some r => if w = .hostU then none else some r
  | none => none

/-! ## Fields -/

/-- A word of fields, each given by its lowest bit and its value. -/
def pack (l : List (Nat × Nat)) : Word := BitVec.ofNat 32 (l.foldl (fun (n : Nat) (e : Nat × Nat) => n + e.2 * 2 ^ e.1) 0)

/-- Word `i` of a byte structure (byte 4i in bits [7:0]). -/
def wordAt (b : List Byte) (i : Nat) : Word := BitVec.ofNat 32 (leAt b (4 * i) 4)

/-- Word `i` of a first-error record. -/
def ErrRec.word (r : ErrRec) : Nat → Word
  | 0 => r.w0
  | 1 => r.w1
  | 2 => r.w2
  | 3 => r.w3
  | _ => 0

/-! ## Identity (R638 to R646) -/

/-- The logical column of a die that the spare replaces stands one column east, as do those after it (R646). -/
def Identity.physCol (i : Identity) (d : Die) (x : Nat) : Nat :=
  match i.spare d with
  | some c => if c.toNat ≤ x then x + 1 else x
  | none => x

/-- The map entry of a logical mill (R645). -/
def State.mapEntry (s : State) (m : Nat) : Nat :=
  if s.millPresent m then
    bn (!(s.mill m).oos) * 2048 + 1024 + s.physRow (millDie m) (millRow m) * 32 + s.ident.physCol (millDie m) (millCol m)
  else 0

/-- The mask of the link dies that an option fits (R1, R640). -/
def linkMask : Option3 → Nat
  | .m => 0
  | .b => 3
  | .l => 15

/-- IDN_SITEs (R642). -/
def State.siteWord (s : State) (k : Nat) : Word :=
  match linkDieAt s.ident.option k with
  | some n => pack [(30, 2), (28, n)]
  | none => pack [(30, 1), (0, 32768)]

/-- IDN_SPARE (R643). -/
def Identity.spareWord (i : Identity) : Word :=
  pack [(16, i.qsub), (15, bn i.spareE.isSome), (8, (i.spareE.getD 0).toNat), (7, bn i.spareW.isSome), (0, (i.spareW.getD 0).toNat)]

/-- The IDN block. -/
def State.readIdn (s : State) (off : Nat) : Word :=
  if 0x400 ≤ off ∧ off < 0xD00 then
    let i := (off - 0x400) / 4
    pack [(0, s.mapEntry (2 * i)), (16, s.mapEntry (2 * i + 1))]
  else if 0x40 ≤ off ∧ off < 0x70 then s.siteWord ((off - 0x40) / 4)
  else
    match off with
    | 0x000 => 0x01017160
    | 0x004 => pack [(12, linkMask s.ident.option), (4, if s.ident.grade2 then 2 else 1), (0, optionCode s.ident.option)]
    | 0x008 => pack (s.fittedPorts.map (fun p => (p, 1)))
    | 0x010 => s.ident.spareWord
    | 0x014 => pack [(0, s.ident.oos)]
    | 0x018 => s.ident.gen
    | _ => 0

/-! ## Reeves, bellwether, power, monitor (R527 to R532, R634) -/

/-- The state code of a reeve (16 Table 4). -/
def ReeveState.code : ReeveState → Nat
  | .boot => 0
  | .failed => 1
  | .follower => 2
  | .leader => 3
  | .hold => 4

/-- REEVE_STATd. -/
def Reeve.stat (r : Reeve) : Word := pack [(4, bn r.imgErr), (3, bn r.peerLost), (0, r.state.code)]

/-- PWR_STAT. -/
def Power.stat (x : Power) : Word := pack [(31, bn x.busy), (24, x.result), (20, x.block), (0, x.domain)]

/-- PWR_RST_STAT: busy while a warm reset is held or a request waits. -/
def Resets.stat (x : Resets) : Word :=
  pack [(31, bn (x.warm || !x.waiting.isEmpty)), (24, x.result), (16, x.last.scope), (0, x.last.target)]

/-- The state that PWR_DSTAT reports of a domain index; 94 and 95 read 3 (R531). -/
def State.dstat (s : State) (i : Nat) : Nat := if 94 ≤ i then 3 else (s.domState i).toNat

/-- The REEVE, BWTH and PWR blocks. -/
def State.readReeve (s : State) (off : Nat) : Word :=
  match off - 0x100000 with
  | 0x010 => s.reeveW.stat
  | 0x014 => s.reeveE.stat
  | 0x020 => s.reeveW.version.truncate 32
  | 0x024 => (s.reeveW.version >>> 32).truncate 32
  | 0x028 => s.reeveE.version.truncate 32
  | 0x02C => (s.reeveE.version >>> 32).truncate 32
  | 0x100 => s.bw.term
  | 0x104 => pack [(2, bn s.bw.lead.isSome), (1, bn (decide (s.bw.lead = some .e))), (0, bn s.leaseNow)]
  | 0x208 => s.pwr.stat
  | 0x218 => s.rst.stat
  | 0x260 => pack [(0, s.pwr.ready.toNat)]
  | 0x300 => pack [(16, s.board.iin.toNat), (0, s.board.vin.toNat)]
  | 0x304 => pack [(24, s.board.tjMax.toNat), (16, s.board.tjE.toNat), (8, s.board.tjW.toNat), (2, bn s.board.vinLo),
      (1, bn s.board.vinHi), (0, bn s.board.hot)]
  | o =>
    if 0x240 ≤ o ∧ o < 0x258 then pack ((List.range 16).map (fun j => (2 * j, s.dstat (16 * ((o - 0x240) / 4) + j)))) else 0

/-! ## Secrecy (R557 to R559) -/

/-- The SEC block, by offset in the block. -/
def State.readSec (s : State) (o : Nat) : Word :=
  let x := s.sec
  let key := fun (k : List Byte) (i : Nat) => if x.killed then 0 else wordAt k i
  if 0x20000 ≤ o ∧ o < 0x21000 then wordAt (x.bytes (o - 0x20000) 4) 0
  else if 0x10000 ≤ o ∧ o < 0x20000 then wordAt (Table.get [] x.log ((o - 0x10000) / 64)) (o % 64 / 4)
  else if 0x30000 ≤ o ∧ o < 0x30520 then key Config.identityPub ((o - 0x30000) / 4)
  else if 0x31000 ≤ o ∧ o < 0x314A0 then key Config.encapPub ((o - 0x31000) / 4)
  else if 0x40 ≤ o ∧ o < 0x60 then wordAt (x.nonce.getD []) ((o - 0x40) / 4)
  else if 0x80 ≤ o ∧ o < 0xA0 then wordAt x.head ((o - 0x80) / 4)
  else if 0x100 ≤ o ∧ o < 0x180 then
    match x.slots[(o - 0x100) / 0x20]? with
    | some c => wordAt c.hash (o % 0x20 / 4)
    | none => 0
  else
    match o with
    | 0x008 => pack [(31, bn x.cmd.isSome), (30, bn x.done), (16, x.reason), (8, x.status), (0, x.op.toNat)]
    | 0x010 => pack [(7, bn x.killed), (2, x.max.toNat), (0, s.level.toNat)]
    | 0x020 => pack [(8, bn x.frarel0), (0, x.slotBits)]
    | 0x060 => x.count
    | _ => 0

/-! ## Queues and dispatchers (R311 to R315) -/

/-- The state word of a queue, QS_QRq7 or QS_RSq1. -/
def Queue.stateWord (x : Queue) (ring : Bool) : Word :=
  pack [(31, bn x.en), (30, bn x.fault), (29, bn (x.ovf && !ring)), (28, bn (x.wdr && !ring)), (27, bn x.fetch), (0, x.tail.v.toNat)]

/-- DSP_STATd. -/
def State.dspStat (s : State) (d : Die) (x : Dispatcher) : Word :=
  let n := (s.qs.queues.filter (fun e => decide (e.1 < 4096) && decide (queueDie e.1 = d) && e.2.waiting.isSome)).length
  pack [(16, min 4095 n), (0, x.ptr)]

/-- The QS and DSP registers of the privileged aperture. -/
def State.readQs (s : State) (off : Nat) : Word :=
  if 0x500000 ≤ off ∧ off < 0x540000 then
    let q := (off - 0x500000) / 0x20
    let i := off % 0x20 / 4
    let x := s.queue q
    if i < 6 then BitVec.ofNat 32 (field x.record.toNat (32 * i) 32)
    else if i = 6 then pack [(0, x.head.v.toNat)]
    else x.stateWord false
  else if 0x540000 ≤ off ∧ off < 0x570000 then
    let x := s.queue (8192 + (off - 0x540000) / 8)
    if off % 8 = 0 then pack [(0, x.head.v.toNat)] else x.stateWord true
  else
    match off with
    | 0x440010 => s.qs.err.w0
    | 0x440014 => s.qs.err.w1
    | 0x460000 => s.dspStat .w s.qs.dspW
    | 0x460010 => s.dspStat .e s.qs.dspE
    | _ => 0

/-! ## The page ledger (R365 to R367) -/

/-- The 16 bytes of an entry (R352), as words. -/
def LedgerEntry.word (e : LedgerEntry) : Nat → Word
  | 0 => e.ctl
  | 1 => e.ctlN
  | 2 => e.frame
  | _ => 0

/-- The PGL block. -/
def State.readPgl (s : State) (o : Nat) : Word :=
  let l := s.ledger
  if 0x30 ≤ o ∧ o < 0x40 then (l.copy .w l.rdidx).word ((o - 0x30) / 4)
  else
    match o with
    | 0x00 => l.upd0
    | 0x04 => l.upd1
    | 0x10 => pack [(31, bn l.host.isSome), (30, bn l.usrc), (19, l.ustatus), (0, l.upage)]
    | 0x20 => pack [(0, l.rdidx)]
    | _ => 0

/-! ## Granaries (R345 to R350) -/

/-- The GRN block of a fitted site. -/
def State.readGrn (s : State) (k o : Nat) : Word :=
  let g := s.granary k
  if !s.hasGranary k then 0
  else if 0x40 ≤ o ∧ o < 0x50 then g.err.word ((o - 0x40) / 4)
  else if 0x280 ≤ o ∧ o < 0x2C4 then
    let i := (o - 0x280) / 4
    pack [(16, (Table.get 0 g.errs (2 * i + 1)).toNat), (0, (Table.get 0 g.errs (2 * i)).toNat)]
  else if 0x300 ≤ o ∧ o < 0x388 then
    let d := Table.get {} g.delays ((g.trn.ch * 2 + g.trn.pc) * 34 + (o - 0x300) / 4)
    pack [(8, d.wr.toNat), (0, d.rd.toNat)]
  else
    match o with
    | 0x008 => pack [(16, bn g.hot), (8, g.temp.toNat), (0, g.state)]
    | 0x200 => pack [(11, g.trn.lg), (9, g.trn.pattern), (8, bn g.trn.dir), (6, g.trn.pc), (0, g.trn.ch)]
    | 0x204 => pack [(2, bn g.cut), (1, bn g.busy), (0, bn g.done)]
    | _ => 0

/-- GRN_CAD_STAT. -/
def Cadence.stat (c : Cadence) : Word := pack [(9, bn c.next.isSome), (8, bn c.refused), (7, bn c.tcf), (0, c.site.toNat)]

/-! ## Mills (R76 to R78, R112 to R115, R154, R281) -/

/-- The state of an engine in MILL_ENG_STAT. -/
def Mill.engState (x : Mill) (e : Eng) : Nat :=
  let g := x.eng e
  if x.stopped.isSome || g.stopped.isSome then 3
  else if x.frozen || decide (g.dbg.halt = .halted) then 4
  else if g.running.isNone then 0
  else if g.held.isSome then 2
  else 1

/-- The 32 bytes of a stream-state record (R281). -/
def Ssr.bytes (r : Ssr) : List Byte :=
  toLe 6 r.desc ++ toLe 1 r.gen ++ toLe 1 r.state ++ toLe 4 r.pos.off ++ toLe 4 r.pos.c1 ++ toLe 2 r.pos.c2 ++ toLe 2 r.pos.c3 ++
    toLe 4 r.pos.bytes ++ toLe 6 r.faultAddr ++ toLe 1 r.flags ++ toLe 1 0

/-- The arithmetic events of a sealed mill read zero below level 2 (R537). -/
def State.showsArith (s : State) (x : Mill) : Bool := !x.sealed || s.unlocked

/-- The MILL block of a mill that is present and in service (R16). -/
def State.readMill (s : State) (m o : Nat) : Word :=
  let x := s.mill m
  if !s.millLive m then 0
  else if 0x110 ≤ o ∧ o < 0x120 then
    pack ((List.range 8).map (fun j =>
      let q := x.spare (8 * ((o - 0x110) / 4) + j)
      (4 * j, bn q.used * 8 + bn q.dead * 4 + q.row.toNat)))
  else if 0x1C0 ≤ o ∧ o < 0x200 then pack [(0, (Table.get 0 x.sync ((o - 0x1C0) / 4)).toNat)]
  else if 0x200 ≤ o ∧ o < 0x220 then
    match x.sfr with
    | some r => wordAt r.bytes ((o - 0x200) / 4)
    | none => 0
  else if 0x300 ≤ o ∧ o < 0x400 then wordAt (Table.get {} x.ssr ((o - 0x300) / 0x20)).bytes (o % 0x20 / 4)
  else
    match o with
    | 0x100 => pack [(8, x.part.shown.toNat), (4, bn x.reshape.isSome), (2, x.part.east.toNat), (0, x.part.west.toNat)]
    | 0x120 => if s.showsArith x then pack [(0, x.arith.toNat)] else 0
    | 0x180 => pack [(2, bn x.auditStall), (0, bn x.tilled)]
    | 0x184 => pack (Eng.all.map (fun e => (3 * e.num, x.engState e)))
    | 0x240 => if s.showsArith x then pack [(0, x.sieve.stat.toNat)] else 0
    | _ => 0

/-! ## Fabric, configuration, sexton (R398 to R401, R427 to R430) -/

/-- The code of a plot state (12 Table 5). -/
def PlotState.code : PlotState → Nat
  | .blank => 0
  | .writing => 1
  | .configured => 2
  | .releasing => 3
  | .live => 4
  | .retained => 5
  | .stopped => 6
  | .idle => 7

/-- The FAB block. -/
def State.readFab (s : State) (o : Nat) : Word :=
  if 0x100 ≤ o ∧ o < 0x180 then
    let x := s.plot ((o - 0x100) / 4)
    pack [(24, x.pepoch.toNat), (23, bn x.sealed), (22, bn x.tilled), (19, x.gslot.toNat), (18, bn x.ue), (0, x.state.code)]
  else if 0x400 ≤ o ∧ o < 0x600 then Table.get 0 s.fab.prbSel ((o - 0x400) / 4)
  else
    match o with
    | 0x000 => pack [(4, s.fab.clkE.toNat), (0, s.fab.clkW.toNat)]
    | 0x600 => s.fab.prbCtlW
    | 0x604 => s.fab.prbCtlE
    | 0x608 => s.fab.prbPin
    | _ => 0

/-- The CFG block. -/
def State.readCfg (s : State) (o : Nat) : Word :=
  let c := s.cfg
  if 0x100 ≤ o ∧ o < 0x298 then
    match c.rbd with
    | none => 0
    | some f => if o = 0x290 then f.crc else if o = 0x294 then pack [(0, f.syn.toNat)] else wordAt f.data ((o - 0x100) / 4)
  else
    match o with
    | 0x08 => pack [(31, bn c.err), (30, bn c.fullOk), (8, c.chainPos.toNat), (0, c.state.toNat)]
    | 0x0C => pack [(28, c.reason.toNat), (12, c.faddrHi.toNat), (0, c.sect.toNat)]
    | 0x10 => c.sheafId
    | 0x18 => c.pos.truncate 32
    | 0x1C => (c.pos >>> 32).truncate 32
    | 0x38 => pack [(1, bn c.rbDenied), (0, bn c.rbDone)]
    | _ => 0

/-- The SXT block. -/
def Sexton.read (x : Sexton) (o : Nat) : Word :=
  match o with
  | 0x00 => x.passes
  | 0x04 => x.corr
  | 0x08 => x.repair
  | 0x10 => x.ue.w0
  | 0x14 => x.ue.w1
  | 0x18 => x.ue.w2
  | 0x1C => x.ue.w3
  | _ => 0

/-! ## Lanes, ports, groups (R227 to R232, R463 to R466) -/

/-- The state code of a port. -/
def PortState.code : PortState → Nat
  | .idle => 0
  | .ladder => 1
  | .up => 2

/-- LANE_STATp. -/
def Port.stat (x : Port) : Word :=
  pack ((x.locked.map (fun l => (23 + l, 1))) ++ [(19, x.spareLog.getD 15), (15, x.sparePhys.getD 15), (14, bn x.stepFail),
    (11, x.failRate), (3, x.state.code), (0, x.rate)])

/-- The LANE registers of a fitted port. -/
def State.readLane (s : State) (p o : Nat) : Word :=
  let x := s.port p
  if !s.portFitted p then 0
  else if 0x100 ≤ o ∧ o < 0x124 then pack [(0, (x.lane ((o - 0x100) / 4)).peak.toNat)]
  else if 0x180 ≤ o ∧ o < 0x1A4 then
    let l := (o - 0x180) / 4
    let y := x.lane l
    pack [(24, y.ew.toNat), (16, y.eh.toNat), (4, x.role l), (0, y.align.toNat)]
  else if o = 0x008 then x.stat
  else 0

/-- The 32 bytes of a halt record (R232). -/
def HaltRec.bytes (h : HaltRec) : List Byte :=
  toLe 8 h.haltTick.toNat ++ toLe 8 h.originTick.toNat ++ toLe 2 h.originCycle ++ toLe 2 h.originNode ++ toLe 1 h.cause ++
    toLe 1 (1 + bn h.here * 2 + bn h.more * 4) ++ toLe 2 h.detail ++ toLe 1 h.dist ++ toLe 3 0 ++ toLe 4 h.pos

/-- The registers of a group slot. -/
def Group.read (g : Group) (o : Nat) : Word :=
  if 0x20 ≤ o ∧ o < 0x40 then
    match g.halt with
    | some h => wordAt h.bytes ((o - 0x20) / 4)
    | none => 0
  else
    match o with
    | 0x08 => pack [(28, g.seatErr.toNat), (24, g.mark.toNat), (16, g.cause.toNat), (0, g.state.code)]
    | 0x0C =>
      (match g.almanac with
       | some a => pack [(16, a.lgSpan - 10), (0, a.group.toNat)]
       | none => 0)
    | 0x10 => g.markT.truncate 32
    | 0x14 => (g.markT >>> 32).truncate 32
    | _ => 0

/-- The FLD block. -/
def State.readFld (s : State) (o : Nat) : Word :=
  if o < 0x200 then
    let p := o / 0x10
    if o % 0x10 = 0 ∧ s.portFitted p then
      pack [(30, s.portMode p), (26, bn (s.port p).lost), (0, (s.port p).credit)]
    else 0
  else if 0x8000 ≤ o ∧ o < 0x8800 then (s.group ((o - 0x8000) / 0x100)).read (o % 0x100)
  else 0

/-! ## The bell (R183 to R187) -/

/-- BELL_STAT. -/
def Bell.stat (b : Bell) : Word :=
  pack [(8, b.depth.toNat), (7, bn b.xfltBit), (6, bn b.refused), (5, bn b.refLoss), (4, bn b.slipBit), (0, b.state.code)]

/-- The BELL block but BELL_NOW0, whose read captures. -/
def Bell.read (b : Bell) (o : Nat) : Word :=
  if 0x40 ≤ o ∧ o < 0x50 then b.slip.word ((o - 0x40) / 4)
  else if 0x60 ≤ o ∧ o < 0x70 then b.xflt.word ((o - 0x60) / 4)
  else if 0x100 ≤ o ∧ o < 0x180 then
    let y := b.port ((o - 0x100) / 4)
    pack [(31, bn y.valid), (30, bn y.txadj), (0, y.hop)]
  else
    match o with
    | 0x10 => b.stat
    | 0x24 => b.capTick.truncate 32
    | 0x28 => (b.capTick >>> 32).truncate 32
    | _ => 0

/-! ## The host port (R493 to R496, R582) -/

/-- The state code of the host link. -/
def LinkState.code : LinkState → Nat
  | .down => 0
  | .ladder => 1
  | .up => 2

/-- The HP block. -/
def State.readHp (s : State) (o : Nat) : Word :=
  let x := s.hp
  if 0x8000 ≤ o ∧ o < 0x10000 then Table.get 0 x.rt ((o - 0x8000) / 4)
  else
    match o with
    | 0x08 => pack [(24, x.fails), (20, x.cause), (8, x.alerts.length), (3, x.state.code), (0, x.rate)]
    | 0x0C => pack [(0, bn x.flushed)]
    | 0x10 => x.err.w0
    | 0x14 => x.err.w1
    | 0x30 => s.cwf.w0
    | 0x34 => s.cwf.w1
    | 0x38 => s.cwf.w2
    | _ => 0

/-! ## Tallies, the probe buffer (R592 to R594, R609) -/

/-- The tally counter and the register of it at an offset of the TAL block: 0 selection, 1 LO, 2 HI (R593, R594). -/
def talAt (o : Nat) : Option (TalCtr × Nat) :=
  if 0x100000 ≤ o ∧ o < 0x124000 then
    let m := (o - 0x100000) / 0x80
    let i := o % 0x80
    if i < 0x20 then some (.mc (BitVec.ofNat 14 (m * 8 + i / 4)), 0)
    else if 0x40 ≤ i then some (.mc (BitVec.ofNat 14 (m * 8 + (i - 0x40) / 8)), 1 + i % 8 / 4)
    else none
  else if 0x1000 ≤ o ∧ o < 0x1800 then
    let d := (o - 0x1000) / 0x400
    let i := o % 0x400
    if i < 0x100 then some (.dc (BitVec.ofNat 7 (d * 64 + i / 4)), 0)
    else if i < 0x300 then some (.dc (BitVec.ofNat 7 (d * 64 + (i - 0x100) / 8)), 1 + i % 8 / 4)
    else none
  else none

/-- A read of the TAL block; through the unprivileged aperture it holds the counter registers only (R636). A LO read captures. -/
def State.readTal (s : State) (w : Writer) (o : Nat) : Word × State :=
  match talAt o with
  | some (c, 0) => (if w = .hostU then 0 else (s.counter c).elim 0 (fun x => x.sel), s)
  | some (c, 1) => s.readLo w c
  | some (c, _) => (s.readHi w c, s)
  | none => (if o = 0 ∧ w ≠ .hostU then pack [(0, bn s.tally.freeze)] else 0, s)

/-- The DBG block; the window reads zero while capture runs (R597). -/
def ProbeBuf.read (x : ProbeBuf) (o : Nat) : Word :=
  if 0x100000 ≤ o ∧ o < 0x200000 then
    if x.runs then 0 else wordAt (Table.get [] x.entries ((o - 0x100000) / 16)) (o % 16 / 4)
  else
    match o with
    | 0x00 => x.ctl
    | 0x08 => x.trig0
    | 0x0C => x.trig1
    | 0x10 => pack [(31, bn x.trig), (30, bn x.stopped), (0, x.count)]
    | 0x14 => pack [(0, x.oldest)]
    | _ => 0

/-! ## CW registers -/

/-- The committed word of a CW register that no other state holds. -/
def State.cwKept (s : State) (off : Nat) : Word := Table.get 0 s.cwHeld off

/-- The value that a CW register holds. DEDUCED: a doorbell with no host-owned side, which commits nothing, reads its reset value
(log entry 176). -/
def State.cwValue (s : State) : CwReg → Word
  | .doorbell q =>
    let x := s.queue q
    (match x.hostSide q with
     | some true => pack [(0, x.tail.v.toNat)]
     | some false => pack [(0, x.head.v.toNat)]
     | none => 0)
  | .qctl => s.cwKept 0x440000
  | .ledgerUpdate => s.ledger.upd2
  | .grnCtl k => pack [(0, bn (s.granary k).opened)]
  | .hash k h high =>
    let m := (s.granary k).mask h
    if high then pack [(0, m.toNat / 2 ^ 32)] else m.truncate 32
  | .cadence => pack [(0, bn s.cadence.hot)]
  | .streamResume _ => 0
  | .cfgLoad => s.cwKept 0x3040000
  | .cfgRel => 0
  | .cfgRba => s.cfg.rba
  | .laneCtl p => pack [(5, (s.port p).maxRate.toNat), (0, bn (s.port p).en)]
  | .node => pack [(0, s.node.toNat)]
  | .seat g => s.cwKept (0x3908000 + 0x100 * g)
  | .bellCtl => pack [(16, s.bell.tag.toNat), (2, s.bell.upPort.toNat), (0, s.bell.role.toNat)]
  | .bellDown => s.bell.down
  | .hpCtl => pack [(8, bn s.hp.relayEn), (5, s.hp.maxRate.toNat)]
  | .hpRctl => pack [(16, bn s.hp.accept), (0, s.hp.head.toNat)]
  | .reeveCtl => 0
  | .pwrReq => s.cwKept 0x100200
  | .pwrRst => s.cwKept 0x100210
  | .secCmd => s.cwKept 0x200000
  | .secDbg => pack [(0, bn s.sec.l1Allow)]

/-! ## Reads -/

/-- A read of an offset of the privileged aperture that is no CW register. -/
def State.readPlain (s : State) (off : Nat) : Word :=
  if off < 0xD00 then s.readIdn off
  else if 0x100000 ≤ off ∧ off < 0x101000 then s.readReeve off
  else if 0x200000 ≤ off ∧ off < 0x240000 then s.readSec (off - 0x200000)
  else if 0x440000 ≤ off ∧ off < 0x570000 then s.readQs off
  else if 0x800000 ≤ off ∧ off < 0x800040 then s.readPgl (off - 0x800000)
  else if 0xC00000 ≤ off ∧ off < 0xCC0000 then s.readGrn ((off - 0xC00000) / 0x10000) (off % 0x10000)
  else if off = 0xCF0008 then s.cadence.stat
  else if 0x1000000 ≤ off ∧ off < 0x1480000 then s.readMill ((off - 0x1000000) / 0x1000) (off % 0x1000)
  else if 0x2000010 ≤ off ∧ off < 0x2000020 then s.torW.word ((off - 0x2000010) / 4)
  else if 0x2010010 ≤ off ∧ off < 0x2010020 then s.torE.word ((off - 0x2010010) / 4)
  else if 0x3000000 ≤ off ∧ off < 0x3040000 then s.readFab (off - 0x3000000)
  else if 0x3040000 ≤ off ∧ off < 0x3060000 then s.readCfg (off - 0x3040000)
  else if 0x3060000 ≤ off ∧ off < 0x3060020 then s.cfg.sxt.read (off - 0x3060000)
  else if 0x3800000 ≤ off ∧ off < 0x3808000 then s.readLane ((off - 0x3800000) / 0x400) (off % 0x400)
  else if 0x3900000 ≤ off ∧ off < 0x3910000 then s.readFld (off - 0x3900000)
  else if 0x3B00000 ≤ off ∧ off < 0x3B00180 then s.bell.read (off - 0x3B00000)
  else if 0x3C00000 ≤ off ∧ off < 0x3C10000 then s.readHp (off - 0x3C00000)
  else if 0x4800000 ≤ off ∧ off < 0x4A00000 then s.pb.read (off - 0x4800000)
  else 0

/-- A read of the word at an aligned offset of the aperture of a reader (R16, R480, R560, R636). -/
def State.regRead (s : State) (w : Writer) (off : Nat) : Word × State :=
  if !s.answers off || !inPlane w off then (0, s)
  else
    match s.cwOf w off with
    | some r =>
      let v := s.cwValue r
      (if off % 8 = 0 then v else ~~~ v, s)
    | none =>
      if off = 0x3B00020 then
        (pack [(0, s.clock.cyc)], s.modBell (fun b => { b with capCycle := s.clock.cyc, capTick := s.clock.tick }))
      else if 0x4000000 ≤ off ∧ off < 0x4124000 then s.readTal w (off - 0x4000000)
      else if w = .hostU then (if off = 0x3B00024 ∨ off = 0x3B00028 then s.bell.read (off - 0x3B00000) else 0, s)
      else (s.readPlain off, s)

end Sys2Proof.Machine
end

