-- ==== Sys2Proof/Machine/RegWrite.lean ====
section
/-! DEFINITION. Writes of registers: committed CW registers (R561 to R563), plain registers by access type (R12, R15, R16), and the
commands of register access. -/

namespace Sys2Proof.Machine

open Sys2Proof

/-! ## Committed values -/

/-- The write of FLD_NODE that a commit makes (R227): none while a group slot is held. -/
def State.nodeWrite (s : State) (v : Word) : Option State := if s.anyHeld then none else some { s with node := v.truncate 10 }

/-- The ports fitted, as bits. -/
def State.fittedMask (s : State) : Word := pack (s.fittedPorts.map (fun p => (p, 1)))

/-- The offset of a CW register's value word. -/
def CwReg.off : CwReg → Nat
  | .doorbell q => 0x400000 + 8 * q
  | .qctl => offQctl
  | .ledgerUpdate => offPglUpd2
  | .grnCtl k => offGrn k
  | .hash k h high => offHash k h high
  | .cadence => 0xCF0000
  | .streamResume m => offStreamResume m
  | .cfgLoad => offCfgLoad
  | .cfgRel => 0x3040020
  | .cfgRba => 0x3040030
  | .laneCtl p => offLaneCtl p
  | .node => 0x3907F00
  | .seat g => 0x3908000 + 0x100 * g
  | .bellCtl => offBellCtl
  | .bellDown => 0x3B00008
  | .hpCtl => offHpCtl
  | .hpRctl => 0x3C00020
  | .reeveCtl => offReeveCtl
  | .pwrReq => offPwrReq
  | .pwrRst => offPwrRst
  | .secCmd => offSecCmd
  | .secDbg => 0x200018

/-- The commit of a value whose complement matched: the register's own commit condition and its effect. Reserved bits of the value
are ignored (R15). -/
def State.cwCommit (s : State) (w : Writer) (r : CwReg) (v : Word) : State :=
  match r with
  | .doorbell q => s.ring (!w.priv) false q (v.truncate 17)
  | .qctl => s.commit w r.off (s.qctl v)
  | .ledgerUpdate => s.commit w r.off (s.hostUpdate (v.toNat % 2 ^ 19))
  | .grnCtl k => s.commit w r.off (s.grnCtl k v)
  | .hash k h high => s.hashCommit w k h high v
  | .cadence => s.cadWrite v
  | .streamResume m => s.commit w r.off (s.streamResume m v)
  | .cfgLoad => s.commitLoad w v
  | .cfgRel => s.cfgRel v
  | .cfgRba => s.readback v
  | .laneCtl p => s.commit w r.off (s.laneCtl p v)
  | .node => s.commit w r.off (s.nodeWrite v)
  | .seat g => s.seatWrite g v
  | .bellCtl => s.commit w r.off ((s.bellCtl v).map (fun s => if v.getLsbD 8 then s.bellRelock else s))
  | .bellDown => s.modBell (fun b => { b with down := v &&& s.fittedMask })
  | .hpCtl => s.commit w r.off (s.hpCtl v)
  | .hpRctl => s.modHp (fun x => { x with accept := v.getLsbD 16, head := v.truncate 10, latch := false })
  | .reeveCtl => s.commit w r.off (s.reeveCtl v)
  | .pwrReq => s.commit w r.off (s.pwrReq v)
  | .pwrRst => s.commit w r.off (s.takeReset (rstOf v))
  | .secCmd => s.commit w r.off (s.secCmd v)
  | .secDbg => s.commit w r.off (s.dbgCtl v)

/-! ## Pending values (R561, R562) -/

/-- The offset is a doorbell's. -/
def isDoorbell (off : Nat) : Bool := decide (0x400000 ≤ off ∧ off < 0x440000)

/-- A complement failure of kinds 1 to 4; a doorbell's also counts as a discarded doorbell (R314). -/
def State.complementFail (s : State) (w : Writer) (off kind : Nat) : State :=
  let s := s.cwFail w off kind
  if isDoorbell off then s.doorbellFail (!w.priv) ((off - 0x400000) / 8) else s

/-- The pending value of a writer for a register. -/
def State.pendingOf (s : State) (w : Writer) (off : Nat) : Option PendingCw :=
  s.cwPend.find? (fun p => decide (p.off = off) && decide (p.writer = w))

/-- Clear a writer's pending value. -/
def State.clearPending (s : State) (w : Writer) (off : Nat) : State :=
  { s with cwPend := s.cwPend.filter (fun p => !(decide (p.off = off) && decide (p.writer = w))) }

/-- No complement word came within 100 µs of the value word (kind 4). -/
def State.expirePending (s : State) (w : Writer) (off : Nat) : State := (s.clearPending w off).complementFail w off 4

/-- A pending value that has stood for 100 µs is cleared before another word of its register arrives. -/
def State.dropStale (s : State) (w : Writer) (off : Nat) : State :=
  match s.pendingOf w off with
  | some p => if p.at_ + hundredUs ≤ s.clock.now then s.expirePending w off else s
  | none => s

/-- A write of the value word (R561, R562 kind 3). -/
def State.cwFirst (s : State) (w : Writer) (off : Nat) (v : Word) : State :=
  let s := s.dropStale w off
  let s := if (s.pendingOf w off).isSome then (s.clearPending w off).complementFail w off 3 else s
  { s with cwPend := s.cwPend ++ [{ off := off, writer := w, value := v, at_ := s.clock.now }] }

/-- A write of the complement word (R561, R562 kinds 1 and 2). -/
def State.cwSecond (s : State) (w : Writer) (off : Nat) (r : CwReg) (v : Word) : State :=
  let s := s.dropStale w off
  match s.pendingOf w off with
  | none => s.complementFail w off 1
  | some p =>
    let s := s.clearPending w off
    if v = ~~~p.value then s.cwCommit w r p.value else s.complementFail w off 2

/-! ## Check latches (R564) -/

/-- The source block of a CW register (18 Table 5). -/
def CwReg.block : CwReg → Nat
  | .doorbell _ => 6
  | .qctl => 6
  | .ledgerUpdate => 8
  | .grnCtl _ => 9
  | .hash _ _ _ => 9
  | .cadence => 9
  | .streamResume _ => 10
  | .cfgLoad => 13
  | .cfgRel => 13
  | .cfgRba => 13
  | .laneCtl _ => 15
  | .node => 16
  | .seat _ => 16
  | .bellCtl => 17
  | .bellDown => 17
  | .hpCtl => 18
  | .hpRctl => 18
  | .reeveCtl => 2
  | .pwrReq => 4
  | .pwrRst => 4
  | .secCmd => 5
  | .secDbg => 5

/-- A CW register takes its reset value. A doorbell holds no value beside its queue's count, and the registers that read zero hold
none. -/
def State.cwReset (s : State) (r : CwReg) : State :=
  match r with
  | .ledgerUpdate => { s with ledger := { s.ledger with upd2 := 0 } }
  | .grnCtl k => s.modGranary k (fun g => { g with opened := false })
  | .hash k h high =>
    let d := defaultMask h
    s.modGranary k (fun g =>
      let lo := (if high then g.mask h else d).toNat % 2 ^ 32
      let hi := (if high then d else g.mask h).toNat / 2 ^ 32
      let v := BitVec.ofNat 40 (hi * 2 ^ 32 + lo)
      { g with hash := if v = d then Table.erase g.hash h else Table.insert g.hash h v })
  | .cadence => { s with cadence := { s.cadence with hot := false, next := none } }
  | .cfgRba => { s with cfg := { s.cfg with rba := 0 } }
  | .laneCtl p => (s.laneCtl p 0x80).getD s
  | .node => { s with node := 0 }
  | .bellCtl => (s.bellCtl 0).getD s
  | .bellDown => s.modBell (fun b => { b with down := 0 })
  | .hpCtl => s.modHp (fun x => { x with relayEn := false, maxRate := 4 })
  | .hpRctl => s.modHp (fun x => { x with accept := false, head := 0 })
  | .secDbg => (s.dbgCtl 0).getD s
  | r => { s with cwHeld := Table.erase s.cwHeld r.off }

/-- The stored pair of a CW register is checked when it is read or used (R564): a pair that disagrees is rewritten from its check
latch, or the register takes its reset value where the latch fails too. -/
def State.cwCheck (s : State) (w : Writer) (off : Nat) : State :=
  match s.cwOf w off with
  | none => s
  | some r =>
    match s.cwUpset.find? (fun e => decide (e.1 = r.off)) with
    | none => s
    | some (_, latch) =>
      let s := { s with cwUpset := Table.erase s.cwUpset r.off }.tallyW .cwUpset
      if latch then s.report r.block 0 .corrected .ok 15 0 true
      else (s.cwReset r).report r.block 0 .contained .faultInteg 15 0 false

/-! ## Plain registers -/

/-- Change the error record of a die's torus. -/
def State.setTor (s : State) (d : Die) (r : ErrRec) : State :=
  match d with
  | .w => { s with torW := r }
  | .e => { s with torE := r }

/-- A record is cleared by writing 1 to its valid bit. -/
def State.clearRecord (s : State) : ErrRecId → State
  | .slip => s.modBell (fun b => { b with slip := {} })
  | .xflt => s.modBell (fun b => { b with xflt := {} })
  | .cwf => { s with cwf := {} }
  | .hp => s.modHp (fun x => { x with err := {} })
  | .qs => { s with qs := { s.qs with err := {} } }
  | .tor d => s.setTor d {}
  | .grn k => s.modGranary k.toNat (fun g => { g with err := {} })
  | .sxt => s.modSxt (fun x => { x with ue := {} })

/-- The word that holds the valid bit of a record. -/
def recordOff : ErrRecId → Nat
  | .slip => 0x3B0004C
  | .xflt => 0x3B0006C
  | .cwf => 0x3C00034
  | .hp => 0x3C00014
  | .qs => 0x440014
  | .tor .w => 0x200001C
  | .tor .e => 0x201001C
  | .grn k => offGrn k.toNat + 0x4C
  | .sxt => 0x306001C

/-- The records whose valid bits stand at an offset. -/
def recordAt (off : Nat) : Option ErrRecId :=
  if 0xC00000 ≤ off ∧ off < 0xCC0000 then
    if off % 0x10000 = 0x4C then some (.grn (BitVec.ofNat 4 ((off - 0xC00000) / 0x10000))) else none
  else
    match off with
    | 0x3B0004C => some .slip
    | 0x3B0006C => some .xflt
    | 0x3C00034 => some .cwf
    | 0x3C00014 => some .hp
    | 0x440014 => some .qs
    | 0x200001C => some (.tor .w)
    | 0x201001C => some (.tor .e)
    | 0x306001C => some .sxt
    | _ => none

/-- The record exists: a granary's stands in the block of a fitted site. -/
def State.hasRecord (s : State) : ErrRecId → Bool
  | .grn k => s.hasGranary k.toNat
  | _ => true

/-- Writes of the REEVE, PWR and SEC words that are no CW registers. -/
def State.writeLow (s : State) (off : Nat) (v : Word) : State :=
  if 0x220000 ≤ off ∧ off < 0x221000 then s.mbxWrite ((off - 0x220000) / 4) v
  else
    match off with
    | 0x100010 => if v.getLsbD 4 then s.modReeve .w (fun r => { r with imgErr := false }) else s
    | 0x100014 => if v.getLsbD 4 then s.modReeve .e (fun r => { r with imgErr := false }) else s
    | 0x100304 => { s with board := { s.board with
        vinLo := s.board.vinLo && !v.getLsbD 2, vinHi := s.board.vinHi && !v.getLsbD 1, hot := s.board.hot && !v.getLsbD 0 } }
    | _ => s

/-- Writes of the PGL block (R365, R367). -/
def State.writePgl (s : State) (o : Nat) (v : Word) : State :=
  match o with
  | 0x00 => { s with ledger := { s.ledger with upd0 := v } }
  | 0x04 => { s with ledger := { s.ledger with upd1 := v } }
  | 0x20 => { s with ledger := { s.ledger with rdidx := v.toNat % 2 ^ 19 } }
  | _ => s

/-- Writes of the MILL block of a mill that is present and in service (R78, R112, R154). -/
def State.writeMill (s : State) (m o : Nat) (v : Word) : State :=
  if !s.millLive m then s
  else
    match o with
    | 0x120 => s.modMill m (fun x => { x with arith := x.arith &&& ~~~v.truncate 4 })
    | 0x180 =>
      let s := s.auditWrite m (v.getLsbD 2)
      if v.getLsbD 1 then s.modMill m (fun x => { x with sfr := none }) else s
    | 0x240 => s.modMill m (fun x => { x with sieve := { x.sieve with stat := x.sieve.stat &&& ~~~v.truncate 5 } })
    | _ => s

/-- Writes of the FAB block (R399 to R401). -/
def State.writeFab (s : State) (o : Nat) (v : Word) : State :=
  if 0x100 ≤ o ∧ o < 0x180 then
    if v.getLsbD 18 then s.modPlot ((o - 0x100) / 4) (fun x => { x with ue := false }) else s
  else if 0x400 ≤ o ∧ o < 0x600 then
    { s with fab := { s.fab with prbSel := Table.put 0 s.fab.prbSel ((o - 0x400) / 4) (v &&& 0x800FFFFF) } }
  else
    match o with
    | 0x600 => { s with fab := { s.fab with prbCtlW := v &&& 0x80000FFF } }
    | 0x604 => { s with fab := { s.fab with prbCtlE := v &&& 0x80000FFF } }
    | 0x608 => { s with fab := { s.fab with prbPin := v &&& 0x80000007 } }
    | _ => s

/-- CFG_STAT0.err is released by writing 1 while full_ok is 1 and no load runs (R417). -/
def State.confErrRelease (s : State) : State :=
  if s.cfg.fullOk && s.cfg.run.isNone then s.modCfg (fun c => { c with err := false }) else s

/-- Writes of LANE registers of a fitted port (R464, R465). -/
def State.writeLane (s : State) (p o : Nat) (v : Word) : State :=
  if !s.portFitted p then s
  else if 0x100 ≤ o ∧ o < 0x124 then s.eqPeak p ((o - 0x100) / 4) v
  else if o = 0x008 ∧ v.getLsbD 14 then s.modPort p (fun x => { x with stepFail := false })
  else s

/-- Writes of BELL_STAT (R183). -/
def Bell.clearStat (b : Bell) (v : Word) : Bell :=
  { b with xfltBit := b.xfltBit && !v.getLsbD 7, refused := b.refused && !v.getLsbD 6, refLoss := b.refLoss && !v.getLsbD 5
           slipBit := b.slipBit && !v.getLsbD 4 }

/-- The bits of word `i` of a relay-table entry (R496). -/
def relayMask (i : Nat) : Word :=
  match i with
  | 2 => 0x7FFFFFFF
  | 3 => 0x8000001F
  | 6 => 0x7FFFFFFF
  | 7 => 0x0000001F
  | _ => 0xFFFFFFFF

/-- Writes of the HP block that are no CW registers and no records (R496). -/
def State.writeHp (s : State) (o : Nat) (v : Word) : State :=
  if 0x8000 ≤ o ∧ o < 0x10000 then
    let k := (o - 0x8000) / 4
    s.modHp (fun x => { x with rt := Table.put 0 x.rt k (v &&& relayMask (k % 8)) })
  else s

/-- Writes of the TAL block (R592, R593). -/
def State.writeTal (s : State) (o : Nat) (v : Word) : State :=
  match talAt o with
  | some (c, 0) => s.selectTally c v
  | some _ => s
  | none => if o = 0 then s.talCtl (v.getLsbD 1) (v.getLsbD 0) else s

/-- Writes of the DBG block (R609). -/
def State.writeDbg (s : State) (o : Nat) (v : Word) : State :=
  match o with
  | 0x00 => s.pbCtl v
  | 0x08 => { s with pb := { s.pb with trig0 := v } }
  | 0x0C => { s with pb := { s.pb with trig1 := v &&& 0x800007FF } }
  | _ => s

/-- A write of a word of the privileged aperture that is no CW register; a W1C bit whose event occurs in this cycle stays (R13). -/
def State.writePlain (s : State) (off : Nat) (v : Word) : State :=
  let v := s.clearable off v
  match recordAt off with
  | some r => if v.getLsbD 31 && s.hasRecord r then s.clearRecord r else s
  | none =>
    if off < 0x400000 then s.writeLow off v
    else if 0x500000 ≤ off ∧ off < 0x540000 then
      if off % 0x20 / 4 < 6 then s.recordWrite ((off - 0x500000) / 0x20) (off % 0x20 / 4) v else s
    else if 0x800000 ≤ off ∧ off < 0x800040 then s.writePgl (off - 0x800000) v
    else if 0xC00000 ≤ off ∧ off < 0xCC0000 then
      if off % 0x10000 = 0x008 ∧ v.getLsbD 16 ∧ s.hasGranary ((off - 0xC00000) / 0x10000) then
        s.modGranary ((off - 0xC00000) / 0x10000) (fun g => { g with hot := false })
      else s
    else if off = 0xCF0008 then
      { s with cadence := { s.cadence with
          refused := s.cadence.refused && !v.getLsbD 8, tcf := s.cadence.tcf && !v.getLsbD 7 } }
    else if 0x1000000 ≤ off ∧ off < 0x1480000 then s.writeMill ((off - 0x1000000) / 0x1000) (off % 0x1000) v
    else if 0x3000000 ≤ off ∧ off < 0x3040000 then s.writeFab (off - 0x3000000) v
    else if off = 0x3040008 then (if v.getLsbD 31 then s.confErrRelease else s)
    else if 0x3100000 ≤ off ∧ off < 0x3200000 then s.sheafWrite (off - 0x3100000) (toLe 4 v.toNat)
    else if 0x3800000 ≤ off ∧ off < 0x3808000 then s.writeLane ((off - 0x3800000) / 0x400) (off % 0x400) v
    else if 0x3900000 ≤ off ∧ off < 0x3900200 then
      if off % 0x10 = 0 ∧ v.getLsbD 26 ∧ s.portFitted ((off - 0x3900000) / 0x10) then
        s.modPort ((off - 0x3900000) / 0x10) (fun x => { x with lost := false })
      else s
    else if off = 0x3B00010 then s.modBell (fun b => b.clearStat v)
    else if 0x3C00000 ≤ off ∧ off < 0x3C10000 then s.writeHp (off - 0x3C00000) v
    else if 0x4000000 ≤ off ∧ off < 0x4124000 then s.writeTal (off - 0x4000000) v
    else if 0x4800000 ≤ off ∧ off < 0x4800010 then s.writeDbg (off - 0x4800000) v
    else s

/-! ## A write -/

/-- The words that the debug port may write at every level: SEC_CMD and SEC_MBX (R601). -/
def secOpen (off : Nat) : Bool := decide (0x200000 ≤ off ∧ off < 0x200008) || decide (0x220000 ≤ off ∧ off < 0x221000)

/-- The write is discarded: the block does not answer under the boot ROM (R480), it stands in another plane than the reeve that writes
(R26), or the level does not let the debug port write it (R601). -/
def State.writeBarred (s : State) (w : Writer) (off : Nat) : Bool :=
  !s.answers off || !inPlane w off || (s.shutOut w && !secOpen off)

/-- A write of the word at an aligned offset of the aperture of a writer. -/
def State.regWrite (s : State) (w : Writer) (off : Nat) (v : Word) : State :=
  if s.writeBarred w off then s
  else
    let s := s.cwCheck w off
    match s.cwOf w off with
    | some r => if off % 8 = 0 then s.cwFirst w off v else s.cwSecond w (off - 4) r v
    | none => if w = .hostU then s else s.writePlain off v

/-- A write of one or two words. -/
def State.regBytes (s : State) (w : Writer) (off : Nat) (b : List Byte) : State :=
  let s := s.regWrite w off (wordAt b 0)
  if 4 < b.length then s.regWrite w (off + 4) (wordAt b 1) else s

/-- A read of a word, behind the check of a CW register's stored pair. -/
def State.regReadChecked (s : State) (w : Writer) (off : Nat) : Word × State :=
  (if s.answers off && inPlane w off then s.cwCheck w off else s).regRead w off

/-- The bytes of a read of one or two words. -/
def State.regFetch (s : State) (w : Writer) (off n : Nat) : List Byte × State :=
  let (a, s) := s.regReadChecked w off
  if 4 < n then
    let (b, s) := s.regReadChecked w (off + 4)
    (toLe 4 a.toNat ++ toLe 4 b.toNat, s)
  else (toLe 4 a.toNat, s)

/-! ## Commands -/

/-- REGISTER_WRITE (R12, R15, R16, R561): a write of an aligned word of a writer's aperture. -/
def execRegisterWrite (w : Writer) (off : BitVec 28) (v : Word) (s : State) : Res :=
  .next (if off.toNat % 4 = 0 then s.regWrite w off.toNat v else s)

/-- CW_PENDING_WRITE (R561): a write of the value word of a CW register. -/
def execCwPendingWrite (w : Writer) (off : BitVec 28) (v : Word) (s : State) : Res :=
  .next (if off.toNat % 8 = 0 ∧ (s.cwOf w off.toNat).isSome ∧ !s.writeBarred w off.toNat then
      (s.cwCheck w off.toNat).cwFirst w off.toNat v
    else s)

/-- CW_PENDING_TIMEOUT (R562 kind 4): 100 µs have passed since the value word. -/
def execCwPendingTimeout (w : Writer) (off : BitVec 28) (s : State) : Res :=
  match s.pendingOf w off.toNat with
  | none => .next s
  | some p => .next ((s.advanceTo (p.at_ + hundredUs)).expirePending w off.toNat)

/-- ERROR_RECORD_CLEAR (R185, R186, R254, R314, R347, R430, R494, R582): a 1 written to the valid bit of a record. -/
def execErrorRecordClear (w : Writer) (r : ErrRecId) (s : State) : Res :=
  .next (if s.may w && inPlane w (recordOff r) && s.hasRecord r && s.answers (recordOff r) &&
      (s.clearable (recordOff r) 0x80000000).getLsbD 31 then s.clearRecord r else s)

end Sys2Proof.Machine
end

