-- ==== Sys2Proof/Machine/Transactions.lean ====
section
/-! DEFINITION. Host transactions as the link and relay parcels bring them (R471 to R480, R488 to R490), and the completion of a ledger
update with what waited for it. -/

namespace Sys2Proof.Machine

open Sys2Proof

/-! ## Posted writes (R478) -/

/-- The writer and offset of an aperture address. -/
def apertureWriter (priv : Bool) : Writer := if priv then .hostP else .hostU

/-- A posted write or doorbell takes effect; none while it waits for an update of its page. -/
def State.takePosted (s : State) (p : Posted) : Option State :=
  if p.window then s.windowWrite p
  else
    match apertureOf p.addr with
    | none => some s
    | some (priv, off) =>
      let w := apertureWriter priv
      if p.bell then some ((s.regWrite w off (wordAt p.data 0)).regWrite w (off + 4) (wordAt p.data 1))
      else some (s.regBytes w off p.data)

/-- Posted writes take effect in order, until one waits. -/
def State.drainPosted (s : State) : Nat → State
  | 0 => s
  | n + 1 =>
    match s.hp.posted with
    | [] => s
    | p :: rest =>
      match s.takePosted p with
      | none => s
      | some s => (s.modHp (fun x => { x with posted := rest })).drainPosted n

/-- A posted write behind those that have not taken effect. -/
def State.post (s : State) (p : Posted) : State :=
  let s := s.modHp (fun x => { x with posted := x.posted ++ [p] })
  s.drainPosted s.hp.posted.length

/-- The reads that waited are served, as far as they can be. -/
def State.retryReads (s : State) : State :=
  s.hp.reads.foldl State.takeRead (s.modHp (fun x => { x with reads := [] }))

/-! ## Serving a transaction (R475 to R480) -/

/-- Why a write or doorbell is not accepted (R476). -/
def postReason (t : Trans) : Option Nat :=
  if t.kind = 3 then
    match apertureOf t.addr with
    | none => some 2
    | some (_, off) => if isDoorbell off && decide (off % 8 = 0) then none else some 3
  else shapeReason t.addr t.len

/-- A register read is served as it stands (R478). -/
def State.readRegs (s : State) (via : Option Via) (t : Trans) (priv : Bool) (off : Nat) : State :=
  let (b, s) := s.regFetch (apertureWriter priv) off t.len
  s.completeHost via t.tag .ok b

/-- Serve a well-formed request of the host, from the device's own link or from its relay head. -/
def State.serveHost (s : State) (via : Option Via) (t : Trans) : State :=
  match t.kind with
  | 1 =>
    (match shapeReason t.addr t.len with
     | some r => s.refuseHost via t r
     | none =>
       match apertureOf t.addr with
       | some (priv, off) => s.readRegs via t priv off
       | none => s.startRead via t.tag t.addr t.len)
  | 2 | 3 =>
    let p : Posted := { bell := decide (t.kind = 3), addr := t.addr, data := t.data, relayed := via.isSome }
    (match postReason t with
     | some r => s.postedErr p r
     | none => s.post p)
  | 4 => s.devCompletion t.tag (t.addr % 256) t.data
  | 6 => s.takeMessage t.addr { tag := t.tag, data := t.data, at_ := s.clock.now, via := via }
  | _ => s

/-- A transaction of the device's own link: refused when its header is malformed, relayed when it names another node, served
otherwise. -/
def State.receive (s : State) (b : List Byte) : State :=
  let t := transOf b
  if !t.ok then s.refuseHost none t 1
  else if t.flags = 1 ∧ t.kind ≠ 4 then s.relay t b
  else s.serveHost none t

/-! ## Link packets (R471 to R474) -/

/-- The pool whose credit a transaction spends (R473); 4 for none. -/
def Trans.pool (t : Trans) : Nat :=
  match t.kind with
  | 1 => 2
  | 2 => if inWindow t.addr then 0 else 1
  | 3 => 1
  | 6 => 3
  | _ => 4

/-- The packet is consecutive, whole, of a valid length, and its CRC holds. -/
def HostPort.packetOk (x : HostPort) (b : List Byte) : Bool :=
  let n := leAt b 2 2
  decide (leAt b 0 2 = x.nextRecv) && decide (16 ≤ n) && decide (n ≤ 4112) && decide (8 + n ≤ b.length) &&
    decide (leAt b (4 + n) 4 = crc32 (b.take (4 + n)))

/-- LINK_PACKET_RECEIVE (R472 to R474): a packet that is not in order, fails its CRC or had an uncorrectable frame is discarded with a
nak. A request without a credit fails the link with cause 4. -/
def execLinkPacketReceive (bytes : List Byte) (uncorrectable : Bool) (s : State) : Res :=
  let x := s.hp
  if x.state ≠ .up then .next s
  else if uncorrectable || !x.packetOk bytes then .next (s.modHp (fun x => { x with nak := true }))
  else
    let b := (bytes.drop 4).take (leAt bytes 2 2)
    let pool := (transOf b).pool
    let s := s.modHp (fun x => { x with
      nextRecv := (x.nextRecv + 1) % 4096
      firstUnacked := if x.unacked = 0 then s.clock.now else x.firstUnacked
      unacked := x.unacked + 1 })
    if s.hp.held.get pool = some 0 then .next (s.linkFail 4)
    else .next ((s.modHp (fun x => { x with held := x.held.upd pool (· - 1), give := x.give.upd pool (· + 1) })).receive b)

/-! ## Relayed requests at the target (R489, R490) -/

/-- The return route and head of a relay header (R488, Table 10). -/
def viaOf (hdr : List Byte) : Via := { left := leAt hdr 36 1, hops := leAt hdr 24 12, head := leAt hdr 38 2 }

/-- The relay header is well formed. -/
def relayOk (hdr : List Byte) : Bool :=
  decide (leAt hdr 37 1 = 0) && decide (leAt hdr 40 24 = 0) && decide (1 ≤ leAt hdr 36 1) && decide (leAt hdr 36 1 ≤ 19)

/-- RELAY_PARCEL_RECEIVE (R489, R490): a class-1 parcel of a request. One from the latched head is served and completed on its return
route; the first valid one after the boot ROM's fallback latches its head; any other is discarded and counted. -/
def execRelayParcelReceive (p : PortIx) (s : State) : Res :=
  match s.takeRelayed p.toNat (fun k => !(decide (k = 4) || decide (k = 5))) with
  | none => .next s
  | some (x, s) =>
    let v := viaOf x.hdr
    let b := transBytes x.data
    let t := transOf b
    let s := if s.hp.latch && relayOk x.hdr && t.ok then
        s.modHp (fun y => { y with accept := true, head := BitVec.ofNat 10 v.head, latch := false })
      else s
    if s.hp.accept && decide (s.hp.head.toNat = v.head) then
      let s := s.modHp (fun y => { y with home := some v })
      .next (if t.ok then s.serveHost (some v) t
             else if t.kind = 1 ∨ t.kind = 6 then s.refuseHost (some v) t 1
             else s.hostErr 10 t.kind t.node t.addr)
    else .next (s.tallyW .relayDrop)

end Sys2Proof.Machine
end

