-- ==== Sys2Proof/Machine/DebugAccess.lean ====
section
/-! DEFINITION. Accesses of the debug port (R599 to R602, R610), and the completion of a ledger update. -/

namespace Sys2Proof.Machine

open Sys2Proof

/-- What an access comes to: a status, read data, and the state; none while it waits for an update of its page (R361). -/
abbrev DbgRes := Option (Status × Word × State)

/-! ## Spaces 0 and 1 (R600, R601, R610) -/

/-- The words that the debug port may read at every level: SEC_CMD, SEC_CSTAT, SEC_NONCE, SEC_MBX (R601, Table 8). -/
def secReadable (off : Nat) : Bool :=
  secOpen off || decide (off = 0x200008) || decide (0x200040 ≤ off ∧ off < 0x200060)

/-- Space 0: a register of the privileged aperture. -/
def State.dbgRegister (s : State) (wr : Bool) (off : Nat) (v : Word) : Status × Word × State :=
  if wr then
    if s.shutOut .debug && !secOpen off then (.denied, 0, s) else (.ok, 0, s.regWrite .debug off v)
  else if s.level = 0 ∧ !secReadable off then (.denied, 0, s)
  else
    let (v, s) := s.regReadChecked .debug off
    (.ok, v, s)

/-- DBG_ESTATx. -/
def State.estat (s : State) (w : DbgWho) : Word :=
  let x := s.dbgOf w
  let frozen := match w with
    | .eng m _ => (s.mill m).frozen
    | .reeve _ => false
  let code := match x.halt with
    | .halted => 2
    | .pending => 1
    | .none => if frozen then 3 else 0
  pack [(5, x.bp.toNat), (3, x.why.toNat), (0, code)]

/-- DBG_EPCx: valid while the engine is halted or frozen. A reeve's program counter, and the value in other states, are free values. -/
def State.epc (s : State) (w : DbgWho) : Word × State :=
  let known := match w with
    | .eng m e =>
      if ((s.mill m).eng e).dbg.halt = .halted ∨ (s.mill m).frozen then some ((s.mill m).eng e).pc else none
    | .reeve _ => none
  match known with
  | some pc => (pc, s)
  | none => let (v, s) := s.draw; (BitVec.ofNat 32 v, s)

/-- DBG_BPx_k_HI. -/
def Breakpoint.hi (b : Breakpoint) : Word := pack [(31, bn b.en), (30, bn b.bell), (0, b.cycle.toNat)]

/-- A write of a word of a breakpoint. -/
def Breakpoint.put (b : Breakpoint) (high : Bool) (v : Word) : Breakpoint :=
  if high then { b with en := v.getLsbD 31, bell := v.getLsbD 30, cycle := v.truncate 11 } else { b with val := v }

/-- Space 1, a register of an engine or reeve. -/
def State.dbgEngine (s : State) (wr : Bool) (x o : Nat) (v : Word) : Status × Word × State :=
  let status := decide (o = 4) || decide (o = 8)
  if decide (s.level.toNat < 2) && (wr || !status || decide (s.level = 0)) then (.denied, 0, s)
  else
    match dbgWho x with
    | none => (.mismatch, 0, s)
    | some w =>
      if !s.dbgPresent w then (.absent, 0, s)
      else if o = 0 then
        if wr then ((s.ectl x v).1, 0, (s.ectl x v).2) else (.ok, 0, s)
      else if o = 4 then (.ok, if wr then 0 else s.estat w, s)
      else if o = 8 then (if wr then (.ok, 0, s) else (.ok, (s.epc w).1, (s.epc w).2))
      else if 0x10 ≤ o ∧ o < 0x30 then
        let k := (o - 0x10) / 8
        let high := decide (o % 8 = 4)
        let b := Table.get {} (s.dbgOf w).bps k
        if wr then (.ok, 0, s.modDbg w (fun d => { d with bps := Table.put {} d.bps k (b.put high v) }))
        else (.ok, if high then b.hi else b.val, s)
      else (.mismatch, 0, s)

/-- Space 1: the debug space. -/
def State.dbgSpace (s : State) (wr : Bool) (a : Nat) (v : Word) : Status × Word × State :=
  if a = 0 then
    if wr && v.getLsbD 0 then (s.askLevel1.1, 0, s.askLevel1.2) else (.ok, 0, s)
  else if a < 0x100000 then (if decide (s.level.toNat < 2) then .denied else .mismatch, 0, s)
  else s.dbgEngine wr ((a - 0x100000) / 0x40) (a % 0x40) v

/-! ## Spaces 2 to 6 (R600 to R602) -/

/-- The level lets the debug port reach work, sealed or not (Table 8). -/
def State.dbgMay (s : State) (wr sealed : Bool) : Bool :=
  if wr || sealed then s.unlocked else decide (0 < s.level.toNat)

/-- Read or write the word at a resolved place. -/
def State.dbgWord (s : State) (wr : Bool) (acc : Acc) (v : Word) : DbgRes :=
  if wr then
    match s.accWrite acc (toLe 4 v.toNat) with
    | (some st, s) => some (st, 0, s)
    | (none, _) => none
  else
    match s.accRead acc 4 with
    | (.ok (some b), s) => some (.ok, wordAt b 0, s)
    | (.ok none, _) => none
    | (.error st, s) => some (st, 0, s)

/-- Space 2: a device virtual address, through the ledger. -/
def State.dbgVirtual (s : State) (wr : Bool) (va : Nat) (v : Word) : DbgRes :=
  if !s.dbgMay wr false then some (.denied, 0, s)
  else
    match s.lookup .window va with
    | (none, _) => none
    | (some none, s) => some (.faultInteg, 0, s)
    | (some (some e), s) =>
      if !s.dbgMay wr e.sealed then some (.denied, 0, s)
      else if !e.present || (wr && !e.writable) then some (.faultPage, 0, s)
      else
        match s.entryPlace e va with
        | .host _ => some (.mismatch, 0, s)
        | acc => s.dbgWord wr acc v

/-- The sealed mark of what a stream address of spaces 1 to 3 names. -/
def State.addrSealed (s : State) (a : Nat) : Bool :=
  if field a 44 4 = 3 then (s.plot (field a 24 5)).sealed else (s.mill (addrMill a)).sealed

/-- Space 3: stream spaces 1 to 3. -/
def State.dbgStream (s : State) (wr : Bool) (sp a : Nat) (v : Word) : DbgRes :=
  let sa := sp * 2 ^ 44 + a
  if !s.dbgMay wr (s.addrSealed sa) then some (.denied, 0, s)
  else if sp = 0 ∨ 3 < sp ∨ !streamAddrOk sa then some (.mismatch, 0, s)
  else if sp ≠ 3 ∧ addrMill sa < 1152 ∧ !s.millLive (addrMill sa) then some (.absent, 0, s)
  else if wr && decide (sp ≠ 3) && s.groupRuns (addrMill sa) then some (.mismatch, 0, s)
  else
    let (acc, s) := s.resolve (if sp = 2 then .mill (addrMill sa) else .debug) sa 4 wr
    s.dbgWord wr acc v

/-- Space 4: reeve memory. -/
def State.dbgReeve (s : State) (wr : Bool) (a : Nat) (v : Word) : DbgRes :=
  if !s.dbgMay wr false then some (.denied, 0, s)
  else s.dbgWord wr (.cell (reeveCell (if bitOf a 39 then .e else .w) (a % 2 ^ 32))) v

/-- The bytes of an instruction memory (R79). -/
def imemSize : Eng → Nat
  | .st => 16384
  | .mx => 8192
  | .sv => 8192
  | .ca => 4096
  | .cb => 4096

/-- The general registers of an engine (R79); the sieve's have their own table. -/
def regCount : Eng → Nat
  | .st => 32
  | .mx => 16
  | .sv => 0
  | .ca => 16
  | .cb => 16

/-- The checks of spaces 5 and 6 on the mill and engine of an address: the level, the mill, the engine, and a running tilled group. -/
def State.dbgTarget (s : State) (wr : Bool) (a : Nat) : Except Status (Nat × Eng) :=
  let m := field a 20 11
  if !s.dbgMay wr (s.mill m).sealed then .error .denied
  else if !s.millLive m then .error .absent
  else
    match Eng.ofNum (field a 16 3) with
    | none => .error .mismatch
    | some e => if wr && s.groupRuns m then .error .mismatch else .ok (m, e)

/-- Space 5: instruction memory. -/
def State.dbgImem (s : State) (wr : Bool) (a : Nat) (v : Word) : DbgRes :=
  match s.dbgTarget wr a with
  | .error st => some (st, 0, s)
  | .ok (m, e) =>
    if imemSize e ≤ a % 65536 then some (.mismatch, 0, s) else s.dbgWord wr (.cell (imemCell m e (a % 65536))) v

/-- Read a register of the sieve. -/
def Sieve.peek (v : Sieve) : Config.SieveReg → Word
  | .d k l => (v.dLane k l).signExtend 32
  | .bx k => (Table.get 0 v.bx k).signExtend 32
  | .a k l hi => if hi then ((v.aLane k l).sshiftRight 32).truncate 32 else (v.aLane k l).truncate 32
  | .ax k => (Table.get 0 v.ax k).signExtend 32
  | .e k => (Table.get 0 v.e k).signExtend 32

/-- Write a register of the sieve. -/
def Sieve.poke (v : Sieve) (r : Config.SieveReg) (w : Word) : Sieve :=
  match r with
  | .d k l => { v with d := Table.put 0 v.d (k * 16 + l) (w.truncate 24) }
  | .bx k => { v with bx := Table.put 0 v.bx k (w.truncate 10) }
  | .a k l hi =>
    let old := (v.aLane k l).toNat
    let new := if hi then w.toNat % 2 ^ 24 * 2 ^ 32 + old % 2 ^ 32 else old / 2 ^ 32 * 2 ^ 32 + w.toNat
    { v with a := Table.put 0 v.a (k * 16 + l) (BitVec.ofNat 56 new) }
  | .ax k => { v with ax := Table.put 0 v.ax k (w.truncate 10) }
  | .e k => { v with e := Table.put 0 v.e k (w.truncate 16) }

/-- Space 6: engine registers. A read asks that the engine is halted, frozen, stopped or idle (R602). -/
def State.dbgRegs (s : State) (wr : Bool) (a : Nat) (v : Word) : Status × Word × State :=
  match s.dbgTarget wr a with
  | .error st => (st, 0, s)
  | .ok (m, e) =>
    let x := s.mill m
    let i := a % 4096
    if !wr && (decide (x.engState e = 1) || decide (x.engState e = 2)) then (.mismatch, 0, s)
    else if e = .sv then
      match Config.sieveReg i with
      | none => (.mismatch, 0, s)
      | some r =>
        if wr then (.ok, 0, s.modMill m (fun x => { x with sieve := x.sieve.poke r v })) else (.ok, x.sieve.peek r, s)
    else if regCount e ≤ i then (.mismatch, 0, s)
    else if wr then (.ok, 0, s.modEng m e (fun g => { g with regs := Table.put 0 g.regs i v }))
    else (.ok, Table.get 0 (x.eng e).regs i, s)

/-! ## An access -/

/-- An access of a debug space. Accesses are aligned to 4 but for register indices. -/
def State.dbgAccess (s : State) (r : DbgRun) : DbgRes :=
  let wr := decide (r.op = 2)
  let a := r.addr.toNat
  if r.op.toNat = 0 ∨ 2 < r.op.toNat then some (.mismatch, 0, s)
  else if a % 4 ≠ 0 ∧ r.space ≠ 6 then some (.mismatch, 0, s)
  else
    match r.space.toNat with
    | 0 => some (s.dbgRegister wr (a % 2 ^ 28) r.data)
    | 1 => some (s.dbgSpace wr a r.data)
    | 2 => s.dbgVirtual wr a r.data
    | 3 => s.dbgStream wr (a / 2 ^ 36) (a % 2 ^ 32) r.data
    | 4 => s.dbgReeve wr a r.data
    | 5 => s.dbgImem wr a r.data
    | 6 => some (s.dbgRegs wr a r.data)
    | _ => some (.mismatch, 0, s)

/-- The result of an access: its status, and its data where it read and succeeded (R599, Table 7). -/
def State.dbgEnd (s : State) (r : DbgRun) (st : Status) (v : Word) : State :=
  { s with dbg := { s.dbg with
      run := none, op := r.op, status := BitVec.ofNat 4 st.code, addr := r.addr
      data := if st = .ok ∧ r.op = 1 then v else 0 } }

/-- Carry out an access, or keep it while it waits. -/
def State.dbgTry (s : State) (r : DbgRun) : State :=
  match s.dbgAccess r with
  | some (st, v, t) => t.dbgEnd r st v
  | none => { s with dbg := { s.dbg with run := some r } }

/-- DBGACC (R599 to R602): Update-DR with a nonzero op; ignored while an access is in progress. -/
def execDbgacc (op space : BitVec 4) (addr : BitVec 40) (data : Word) (s : State) : Res :=
  let s := { s with dbg := { s.dbg with ir := 0x10 } }
  if op = 0 ∨ s.dbg.run.isSome then .next s
  else .next (s.dbgTry { op := op, space := space, addr := addr, data := data, at_ := s.clock.now })

/-- The time by which an access completes (R600). -/
def dbgLimit (r : DbgRun) : Nat := if r.space.toNat < 2 then usCycles 2 else usCycles 10

/-- DBGACC_TIMEOUT (R600). -/
def execDbgaccTimeout (s : State) : Res :=
  match s.dbg.run with
  | none => .next s
  | some r => .next ((s.advanceTo (r.at_ + dbgLimit r)).dbgEnd r .timeout 0)

/-! ## The completion of a ledger update (R360) -/

/-- What waited for an update goes on: posted writes, host reads, the debug access. -/
def State.retryWaiting (s : State) : State :=
  let s := (s.drainPosted s.hp.posted.length).retryReads
  match s.dbg.run with
  | some r => s.dbgTry r
  | none => s

/-- LEDGER_UPDATE_COMPLETE (R360): the outstanding update of a path, once every old access has finished. -/
def execLedgerUpdateComplete (reeve : Bool) (s : State) : Res :=
  match if reeve then s.ledger.reeve else s.ledger.host with
  | none => .next s
  | some u => if s.oldAccess u then .next s else .next (s.finishUpdate reeve u).retryWaiting

end Sys2Proof.Machine
end

