-- ==== Sys2Proof/Machine/StewardOps.lean ====
section
/-! DEFINITION. The commands of the engines' own operations (chapter 03): steward operations, sync operations, invocations,
and the ends of waits. -/

namespace Sys2Proof.Machine

open Sys2Proof

/-- ST_ALU (R650). -/
def execStAlu (m : MillIx) (op : AluOp) (s : State) : Res := .next (s.issueOp m.toNat .st (.alu op))

/-- ST_MUL (R650): an odd destination pair stops with MISMATCH. -/
def execStMul (m : MillIx) (sgn : Bool) (rd : BitVec 5) (a b : Src) (s : State) : Res :=
  .next (s.issueOp m.toNat .st (.mul sgn rd a b))

/-- ST_BRANCH (R79). -/
def execStBranch (m : MillIx) (t : Option (Cond × Src × Src)) (target : Word) (s : State) : Res :=
  .next (s.issueOp m.toNat .st (.br t target))

/-- ST_CALL (R650). -/
def execStCall (m : MillIx) (target : Word) (s : State) : Res := .next (s.issueOp m.toNat .st (.call target))

/-- ST_RET (R650). -/
def execStRet (m : MillIx) (s : State) : Res := .next (s.issueOp m.toNat .st .ret)

/-- LDL (R85). -/
def execLdl (m : MillIx) (rd : BitVec 5) (base : Src) (off : Word) (wide : Bool) (s : State) : Res :=
  .next (s.issueOp m.toNat .st (.ldl rd base off wide))

/-- STL (R102). -/
def execStl (m : MillIx) (rs : BitVec 5) (base : Src) (off : Word) (wide : Bool) (s : State) : Res :=
  .next (s.issueOp m.toNat .st (.stl rs base off wide))

/-- RBELL (R79). -/
def execRbell (m : MillIx) (rd rc : BitVec 5) (s : State) : Res := .next (s.issueOp m.toNat .st (.rbell rd rc))

/-- AWR (R92, R93). -/
def execAwr (m : MillIx) (f : Af) (v : Src) (s : State) : Res := .next (s.issueOp m.toNat .st (.awr f v))

/-- AGEN (R93). -/
def execAgen (m : MillIx) (f : Af) (a : AgenArgs) (s : State) : Res := .next (s.issueOp m.toNat .st (.agen f a))

/-- POST (R84). -/
def execPost (m : MillIx) (d : Eng) (entry : Src) (args : List Src) (s : State) : Res :=
  .next (s.issueOp m.toNat .st (.post d entry args))

/-- DONE (R297). -/
def execDone (m : MillIx) (v : Src) (s : State) : Res := .next (s.issueOp m.toNat .st (.done v))

/-- A sync operation or end on the sieve is a bundle of its own (04 Table 3). -/
def sieveSource : Src → ESrc
  | .reg r => .e (r.truncate 3)
  | .arg i => .arg i false
  | .imm v => .imm (v.truncate 16)

/-- SINC (R95). -/
def execSinc (m : MillIx) (e : Eng) (c : BitVec 4) (amount : Src) (s : State) : Res :=
  match e with
  | .sv => .next (s.issueOp m.toNat .sv (.bundle { op := .sinc c (sieveSource amount), moves := [] }))
  | e => .next (s.issueOp m.toNat e (.sinc c amount))

/-- SWAIT (R96). -/
def execSwait (m : MillIx) (e : Eng) (c : BitVec 4) (v : Src) (s : State) : Res :=
  match e with
  | .sv => .next (s.issueOp m.toNat .sv (.bundle { op := .swait c (sieveSource v), moves := [] }))
  | e => .next (s.issueOp m.toNat e (.swait c v))

/-- SWAIT_SATISFIED (R97). -/
def execSwaitSatisfied (m : MillIx) (e : Eng) (s : State) : Res :=
  .next (s.retry m.toNat e (fun op => (heldSwait (s.mill m.toNat) e op).isSome))

/-- END (R82): a post the steward holds for the queue that has room again is tried with it. -/
def execEndInv (m : MillIx) (e : Eng) (s : State) : Res :=
  let s := s.issueOp m.toNat e (if e = .sv then .bundle { op := .endInv, moves := [] } else .endInv)
  .next (s.retry m.toNat .st (fun op => match op with
    | .post d _ _ => decide (d = e)
    | _ => false))

/-- INVOCATION_START (R84). -/
def execInvocationStart (m : MillIx) (e : Eng) (s : State) : Res := .next (s.invocationStart m.toNat e)

/-- ADDRESS_FIFO_WAIT_ENDS (R93). -/
def execAddressFifoWaitEnds (m : MillIx) (e : Eng) (s : State) : Res :=
  .next (s.retry m.toNat e (fun op => match op with
    | .awr _ _ => true
    | .agen _ _ => true
    | .mm _ a => a.afifo
    | .mov a => a.afifo
    | _ => false))

/-- HAZARD_INTERLOCK_ISSUE (R104). -/
def execHazardInterlockIssue (m : MillIx) (e : Eng) (s : State) : Res :=
  .next (s.retry m.toNat e (fun op => match op with
    | .ldl _ _ _ _ => true
    | .stl _ _ _ _ => true
    | .lds _ => true
    | .mm _ _ => true
    | .rshp _ => true
    | .mov _ => true
    | .bundle _ => true
    | .sinc _ _ => true
    | .endInv => true
    | _ => false))

/-! ## The matrix engine (R44, R58, R63, R64, R89) -/

/-- LDS (R58). -/
def execLds (m : MillIx) (a : LdsArgs) (s : State) : Res := .next (s.issueOp m.toNat .mx (.lds a))

/-- MMR (R63). -/
def execMmr (m : MillIx) (a : MmArgs) (s : State) : Res := .next (s.issueOp m.toNat .mx (.mm false a))

/-- MMC (R64). -/
def execMmc (m : MillIx) (a : MmArgs) (s : State) : Res := .next (s.issueOp m.toNat .mx (.mm true a))

/-- The first flight of a yoke whose point has not come. -/
def Mill.flightOf (x : Mill) (y : Yoke) (write : Bool) : Option YokeFlight :=
  x.flights.find? (fun f => decide (f.args.yoke = y) && !(if write then f.writeDone else f.readDone))

/-- YOKE_READ_POINT (R89): the cycle after the last group entered. -/
def execYokeReadPoint (m : MillIx) (y : Yoke) (s : State) : Res :=
  match (s.mill m.toNat).flightOf y false with
  | none => .next s
  | some f =>
    if (s.mill m.toNat).frozen then .next s
    else .next (s.advanceTo (f.issue + f.waits + f.args.groups + 1))

/-- YOKE_WRITE_POINT (R89): the last results are written. -/
def execYokeWritePoint (m : MillIx) (y : Yoke) (s : State) : Res :=
  match (s.mill m.toNat).flightOf y true with
  | none => .next s
  | some f =>
    if (s.mill m.toNat).frozen then .next s
    else .next (s.advanceTo (f.issue + f.waits + yokeLatency y f.col + f.args.groups + 1))

/-- RSHP (R44). -/
def execRshp (m : MillIx) (p : Partition) (s : State) : Res := .next (s.issueOp m.toNat .mx (.rshp p))

/-- RESHAPE_TAKES_EFFECT (R44, R45). -/
def execReshapeTakesEffect (m : MillIx) (s : State) : Res :=
  if s.atEpoch && !(s.mill m.toNat).frozen then .next (s.reshapeNow m.toNat) else .next s

/-- QUERN_SELF_TEST (R70 to R75): the quern rows that the test finds failing, in an idle window in which a leading reeve makes the
substitutions (R71), or in the test of a cold reset, which ends 25 ms after the release (R70, R629). -/
def execQuernSelfTest (m : MillIx) (failing : List (BitVec 5 × BitVec 3)) (s : State) : Res :=
  let cold := s.board.powered && !s.board.held && decide (s.clock.now ≤ s.hp.coldAt + usCycles 25000) && s.millPresent m.toNat
  if cold || (s.millLive m.toNat && s.idleFor m.toNat 4 && s.bw.lead.isSome) then
    .next (failing.foldl (fun s f => s.foundRow m.toNat f.1.toNat f.2.toNat) s)
  else .next s

/-! ## The sieve (R121, R132, R133) -/

/-- SV_BUNDLE (R121). -/
def execSvBundle (m : MillIx) (b : Bundle) (s : State) : Res := .next (s.issueOp m.toNat .sv (.bundle b))

/-- OUTPUT_FIFO_HOLD_ENDS (R132). -/
def execOutputFifoHoldEnds (m : MillIx) (s : State) : Res :=
  .next (s.retry m.toNat .sv (fun op => match op with
    | .bundle _ => true
    | _ => false))

/-- STOP_REQUEST_ACCEPTED (R133): from the cycle after the request, at an accepted point. -/
def execStopRequestAccepted (m : MillIx) (s : State) : Res :=
  match (s.mill m.toNat).sieve.req with
  | none => .next s
  | some (t, _) =>
    let s' := s.advanceTo (t + 1)
    match s'.stopDue m.toNat with
    | some (_, r) => .next (s'.acceptStop m.toNat r)
    | none => .next s

/-! ## Carter operations (R90, R263, R275) -/

/-- STRM (R263, R269). -/
def execStrm (m : MillIx) (c : Carter) (list : StreamAddr) (inc : Option Inc) (s : State) : Res :=
  .next (s.issueOp m.toNat c.eng (.strm list inc))

/-- MOV (R90). -/
def execMov (m : MillIx) (c : Carter) (a : MovArgs) (s : State) : Res := .next (s.issueOp m.toNat c.eng (.mov a))

/-- CARTER_SLOT_FREE (R90). -/
def execCarterSlotFree (m : MillIx) (c : Carter) (s : State) : Res :=
  .next (s.retry m.toNat c.eng (fun op => match op with
    | .strm _ _ => true
    | .mov _ => true
    | _ => false))

/-- CTAKE (R275). -/
def execCtake (m : MillIx) (e : Eng) (ring : QueueIx) (rd : BitVec 5) (s : State) : Res :=
  .next (s.issueOp m.toNat e (.ctake ring rd))

/-- CPUT (R275). -/
def execCput (m : MillIx) (e : Eng) (ring : QueueIx) (rs : BitVec 5) (s : State) : Res :=
  .next (s.issueOp m.toNat e (.cput ring rs))

/-- CART_RING_WAIT_ENDS (R275). -/
def execCartRingWaitEnds (m : MillIx) (e : Eng) (s : State) : Res :=
  .next (s.retry m.toNat e (fun op => match op with
    | .ctake _ _ => true
    | .cput _ _ => true
    | _ => false))

end Sys2Proof.Machine
end

