-- ==== Sys2Proof/Machine/Dispatch.lean ====
section
/-! DEFINITION. One arm for every command: a direct call of its meaning. -/

namespace Sys2Proof.Machine

open Sys2Proof

/-- What a command does to everything but the queue. -/
def exec (i : Instr) (s : State) : Host.Outcome State Fault Refusal :=
  match i with
  | .registerWrite w off val => Sys2Proof.Machine.execRegisterWrite w off val s
  | .cwPendingWrite w off val => Sys2Proof.Machine.execCwPendingWrite w off val s
  | .cwPendingTimeout w off => Sys2Proof.Machine.execCwPendingTimeout w off s
  | .errorRecordClear w r => Sys2Proof.Machine.execErrorRecordClear w r s
  | .stAlu m op => Sys2Proof.Machine.execStAlu m op s
  | .stMul m signed rd a b => Sys2Proof.Machine.execStMul m signed rd a b s
  | .stBranch m test target => Sys2Proof.Machine.execStBranch m test target s
  | .stCall m target => Sys2Proof.Machine.execStCall m target s
  | .stRet m => Sys2Proof.Machine.execStRet m s
  | .ldl m rd base off wide => Sys2Proof.Machine.execLdl m rd base off wide s
  | .stl m rs base off wide => Sys2Proof.Machine.execStl m rs base off wide s
  | .rbell m rd rc => Sys2Proof.Machine.execRbell m rd rc s
  | .awr m f v => Sys2Proof.Machine.execAwr m f v s
  | .agen m f a => Sys2Proof.Machine.execAgen m f a s
  | .post m dest entry args => Sys2Proof.Machine.execPost m dest entry args s
  | .done m v => Sys2Proof.Machine.execDone m v s
  | .sinc m e c amount => Sys2Proof.Machine.execSinc m e c amount s
  | .swait m e c v => Sys2Proof.Machine.execSwait m e c v s
  | .swaitSatisfied m e => Sys2Proof.Machine.execSwaitSatisfied m e s
  | .endInv m e => Sys2Proof.Machine.execEndInv m e s
  | .invocationStart m e => Sys2Proof.Machine.execInvocationStart m e s
  | .lds m a => Sys2Proof.Machine.execLds m a s
  | .mmr m a => Sys2Proof.Machine.execMmr m a s
  | .mmc m a => Sys2Proof.Machine.execMmc m a s
  | .yokeReadPoint m y => Sys2Proof.Machine.execYokeReadPoint m y s
  | .yokeWritePoint m y => Sys2Proof.Machine.execYokeWritePoint m y s
  | .rshp m p => Sys2Proof.Machine.execRshp m p s
  | .reshapeTakesEffect m => Sys2Proof.Machine.execReshapeTakesEffect m s
  | .strm m c list inc => Sys2Proof.Machine.execStrm m c list inc s
  | .mov m c a => Sys2Proof.Machine.execMov m c a s
  | .carterSlotFree m c => Sys2Proof.Machine.execCarterSlotFree m c s
  | .ctake m e ring rd => Sys2Proof.Machine.execCtake m e ring rd s
  | .cput m e ring rs => Sys2Proof.Machine.execCput m e ring rs s
  | .cartRingWaitEnds m e => Sys2Proof.Machine.execCartRingWaitEnds m e s
  | .addressFifoWaitEnds m e => Sys2Proof.Machine.execAddressFifoWaitEnds m e s
  | .hazardInterlockIssue m e => Sys2Proof.Machine.execHazardInterlockIssue m e s
  | .auditStallWrite w m v => Sys2Proof.Machine.execAuditStallWrite w m v s
  | .sfrClr w m => Sys2Proof.Machine.execSfrClr w m s
  | .svBundle m b => Sys2Proof.Machine.execSvBundle m b s
  | .outputFifoHoldEnds m => Sys2Proof.Machine.execOutputFifoHoldEnds m s
  | .stopRequestAccepted m => Sys2Proof.Machine.execStopRequestAccepted m s
  | .quernSelfTest m failing => Sys2Proof.Machine.execQuernSelfTest m failing s
  | .bellTick => Sys2Proof.Machine.execBellTick s
  | .bellFrameReceive p frame => Sys2Proof.Machine.execBellFrameReceive p frame s
  | .markerTimeout => Sys2Proof.Machine.execMarkerTimeout s
  | .bellLocked => Sys2Proof.Machine.execBellLocked s
  | .relock w v => Sys2Proof.Machine.execRelock w v s
  | .bellRoleSet w v => Sys2Proof.Machine.execBellRoleSet w v s
  | .bellNowCapture => Sys2Proof.Machine.execBellNowCapture s
  | .refclkLost => Sys2Proof.Machine.execRefclkLost s
  | .refclkReturn => Sys2Proof.Machine.execRefclkReturn s
  | .crossingRelease xid c item => Sys2Proof.Machine.execCrossingRelease xid c item s
  | .crossingFault xid c arrival item => Sys2Proof.Machine.execCrossingFault xid c arrival item s
  | .crossingResend d fails lost => Sys2Proof.Machine.execCrossingResend d fails lost s
  | .bookingTakesEffect g k => Sys2Proof.Machine.execBookingTakesEffect g k s
  | .groupSeat w g epoch mark => Sys2Proof.Machine.execGroupSeat w g epoch mark s
  | .groupUnseat w g => Sys2Proof.Machine.execGroupUnseat w g s
  | .unseatBoundary g => Sys2Proof.Machine.execUnseatBoundary g s
  | .hostHalt w g => Sys2Proof.Machine.execHostHalt w g s
  | .seatBoundary g => Sys2Proof.Machine.execSeatBoundary g s
  | .groupResume g => Sys2Proof.Machine.execGroupResume g s
  | .checkpointMarkCommit g mark => Sys2Proof.Machine.execCheckpointMarkCommit g mark s
  | .groupHalt g => Sys2Proof.Machine.execGroupHalt g s
  | .haltNoticeReceive p payload => Sys2Proof.Machine.execHaltNoticeReceive p payload s
  | .bookedFrameReceive p at_ groups => Sys2Proof.Machine.execBookedFrameReceive p at_ groups s
  | .bookedFrameMissing at_ => Sys2Proof.Machine.execBookedFrameMissing at_ s
  | .parcelForward p => Sys2Proof.Machine.execParcelForward p s
  | .routerPacketReceive d x y inp hdr data soft badHdr owner badFlits => Sys2Proof.Machine.execRouterPacketReceive d x y inp hdr data soft badHdr owner badFlits s
  | .p0ForceGrant d x y out => Sys2Proof.Machine.execP0ForceGrant d x y out s
  | .writePacketArrive hdr data => Sys2Proof.Machine.execWritePacketArrive hdr data s
  | .readRequestArrive hdr => Sys2Proof.Machine.execReadRequestArrive hdr s
  | .readResponseArrive m k => Sys2Proof.Machine.execReadResponseArrive m k s
  | .cartDeliveryArrive ring => Sys2Proof.Machine.execCartDeliveryArrive ring s
  | .syncIncrementArrive m c amount => Sys2Proof.Machine.execSyncIncrementArrive m c amount s
  | .controlMessageArrive m k absent => Sys2Proof.Machine.execControlMessageArrive m k absent s
  | .descriptorBurstArrive m k => Sys2Proof.Machine.execDescriptorBurstArrive m k s
  | .transferStart m k => Sys2Proof.Machine.execTransferStart m k s
  | .streamPageFault m k => Sys2Proof.Machine.execStreamPageFault m k s
  | .transferComplete m k => Sys2Proof.Machine.execTransferComplete m k s
  | .streamResume w m v => Sys2Proof.Machine.execStreamResume w m v s
  | .streamAbandon w m slots => Sys2Proof.Machine.execStreamAbandon w m slots s
  | .fieldPortCartSend p ring => Sys2Proof.Machine.execFieldPortCartSend p ring s
  | .fieldPortCartReturn p => Sys2Proof.Machine.execFieldPortCartReturn p s
  | .class0ParcelDeliver p => Sys2Proof.Machine.execClass0ParcelDeliver p s
  | .deniedReplyReceive p ring st => Sys2Proof.Machine.execDeniedReplyReceive p ring st s
  | .ingressWaitEnd p => Sys2Proof.Machine.execIngressWaitEnd p s
  | .ingressWaitTimeout p => Sys2Proof.Machine.execIngressWaitTimeout p s
  | .doorbell w q count => Sys2Proof.Machine.execDoorbell w q count s
  | .reeveDoorbell q count => Sys2Proof.Machine.execReeveDoorbell q count s
  | .sqBurstArrive q => Sys2Proof.Machine.execSqBurstArrive q s
  | .dispatchPlace d => Sys2Proof.Machine.execDispatchPlace d s
  | .pendingCompletionPost d => Sys2Proof.Machine.execPendingCompletionPost d s
  | .fence d => Sys2Proof.Machine.execFence d s
  | .fenceComplete q => Sys2Proof.Machine.execFenceComplete q s
  | .withdraw d => Sys2Proof.Machine.execWithdraw d s
  | .withdrawLimitExpiry q => Sys2Proof.Machine.execWithdrawLimitExpiry q s
  | .withdrawComplete q => Sys2Proof.Machine.execWithdrawComplete q s
  | .migrate d => Sys2Proof.Machine.execMigrate d s
  | .ringSetup d => Sys2Proof.Machine.execRingSetup d s
  | .streamResumeCommand d => Sys2Proof.Machine.execStreamResumeCommand d s
  | .queueEnable w q clr => Sys2Proof.Machine.execQueueEnable w q clr s
  | .queueDisable w q => Sys2Proof.Machine.execQueueDisable w q s
  | .ovfClr w q en => Sys2Proof.Machine.execOvfClr w q en s
  | .queueRecordWrite w q k v => Sys2Proof.Machine.execQueueRecordWrite w q k v s
  | .granaryRequestArrive site addr src tag write mask data => Sys2Proof.Machine.execGranaryRequestArrive site addr src tag write mask data s
  | .granaryCommandIssue site pc write k => Sys2Proof.Machine.execGranaryCommandIssue site pc write k s
  | .granaryReadReturn site pc => Sys2Proof.Machine.execGranaryReadReturn site pc s
  | .bookedGranaryCommand site late => Sys2Proof.Machine.execBookedGranaryCommand site late s
  | .refreshWindow => Sys2Proof.Machine.execRefreshWindow s
  | .refreshWindowEnd => Sys2Proof.Machine.execRefreshWindowEnd s
  | .trainingSlot => Sys2Proof.Machine.execTrainingSlot s
  | .temperatureReading site temp => Sys2Proof.Machine.execTemperatureReading site temp s
  | .cadenceChange => Sys2Proof.Machine.execCadenceChange s
  | .grnCadWrite w hot => Sys2Proof.Machine.execGrnCadWrite w hot s
  | .grnOpen w site => Sys2Proof.Machine.execGrnOpen w site s
  | .grnHashWrite w site h high v => Sys2Proof.Machine.execGrnHashWrite w site h high v s
  | .trainingRunStart site lg pattern dir pc ch => Sys2Proof.Machine.execTrainingRunStart site lg pattern dir pc ch s
  | .trainingRunDone site errs => Sys2Proof.Machine.execTrainingRunDone site errs s
  | .trainingDelayWrite site lane wr rd => Sys2Proof.Machine.execTrainingDelayWrite site lane wr rd s
  | .softRowRepair site addr => Sys2Proof.Machine.execSoftRowRepair site addr s
  | .ledgerUpdate path page => Sys2Proof.Machine.execLedgerUpdate path page s
  | .ledgerUpdateComplete reeve => Sys2Proof.Machine.execLedgerUpdateComplete reeve s
  | .plotClose p => Sys2Proof.Machine.execPlotClose p s
  | .plotRelease p => Sys2Proof.Machine.execPlotRelease p s
  | .plotReleaseStage p => Sys2Proof.Machine.execPlotReleaseStage p s
  | .tapPacketArrive d t space3 hdr data => Sys2Proof.Machine.execTapPacketArrive d t space3 hdr data s
  | .tapVirtualAccess p va len data => Sys2Proof.Machine.execTapVirtualAccess p va len data s
  | .loadStart w => Sys2Proof.Machine.execLoadStart w s
  | .chainArm w => Sys2Proof.Machine.execChainArm w s
  | .loadAbort w => Sys2Proof.Machine.execLoadAbort w s
  | .sheafWindowWrite off data => Sys2Proof.Machine.execSheafWindowWrite off data s
  | .stageADone => Sys2Proof.Machine.execStageADone s
  | .loadCommit => Sys2Proof.Machine.execLoadCommit s
  | .loadSequenceTimeout => Sys2Proof.Machine.execLoadSequenceTimeout s
  | .chainStartReceive payload => Sys2Proof.Machine.execChainStartReceive payload s
  | .chainDataReceive data => Sys2Proof.Machine.execChainDataReceive data s
  | .chainEndReceive => Sys2Proof.Machine.execChainEndReceive s
  | .chainAbortReceive payload => Sys2Proof.Machine.execChainAbortReceive payload s
  | .confErrRelease w => Sys2Proof.Machine.execConfErrRelease w s
  | .cfgRel w v => Sys2Proof.Machine.execCfgRel w v s
  | .frameReadback w fa => Sys2Proof.Machine.execFrameReadback w fa s
  | .sextonPassStart => Sys2Proof.Machine.execSextonPassStart s
  | .sextonFrameCheck upsets second => Sys2Proof.Machine.execSextonFrameCheck upsets second s
  | .sextonLatchRepair restart => Sys2Proof.Machine.execSextonLatchRepair restart s
  | .laneSignalDetect p l => Sys2Proof.Machine.execLaneSignalDetect p l s
  | .laneSignalLoss p l => Sys2Proof.Machine.execLaneSignalLoss p l s
  | .commaDetect p l => Sys2Proof.Machine.execCommaDetect p l s
  | .frameReceive p l header groups => Sys2Proof.Machine.execFrameReceive p l header groups s
  | .portEnable w p v => Sys2Proof.Machine.execPortEnable w p v s
  | .portDisable w p v => Sys2Proof.Machine.execPortDisable w p v s
  | .capabilityReceive p payload far => Sys2Proof.Machine.execCapabilityReceive p payload far s
  | .stepFrameReceive p rate countdown => Sys2Proof.Machine.execStepFrameReceive p rate countdown s
  | .ladderStepTimeout p => Sys2Proof.Machine.execLadderStepTimeout p s
  | .ladderRetry p => Sys2Proof.Machine.execLadderRetry p s
  | .eqPeakWrite w p l v => Sys2Proof.Machine.execEqPeakWrite w p l v s
  | .ackReceive p payload => Sys2Proof.Machine.execAckReceive p payload s
  | .ackSend p => Sys2Proof.Machine.execAckSend p s
  | .replayTimeout p => Sys2Proof.Machine.execReplayTimeout p s
  | .blockEnd p => Sys2Proof.Machine.execBlockEnd p s
  | .spareRequestReceive p n => Sys2Proof.Machine.execSpareRequestReceive p n s
  | .spareSwitch p => Sys2Proof.Machine.execSpareSwitch p s
  | .spareDoneReceive p n => Sys2Proof.Machine.execSpareDoneReceive p n s
  | .laneRestoredAsSpare p l => Sys2Proof.Machine.execLaneRestoredAsSpare p l s
  | .linkPacketReceive bytes uncorrectable => Sys2Proof.Machine.execLinkPacketReceive bytes uncorrectable s
  | .linkInitReceive rate payload => Sys2Proof.Machine.execLinkInitReceive rate payload s
  | .hpAckReceive payload => Sys2Proof.Machine.execHpAckReceive payload s
  | .hpAckSend => Sys2Proof.Machine.execHpAckSend s
  | .hpReplayTimeout => Sys2Proof.Machine.execHpReplayTimeout s
  | .retrain w v => Sys2Proof.Machine.execRetrain w v s
  | .windowRead tag addr len => Sys2Proof.Machine.execWindowRead tag addr len s
  | .windowWrite addr data => Sys2Proof.Machine.execWindowWrite addr data s
  | .windowReadTimeout tag => Sys2Proof.Machine.execWindowReadTimeout tag s
  | .hpFlushRead tag => Sys2Proof.Machine.execHpFlushRead tag s
  | .deviceReadCompletion tag status data => Sys2Proof.Machine.execDeviceReadCompletion tag status data s
  | .deviceReadDeadline => Sys2Proof.Machine.execDeviceReadDeadline s
  | .managementMessage tag box data => Sys2Proof.Machine.execManagementMessage tag box data s
  | .mailboxTimeout => Sys2Proof.Machine.execMailboxTimeout s
  | .alertAcknowledged => Sys2Proof.Machine.execAlertAcknowledged s
  | .hostAlertPinUpdate => Sys2Proof.Machine.execHostAlertPinUpdate s
  | .relayRequest req => Sys2Proof.Machine.execRelayRequest req s
  | .relayParcelReceive p => Sys2Proof.Machine.execRelayParcelReceive p s
  | .relayCompletionReceive p => Sys2Proof.Machine.execRelayCompletionReceive p s
  | .relayTimeout tag => Sys2Proof.Machine.execRelayTimeout tag s
  | .relayFallback => Sys2Proof.Machine.execRelayFallback s
  | .bootBegin d tag seq total => Sys2Proof.Machine.execBootBegin d tag seq total s
  | .bootData d tag seq off data => Sys2Proof.Machine.execBootData d tag seq off data s
  | .bootEnd d tag seq off => Sys2Proof.Machine.execBootEnd d tag seq off s
  | .imageVerifyDone d => Sys2Proof.Machine.execImageVerifyDone d s
  | .reeveSelfTestDone d passed => Sys2Proof.Machine.execReeveSelfTestDone d passed s
  | .swap d expected => Sys2Proof.Machine.execSwap d expected s
  | .leaseRenewal d => Sys2Proof.Machine.execLeaseRenewal d s
  | .leaseExpiry => Sys2Proof.Machine.execLeaseExpiry s
  | .leaderHoldTimeout d => Sys2Proof.Machine.execLeaderHoldTimeout d s
  | .heartbeat d => Sys2Proof.Machine.execHeartbeat d s
  | .peerLost d => Sys2Proof.Machine.execPeerLost d s
  | .followerSwapRetry d => Sys2Proof.Machine.execFollowerSwapRetry d s
  | .followerHoldTimeout d => Sys2Proof.Machine.execFollowerHoldTimeout d s
  | .holdAnswer d => Sys2Proof.Machine.execHoldAnswer d s
  | .noLiveReeve => Sys2Proof.Machine.execNoLiveReeve s
  | .leaderYield d => Sys2Proof.Machine.execLeaderYield d s
  | .reeveRestart w v => Sys2Proof.Machine.execReeveRestart w v s
  | .powerRequest path v => Sys2Proof.Machine.execPowerRequest path v s
  | .powerDelayExpiry => Sys2Proof.Machine.execPowerDelayExpiry s
  | .powerBoundary => Sys2Proof.Machine.execPowerBoundary s
  | .powerReturnStep => Sys2Proof.Machine.execPowerReturnStep s
  | .powerReturnTimeout => Sys2Proof.Machine.execPowerReturnTimeout s
  | .idleWake k => Sys2Proof.Machine.execIdleWake k s
  | .coldReset => Sys2Proof.Machine.execColdReset s
  | .porstRelease tj => Sys2Proof.Machine.execPorstRelease tj s
  | .warmReset => Sys2Proof.Machine.execWarmReset s
  | .warmResetRelease => Sys2Proof.Machine.execWarmResetRelease s
  | .pwrRstWarm path => Sys2Proof.Machine.execPwrRstWarm path s
  | .pwrRstDie path target => Sys2Proof.Machine.execPwrRstDie path target s
  | .pwrRstPlot path target => Sys2Proof.Machine.execPwrRstPlot path target s
  | .pwrRstMill path target => Sys2Proof.Machine.execPwrRstMill path target s
  | .pwrRstStream path target slot => Sys2Proof.Machine.execPwrRstStream path target slot s
  | .resetWaitEnds => Sys2Proof.Machine.execResetWaitEnds s
  | .spareColumnSubstitution term d x => Sys2Proof.Machine.execSpareColumnSubstitution term d x s
  | .challenge w => Sys2Proof.Machine.execChallenge w s
  | .signedDebugLevel2 w => Sys2Proof.Machine.execSignedDebugLevel2 w s
  | .signedDebugLevel3 w => Sys2Proof.Machine.execSignedDebugLevel3 w s
  | .signedProgramSlot w => Sys2Proof.Machine.execSignedProgramSlot w s
  | .signedRevokeSlot w => Sys2Proof.Machine.execSignedRevokeSlot w s
  | .signedRevokeFrarelKey0 w => Sys2Proof.Machine.execSignedRevokeFrarelKey0 w s
  | .attest w => Sys2Proof.Machine.execAttest w s
  | .lowerLevel w l => Sys2Proof.Machine.execLowerLevel w l s
  | .claimSlot0 w => Sys2Proof.Machine.execClaimSlot0 w s
  | .secMbxWrite w k v => Sys2Proof.Machine.execSecMbxWrite w k v s
  | .l1AllowWrite w allow => Sys2Proof.Machine.execL1AllowWrite w allow s
  | .keyStoreRederive loadKey => Sys2Proof.Machine.execKeyStoreRederive loadKey s
  | .reeveMemoryUncorrectable d => Sys2Proof.Machine.execReeveMemoryUncorrectable d s
  | .loftPatrol m => Sys2Proof.Machine.execLoftPatrol m s
  | .faultReport => Sys2Proof.Machine.execFaultReport s
  | .tallySelectWrite w c v => Sys2Proof.Machine.execTallySelectWrite w c v s
  | .tallyClear w freeze => Sys2Proof.Machine.execTallyClear w freeze s
  | .tallyLoRead w c => Sys2Proof.Machine.execTallyLoRead w c s
  | .tallyParityFail t => Sys2Proof.Machine.execTallyParityFail t s
  | .probeBufferRun w v => Sys2Proof.Machine.execProbeBufferRun w v s
  | .probeTrigger => Sys2Proof.Machine.execProbeTrigger s
  | .tapReset => Sys2Proof.Machine.execTapReset s
  | .dbgacc op space addr data => Sys2Proof.Machine.execDbgacc op space addr data s
  | .dbgaccTimeout => Sys2Proof.Machine.execDbgaccTimeout s
  | .debugLevel1Request => Sys2Proof.Machine.execDebugLevel1Request s
  | .engineHalt x => Sys2Proof.Machine.execEngineHalt x s
  | .engineStep x => Sys2Proof.Machine.execEngineStep x s
  | .engineResume x => Sys2Proof.Machine.execEngineResume x s
  | .breakpointHit x k => Sys2Proof.Machine.execBreakpointHit x k s
  | .inputPowerRise => Sys2Proof.Machine.execInputPowerRise s
  | .inputPowerShutdown => Sys2Proof.Machine.execInputPowerShutdown s
  | .junctionHot => Sys2Proof.Machine.execJunctionHot s
  | .thermalTrip => Sys2Proof.Machine.execThermalTrip s
  | .powerMonitorUpdate vin iin tjMax tjW tjE => Sys2Proof.Machine.execPowerMonitorUpdate vin iin tjMax tjW tjE s
  | .tapUserPacketSend d t hdr data => Sys2Proof.Machine.execTapUserPacketSend d t hdr data s
  | .tapCartStage p op => Sys2Proof.Machine.execTapCartStage p op s
  | .blockMemoryUserPortRead p b portB w => Sys2Proof.Machine.execBlockMemoryUserPortRead p b portB w s
  | .probeBufferSample => Sys2Proof.Machine.execProbeBufferSample s
  | .probePinUpdate => Sys2Proof.Machine.execProbePinUpdate s
  | .extestUpdate cells => Sys2Proof.Machine.execExtestUpdate cells s
  | .granaryTrainingComplete site passed latencies => Sys2Proof.Machine.execGranaryTrainingComplete site passed latencies s

end Sys2Proof.Machine
end

