-- ==== Sys2Proof/Safety.lean ====
section
/-! DEFINITION. What counts as a safe run, in the terms the claims use. -/

namespace Sys2Proof.Machine

open Sys2Proof

/-- The step from a state answers a next state: neither a fault nor a refusal. -/
def Steps (s : State) : Prop := ∃ t, step s = .next t

/-- The invariant of memory: every byte store is in its canonical form. -/
def State.memOk (s : State) : Prop := Memory.wf s.mem = true

/-- `n` steps of the machine; none where a step faults or is refused. -/
def run : Nat → State → Option State
  | 0, s => some s
  | n + 1, s =>
    match step s with
    | .next t => run n t
    | _ => none

/-- A run is safe when every one of its steps answers a next state. -/
def SafeRun (n : Nat) (s : State) : Prop := (run n s).isSome = true

/-! ## Terms of the claims -/

/-- No event of this cycle has set a W1C bit (R13). -/
def State.quietCycle (s : State) : Prop := ∀ e ∈ s.w1c, e.2 ≠ s.clock.now + 1

/-- The cycle within the tick is one of the 1,248 of a tick (R167). -/
def State.inTick (s : State) : Prop := s.clock.cyc < 1248

/-- An engine of a mill comes to an operation and can issue it now: the mill is in service, the engine runs an invocation and nothing holds
it, its issue cycle and its operands' ready cycles have come, no deferred stop waits, its fetch succeeds without a correction, and
the operands lie in its register file, and no control word of the mill fails its check. -/
def State.due (s : State) (m : Nat) (e : Eng) (op : EngOp) : Prop :=
  s.millLive m = true ∧ (s.mill m).parity = [] ∧ (s.mill m).able e = true ∧ ((s.mill m).eng e).nextIssue ≤ s.clock.now ∧
    ((s.mill m).eng e).ready_ op ≤ s.clock.now ∧ ((s.mill m).eng e).deferred = none ∧ s.fetch m e = .ok false ∧
    (opSrcs op).all (srcInFile e) = true

/-- An engine holds an operation that nothing but its own wait keeps from issuing, and no control word of the mill fails its check. -/
def State.holds (s : State) (m : Nat) (e : Eng) (op : EngOp) : Prop :=
  s.millLive m = true ∧ (s.mill m).parity = [] ∧ (s.mill m).frozen = false ∧ (s.mill m).stopped = none ∧ ((s.mill m).eng e).held = some op ∧
    ((s.mill m).eng e).running.isSome = true ∧ ((s.mill m).eng e).stopped = none ∧ ((s.mill m).eng e).dbg.halt ≠ .halted ∧ ((s.mill m).eng e).deferred = none

/-- Two states differ in one mill and the tally counters alone. -/
def State.sameButMill (s t : State) (m : Nat) : Prop :=
  t = { s with mills := t.mills, tally := t.tally } ∧ ∀ k, k ≠ m → t.mill k = s.mill k

/-- Two states differ in one engine of one mill and the tally counters alone. -/
def State.sameButEngine (s t : State) (m : Nat) (e : Eng) : Prop :=
  s.sameButMill t m ∧ t.mill m = (s.mill m).setEng e ((t.mill m).eng e)

/-- The registers of an engine other than those listed, its arguments, queue, invocation, call stack and stops are as before. -/
def Engine.keeps (g h : Engine) (rs : List (BitVec 5)) : Prop :=
  (∀ r, r ∉ rs → h.reg r = g.reg r) ∧ h.args = g.args ∧ h.queue = g.queue ∧ h.running = g.running ∧ h.stack = g.stack ∧
    h.held = g.held ∧ h.stopped = g.stopped ∧ h.deferred = g.deferred ∧ h.done = g.done

/-- The dispatcher of a die comes to an entry of an SQ: its cycle has come, no other SQ has one to place, the queue's counts and the
entry pass their checks, and the entry neither fences nor asks for a completion. -/
def State.nextEntry (s : State) (d : Die) (q : Nat) (e : List Byte) : Prop :=
  ctrlStart (s.qs.dsp d).next ≤ s.clock.now ∧ s.rotation d = [(q, e)] ∧ (s.queue q).countsOk = true ∧ entryOk e = true ∧
    entryFence e = false ∧ entryCq e = none

/-- As `nextEntry`, for a command of a queue that may send commands. -/
def State.nextCommand (s : State) (d : Die) (q op : Nat) (e : List Byte) : Prop :=
  s.nextEntry d q e ∧ entryOp e = op ∧ ((s.queue q).priv = true ∨ (s.queue q).reeve = true)

/-- An SQ has given up its head entry, and no other queue has changed. -/
def State.entryTaken (s t : State) (q : Nat) : Prop :=
  (t.queue q).head = Count.mk' ((s.queue q).head.v + 1) ∧ (t.queue q).fetched = (s.queue q).fetched.drop 1 ∧
    (t.queue q).tail = (s.queue q).tail ∧ (t.queue q).record = (s.queue q).record

end Sys2Proof.Machine
end

