-- ==== Sys2Proof/WellFormed.lean ====
section
/-! DEFINITION. When a command is well formed: its operands name parts that some device of the family has, and its byte lists have
the lengths of their structures. exec is total, and takes any command. -/

namespace Sys2Proof

/-- A logical mill index (R4). -/
def millOk (m : BitVec 11) : Bool := decide (m.toNat < 1152)
/-- A flex site (R10). -/
def siteOk (k : SiteIx) : Bool := decide (k.toNat < 12)
/-- A physical lane of a field port (R432). -/
def laneOk (l : BitVec 4) : Bool := decide (l.toNat < 9)
/-- A lane of a granary channel (R349). -/
def laneOk34 (l : BitVec 6) : Bool := decide (l.toNat < 34)
/-- A hash index (R346). -/
def hashOk (h : BitVec 4) : Bool := decide (h.toNat < 12)
/-- A router or column coordinate (R4). -/
def coordOk (x : BitVec 5) : Bool := decide (x.toNat < 24)
/-- A debug-space number (R610). -/
def dbgOk (x : BitVec 13) : Bool := decide (x.toNat < 5762)
/-- A word of a queue record (R312). -/
def recordWordOk (i : BitVec 3) : Bool := decide (i.toNat < 6)
/-- A power domain (R512). -/
def domainOk (i : BitVec 7) : Bool := decide (i.toNat < 94)
/-- A die as a reset target (R532). -/
def dieOk (d : BitVec 11) : Bool := decide (d.toNat < 2)
/-- A plot as a reset target (R532). -/
def plotOk (p : BitVec 11) : Bool := decide (p.toNat < 32)
/-- A register offset, aligned to its access (R476, R560). -/
def alignedOk (off : BitVec 28) (n : Nat) : Bool := decide (off.toNat % n = 0)
/-- A frame payload of 64 bytes (R436). -/
def payloadOk (b : List Byte) : Bool := decide (b.length = 64)
/-- A packet header of 16 bytes (R240). -/
def headerOk (b : List Byte) : Bool := decide (b.length = 16)
/-- A transaction holds its header (R475). -/
def transOk (b : List Byte) : Bool := decide (16 ≤ b.length)
/-- A counter of a mill or die (R583). -/
def talOk : TalCtr → Bool
  | .mc i => decide (i.toNat < 9216)
  | .dc _ => true
/-- A tally word. -/
def talWordOk : TalWord → Bool
  | .counter c => talOk c
  | .probe _ _ => true
/-- An error record of a site that can be fitted. -/
def recOk : ErrRecId → Bool
  | .grn k => siteOk k
  | _ => true

/-- The command is well formed. -/
def Instr.wf : Instr → Bool
  | .registerWrite _ off _ => alignedOk off 4
  | .cwPendingWrite _ off _ => alignedOk off 8
  | .cwPendingTimeout _ off => alignedOk off 8
  | .errorRecordClear _ r => recOk r
  | .stAlu m _ => millOk m
  | .stMul m _ _ _ _ => millOk m
  | .stBranch m _ _ => millOk m
  | .stCall m _ => millOk m
  | .stRet m => millOk m
  | .ldl m _ _ _ _ => millOk m
  | .stl m _ _ _ _ => millOk m
  | .rbell m _ _ => millOk m
  | .awr m _ _ => millOk m
  | .agen m _ _ => millOk m
  | .post m _ _ _ => millOk m
  | .done m _ => millOk m
  | .sinc m _ _ _ => millOk m
  | .swait m _ _ _ => millOk m
  | .swaitSatisfied m _ => millOk m
  | .endInv m _ => millOk m
  | .invocationStart m _ => millOk m
  | .lds m _ => millOk m
  | .mmr m _ => millOk m
  | .mmc m _ => millOk m
  | .yokeReadPoint m _ => millOk m
  | .yokeWritePoint m _ => millOk m
  | .rshp m _ => millOk m
  | .reshapeTakesEffect m => millOk m
  | .strm m _ _ _ => millOk m
  | .mov m _ _ => millOk m
  | .carterSlotFree m _ => millOk m
  | .ctake m _ _ _ => millOk m
  | .cput m _ _ _ => millOk m
  | .cartRingWaitEnds m _ => millOk m
  | .addressFifoWaitEnds m _ => millOk m
  | .hazardInterlockIssue m _ => millOk m
  | .auditStallWrite _ m _ => millOk m
  | .sfrClr _ m => millOk m
  | .svBundle m _ => millOk m
  | .outputFifoHoldEnds m => millOk m
  | .stopRequestAccepted m => millOk m
  | .quernSelfTest m _ => millOk m
  | .bellTick => true
  | .bellFrameReceive _ _ => true
  | .markerTimeout => true
  | .bellLocked => true
  | .relock _ _ => true
  | .bellRoleSet _ _ => true
  | .bellNowCapture => true
  | .refclkLost => true
  | .refclkReturn => true
  | .crossingRelease _ _ _ => true
  | .crossingFault _ _ _ _ => true
  | .crossingResend _ _ _ => true
  | .bookingTakesEffect _ _ => true
  | .groupSeat _ _ _ _ => true
  | .groupUnseat _ _ => true
  | .unseatBoundary _ => true
  | .hostHalt _ _ => true
  | .seatBoundary _ => true
  | .groupResume _ => true
  | .checkpointMarkCommit _ _ => true
  | .groupHalt _ => true
  | .haltNoticeReceive _ payload => payloadOk payload
  | .bookedFrameReceive _ _ gs => decide (gs.length = 72)
  | .bookedFrameMissing _ => true
  | .parcelForward _ => true
  | .routerPacketReceive _ x y _ hdr _ _ _ _ _ => coordOk x && coordOk y && headerOk hdr
  | .p0ForceGrant _ x y _ => coordOk x && coordOk y
  | .writePacketArrive hdr _ => headerOk hdr
  | .readRequestArrive hdr => headerOk hdr
  | .readResponseArrive m _ => millOk m
  | .cartDeliveryArrive _ => true
  | .syncIncrementArrive m _ _ => millOk m
  | .controlMessageArrive m _ _ => millOk m
  | .descriptorBurstArrive m _ => millOk m
  | .transferStart m _ => millOk m
  | .streamPageFault m _ => millOk m
  | .transferComplete m _ => millOk m
  | .streamResume _ m _ => millOk m
  | .streamAbandon _ m _ => millOk m
  | .fieldPortCartSend _ _ => true
  | .fieldPortCartReturn _ => true
  | .class0ParcelDeliver _ => true
  | .deniedReplyReceive _ _ _ => true
  | .ingressWaitEnd _ => true
  | .ingressWaitTimeout _ => true
  | .doorbell _ _ _ => true
  | .reeveDoorbell _ _ => true
  | .sqBurstArrive _ => true
  | .dispatchPlace _ => true
  | .pendingCompletionPost _ => true
  | .fence _ => true
  | .fenceComplete _ => true
  | .withdraw _ => true
  | .withdrawLimitExpiry _ => true
  | .withdrawComplete _ => true
  | .migrate _ => true
  | .ringSetup _ => true
  | .streamResumeCommand _ => true
  | .queueEnable _ _ _ => true
  | .queueDisable _ _ => true
  | .ovfClr _ _ _ => true
  | .queueRecordWrite _ _ i _ => recordWordOk i
  | .granaryRequestArrive site _ _ _ _ _ _ => siteOk site
  | .granaryCommandIssue site _ _ _ => siteOk site
  | .granaryReadReturn site _ => siteOk site
  | .bookedGranaryCommand site _ => siteOk site
  | .refreshWindow => true
  | .refreshWindowEnd => true
  | .trainingSlot => true
  | .temperatureReading site _ => siteOk site
  | .cadenceChange => true
  | .grnCadWrite _ _ => true
  | .grnOpen _ site => siteOk site
  | .grnHashWrite _ site h _ _ => siteOk site && hashOk h
  | .trainingRunStart site _ _ _ _ _ => siteOk site
  | .trainingRunDone site _ => siteOk site
  | .trainingDelayWrite site lane _ _ => siteOk site && laneOk34 lane
  | .softRowRepair site _ => siteOk site
  | .ledgerUpdate _ _ => true
  | .ledgerUpdateComplete _ => true
  | .plotClose _ => true
  | .plotRelease _ => true
  | .plotReleaseStage _ => true
  | .tapPacketArrive _ _ _ hdr _ => headerOk hdr
  | .tapVirtualAccess _ _ _ _ => true
  | .loadStart _ => true
  | .chainArm _ => true
  | .loadAbort _ => true
  | .sheafWindowWrite _ _ => true
  | .stageADone => true
  | .loadCommit => true
  | .loadSequenceTimeout => true
  | .chainStartReceive payload => payloadOk payload
  | .chainDataReceive _ => true
  | .chainEndReceive => true
  | .chainAbortReceive payload => payloadOk payload
  | .confErrRelease _ => true
  | .cfgRel _ _ => true
  | .frameReadback _ _ => true
  | .sextonPassStart => true
  | .sextonFrameCheck _ _ => true
  | .sextonLatchRepair _ => true
  | .laneSignalDetect _ l => laneOk l
  | .laneSignalLoss _ l => laneOk l
  | .commaDetect _ l => laneOk l
  | .frameReceive _ l _ gs => laneOk l && decide (gs.length = 71)
  | .portEnable _ _ _ => true
  | .portDisable _ _ _ => true
  | .capabilityReceive _ payload _ => payloadOk payload
  | .stepFrameReceive _ _ _ => true
  | .ladderStepTimeout _ => true
  | .ladderRetry _ => true
  | .eqPeakWrite _ _ l _ => laneOk l
  | .ackReceive _ payload => payloadOk payload
  | .ackSend _ => true
  | .replayTimeout _ => true
  | .blockEnd _ => true
  | .spareRequestReceive _ _ => true
  | .spareSwitch _ => true
  | .spareDoneReceive _ _ => true
  | .laneRestoredAsSpare _ l => laneOk l
  | .linkPacketReceive _ _ => true
  | .linkInitReceive _ payload => payloadOk payload
  | .hpAckReceive payload => payloadOk payload
  | .hpAckSend => true
  | .hpReplayTimeout => true
  | .retrain _ _ => true
  | .windowRead _ _ _ => true
  | .windowWrite _ _ => true
  | .windowReadTimeout _ => true
  | .hpFlushRead _ => true
  | .deviceReadCompletion _ _ _ => true
  | .deviceReadDeadline => true
  | .managementMessage _ _ _ => true
  | .mailboxTimeout => true
  | .alertAcknowledged => true
  | .hostAlertPinUpdate => true
  | .relayRequest req => transOk req
  | .relayParcelReceive _ => true
  | .relayCompletionReceive _ => true
  | .relayTimeout _ => true
  | .relayFallback => true
  | .bootBegin _ _ _ _ => true
  | .bootData _ _ _ _ _ => true
  | .bootEnd _ _ _ _ => true
  | .imageVerifyDone _ => true
  | .reeveSelfTestDone _ _ => true
  | .swap _ _ => true
  | .leaseRenewal _ => true
  | .leaseExpiry => true
  | .leaderHoldTimeout _ => true
  | .heartbeat _ => true
  | .peerLost _ => true
  | .followerSwapRetry _ => true
  | .followerHoldTimeout _ => true
  | .holdAnswer _ => true
  | .noLiveReeve => true
  | .leaderYield _ => true
  | .reeveRestart _ _ => true
  | .powerRequest _ _ => true
  | .powerDelayExpiry => true
  | .powerBoundary => true
  | .powerReturnStep => true
  | .powerReturnTimeout => true
  | .idleWake i => domainOk i
  | .coldReset => true
  | .porstRelease _ => true
  | .warmReset => true
  | .warmResetRelease => true
  | .pwrRstWarm _ => true
  | .pwrRstDie _ target => dieOk target
  | .pwrRstPlot _ target => plotOk target
  | .pwrRstMill _ target => millOk target
  | .pwrRstStream _ target _ => millOk target
  | .resetWaitEnds => true
  | .spareColumnSubstitution _ _ x => coordOk x
  | .challenge _ => true
  | .signedDebugLevel2 _ => true
  | .signedDebugLevel3 _ => true
  | .signedProgramSlot _ => true
  | .signedRevokeSlot _ => true
  | .signedRevokeFrarelKey0 _ => true
  | .attest _ => true
  | .lowerLevel _ _ => true
  | .claimSlot0 _ => true
  | .secMbxWrite _ _ _ => true
  | .l1AllowWrite _ _ => true
  | .keyStoreRederive _ => true
  | .reeveMemoryUncorrectable _ => true
  | .loftPatrol m => millOk m
  | .faultReport => true
  | .tallySelectWrite _ c _ => talOk c
  | .tallyClear _ _ => true
  | .tallyLoRead _ c => talOk c
  | .tallyParityFail t => talWordOk t
  | .probeBufferRun _ _ => true
  | .probeTrigger => true
  | .tapReset => true
  | .dbgacc _ _ _ _ => true
  | .dbgaccTimeout => true
  | .debugLevel1Request => true
  | .engineHalt x => dbgOk x
  | .engineStep x => dbgOk x
  | .engineResume x => dbgOk x
  | .breakpointHit x _ => dbgOk x
  | .inputPowerRise => true
  | .inputPowerShutdown => true
  | .junctionHot => true
  | .thermalTrip => true
  | .powerMonitorUpdate _ _ _ _ _ => true
  | .tapUserPacketSend _ _ hdr _ => headerOk hdr
  | .tapCartStage _ _ => true
  | .blockMemoryUserPortRead _ _ _ _ => true
  | .probeBufferSample => true
  | .probePinUpdate => true
  | .extestUpdate _ => true
  | .granaryTrainingComplete site _ _ => siteOk site

end Sys2Proof
end

