-- ==== Sys2Proof/Certificates/Slice0/Obligations.lean ====
section
/-! DEFINITION. The statements about this block, family by family. Each names the rules of the spec that it formalises. -/

open Sys2Proof Sys2Proof.Machine

/-! ## The queue of commands and the step -/

/-- Model rule of the block: a step takes the command at the front of the queue and runs it on the rest of the queue. -/
def Obligations.StepRunsFrontCommand : Prop :=
  ∀ (c : Instr) (rest : List Instr) (s : State), s.pending = c :: rest → step s = exec c { s with pending := rest }

/-- R561, R562 and R582: the value word of a CW register is kept for its writer; a second one replaces it as a failure of kind 3; a
complement word without a value word fails with kind 1, one that is not the complement with kind 2; a value word left alone for 100 µs
is cleared. Whether the failure is recorded depends on HP_CWF1.valid. R564: a stored pair that disagrees is rewritten from its check
latch before the word is taken, counted and reported. -/
def Obligations.CwValueAndComplementWords : Prop :=
  ∀ (w : Writer) (off : BitVec 28) (v : Word) (s : State) (r : CwReg),
    off.toNat % 8 = 0 → s.cwOf w off.toNat = some r → s.writeBarred w off.toNat = false →
    (s.cwUpset = [(r.off, true)] → s.pendingOf w off.toNat = none →
      ∃ t, exec (.cwPendingWrite w off v) s = .next t ∧ t.reports.length = s.reports.length + 1 ∧
        t = { s with
          cwUpset := [], tally := t.tally, reports := t.reports
          cwPend := s.cwPend ++ [{ off := off.toNat, writer := w, value := v, at_ := s.clock.now }] }) ∧
    (s.cwUpset = [] → s.pendingOf w off.toNat = none →
      exec (.cwPendingWrite w off v) s =
        .next { s with cwPend := s.cwPend ++ [{ off := off.toNat, writer := w, value := v, at_ := s.clock.now }] }) ∧
    (∀ p, s.cwUpset = [] → s.pendingOf w off.toNat = some p → s.clock.now < p.at_ + hundredUs →
      ∃ t, exec (.cwPendingWrite w off v) s = .next t ∧
        t.cwPend = (s.cwPend.filter (fun q => !(decide (q.off = off.toNat) && decide (q.writer = w)))) ++
          [{ off := off.toNat, writer := w, value := v, at_ := s.clock.now }] ∧
        (s.cwf.w1.getLsbD 31 = false →
          t.cwf.w0 = BitVec.ofNat 32 off.toNat ∧ t.cwf.w1 = 0x80000000 ||| BitVec.ofNat 32 (w.code * 16 + 3) ∧
            t.cwf.w2 = s.clock.tick.truncate 32) ∧
        (s.cwf.w1.getLsbD 31 = true →
          t.cwf.w0 = s.cwf.w0 ∧ t.cwf.w1 = (s.cwf.w1 ||| 0x40000000) ∧ t.cwf.w2 = s.cwf.w2)) ∧
    (∀ p, s.inTick → s.pendingOf w off.toNat = some p →
      ∃ t, exec (.cwPendingTimeout w off) s = .next t ∧ p.at_ + hundredUs ≤ t.clock.now ∧
        t.cwPend = s.cwPend.filter (fun q => !(decide (q.off = off.toNat) && decide (q.writer = w))) ∧
        (s.cwf.w1.getLsbD 31 = false → t.cwf.w1 = 0x80000000 ||| BitVec.ofNat 32 (w.code * 16 + 4))) ∧
    (∀ up : BitVec 28, up.toNat = off.toNat + 4 → s.cwUpset = [] →
      (s.pendingOf w off.toNat = none → s.cwf.w1.getLsbD 31 = false →
        ∃ t, exec (.registerWrite w up v) s = .next t ∧ t.cwPend = s.cwPend ∧
          t.cwf.w1 = 0x80000000 ||| BitVec.ofNat 32 (w.code * 16 + 1)) ∧
      (∀ p, s.pendingOf w off.toNat = some p → s.clock.now < p.at_ + hundredUs → v ≠ ~~~p.value →
        s.cwf.w1.getLsbD 31 = false →
        ∃ t, exec (.registerWrite w up v) s = .next t ∧ t.pendingOf w off.toNat = none ∧
          t.cwf.w1 = 0x80000000 ||| BitVec.ofNat 32 (w.code * 16 + 2)))

/-- R495, R496, R561: through the privileged aperture, the complement word of HP_RCTL commits the pending value, and a word of the
relay table is set under its mask and read back. Nothing else changes. R26: a reeve writes no register of another plane. R185, R186,
R254, R314, R347, R430, R494, R582: a 1 written to the valid bit of a first-error record clears that record, and nothing else changes.
R13: one whose event occurs in the same cycle stays. R26: a reeve clears no record of another plane. -/
def Obligations.RegisterAndErrorRecordWrites : Prop :=
  ((∀ (s : State) (p : PendingCw),
    s.cwUpset = [] → s.pendingOf .hostP 0x3C00020 = some p → s.clock.now < p.at_ + hundredUs →
    exec (.registerWrite .hostP 0x3C00024 (~~~p.value)) s =
      .next { s with
        cwPend := s.cwPend.filter (fun q => !(decide (q.off = 0x3C00020) && decide (q.writer = .hostP)))
        hp := { s.hp with accept := p.value.getLsbD 16, head := p.value.truncate 10, latch := false } }) ∧
  (∀ (s : State) (n : BitVec 13) (v : Word), s.quietCycle →
    ∃ t, exec (.registerWrite .hostP (0x3C08000 + n.zeroExtend 28 * 4) v) s = .next t ∧
      t = { s with hp := { s.hp with rt := t.hp.rt } } ∧
      (t.regRead .hostP (0x3C08000 + n.toNat * 4)).1 = v &&& relayMask (n.toNat % 8) ∧
      (∀ k, k ≠ n.toNat → Table.get 0 t.hp.rt k = Table.get 0 s.hp.rt k)) ∧
  (∀ (s : State) (w : Writer) (off : BitVec 28) (v : Word), 0x4A00000 ≤ off.toNat → exec (.registerWrite w off v) s = .next s) ∧
  (∀ (s : State) (w : Writer) (off : BitVec 28) (v : Word), w.reeve = true → managed off.toNat = false →
    exec (.registerWrite w off v) s = .next s)) ∧
  ((∀ (w : Writer) (s : State) (r : ErrRecId), Table.get 0 s.w1c (32 * recordOff r + 31) = s.clock.now + 1 →
    exec (.errorRecordClear w r) s = .next s) ∧
  (∀ (w : Writer) (s : State) (r : ErrRecId), w.reeve = true → managed (recordOff r) = false →
    exec (.errorRecordClear w r) s = .next s) ∧
  (∀ (w : Writer) (s : State), s.quietCycle → s.may w = true → w.reeve = false →
    (s.bootRom = false → exec (.errorRecordClear w .slip) s = .next { s with bell := { s.bell with slip := {} } }) ∧
    (s.bootRom = false → exec (.errorRecordClear w .xflt) s = .next { s with bell := { s.bell with xflt := {} } }) ∧
    exec (.errorRecordClear w .cwf) s = .next { s with cwf := {} } ∧
    exec (.errorRecordClear w .hp) s = .next { s with hp := { s.hp with err := {} } } ∧
    (s.bootRom = false → exec (.errorRecordClear w .qs) s = .next { s with qs := { s.qs with err := {} } }) ∧
    (s.bootRom = false → exec (.errorRecordClear w (.tor .w)) s = .next { s with torW := {} }) ∧
    (s.bootRom = false → exec (.errorRecordClear w (.tor .e)) s = .next { s with torE := {} }) ∧
    (s.bootRom = false →
      exec (.errorRecordClear w .sxt) s = .next { s with cfg := { s.cfg with sxt := { s.cfg.sxt with ue := {} } } }) ∧
    (∀ k : SiteIx, s.bootRom = false → s.hasGranary k.toNat = true →
      exec (.errorRecordClear w (.grn k)) s = .next (s.modGranary k.toNat (fun g => { g with err := {} })))))

/-! ## Tally counters and the probe buffer -/

/-- R572, R590 to R593: a selection write clears the count and the overflow bit and takes the selection; TAL_CTL.clr clears every
counter; a LO read captures the count for its reader; a counter whose parity fails is zero. Only the tally counters change. R595 to
R597, R609: a write that takes run from 0 to 1 empties the probe buffer and starts capture; a sample of a buffer that captures with chg
= 0 stores one entry; the trigger's sample is marked; with ring = 0 a full buffer stops. -/
def Obligations.TallyAndProbeBuffer : Prop :=
  (∀ (w : Writer) (c : TalCtr) (x : Counter) (s : State), s.counter c = some x →
    (s.mayReg w = true → ∀ v : Word, ∃ t, exec (.tallySelectWrite w c v) s = .next t ∧ t = { s with tally := t.tally } ∧
      t.tally.freeze = s.tally.freeze ∧
      (∃ y, t.counter c = some y ∧ y.sel = v &&& 0x8007FFFF ∧ y.count = 0 ∧ y.ovf = false) ∧
      (∀ d, d ≠ c → t.counter d = s.counter d)) ∧
    (s.mayReg w = true → ∀ f : Bool, ∃ t, exec (.tallyClear w f) s = .next t ∧ t = { s with tally := t.tally } ∧
      t.tally.freeze = f ∧
      (∃ y, t.counter c = some y ∧ y.sel = x.sel ∧ y.count = 0 ∧ y.ovf = false)) ∧
    (s.mayRead w = true → s.bootRom = false → ∃ t, exec (.tallyLoRead w c) s = .next t ∧ t = { s with tally := t.tally } ∧
      (∃ y, t.counter c = some y ∧ y.sel = x.sel ∧ y.count = x.count ∧ y.ovf = x.ovf ∧
        y.caps.find? (fun e => decide (e.1 = w)) = some (w, x.count, x.ovf)) ∧
      (∀ d, d ≠ c → t.counter d = s.counter d)) ∧
    (s.tally.freeze = true → ∃ t, exec (.tallyParityFail (.counter c)) s = .next t ∧ t = { s with tally := t.tally } ∧
      (∃ y, t.counter c = some y ∧ y.sel = x.sel ∧ y.count = 0 ∧ y.ovf = false) ∧
      (∀ d, d ≠ c → t.counter d = s.counter d)) ∧
    (s.tally.freeze = false → ∃ t, exec (.tallyParityFail (.counter c)) s = .next t ∧ t = { s with tally := t.tally })) ∧
  ((∀ (w : Writer) (v : Word) (s : State), s.mayReg w = true → v.getLsbD 31 = true → s.pb.ctl.getLsbD 31 = false →
    exec (.probeBufferRun w v) s = .next { s with pb := { s.pb with
      ctl := v &&& 0xF000FFFF, entries := [], count := 0, oldest := 0, trig := false, stopped := false, last := none, left := 0
      sealed := false } }) ∧
  (∀ s : State, s.pb.runs = true → s.pb.chg = false → s.pb.ring = false → s.fabN s.pb.die ≠ 0 → s.pb.count < 65536 →
    s.pb.trig1.getLsbD 31 = false →
    ∃ t, exec .probeBufferSample s = .next t ∧ t.pb.count = s.pb.count + 1 ∧ t.pb.ctl = s.pb.ctl ∧ t.pb.trig = s.pb.trig ∧
      t.pb.stopped = decide (s.pb.count = 65535) ∧
      (Table.get [] t.pb.entries ((s.pb.oldest + s.pb.count) % 65536)).length = 16) ∧
  (∀ s : State, s.pb.runs = true → s.fabN s.pb.die ≠ 0 → s.pb.trig1.getLsbD 31 = true → s.pb.trig = false →
    s.clock.tick.truncate 32 = s.pb.trig0 → s.pb.trig1.toNat % 2048 ≤ s.clock.cyc → s.inTick →
    s.pb.count < 65536 →
    ∃ t, exec .probeTrigger s = .next t ∧ t.pb.trig = true ∧ t.pb.count = s.pb.count + 1 ∧ t.pb.ctl = s.pb.ctl) ∧
  (∀ (s : State) (i : BitVec 16) (w : BitVec 2) (e : List Byte), Table.get [] s.pb.entries i.toNat = e → e.length = 16 →
    ∃ t, exec (.tallyParityFail (.probe i w)) s = .next t ∧ t = { s with pb := t.pb, tally := t.tally } ∧
      leAt (Table.get [] t.pb.entries i.toNat) (4 * w.toNat) 4 = 0))

/-! ## The debug port -/

/-- R547, R598, R610: Test-Logic-Reset leaves IDCODE and clears the result of the last access only; EXTEST drives its cells at levels 2
and 3; a request of level 1 is granted while l1_allow is set; nothing else changes. R112, R115: at level 2 or 3 MILL_SB_CTL.audit_stall
is set as written; sfr_clr clears the schedule-fault record; other state of the device stands. R26: a reeve writes neither. -/
def Obligations.TapLevelOneAndScoreboard : Prop :=
  (∀ s : State,
    exec .tapReset s = .next { s with dbg := { ir := 1, extest := none, run := s.dbg.run, op := 0, status := 0, addr := 0, data := 0 } } ∧
    (∀ cells : BitVec 15, 2 ≤ s.level.toNat →
      exec (.extestUpdate cells) s = .next { s with dbg := { s.dbg with ir := 0, extest := some cells } }) ∧
    (∀ cells : BitVec 15, s.level.toNat < 2 → exec (.extestUpdate cells) s = .next { s with dbg := { s.dbg with ir := 0 } }) ∧
    (s.sec.l1Allow = true → s.level = 0 →
      ∃ t, exec .debugLevel1Request s = .next t ∧ t.level = 1 ∧ t.sec.count = s.sec.count + 1 ∧
        t = { s with level := 1, sec := t.sec }) ∧
    (s.sec.l1Allow = false → exec .debugLevel1Request s = .next s)) ∧
  ((∀ (w : Writer) (m : MillIx) (v : Bool) (s : State), w.reeve = true →
    exec (.auditStallWrite w m v) s = .next s ∧ exec (.sfrClr w m) s = .next s) ∧
  (∀ (w : Writer) (m : MillIx) (s : State), s.mayHost w = true → s.millLive m.toNat = true →
    (∀ v : Bool, 2 ≤ s.level.toNat →
      exec (.auditStallWrite w m v) s = .next (s.modMill m.toNat (fun x => { x with auditStall := v }))) ∧
    (∀ v : Bool, s.level.toNat < 2 → exec (.auditStallWrite w m v) s = .next s) ∧
    exec (.sfrClr w m) s = .next (s.modMill m.toNat (fun x => { x with sfr := none }))))

/-- R603, R610: at level 2 or 3 a halt stops an engine in common mode at once (but the sieve at work) and a resume or a step releases
it. Nothing of the engine but its debug registers changes. R604, R605, R607: a breakpoint whose address is next to issue halts its
engine with reason 2; a halt of an engine of a running tilled group raises cause 11; a halted reeve sends no heartbeat. -/
def Obligations.DebugHaltsAndBreakpoints : Prop :=
  (∀ (m : MillIx) (e : Eng) (x : BitVec 13) (s : State),
    x.toNat = m.toNat * 5 + e.num → 2 ≤ s.level.toNat → s.millLive m.toNat = true → s.groupRuns m.toNat = false →
    s.groupHalted m.toNat = false →
    ((s.mill m.toNat).frozen = false → (s.mill m.toNat).stopped = none → ((s.mill m.toNat).eng e).stopped = none →
      ((s.mill m.toNat).eng e).dbg.halt = .none → (e ≠ .sv ∨ (s.mill m.toNat).sv.running = none) →
      exec (.engineHalt x) s = .next (s.modEng m.toNat e (fun g => { g with
        dbg := { g.dbg with halt := .halted, step := false, why := 0, bp := 0 } }))) ∧
    (((s.mill m.toNat).eng e).dbg.halt = .halted →
      exec (.engineResume x) s = .next (s.modEng m.toNat e (fun g => { g with
        dbg := { g.dbg with halt := .none, step := false } })) ∧
      exec (.engineStep x) s = .next (s.modEng m.toNat e (fun g => { g with
        dbg := { g.dbg with halt := .none, step := true } })))) ∧
  ((∀ (m : MillIx) (e : Eng) (x : BitVec 13) (k : BitVec 2) (b : Breakpoint) (s : State),
    x.toNat = m.toNat * 5 + e.num → s.millLive m.toNat = true → s.groupRuns m.toNat = false →
    Table.get {} ((s.mill m.toNat).eng e).dbg.bps k.toNat = b → b.en = true → b.bell = false →
    ((s.mill m.toNat).eng e).running.isSome = true → ((s.mill m.toNat).eng e).pc = b.val → e ≠ .sv →
    (s.mill m.toNat).frozen = false → (s.mill m.toNat).stopped = none → ((s.mill m.toNat).eng e).stopped = none →
    ((s.mill m.toNat).eng e).dbg.halt = .none →
    exec (.breakpointHit x k) s = .next (s.modEng m.toNat e (fun g => { g with
      dbg := { g.dbg with halt := .halted, step := false, why := 2, bp := k } }))) ∧
  (∀ (m : MillIx) (e : Eng) (x : BitVec 13) (g : Nat) (s : State),
    x.toNat = m.toNat * 5 + e.num → 2 ≤ s.level.toNat → s.millLive m.toNat = true → (s.mill m.toNat).gslot = some g →
    (s.group g).state = .running → (s.group g).due = none →
    ∃ t d, exec (.engineHalt x) s = .next t ∧ t = { s with groups := t.groups } ∧ (t.group g).due = some d ∧ d.cause = 11 ∧
      d.detail = m.toNat ∧ (∀ h, h ≠ g → t.group h = s.group h)) ∧
  (∀ (d : Die) (s : State), (s.reeve d).dbg.halt = .halted → exec (.heartbeat d) s = .next s ∧ exec (.leaseRenewal d) s = .next s))

/-- R599, R600: a nonzero op starts an access when none runs; with one in progress the update is ignored; op 3 and above complete with
MISMATCH; an access not done in time completes with TIMEOUT and data zero. -/
def Obligations.DebugAccesses : Prop :=
  (∀ (space : BitVec 4) (addr : BitVec 40) (data : Word) (op : BitVec 4) (s : State), s.dbg.run = none → 3 ≤ op.toNat →
    exec (.dbgacc op space addr data) s =
      .next { s with dbg := { s.dbg with ir := 0x10, op := op, status := 10, addr := addr, data := 0 } }) ∧
  (∀ (addr : BitVec 40) (data : Word) (s : State), s.dbg.run = none → s.level = 0 → addr.toNat % 2 ^ 28 = 0x3C00020 →
    exec (.dbgacc 2 0 addr data) s =
      .next { s with dbg := { s.dbg with ir := 0x10, op := 2, status := 6, addr := addr, data := 0 } } ∧
    exec (.dbgacc 1 0 addr data) s =
      .next { s with dbg := { s.dbg with ir := 0x10, op := 1, status := 6, addr := addr, data := 0 } }) ∧
  (∀ (addr : BitVec 40) (data : Word) (s : State), s.cwUpset = [] → s.dbg.run = none → s.level ≠ 0 → addr.toNat % 2 ^ 28 = 0x3C00020 →
    exec (.dbgacc 1 0 addr data) s =
      .next { s with dbg := { s.dbg with
        ir := 0x10, op := 1, status := 0, addr := addr, data := (s.regRead .debug 0x3C00020).1 } }) ∧
  (∀ (op space : BitVec 4) (addr : BitVec 40) (data : Word) (s : State), s.dbg.run.isSome = true →
    exec (.dbgacc op space addr data) s = .next { s with dbg := { s.dbg with ir := 0x10 } }) ∧
  (∀ (r : DbgRun) (s : State), s.dbg.run = some r →
    exec .dbgaccTimeout s =
      .next (let u := s.advanceTo (r.at_ + (if r.space.toNat < 2 then 2600 else 13000))
             { u with dbg := { s.dbg with run := none, op := r.op, status := 9, addr := r.addr, data := 0 } }))

/-! ## The security engine -/

/-- R546, R551, R557: while no command runs, a challenge makes a fresh nonce, SEC_MBX takes the bytes written, and SEC_CSTAT reads done
with status OK; while one runs, SEC_MBX keeps its bytes. -/
def Obligations.SecurityMailboxAndChallenge : Prop :=
  ∀ (w : Writer) (s : State), w.priv = true →
    (s.sec.cmd = none →
      exec (.challenge w) s = .next { s.cwHold 0x200000 0 with free := s.free + 1, sec := { s.sec with
        nonce := some (toLe 32 (Config.freeBits s.free)), used := none, cmd := none, done := true, op := 1
        status := 0, reason := 0 } }) ∧
    (∀ (i : BitVec 10) (v : Word), s.sec.cmd = none →
      ∃ t, exec (.secMbxWrite w i v) s = .next t ∧ t = { s with sec := { s.sec with mbx := t.sec.mbx } } ∧
        t.sec.bytes (4 * i.toNat) 4 = toLe 4 v.toNat ∧
        (∀ a, (a < 4 * i.toNat ∨ 4 * i.toNat + 4 ≤ a) → Table.get 0 t.sec.mbx a = Table.get 0 s.sec.mbx a)) ∧
    (∀ (i : BitVec 10) (v : Word), s.sec.cmd.isSome = true → exec (.secMbxWrite w i v) s = .next s)

/-- R544, R553: while all owner slots are empty, claim programs slot 0 with the hash in SEC_MBX and appends a log entry; a zero hash
ends with MISMATCH and reason 1, a programmed slot with DENIED and reason 6. -/
def Obligations.ClaimProgramsSlotZero : Prop :=
  ∀ (w : Writer) (s : State), w.priv = true → s.sec.cmd = none →
    (s.sec.slots = [] → allZero (s.sec.bytes 0 32) = false →
      ∃ t, exec (.claimSlot0 w) s = .next t ∧ t = { s.cwHold 0x200000 0 with sec := t.sec } ∧
        t.sec.slots = [{ hash := s.sec.bytes 0 32, revoked := false }] ∧ t.sec.count = s.sec.count + 1 ∧
        t.sec.done = true ∧ t.sec.status = 0 ∧ t.sec.reason = 0 ∧ t.sec.nonce = s.sec.nonce ∧ t.sec.killed = s.sec.killed) ∧
    (s.sec.slots = [] → allZero (s.sec.bytes 0 32) = true →
      exec (.claimSlot0 w) s = .next { s.cwHold 0x200000 0 with sec := { s.sec with
        cmd := none, done := true, op := 5, used := none, status := 10, reason := 1 } }) ∧
    (s.sec.slots ≠ [] →
      exec (.claimSlot0 w) s = .next { s.cwHold 0x200000 0 with sec := { s.sec with
        cmd := none, done := true, op := 5, used := none, status := 6, reason := 6 } })

/-- R546, R549, R550, R553: a signed request that passes the checks has the effect of its op: level 2, level 3 with the kill fuse
blown, a slot programmed, a slot revoked, Frarel key 0 revoked; each is logged. A request that fails reports the first failure. Any op
2 consumes the nonce. -/
def Obligations.SignedRequests : Prop :=
  ∀ (w : Writer) (s : State) (q : State), w.priv = true → s.sec.cmd = none →
    q = { s.cwHold 0x200000 0 with sec := { s.sec with cmd := some (2, 0), done := false, op := 2, used := s.sec.nonce, nonce := none } } →
    (∀ (k : Nat) (st : Status) (n : Nat) (c : Instr), s.sec.asks k = true → q.requestFails (s.sec.bytes 0 3860) = some (st, n) →
      (k, c) ∈ [(1, Instr.signedDebugLevel2 w), (2, .signedDebugLevel3 w), (3, .signedProgramSlot w), (4, .signedRevokeSlot w),
        (5, .signedRevokeFrarelKey0 w)] →
      exec c s = .next { s.cwHold 0x200000 0 with sec := { s.sec with
        cmd := none, done := true, op := 2, used := none, nonce := none, status := st.code, reason := n } }) ∧
    (q.requestFails (s.sec.bytes 0 3860) = none →
      (leAt (s.sec.bytes 0 3860) 4 1 = 1 →
        ∃ t, exec (.signedDebugLevel2 w) s = .next t ∧ t.level = 2 ∧ t.sec.nonce = none ∧ t.sec.count = s.sec.count + 1 ∧
          t.sec.status = 0 ∧ t = { s.cwHold 0x200000 0 with level := t.level, sec := t.sec }) ∧
      (leAt (s.sec.bytes 0 3860) 4 1 = 2 → s.level ≠ 3 →
        ∃ t, exec (.signedDebugLevel3 w) s = .next t ∧ t.level = 3 ∧ t.sec.killed = true ∧ t.sec.nonce = none ∧
          t.sec.status = 0 ∧ t = { s.cwHold 0x200000 0 with level := t.level, sec := t.sec, mem := t.mem, bad := t.bad, soft := t.soft } ∧
          (∀ a, (a / 2 ^ 56 = 1 ∨ a / 2 ^ 56 = 2 ∨ a / 2 ^ 56 = 3 ∨ a / 2 ^ 56 = 6 ∨
              (a / 2 ^ 56 = 5 ∧ (s.granary (a % 2 ^ 56 / 2 ^ 36)).state = 2)) → Memory.read t.mem a = 0) ∧
          (∀ a, a / 2 ^ 56 = 4 ∨ a / 2 ^ 56 = 7 → Memory.read t.mem a = Memory.read s.mem a)) ∧
      (leAt (s.sec.bytes 0 3860) 4 1 = 3 →
        ∃ t, exec (.signedProgramSlot w) s = .next t ∧ t = { s.cwHold 0x200000 0 with sec := t.sec } ∧ t.sec.nonce = none ∧ t.sec.status = 0 ∧
          t.sec.slots = s.sec.slots ++ [{ hash := ((s.sec.bytes 0 3860).drop 72).take 32, revoked := false }]) ∧
      (leAt (s.sec.bytes 0 3860) 4 1 = 4 →
        ∃ t o, exec (.signedRevokeSlot w) s = .next t ∧ t = { s.cwHold 0x200000 0 with sec := t.sec } ∧ t.sec.nonce = none ∧ t.sec.status = 0 ∧
          s.sec.slots[leAt (s.sec.bytes 0 3860) 6 1]? = some o ∧
          t.sec.slots = s.sec.slots.set (leAt (s.sec.bytes 0 3860) 6 1) { o with revoked := true }) ∧
      (leAt (s.sec.bytes 0 3860) 4 1 = 5 →
        ∃ t, exec (.signedRevokeFrarelKey0 w) s = .next t ∧ t = { s.cwHold 0x200000 0 with sec := t.sec } ∧ t.sec.nonce = none ∧ t.sec.status = 0 ∧
          t.sec.frarel0 = true ∧ t.sec.slots = s.sec.slots))

/-- R548, R552: op 4 lowers the level to a value below the current one; clearing l1_allow at level 1 drops the level to 0; an attest
writes a report of 3,988 bytes that begins with the magic and carries the requester's nonce, or ends ABSENT with reason 7 on a killed
part. -/
def Obligations.LevelsAndAttestation : Prop :=
  ∀ (w : Writer) (s : State), w.priv = true → s.sec.cmd = none →
    (∀ l : BitVec 2, l.toNat < s.level.toNat →
      ∃ t, exec (.lowerLevel w l) s = .next t ∧ t.level = l ∧ t.sec.status = 0 ∧ t.sec.done = true ∧
        t.sec.count = s.sec.count + 1) ∧
    (s.may w = true → ∃ t, exec (.l1AllowWrite w false) s = .next t ∧ t.sec.l1Allow = false ∧
      t.level = (if s.level = 1 then 0 else s.level)) ∧
    (s.may w = true → exec (.l1AllowWrite w true) s = .next { s with sec := { s.sec with l1Allow := true } }) ∧
    (s.sec.killed = false →
      ∃ t, exec (.attest w) s = .next t ∧ t = { s.cwHold 0x200000 0 with sec := { s.sec with
          mbx := t.sec.mbx, cmd := none, done := true, op := 3, used := none, status := 0, reason := 0 } } ∧
        t.sec.bytes 0 4 = [0x41, 0x54, 0x53, 0x54] ∧ t.sec.bytes 8 32 = s.sec.bytes 0 32 ∧
        t.sec.bytes 192 32 = padTo 32 s.sec.head) ∧
    (s.sec.killed = true →
      exec (.attest w) s = .next { s.cwHold 0x200000 0 with sec := { s.sec with
        cmd := none, done := true, op := 3, used := none, status := 5, reason := 7 } })

/-- R570, R571: an uncorrectable error of a reeve's memory restarts that reeve into Boot and reports it; a key-store error of a word of
the running load fails that load with reason 5. -/
def Obligations.ManagementMemoryErrors : Prop :=
  (∀ (d : Die) (s : State),
    ∃ t, exec (.reeveMemoryUncorrectable d) s = .next t ∧ (t.reeve d).state = .boot ∧ (t.reeve d).ver = 0 ∧
      (t.reeve (otherDie d)) = s.reeve (otherDie d) ∧ t.bw = s.bw ∧
      t = { s with reeveW := t.reeveW, reeveE := t.reeveE, reports := t.reports } ∧
      t.reports.length = s.reports.length + 1) ∧
  (∀ (r : LoadRun) (s : State), s.cfg.run = some r → r.keys.isSome = true →
    ∃ t, exec (.keyStoreRederive true) s = .next t ∧ t.cfg.run = none ∧ t.cfg.reason = 5) ∧
  (∀ s : State, exec (.keyStoreRederive false) s = .next s)

/-! ## Reeves and the bellwether -/

/-- R499, R500: a reeve in the boot ROM takes an image by a begin message, data messages in order and an end message, each completed
OK; a data message out of order completes with MISMATCH and discards the partial image; an image that fails its checks sets img_err. -/
def Obligations.BootMessages : Prop :=
  ∀ (d : Die) (tag : BitVec 16) (s : State), (s.reeve d).state = .boot → (s.reeve d).verify = none → (s.reeve d).testing = false →
    (∀ total : BitVec 64, exec (.bootBegin d tag 0 total) s =
      .next ((s.modReeve d (fun r => { r with up := some { total := total.toNat, got := 0, seq := 0 } })).completeHost none
        tag.toNat .ok [])) ∧
    (∀ (u : ImageUp) (seq : Word) (off : BitVec 64) (data : List Byte), (s.reeve d).up = some u → seq.toNat = u.seq + 1 →
      off.toNat = u.got → 0 < data.length → u.got + data.length ≤ u.total →
      ∃ t, exec (.bootData d tag seq off data) s = .next t ∧
        (t.reeve d).up = some { total := u.total, got := u.got + data.length, seq := seq.toNat } ∧
        (∀ i, i < data.length → Memory.read t.mem (reeveCell d (u.got + i)) = data.getD i 0) ∧
        (∀ a, (a < reeveCell d u.got ∨ reeveCell d u.got + data.length ≤ a) → Memory.read t.mem a = Memory.read s.mem a)) ∧
    (∀ (u : ImageUp) (seq : Word) (off : BitVec 64) (data : List Byte), (s.reeve d).up = some u →
      (seq.toNat ≠ u.seq + 1 ∨ off.toNat ≠ u.got) →
      exec (.bootData d tag seq off data) s =
        .next ((s.modReeve d (fun r => { r with up := none })).completeHost none tag.toNat .mismatch [])) ∧
    (∀ (u : ImageUp) (seq : Word), (s.reeve d).up = some u → seq.toNat = u.seq + 1 → u.got = u.total →
      exec (.bootEnd d tag seq 0) s =
        .next ((s.modReeve d (fun r => { r with up := none, verify := some u.total })).completeHost none tag.toNat .ok []))

/-- R500, R501, R506, R511, R553: an image that passes its checks runs and is logged, one that fails sets img_err and leaves the reeve
in Boot; the self-test of a verified image that fails leaves the reeve Failed; one that passes while the other reeve holds the lease
makes it a follower. -/
def Obligations.ImageAndSelfTest : Prop :=
  ∀ (d : Die) (s : State),
    (∀ n, (s.reeve d).verify = some n → s.imageOk (s.bytes (reeveCell d 0) n) = true →
      ∃ t, exec (.imageVerifyDone d) s = .next t ∧ (t.reeve d).verify = none ∧ (t.reeve d).testing = true ∧
        (t.reeve d).ver.toNat = leAt (s.bytes (reeveCell d 0) n) 16 8 ∧ t.sec.count = s.sec.count + 1 ∧
        t = { s with reeveW := t.reeveW, reeveE := t.reeveE, sec := t.sec } ∧ t.reeve (otherDie d) = s.reeve (otherDie d)) ∧
    (∀ n, (s.reeve d).verify = some n → s.imageOk (s.bytes (reeveCell d 0) n) = false → s.otherLeads d = false →
      exec (.imageVerifyDone d) s = .next ((s.modReeve d (fun r => { r with verify := none, imgErr := true })).evBits
        s.clock.now (0x100010 + 4 * d.num) [4])) ∧
    ((s.reeve d).testing = true →
      ∃ t, exec (.reeveSelfTestDone d false) s = .next t ∧ (t.reeve d).state = .failed ∧ (t.reeve d).testing = false ∧
        t.reeve (otherDie d) = s.reeve (otherDie d) ∧ t.bw = s.bw) ∧
    ((s.reeve d).testing = true → s.leaseNow = true →
      ∃ t, exec (.reeveSelfTestDone d true) s = .next t ∧ (t.reeve d).state = .follower ∧ (t.reeve d).testing = false ∧
        t = { s with reeveW := t.reeveW, reeveE := t.reeveE } ∧ t.reeve (otherDie d) = s.reeve (otherDie d)) ∧
    ((s.reeve d).testing = true → s.leaseNow = false → (s.reeve (otherDie d)).state = .boot →
      ∃ t, exec (.reeveSelfTestDone d true) s = .next t ∧ (t.reeve d).state = .leader ∧ t.bw.term = s.bw.term + 1 ∧
        t.bw.lead = some d)

/-- R502, R504: a swap whose term is current succeeds for the leader, and for another reeve only while no lease is current: the term
goes up by one and the requester leads. Otherwise the term and the leader stand. -/
def Obligations.SwapAndTerm : Prop :=
  ∀ (d : Die) (expected : Word) (s : State), (s.reeve d).acts = true →
    ((s.reeve d).state = .follower ∨ (s.reeve d).state = .leader) →
    (expected = s.bw.term → (s.bw.lead = some d ∨ s.leaseNow = false) →
      ∃ t, exec (.swap d expected) s = .next t ∧ t.bw.term = s.bw.term + 1 ∧ t.bw.lead = some d ∧ (t.reeve d).state = .leader ∧
        (t.reeve d).term = s.bw.term + 1 ∧
        ((s.reeve (otherDie d)).state = .leader → (s.reeve (otherDie d)).acts = true → (t.reeve (otherDie d)).state = .follower)) ∧
    ((expected ≠ s.bw.term ∨ (s.bw.lead ≠ some d ∧ s.leaseNow = true)) →
      ∃ t, exec (.swap d expected) s = .next t ∧ t = { s with reeveW := t.reeveW, reeveE := t.reeveE } ∧
        (t.reeve d).state = (s.reeve d).state ∧ t.reeve (otherDie d) = s.reeve (otherDie d))

/-- R504 to R507: renewals keep the lease of a leader whose term is current; 400 µs without one put it in Hold; 500 µs without one end
the lease; the bellwether's answer takes a reeve out of Hold. -/
def Obligations.LeaseRules : Prop :=
  ∀ (d : Die) (s : State), s.inTick →
    ((s.reeve d).state = .leader → (s.reeve d).acts = true → (s.reeve d).term = s.bw.term → s.bw.lead = some d →
      ∃ t, exec (.leaseRenewal d) s = .next t ∧ t.bw = { s.bw with lease := some t.clock.now, alive := some t.clock.now } ∧
        (t.reeve d).state = .leader ∧ (t.reeve d).renewed = t.clock.now ∧ (s.reeve d).renewed + 130000 ≤ t.clock.now ∧
        t.reeve (otherDie d) = s.reeve (otherDie d)) ∧
    ((s.reeve d).state = .leader → (s.reeve d).acts = true → (s.reeve d).term ≠ s.bw.term →
      ∃ t, exec (.leaseRenewal d) s = .next t ∧ (t.reeve d).state = .follower ∧ t.bw = s.bw) ∧
    (∀ l, s.bw.lease = some l →
      ∃ t, exec .leaseExpiry s = .next t ∧ t.bw = { s.bw with lease := none } ∧ l + 650000 ≤ t.clock.now ∧
        t.reeveW = s.reeveW ∧ t.reeveE = s.reeveE) ∧
    ((s.reeve d).state = .leader → (s.reeve d).acts = true →
      ∃ t, exec (.leaderHoldTimeout d) s = .next t ∧ (t.reeve d).state = .hold ∧ (s.reeve d).renewed + 520000 ≤ t.clock.now ∧
        t.bw = s.bw ∧ t.reeve (otherDie d) = s.reeve (otherDie d)) ∧
    ((s.reeve d).state = .hold → (s.reeve d).acts = true → (s.reeve d).term = s.bw.term → s.bw.lead = some d →
      ∃ t, exec (.holdAnswer d) s = .next t ∧ (t.reeve d).state = .leader ∧ t.bw.lease = some s.clock.now ∧
        t.bw.term = s.bw.term ∧ t.reeve (otherDie d) = s.reeve (otherDie d)) ∧
    ((s.reeve d).state = .hold → (s.reeve d).acts = true → ¬((s.reeve d).term = s.bw.term ∧ s.bw.lead = some d) →
      ∃ t, exec (.holdAnswer d) s = .next t ∧ (t.reeve d).state = .follower ∧ t.bw = s.bw ∧
        t.reeve (otherDie d) = s.reeve (otherDie d))

/-- R505, R506, R508: a heartbeat reaches the other reeve; 100 µs without one declare it lost; a follower whose leader is lost asks for
a swap every 100 µs and holds when the bellwether has not answered for 500 µs; 500 µs without any renewal or heartbeat raise event 8. -/
def Obligations.HeartbeatsAndLoss : Prop :=
  ∀ (d : Die) (s : State), s.inTick →
    ((s.reeve d).acts = true → ∃ t, exec (.heartbeat d) s = .next t ∧ (t.reeve d).beat = t.clock.now ∧ (t.reeve (otherDie d)).heard = t.clock.now ∧
      (t.reeve (otherDie d)).peerLost = false ∧ (s.reeve d).beat + 13000 ≤ t.clock.now ∧ t.bw.alive = some t.clock.now ∧
      t.bw.term = s.bw.term ∧ t.bw.lead = s.bw.lead ∧ t.bw.lease = s.bw.lease) ∧
    ((s.reeve d).acts = true → (s.reeve d).peerLost = false →
      ∃ t, exec (.peerLost d) s = .next t ∧ (t.reeve d).peerLost = true ∧ (s.reeve d).heard + 130000 ≤ t.clock.now ∧
        (t.reeve d).state = (s.reeve d).state ∧ t.bw = s.bw) ∧
    ((s.reeve d).acts = true → (s.reeve d).state = .follower → (s.reeve d).peerLost = true → s.bw.lead = some (otherDie d) → s.bw.lease = none →
      ∃ t, exec (.followerSwapRetry d) s = .next t ∧ (t.reeve d).state = .leader ∧ t.bw.term = s.bw.term + 1 ∧
        t.bw.lead = some d ∧ (s.reeve d).swapAt + 130000 ≤ t.clock.now) ∧
    ((s.reeve d).acts = true → (s.reeve d).state = .follower → (s.reeve d).peerLost = true → s.bw.lead = some (otherDie d) →
      ∃ t, exec (.followerHoldTimeout d) s = .next t ∧ (t.reeve d).state = .hold ∧
        (s.reeve d).answered + 650000 ≤ t.clock.now ∧ t.bw = s.bw) ∧
    (∀ l, s.bw.alive = some l →
      ∃ t, exec .noLiveReeve s = .next t ∧ t.bw = { s.bw with alive := none } ∧ l + 650000 ≤ t.clock.now ∧
        t.reeveW = s.reeveW ∧ t.reeveE = s.reeveE)

/-- R497, R509, R510, R527: a committed REEVE_CTL restarts one reeve into Boot and leaves the other and the term; both restart bits do
not commit; a leader whose follower holds its state ends its lease and restarts. -/
def Obligations.ReeveRestartAndYield : Prop :=
  ∀ (w : Writer) (v : Word) (s : State), s.may w = true →
    (v.getLsbD 0 = true → v.getLsbD 1 = false →
      ∃ t, exec (.reeveRestart w v) s = .next t ∧ t = { s with reeveW := t.reeveW } ∧ t.reeveW.state = .boot ∧ t.reeveW.ver = 0) ∧
    (v.getLsbD 0 = false → v.getLsbD 1 = true →
      ∃ t, exec (.reeveRestart w v) s = .next t ∧ t = { s with reeveE := t.reeveE } ∧ t.reeveE.state = .boot ∧ t.reeveE.ver = 0) ∧
    (v.getLsbD 0 = true → v.getLsbD 1 = true →
      ∃ t, exec (.reeveRestart w v) s = .next t ∧ t = { s with cwf := t.cwf, tally := t.tally, w1c := t.w1c } ∧
        (s.cwf.w1.getLsbD 31 = false → t.cwf.w0 = 0x100000 ∧ t.cwf.w1 = 0x80000000 ||| BitVec.ofNat 32 (w.code * 16 + 5))) ∧
    (∀ d : Die, (s.reeve d).state = .leader → (s.reeve (otherDie d)).state = .follower → s.ledger.reeve = none →
      ∃ t, exec (.leaderYield d) s = .next t ∧ (t.reeve d).state = .boot ∧ t.bw = { s.bw with lease := none } ∧
        t = { s with bw := t.bw, reeveW := t.reeveW, reeveE := t.reeveE } ∧ t.reeve (otherDie d) = s.reeve (otherDie d))

/-! ## Power domains -/

/-- R512 to R516: a request is taken when none is in progress: a domain that is not fitted or not allowed the state gives result 3; a
domain already in the state gives result 0; a plot that is idle goes to IDLE when its blocks accept, and one in IDLE is live again. A
request while one is in progress does not commit. A request of a term that is not the latched one is refused. -/
def Obligations.PowerRequests : Prop :=
  ∀ (w : Writer) (v : Word) (s : State), s.may w = true →
    (s.pwr.busy = true →
      ∃ t, exec (.powerRequest (.reg w) v) s = .next t ∧ t = { s with cwf := t.cwf, tally := t.tally, w1c := t.w1c } ∧
        (s.cwf.w1.getLsbD 31 = false → t.cwf.w0 = 0x100200 ∧ t.cwf.w1 = 0x80000000 ||| BitVec.ofNat 32 (w.code * 16 + 5))) ∧
    (s.pwr.busy = false → v.toNat % 128 < 94 → s.domFitted (v.toNat % 128) = false →
      ∃ t, exec (.powerRequest (.reg w) v) s = .next t ∧ t = { s.cwHold 0x100200 (v &&& 0x77F) with pwr := t.pwr } ∧ t.pwr.result = 3 ∧ t.pwr.busy = false ∧
        t.pwr.domain = v.toNat % 128 ∧ t.pwr.dom = s.pwr.dom) ∧
    (s.pwr.busy = false → v.toNat % 128 < 32 → (v.toNat / 256) % 4 = 1 → s.domState (v.toNat % 128) = 0 →
      s.domGroup (v.toNat % 128) = none → s.loadNamesPlot (v.toNat % 128) = false →
      (s.plot (v.toNat % 128)).carts = [] → (s.plot (v.toNat % 128)).streams = [] →
      ∃ t, exec (.powerRequest (.reg w) v) s = .next t ∧ t = { s.cwHold 0x100200 (v &&& 0x77F) with
          pwr := t.pwr, fab := t.fab } ∧ t.pwr.result = 0 ∧ t.pwr.busy = false ∧ t.domState (v.toNat % 128) = 1 ∧
        (∀ i, i ≠ v.toNat % 128 → t.domState i = s.domState i)) ∧
    (s.pwr.busy = false → v.toNat % 128 < 32 → (v.toNat / 256) % 4 = 0 → s.domState (v.toNat % 128) = 1 →
      s.domGroup (v.toNat % 128) = none →
      ∃ t, exec (.powerRequest (.reg w) v) s = .next t ∧ t = { s.cwHold 0x100200 (v &&& 0x77F) with
          pwr := t.pwr, fab := t.fab } ∧ t.pwr.result = 0 ∧ t.pwr.busy = false ∧ t.domState (v.toNat % 128) = 0 ∧
        (t.plot (v.toNat % 128)).brams = (s.plot (v.toNat % 128)).brams ∧
        (t.plot (v.toNat % 128)).state = (if (s.plot (v.toNat % 128)).state = .idle then .live else (s.plot (v.toNat % 128)).state)) ∧
    (∀ term : Word, term ≠ s.bw.term →
      ∃ t, exec (.powerRequest (.reeve term) v) s = .next t ∧ t = { s with tally := t.tally, outbox := t.outbox })

/-- R514, R515, R516: when a DELAY has passed and blocks still do not accept, an unforced request fails with result 2; a domain in IDLE
wakes by an access; a request that waits for a mark goes on once no group holds the domain. R517, R518, R531: a step of a return sets
its ready bit and starts the next; the fourth ends the return, and a granary that comes back from RETAIN has the state and the open bit
it had before; a step that is not ready in time ends the return with result 5. -/
def Obligations.PowerDelayAndReturn : Prop :=
  ((∀ (d : Nat) (s : State), s.pwr.delay = some d → s.clock.now < d → s.inTick →
    (s.domAnswer s.pwr.domain s.pwr.target).1 ≠ .accept → ((s.advanceTo d).domAnswer s.pwr.domain s.pwr.target).1 ≠ .accept →
    s.pwr.force = false →
    ∃ t, exec .powerDelayExpiry s = .next t ∧ t.clock.now = d ∧ t.pwr.result = 2 ∧ t.pwr.busy = false ∧ t.pwr.dom = s.pwr.dom) ∧
  (∀ (d : Nat) (s : State), s.pwr.delay = some d → d ≤ s.clock.now → (s.domAnswer s.pwr.domain s.pwr.target).1 ≠ .accept →
    s.pwr.force = false → exec .powerDelayExpiry s = .next (s.powerEnd 2 s.pwr.block)) ∧
  (∀ (i : BitVec 7) (s : State), s.domState i.toNat = 1 →
    ∃ t, exec (.idleWake i) s = .next t ∧ t = { s with pwr := t.pwr, fab := t.fab } ∧ t.domState i.toNat = 0 ∧
      (∀ j, j ≠ i.toNat → t.domState j = s.domState j) ∧
      (i.toNat < 32 → (s.plot i.toNat).state = .idle → (t.plot i.toNat).state = .live)) ∧
  (∀ s : State, s.pwr.busy = true → s.pwr.result = 4 → s.domGroup s.pwr.domain = none → s.domState s.pwr.domain = s.pwr.target →
    ∃ t, exec .powerBoundary s = .next t ∧ t = { s with pwr := t.pwr } ∧ t.pwr.result = 0 ∧ t.pwr.busy = false ∧
      t.pwr.dom = s.pwr.dom)) ∧
  (∀ s : State, s.pwr.step ≠ 0 → s.inTick →
    (s.pwr.step < 4 →
      exec .powerReturnStep s = .next { s with pwr := { s.pwr with
        ready := s.pwr.ready ||| BitVec.ofNat 4 (2 ^ (s.pwr.step - 1)), step := s.pwr.step + 1, stepAt := s.clock.now } }) ∧
    (s.pwr.step = 4 → 80 ≤ s.pwr.domain → s.pwr.domain < 92 → s.hasGranary (s.pwr.domain - 80) = true →
      s.domState s.pwr.domain = 2 → s.pwr.target = 0 →
      ∃ t, exec .powerReturnStep s = .next t ∧ t.pwr.busy = false ∧ t.pwr.result = 0 ∧ t.domState s.pwr.domain = 0 ∧
        t.clock.tick = s.clock.tick + 1 ∧
        (t.granary (s.pwr.domain - 80)).state = (s.nextTick.granary (s.pwr.domain - 80)).before ∧
        (t.granary (s.pwr.domain - 80)).opened = (s.nextTick.granary (s.pwr.domain - 80)).openBefore) ∧
    (∃ t, exec .powerReturnTimeout s = .next t ∧ t.pwr.busy = false ∧ t.pwr.result = 5 ∧ t.pwr.step = 0 ∧
      (s.pwr.stepAt + s.stepLimit s.pwr.step ≤ t.clock.now ∨ s.pwr.domain < 32) ∧
      ∃ r, t.reports.getLast? = some r ∧ r.block = 4 ∧ r.unit = s.pwr.domain))

/-! ## Resets -/

/-- R502, R520 to R523: a warm reset clears the level, the groups, the queue store, the configuration and the ledger, puts both reeves
in Boot, and keeps the bell, the node, the term and leader, the power states, the seal map and the stored keys. It is requested by
WRST_N or by PWR_RST scope 1. -/
def Obligations.WarmResetKeepsAndClears : Prop :=
  ∀ (s : State) (w : Writer) (c : Instr), s.board.held = false → s.may w = true →
    (c = .warmReset ∨ c = .pwrRstWarm (.reg w) ∨ c = .pwrRstWarm (.reeve s.bw.term)) →
    ∃ t, exec c s = .next t ∧
      t.level = 0 ∧ t.groups = [] ∧ t.qs.queues = [] ∧ t.qs.pendW = [] ∧ t.qs.pendE = [] ∧ t.cfg.fullOk = false ∧
      t.cfg.frames = [] ∧ t.cfg.run = none ∧ t.ledger.copyW = [] ∧ t.ledger.copyE = [] ∧ t.reeveW.state = .boot ∧
      t.reeveE.state = .boot ∧ t.sec.l1Allow = false ∧
      t.clock = s.clock ∧ t.node = s.node ∧ t.bw = s.bw ∧ t.pwr = s.pwr ∧ t.ident = s.ident ∧ t.ledger.seals = s.ledger.seals ∧
      t.sec.slots = s.sec.slots ∧ t.sec.killed = s.sec.killed ∧ t.bell.state = s.bell.state ∧ t.bell.role = s.bell.role ∧
      t.hp.state = s.hp.state ∧ t.cwPend = s.cwPend ∧ t.board = s.board ∧
      (s.cfg.run.isSome = true → t.cfg.reason = 12)

/-- R520, R521, R524, R532: a mill reset leaves the mill without a program, with its engines and counters clear and its instruction
memories zero; a plot reset leaves the plot blank; a stream reset clears the slot's record; a die reset leaves the die's frames blank.
Each ends with result 0. A target that is absent ends with result 2, one that is held with result 3, and a narrower request waits while
a warm reset is held. R524: a reset of a narrower scope waits while a warm reset is held and starts once it has been released. -/
def Obligations.NarrowResets : Prop :=
  (∀ (w : Writer) (s : State), s.may w = true → s.rst.warm = false →
    (∀ m : BitVec 11, s.rstAbsent { scope := 4, target := m.toNat, slot := 0 } = false →
      s.rstRefused { scope := 4, target := m.toNat, slot := 0 } = false →
      ∃ t, exec (.pwrRstMill (.reg w) m) s = .next t ∧ t.rst.result = 0 ∧ t.rst.last.target = m.toNat ∧
        (t.mill m.toNat).program = false ∧ (t.mill m.toNat).configured = false ∧ (t.mill m.toNat).sync = [] ∧
        (t.mill m.toNat).tiles = [] ∧ (t.mill m.toNat).slots = [] ∧
        (t.mill m.toNat).sfr =
          (((s.cwHold 0x100210 (BitVec.ofNat 32 (4 * 2 ^ 16 + 0 * 2 ^ 11 + m.toNat))).endMill m.toNat).mill m.toNat).sfr ∧
        (∀ e, ((t.mill m.toNat).eng e).running = none ∧ ((t.mill m.toNat).eng e).regs = []) ∧
        ((∀ q, (s.queue q).post = false) → ∀ e, ((t.mill m.toNat).eng e).queue = []) ∧
        (∀ e off, off < 2 ^ 14 → Memory.read t.mem (imemCell m.toNat e off) = 0)) ∧
    (∀ p : BitVec 11, p.toNat < 32 → s.rstRefused { scope := 3, target := p.toNat, slot := 0 } = false →
      ∃ t, exec (.pwrRstPlot (.reg w) p) s = .next t ∧ t.rst.result = 0 ∧ (t.plot p.toNat).state = .blank ∧
        (t.plot p.toNat).pepoch = 0) ∧
    (∀ (m : BitVec 11) (k : BitVec 3), s.rstAbsent { scope := 5, target := m.toNat, slot := k.toNat } = false →
      s.rstRefused { scope := 5, target := m.toNat, slot := k.toNat } = false →
      ∃ t, exec (.pwrRstStream (.reg w) m k) s = .next t ∧ t.rst.result = 0 ∧ Table.get {} (t.mill m.toNat).ssr k.toNat = {} ∧
        (((s.mill m.toNat).slot k.toNat).any Slot.isStream = false →
          ∀ j, j ≠ k.toNat → Table.get {} (t.mill m.toNat).ssr j = Table.get {} (s.mill m.toNat).ssr j)) ∧
    (∀ d : BitVec 11, d.toNat < 2 → s.rstRefused { scope := 2, target := d.toNat, slot := 0 } = false →
      ∃ t, exec (.pwrRstDie (.reg w) d) s = .next t ∧ t.rst.result = 0 ∧ t.rst.last.scope = 2 ∧ t.bw = s.bw ∧ t.pwr = { s.pwr with fresh := t.pwr.fresh } ∧
        t.node = s.node ∧ t.reeveW = s.reeveW ∧ t.reeveE = s.reeveE) ∧
    (∀ m : BitVec 11, s.rstAbsent { scope := 4, target := m.toNat, slot := 0 } = true →
      ∃ t, exec (.pwrRstMill (.reg w) m) s = .next t ∧
        t = { s.cwHold 0x100210 (BitVec.ofNat 32 (4 * 2 ^ 16 + 0 * 2 ^ 11 + m.toNat)) with rst := t.rst } ∧ t.rst.result = 2) ∧
    (∀ p : BitVec 11, p.toNat < 32 → s.plotHeld p.toNat = true →
      ∃ t, exec (.pwrRstPlot (.reg w) p) s = .next t ∧
        t = { s.cwHold 0x100210 (BitVec.ofNat 32 (3 * 2 ^ 16 + 0 * 2 ^ 11 + p.toNat)) with rst := t.rst } ∧ t.rst.result = 3)) ∧
  (∀ (w : Writer) (s : State), s.may w = true →
    (∀ m : BitVec 11, s.rst.warm = true →
      exec (.pwrRstMill (.reg w) m) s = .next { s.cwHold 0x100210 (BitVec.ofNat 32 (4 * 2 ^ 16 + 0 * 2 ^ 11 + m.toNat)) with rst := { s.rst with
        waiting := s.rst.waiting ++ [{ scope := 4, target := m.toNat, slot := 0 }], result := 1
        last := { scope := 4, target := m.toNat, slot := 0 } } }) ∧
    exec .warmResetRelease s = .next { s with rst := { s.rst with warm := false } } ∧
    (∀ (r : RstReq) (rest : List RstReq), s.rst.warm = false → s.rst.waiting = r :: rest → r.scope ≠ 1 →
      s.rstAbsent r = true →
      exec .resetWaitEnds s = .next { s with rst := { s.rst with waiting := rest, result := 2, last := r } }) ∧
    (∀ (r : RstReq) (rest : List RstReq), s.rst.warm = false → s.rst.waiting = r :: rest → r.scope = 4 →
      s.rstAbsent r = false → s.rstRefused r = false →
      ∃ t, exec .resetWaitEnds s = .next t ∧ t.rst.waiting = rest ∧ t.rst.result = 0 ∧ t.rst.last = r ∧
        (t.mill r.target).program = false))

/-- R520 to R522, R502, R540: PORST_N low puts a powered device in cold reset, which keeps only the fuses, what was built, and what
stands outside the device; its release starts the bell at tick 0, cycle 0, with every fitted granary untrained. -/
def Obligations.ColdResetAndRelease : Prop :=
  ∀ s : State,
    (s.board.powered = true →
      exec .coldReset s = .next { State.reset with
        pending := s.pending, free := s.free, outbox := s.outbox, hostSeen := s.hostSeen, clock := { now := s.clock.now }
        ident := { option := s.ident.option, grade2 := s.ident.grade2, rowsW := s.ident.rowsW, rowsE := s.ident.rowsE, found := s.ident.found }
        sec := { slots := s.sec.slots, frarel0 := s.sec.frarel0, killed := s.sec.killed }, hp := { coldAt := s.clock.now }
        board := { powered := true, trip := s.board.trip, held := true, low := true } }) ∧
    (∀ tj : Byte, s.board.held = true → s.board.powered = true → s.board.low = true → (s.board.trip = false ∨ tj.toNat ≤ 100) →
      ∃ t, exec (.porstRelease tj) s = .next t ∧ t.clock = { now := s.clock.now + 650000, tick := 0, cyc := 0 } ∧
        t.board.held = false ∧ t.board.trip = false ∧
        (s.ident.found = [] → t = { s with clock := t.clock, granaries := t.granaries, hp := t.hp, board := t.board }) ∧
        t.mem = s.mem ∧ t.sec = s.sec ∧ t.bell = s.bell ∧
        (∀ k, s.hasGranary k = true → t.granary k = { state := 1 }) ∧
        (∀ k, s.hasGranary k = false → t.granary k = {})) ∧
    (∀ tj : Byte, s.board.trip = true → 100 < tj.toNat → exec (.porstRelease tj) s = .next s)

/-! ## The board -/

/-- R618, R619, R629, R634: the rise of the input powers the device within 8 ms and leaves it held; a shutdown or a trip loses all
state and holds it; above 105 °C hot is set; an update takes the readings and sets the voltage flags. -/
def Obligations.BoardPowerAndMonitor : Prop :=
  ∀ s : State,
    (s.board.powered = false →
      exec .inputPowerRise s = .next { s with
        clock := { s.clock with now := s.clock.now + 10400000 }, board := { s.board with powered := true } }) ∧
    (∃ t, exec .inputPowerShutdown s = .next t ∧ t.board = { powered := false, held := true, low := false, trip := false } ∧
      t.mem = [] ∧ t.ledger = {} ∧ t.cfg = {} ∧ t.groups = [] ∧ t.granaries = [] ∧ t.clock = { now := s.clock.now } ∧
      t.sec.slots = s.sec.slots ∧ t.sec.killed = s.sec.killed) ∧
    (s.board.powered = true →
      ∃ t, exec .thermalTrip s = .next t ∧ t.board = { powered := true, held := true, low := false, trip := true } ∧
        t.mem = [] ∧ t.ledger = {} ∧ t.cfg = {} ∧ t.groups = [] ∧ t.granaries = []) ∧
    (s.board.hot = true → exec .junctionHot s = .next (s.evBits s.clock.now 0x100304 [0])) ∧
    (s.board.hot = false → s.hp.alerts.length < 64 → s.hp.state ≠ .up → s.hp.home = none →
      ∃ t a, exec .junctionHot s = .next t ∧ t.board = { s.board with hot := true } ∧ t.hp.alerts = s.hp.alerts ++ [a] ∧
        a.code = 13 ∧ leAt a.detail 0 1 = 4 ∧ t = { s with board := t.board, hp := t.hp, w1c := t.w1c }) ∧
    (∀ (vin iin : BitVec 10) (tjMax tjW tjE : Byte), s.inTick → s.board.held = false →
      ∃ t, exec (.powerMonitorUpdate vin iin tjMax tjW tjE) s = .next t ∧ s.board.monAt + 130000 ≤ t.clock.now ∧
        t.board = { s.board with
          vin := vin, iin := iin, tjMax := tjMax, tjW := tjW, tjE := tjE, vinLo := s.board.vinLo || decide (vin.toNat < 600)
          vinHi := s.board.vinHi || decide (800 < vin.toNat), hot := s.board.hot || decide (105 < tjMax.toNat)
          monAt := t.clock.now })

/-! ## Substitutions (chapters 02 and 16) -/

/-- R503, R526, R643, R644: the leader's substitution of a column in an idle window records the column, counts the change, returns the
column's mills to service and zeroes the stationary operands of every moved mill; a stale term is refused. -/
def Obligations.SpareColumnSubstitution : Prop :=
  ∀ (d : Die) (x : BitVec 5) (l : Die) (s : State),
    (s.bw.lead = some l → s.canSubstitute d x.toNat = true →
      ∃ t, exec (.spareColumnSubstitution s.bw.term d x) s = .next t ∧ t.ident.spare d = some x ∧
        t.ident.spare (otherDie d) = s.ident.spare (otherDie d) ∧ t.ident.gen = s.ident.gen + 1 ∧
        (∀ m, m / 576 = d.num → m % 24 = x.toNat → s.millPresent m = true → (t.mill m).oos = false) ∧
        (∀ m, m / 576 = d.num → x.toNat ≤ m % 24 → s.millPresent m = true → (t.mill m).tiles = [])) ∧
    (∀ term : Word, term ≠ s.bw.term →
      ∃ t, exec (.spareColumnSubstitution term d x) s = .next t ∧ t = { s with tally := t.tally, outbox := t.outbox })

/-! ## The Atvex link and host transactions -/

/-- R472 to R474: a link packet that is not in order, whose CRC fails or that held an uncorrectable frame is discarded with a nak; one
that is taken moves the expected number; a request without a credit fails the link with cause 4. R470, R472, R473, R481, R484: a link
init frame brings the link up with the control node's credits; an ack frees the packets before its number and the alerts they carried
and adds credits; an ack of the device returns credits; a packet 4 µs without an ack is resent; the eighth resend without progress
fails the link with cause 2. -/
def Obligations.LinkLayer : Prop :=
  (∀ (b : List Byte) (s : State), s.hp.state = .up →
    (s.hp.packetOk b = false →
      exec (.linkPacketReceive b false) s = .next { s with hp := { s.hp with nak := true } }) ∧
    exec (.linkPacketReceive b true) s = .next { s with hp := { s.hp with nak := true } } ∧
    (s.hp.packetOk b = true → s.hp.held.get ((transOf ((b.drop 4).take (leAt b 2 2))).pool) = some 0 →
      ∃ t, exec (.linkPacketReceive b false) s = .next t ∧ t.hp.state = .ladder ∧ t.hp.cause = 4 ∧ t.hp.rate = 0 ∧
        t.hp.fails = min 255 (s.hp.fails + 1)) ∧
    (∀ (n : Nat) (seq : List Byte), s.hp.packetOk b = true → (b.drop 4).take (leAt b 2 2) = seq →
      (transOf seq).kind = 1 → (transOf seq).flags = 0 → (transOf seq).ok = true → (transOf seq).len = 4 →
      (transOf seq).addr = 0x13C00020 → s.hp.held.n = n + 1 →
      ∃ t, exec (.linkPacketReceive b false) s = .next t ∧ t.hp.nextRecv = (s.hp.nextRecv + 1) % 4096 ∧
        t.hp.held.n = n ∧ t.hp.give.n = s.hp.give.n + 1 ∧ t.hp.unacked = s.hp.unacked + 1)) ∧
  (∀ s : State,
    (∀ (rate : BitVec 3) (p : List Byte), s.hp.state ≠ .up → rate.toNat ≤ s.hp.maxRate.toNat → leAt p 0 1 = 0x40 →
      s.hp.waitSend = [] → s.hp.alerts = [] →
      ∃ t, exec (.linkInitReceive rate p) s = .next t ∧ t.hp.state = .up ∧ t.hp.rate = rate.toNat ∧
        t.hp.upSince = some s.clock.now ∧
        t.hp.credit = { w := leAt p 2 2, r := leAt p 4 2, n := leAt p 6 2, m := leAt p 8 2 } ∧
        t.outbox = s.outbox ++ [({ kind := .hostControl, unit := 0, addr := 0, data := (padTo 64 (toLe 1 0x40 ++ toLe 1 0 ++ toLe 2 256 ++
          toLe 2 32 ++ toLe 2 64 ++ toLe 2 16)) } : Out)] ∧
        t = { s with hp := t.hp, outbox := t.outbox }) ∧
    (∀ p : List Byte, s.hp.state = .up → leAt p 0 1 = 0x41 → leAt p 1 1 = 0 → s.hp.waitSend = [] →
      (∀ a ∈ s.hp.alerts, a.seq.isSome = true) →
      ∃ t, exec (.hpAckReceive p) s = .next t ∧ t = { s with hp := t.hp } ∧
        (∀ q ∈ t.hp.sent, seqBefore q.seq (leAt p 2 2 % 4096) = false) ∧ t.hp.credit.w = s.hp.credit.w + leAt p 4 2 ∧
        t.hp.credit.r = s.hp.credit.r + leAt p 6 2 ∧ t.hp.credit.n = s.hp.credit.n + leAt p 8 2 ∧
        t.hp.credit.m = s.hp.credit.m + leAt p 10 2) ∧
    (s.hp.state = .up → (32 ≤ s.hp.unacked ∨ s.hp.nak = true) →
      exec .hpAckSend s = .next { s with
        outbox := s.outbox ++ [({ kind := .hostControl, unit := 0, addr := 0, data := (padTo 64 (toLe 1 0x41 ++
          toLe 1 (if s.hp.nak then 1 else 0) ++ toLe 2 s.hp.nextRecv ++ toLe 2 s.hp.give.w ++ toLe 2 s.hp.give.r ++
          toLe 2 s.hp.give.n ++ toLe 2 s.hp.give.m)) } : Out)]
        hp := { s.hp with nak := false, unacked := 0, give := {}, held := {
          w := s.hp.held.w + s.hp.give.w, r := s.hp.held.r + s.hp.give.r, n := s.hp.held.n + s.hp.give.n
          m := s.hp.held.m + s.hp.give.m } } }) ∧
    (∀ (p : SentPkt) (rest : List SentPkt), s.hp.state = .up → s.hp.sent = p :: rest →
      (∀ q ∈ s.hp.sent, q.resends < 8) → p.at_ + 5200 ≤ s.clock.now →
      ∃ t, exec .hpReplayTimeout s = .next t ∧
        t.hp = { s.hp with
          sent := s.hp.sent.map (fun q => ({ q with at_ := s.clock.now, resends := q.resends + 1 } : SentPkt)) } ∧
        t.outbox = s.outbox ++
          s.hp.sent.map (fun q => ({ kind := .hostPacket, unit := 0, addr := 0, data := q.bytes } : Out)) ∧
        t = { s with hp := t.hp, outbox := t.outbox, tally := t.tally }) ∧
    (∀ (p : SentPkt) (rest : List SentPkt), s.hp.state = .up → s.hp.sent = p :: rest → 8 ≤ p.resends →
      p.at_ + 5200 ≤ s.clock.now →
      ∃ t, exec .hpReplayTimeout s = .next t ∧ t.hp.state = .ladder ∧ t.hp.cause = 2) ∧
    (∀ (w : Writer) (v : Word), w.reeve = true → exec (.retrain w v) s = .next s) ∧
    (∀ (w : Writer) (v : Word), s.may w = true → w.reeve = false → v.getLsbD 0 = true → (v.toNat / 32) % 8 < 5 → s.hp.outReads = [] →
      ∃ t, exec (.retrain w v) s = .next t ∧ t = { s with hp := t.hp } ∧ t.hp.state = .ladder ∧ t.hp.cause = 5 ∧
        t.hp.rate = 0 ∧ t.hp.fails = min 255 (s.hp.fails + 1) ∧ t.hp.sent = [] ∧ t.hp.relayEn = v.getLsbD 8 ∧
        t.hp.maxRate.toNat = (v.toNat / 32) % 8 ∧ t.hp.alerts.map Alert.serial = s.hp.alerts.map Alert.serial))

/-- R351, R363, R476 to R479: through the memory window a read of a present page completes OK with the bytes, a write of a writable
page lands at once when nothing is posted before it; a sealed page gives DENIED; a read of the wrong shape completes with MISMATCH; a
read not done by 7.0 µs completes with TIMEOUT. R471, R475, R482: a read of HP_FLUSH is completed at once with done = 1 exactly when no
posted write waits. On a link that is up with nothing waiting, the completion leaves as the next link packet: its number, its length,
the header of kind 4 with the tag, this device's node and status OK, four bytes of data, and the CRC. -/
def Obligations.WindowAccessesAndFlush : Prop :=
  (∀ (s : State) (va : BitVec 40) (e : LedgerEntry),
    s.ledger.updating (va.toNat / 2 ^ 21) = false → s.ledger.caches = [] →
    Table.get {} s.ledger.copyW (va.toNat / 2 ^ 21) = e → e.ok = true →
    (∀ (tag : BitVec 16) (len : BitVec 16) (a : Nat), e.present = true → e.sealed = false →
      s.entryPlace e va.toNat = .cell a → 0 < len.toNat → va.toNat % 4096 + len.toNat ≤ 4096 → s.hp.posted = [] →
      s.badIn a len.toNat = false → s.soft = [] →
      ∃ u : State, u = { s with ledger := u.ledger } ∧
        exec (.windowRead tag (BitVec.ofNat 64 (2 ^ 40 + va.toNat)) len) s =
          .next (u.completeHost none tag.toNat .ok (Memory.readN s.mem a len.toNat))) ∧
    (∀ (tag : BitVec 16) (len : BitVec 16), e.sealed = true → 0 < len.toNat → va.toNat % 4096 + len.toNat ≤ 4096 →
      s.hp.posted = [] →
      ∃ u : State, u = { s with ledger := u.ledger } ∧
        exec (.windowRead tag (BitVec.ofNat 64 (2 ^ 40 + va.toNat)) len) s =
          .next (u.completeHost none tag.toNat .denied [])) ∧
    (∀ (data : List Byte) (a : Nat), e.present = true → e.writable = true → e.sealed = false →
      s.entryPlace e va.toNat = .cell a → 0 < data.length → va.toNat % 4096 + data.length ≤ 4096 → s.hp.posted = [] →
      s.narrowBad a data.length = false →
      ∃ t, exec (.windowWrite (BitVec.ofNat 64 (2 ^ 40 + va.toNat)) data) s = .next t ∧
        t = { s with ledger := t.ledger, mem := t.mem, bad := t.bad, soft := t.soft } ∧
        (∀ i, i < data.length → Memory.read t.mem (a + i) = data.getD i 0) ∧
        (∀ b, (b < a ∨ a + data.length ≤ b) → Memory.read t.mem b = Memory.read s.mem b)) ∧
    (∀ (tag : BitVec 16) (len : BitVec 16), len.toNat = 0 ∨ 4096 < len.toNat →
      exec (.windowRead tag (BitVec.ofNat 64 (2 ^ 40 + va.toNat)) len) s =
        .next ((s.hostErr 3 1 0 (2 ^ 40 + va.toNat)).completeHost none tag.toNat .mismatch [])) ∧
    (∀ (tag : BitVec 16) (r : HostRead), s.hp.reads.find? (fun q => decide (q.tag = tag.toNat)) = some r → s.inTick →
      s.clock.now ≤ r.at_ + 9100 →
      ∃ u : State, u = s.advanceTo (r.at_ + 9100) ∧ u.clock.now = r.at_ + 9100 ∧
        exec (.windowReadTimeout tag) s =
          .next ({ u with hp := { u.hp with reads := u.hp.reads.erase r } }.completeHost r.via r.tag .timeout []))) ∧
  (∀ (tag : BitVec 16) (s : State),
    exec (.hpFlushRead tag) s = .next (s.completeHost none tag.toNat .ok (toLe 4 (if s.hp.posted = [] then 1 else 0))) ∧
    (s.hp.state = .up → s.hp.waitSend = [] → s.hp.sent.length < 1024 →
      (s.hp.sent.map (fun p => p.bytes.length)).foldl (· + ·) 0 ≤ 2 ^ 19 → (∀ a ∈ s.hp.alerts, a.seq.isSome = true) →
      ∃ t, exec (.hpFlushRead tag) s = .next t ∧ t = { s with hp := t.hp, outbox := t.outbox } ∧
        t.hp.nextSend = (s.hp.nextSend + 1) % 4096 ∧
        t.outbox = s.outbox ++ [({ kind := .hostPacket, unit := 0, addr := 0, data := (
          toLe 2 (s.hp.nextSend % 4096) ++ toLe 2 20 ++
            (toLe 1 4 ++ toLe 1 0 ++ toLe 2 tag.toNat ++ toLe 2 s.node.toNat ++ toLe 2 4 ++ toLe 8 0 ++
              toLe 4 (if s.hp.posted = [] then 1 else 0)) ++
            toLe 4 (crc32 (toLe 2 (s.hp.nextSend % 4096) ++ toLe 2 20 ++
              (toLe 1 4 ++ toLe 1 0 ++ toLe 2 tag.toNat ++ toLe 2 s.node.toNat ++ toLe 2 4 ++ toLe 8 0 ++
                toLe 4 (if s.hp.posted = [] then 1 else 0))))) } : Out)]))

/-- R479, R481: the completion of a device read with a status other than OK fails its transfer and is reported with the host address;
one that does not come within 8 µs fails the link with cause 3. R486, R487: a message of a legal form to a mailbox with a free entry is
stored and completed OK, one to a full mailbox waits, and after 1.5 µs it is completed with TIMEOUT and discarded. -/
def Obligations.DeviceReadsAndMessages : Prop :=
  (∀ (r : DevRead) (s : State),
    (∀ (st : Byte) (data : List Byte), s.hp.outReads.find? (fun q => decide (q.tag = r.tag % 65536)) = some r → r.tag < 65536 →
      st ≠ 0 →
      ∃ t x, exec (.deviceReadCompletion (BitVec.ofNat 16 r.tag) st data) s = .next t ∧ t.reports.getLast? = some x ∧ x.block = 18 ∧
        x.addrKind = 2 ∧ x.addr = r.addr) ∧
    (∀ data : List Byte, s.hp.outReads.find? (fun q => decide (q.tag = r.tag % 65536)) = some r → r.tag < 65536 →
      data.length = r.len → s.runningSlot r.mill r.slot = none →
      exec (.deviceReadCompletion (BitVec.ofNat 16 r.tag) 0 data) s = .next { s with
        hostSeen := noteHost s.hostSeen r.addr data
        hp := { s.hp with devReads := s.hp.devReads.map (fun q => if q = r then { q with data := some data } else q) } }) ∧
    (∀ rest, s.hp.outReads = r :: rest → s.inTick → s.clock.now ≤ r.at_ + 10400 →
      ∃ t, exec .deviceReadDeadline s = .next t ∧ t.clock.now = r.at_ + 10400) ∧
    (∀ rest, s.hp.outReads = r :: rest → r.at_ + 10400 ≤ s.clock.now →
      ∃ t, exec .deviceReadDeadline s = .next t ∧ t.hp.state = .ladder ∧ t.hp.cause = 3)) ∧
  (∀ (tag : BitVec 16) (data : List Byte) (s : State), data.length % 16 = 0 → 16 ≤ data.length → data.length ≤ 4096 →
    ((s.hp.box0).length < 16 →
      exec (.managementMessage tag 0 data) s = .next
        ({ s with hp := { s.hp with box0 := s.hp.box0 ++ [({ tag := tag.toNat, data := data, at_ := s.clock.now, via := none } : Msg)] } }.completeHost
          none tag.toNat .ok [])) ∧
    (16 ≤ (s.hp.box0).length →
      exec (.managementMessage tag 0 data) s = .next { s with hp := { s.hp with
        boxWait := s.hp.boxWait ++ [(0, ({ tag := tag.toNat, data := data, at_ := s.clock.now, via := none } : Msg))] } }) ∧
    (∀ box (m : Msg) rest, s.hp.boxWait = (box, m) :: rest → s.inTick → s.clock.now ≤ m.at_ + 1950 →
      ∃ u : State, u = s.advanceTo (m.at_ + 1950) ∧ u.clock.now = m.at_ + 1950 ∧
        exec .mailboxTimeout s = .next ({ u with hp := { u.hp with boxWait := rest } }.completeHost m.via m.tag .timeout [])))

/-- R484, R485, R578: an acknowledged alert leaves the queue; HOST_ALERT_N is asserted while an alert waits and the link has not been
up for 100 µs; the collector passes a report to the leader and queues alert 13 for a contained error that nothing covers. -/
def Obligations.AlertsAndReports : Prop :=
  ∀ s : State,
    (∀ (a : Alert) (rest : List Alert) (q : Nat), s.hp.alerts = a :: rest → a.seq = some q → 4096 ≤ q →
      exec .alertAcknowledged s = .next { s with hp := { s.hp with alerts := rest } }) ∧
    (∀ (a : Alert) (p : SentPkt), s.hp.alerts = [a] → a.seq = some p.seq → p.seq < 4096 → s.hp.sent = [p] →
      s.hp.waitSend = [] → ∃ t, exec .alertAcknowledged s = .next t ∧ t.hp.alerts = [] ∧ t.hp.sent = [] ∧
        t = { s with hp := t.hp }) ∧
    (s.hp.alerts ≠ [] → s.hp.upSince = none → exec .hostAlertPinUpdate s = .next { s with hp := { s.hp with alertPin := true } }) ∧
    (s.hp.alerts = [] → exec .hostAlertPinUpdate s = .next { s with hp := { s.hp with alertPin := false } }) ∧
    (∀ (r : Report) (rest : List Report), s.reports = r :: rest → s.collector = [] → s.bw.lead.isSome = true → r.page = none →
      r.covered = false → r.cls = .contained → s.hp.alerts.length < 64 → s.hp.state ≠ .up → s.hp.home = none →
      ∃ t a o, exec .faultReport s = .next t ∧ t.reports = rest ∧ t.collector = [] ∧ t.hp.alerts = s.hp.alerts ++ [a] ∧
        a.code = 13 ∧ leAt a.detail 0 1 = r.block % 256 ∧ t.outbox = s.outbox ++ [o] ∧
        t = { s with reports := rest, hp := t.hp, outbox := t.outbox }) ∧
    (∀ (r : Report) (rest : List Report), s.reports = r :: rest → 256 ≤ s.collector.length →
      ∃ t, exec .faultReport s = .next t ∧ t = { s with reports := rest, tally := t.tally })

/-- R488 to R491: a relayed read of a node without a route completes with ABSENT; a target serves a parcel of its latched head and
counts any other; a relayed completion that a request waits for goes to the host; 7.0 µs without one complete the request with TIMEOUT;
the fallback latches the first head. -/
def Obligations.RelayRules : Prop :=
  ∀ s : State,
    (∀ req : List Byte, (transOf req).ok = true → (transOf req).flags = 1 → (transOf req).kind = 1 → s.hp.relayEn = false →
      exec (.relayRequest req) s = .next (s.completeHost none (transOf req).tag .absent [])) ∧
    (∀ req : List Byte, (transOf req).ok = true → (transOf req).flags = 1 → (transOf req).kind = 1 → s.hp.relayEn = true →
      bitOf (s.hp.route (transOf req).node 3) 31 = true →
      ∃ t, exec (.relayRequest req) s = .next t ∧ t.hp.relays = s.hp.relays ++
        [({ tag := (transOf req).tag, node := (transOf req).node, read := true, at_ := s.clock.now } : RelayReq)]) ∧
    (∀ (p : PortIx) (x : Parcel), (s.port p.toNat).arrived = [x] → leAt x.hdr 1 1 = 1 → leAt x.data 0 1 = 1 →
      s.hp.accept = false → s.hp.latch = false →
      ∃ t, exec (.relayParcelReceive p) s = .next t ∧ t = { s with ports := t.ports, tally := t.tally } ∧
        (t.port p.toNat).arrived = []) ∧
    (∀ (p : PortIx) (x : Parcel), (s.port p.toNat).arrived = [x] → leAt x.hdr 1 1 = 1 → leAt x.data 0 1 = 1 →
      s.hp.accept = false → s.hp.latch = true → relayOk x.hdr = true → (transOf (transBytes x.data)).ok = true →
      leAt x.hdr 38 2 < 1024 → (transOf (transBytes x.data)).addr = 2 ^ 29 →
      ∃ t, exec (.relayParcelReceive p) s = .next t ∧ t.hp.accept = true ∧ t.hp.head.toNat = leAt x.hdr 38 2 ∧
        t.hp.latch = false ∧ t.hp.err.w1.getLsbD 31 = true) ∧
    (∀ (p : PortIx) (x : Parcel) (r : RelayReq), (s.port p.toNat).arrived = [x] → leAt x.hdr 1 1 = 1 → leAt x.data 0 1 = 4 →
      s.hp.relays = [r] → r.tag = (transOf (transBytes x.data)).tag → r.node = (transOf (transBytes x.data)).node →
      ∃ t, exec (.relayCompletionReceive p) s = .next t ∧ t.hp.relays = [] ∧ (t.port p.toNat).arrived = []) ∧
    (∀ (tag : BitVec 16) (r : RelayReq), s.hp.relays.find? (fun q => decide (q.tag = tag.toNat)) = some r → s.inTick →
      s.clock.now ≤ r.at_ + 9100 →
      ∃ u : State, u = s.advanceTo (r.at_ + 9100) ∧ u.clock.now = r.at_ + 9100 ∧
        exec (.relayTimeout tag) s =
          .next ({ u with hp := { u.hp with relays := u.hp.relays.erase r } }.completeHost none r.tag .timeout [])) ∧
    (s.hp.fell = false → s.hp.state ≠ .up → s.hp.coldAt + 65000000 ≤ s.clock.now →
      (∀ p, s.portFitted p = true → (s.port p).maxRate.toNat < 5) →
      ∃ t, exec .relayFallback s = .next t ∧ t.hp = { s.hp with fell := true, latch := true } ∧
        t = { s with hp := t.hp, ports := t.ports, free := t.free } ∧
        (∀ p, p < 32 → s.portFitted p = true → (t.port p).en = true))

/-! ## The engines of a mill -/

/-- R79, R650: an ALU operation, a multiply and rbell write their results, ready 1, 3 and 2 cycles after issue; the program counter
moves by 8, the next instruction may issue in the next cycle, and nothing else changes. A shift by 32 or more leaves only its own
register open. An odd destination pair of a multiply stops the engine. -/
def Obligations.StewardResults : Prop :=
  (∀ (m : MillIx) (f : AluFn) (rd : BitVec 5) (a : Src) (b : AluSrc) (s : State), s.due m.toNat .st (.alu (.fn f rd a b)) →
    ∃ t, exec (.stAlu m (.fn f rd a b)) s = .next t ∧
      { s with free := t.free }.sameButEngine t m.toNat .st ∧
      (s.mill m.toNat).st.keeps (t.mill m.toNat).st [rd] ∧ (t.mill m.toNat).st.pc = (s.mill m.toNat).st.pc + 8 ∧
      (t.mill m.toNat).st.nextIssue = s.clock.now + 1 ∧
      Table.get 0 (t.mill m.toNat).st.ready rd.toNat = s.clock.now + 1 ∧
      (∀ v, aluResult f ((s.mill m.toNat).st.src a) ((s.mill m.toNat).st.aluSrc b) = some v →
        (t.mill m.toNat).st.reg rd = v ∧ t.free = s.free)) ∧
  (∀ (m : MillIx) (rd c : BitVec 5) (a b : Src) (s : State), s.due m.toNat .st (.alu (.select rd c a b)) →
    ∃ t, exec (.stAlu m (.select rd c a b)) s = .next t ∧ s.sameButEngine t m.toNat .st ∧
      (s.mill m.toNat).st.keeps (t.mill m.toNat).st [rd] ∧ (t.mill m.toNat).st.pc = (s.mill m.toNat).st.pc + 8 ∧
      (t.mill m.toNat).st.reg rd =
        if (s.mill m.toNat).st.reg c = 0 then (s.mill m.toNat).st.src b else (s.mill m.toNat).st.src a) ∧
  (∀ (m : MillIx) (sgn : Bool) (rd : BitVec 5) (a b : Src) (s : State), s.due m.toNat .st (.mul sgn rd a b) → rd.toNat % 2 = 0 →
    ∃ t, exec (.stMul m sgn rd a b) s = .next t ∧ s.sameButEngine t m.toNat .st ∧
      (s.mill m.toNat).st.keeps (t.mill m.toNat).st [rd, rd + 1] ∧ (t.mill m.toNat).st.pc = (s.mill m.toNat).st.pc + 8 ∧
      Table.get 0 (t.mill m.toNat).st.ready rd.toNat = s.clock.now + 3 ∧
      Table.get 0 (t.mill m.toNat).st.ready (rd + 1).toNat = s.clock.now + 3 ∧
      (sgn = true → ((t.mill m.toNat).st.reg (rd + 1) ++ (t.mill m.toNat).st.reg rd).toInt =
        ((s.mill m.toNat).st.src a).toInt * ((s.mill m.toNat).st.src b).toInt) ∧
      (sgn = false → ((t.mill m.toNat).st.reg (rd + 1) ++ (t.mill m.toNat).st.reg rd).toNat =
        ((s.mill m.toNat).st.src a).toNat * ((s.mill m.toNat).st.src b).toNat)) ∧
  (∀ (m : MillIx) (sgn : Bool) (rd : BitVec 5) (a b : Src) (s : State), s.due m.toNat .st (.mul sgn rd a b) → rd.toNat % 2 = 1 →
    exec (.stMul m sgn rd a b) s = .next (s.engineFault m.toNat .st { status := .mismatch })) ∧
  (∀ (m : MillIx) (rd rc : BitVec 5) (s : State), s.due m.toNat .st (.rbell rd rc) →
    ∃ t, exec (.rbell m rd rc) s = .next t ∧ s.sameButEngine t m.toNat .st ∧
      (s.mill m.toNat).st.keeps (t.mill m.toNat).st [rd, rc] ∧ (t.mill m.toNat).st.pc = (s.mill m.toNat).st.pc + 8 ∧
      (rd ≠ rc → (t.mill m.toNat).st.reg rd = s.clock.tick.truncate 32) ∧
      (t.mill m.toNat).st.reg rc = BitVec.ofNat 32 s.clock.cyc ∧
      Table.get 0 (t.mill m.toNat).st.ready rd.toNat = s.clock.now + 2)

/-- R79, R82, R84, R297, R650: branches, calls and returns set the program counter and issue two cycles on; a stack of 16 or none stops
the engine; post appends an invocation to its engine's queue; the first done is the completion's detail; end ends the invocation; a
posted invocation starts with its arguments at its entry. -/
def Obligations.StewardControlFlow : Prop :=
  (∀ (m : MillIx) (target : Word) (s : State), s.due m.toNat .st (.br none target) →
    ∃ t, exec (.stBranch m none target) s = .next t ∧ s.sameButEngine t m.toNat .st ∧
      (s.mill m.toNat).st.keeps (t.mill m.toNat).st [] ∧ (t.mill m.toNat).st.pc = target ∧
      (t.mill m.toNat).st.nextIssue = s.clock.now + 2) ∧
  (∀ (m : MillIx) (c : Cond) (a b : Src) (target : Word) (s : State), s.due m.toNat .st (.br (some (c, a, b)) target) →
    ∃ t, exec (.stBranch m (some (c, a, b)) target) s = .next t ∧ s.sameButEngine t m.toNat .st ∧
      (s.mill m.toNat).st.keeps (t.mill m.toNat).st [] ∧
      (c.holds ((s.mill m.toNat).st.src a) ((s.mill m.toNat).st.src b) = true →
        (t.mill m.toNat).st.pc = target ∧ (t.mill m.toNat).st.nextIssue = s.clock.now + 2) ∧
      (c.holds ((s.mill m.toNat).st.src a) ((s.mill m.toNat).st.src b) = false →
        (t.mill m.toNat).st.pc = (s.mill m.toNat).st.pc + 8 ∧ (t.mill m.toNat).st.nextIssue = s.clock.now + 1)) ∧
  (∀ (m : MillIx) (target : Word) (s : State), s.due m.toNat .st (.call target) →
    ((s.mill m.toNat).st.stack.length < 16 →
      ∃ t, exec (.stCall m target) s = .next t ∧ s.sameButEngine t m.toNat .st ∧ (t.mill m.toNat).st.pc = target ∧
        (t.mill m.toNat).st.stack = ((s.mill m.toNat).st.pc + 8) :: (s.mill m.toNat).st.stack ∧
        (t.mill m.toNat).st.regs = (s.mill m.toNat).st.regs ∧ (t.mill m.toNat).st.nextIssue = s.clock.now + 2) ∧
    (16 ≤ (s.mill m.toNat).st.stack.length →
      exec (.stCall m target) s = .next (s.engineFault m.toNat .st { status := .mismatch }))) ∧
  (∀ (m : MillIx) (s : State), s.due m.toNat .st .ret →
    (∀ a st, (s.mill m.toNat).st.stack = a :: st →
      ∃ t, exec (.stRet m) s = .next t ∧ s.sameButEngine t m.toNat .st ∧ (t.mill m.toNat).st.pc = a ∧
        (t.mill m.toNat).st.stack = st ∧ (t.mill m.toNat).st.regs = (s.mill m.toNat).st.regs ∧
        (t.mill m.toNat).st.nextIssue = s.clock.now + 2) ∧
    ((s.mill m.toNat).st.stack = [] →
      exec (.stRet m) s = .next (s.engineFault m.toNat .st { status := .mismatch }))) ∧
  (∀ (m : MillIx) (d : Eng) (en : Src) (as : List Src) (s : State), s.due m.toNat .st (.post d en as) →
    (((s.mill m.toNat).eng d).queue.length < 16 →
      ∃ t i, exec (.post m d en as) s = .next t ∧ s.sameButMill t m.toNat ∧
        ((t.mill m.toNat).eng d).queue = ((s.mill m.toNat).eng d).queue ++ [i] ∧ i.entry = (s.mill m.toNat).st.src en ∧
        i.args = as.map (s.mill m.toNat).st.src ∧ i.posted = s.clock.now ∧ i.work = none ∧
        (t.mill m.toNat).st.pc = (s.mill m.toNat).st.pc + 8 ∧
        (∀ e, e ≠ d → e ≠ .st → (t.mill m.toNat).eng e = (s.mill m.toNat).eng e)) ∧
    (16 ≤ ((s.mill m.toNat).eng d).queue.length → (s.mill m.toNat).tilled = false →
      ∃ t, exec (.post m d en as) s = .next t ∧ s.sameButEngine t m.toNat .st ∧
        (t.mill m.toNat).st.held = some (.post d en as) ∧ (t.mill m.toNat).st.pc = (s.mill m.toNat).st.pc)) ∧
  (∀ (m : MillIx) (v : Src) (s : State), s.due m.toNat .st (.done v) →
    ∃ t, exec (.done m v) s = .next t ∧ s.sameButEngine t m.toNat .st ∧
      (t.mill m.toNat).st.done = some ((s.mill m.toNat).st.done.getD ((s.mill m.toNat).st.src v)) ∧
      (t.mill m.toNat).st.pc = (s.mill m.toNat).st.pc + 8) ∧
  (∀ (m : MillIx) (e : Eng) (i : Invocation) (s : State), e ≠ .sv → s.due m.toNat e .endInv →
    ((s.mill m.toNat).eng e).running = some i → i.work = none → ((s.mill m.toNat).eng e).queue = [] →
    (s.mill m.toNat).reshape = none → (s.mill m.toNat).st.held = none → (∀ q ∈ s.qs.queues, q.2.post = false) →
    ∃ t, exec (.endInv m e) s = .next t ∧ s.sameButEngine t m.toNat e ∧ ((t.mill m.toNat).eng e).running = none ∧
      ((t.mill m.toNat).eng e).ended = ((s.mill m.toNat).eng e).ended + 1 ∧ ((t.mill m.toNat).eng e).stack = [] ∧
      ((t.mill m.toNat).eng e).regs = ((s.mill m.toNat).eng e).regs) ∧
  (∀ (m : MillIx) (e : Eng) (i : Invocation) (q : List Invocation) (s : State), s.millLive m.toNat = true →
    (s.mill m.toNat).parity = [] → ((s.mill m.toNat).eng e).queue = i :: q → ((s.mill m.toNat).eng e).running = none →
    ((s.mill m.toNat).eng e).stopped = none → (s.mill m.toNat).stopped = none → (s.mill m.toNat).frozen = false →
    ((s.mill m.toNat).eng e).deferred = none → ((s.mill m.toNat).eng e).nextIssue ≤ s.clock.now → i.posted + 4 ≤ s.clock.now →
    (∀ q ∈ s.qs.queues, q.2.post = false) →
    ∃ t, exec (.invocationStart m e) s = .next t ∧ s.sameButMill t m.toNat ∧
      t.mill m.toNat = { (s.mill m.toNat).setEng e ((t.mill m.toNat).eng e) with worked := true } ∧
      ((t.mill m.toNat).eng e).running = some i ∧ ((t.mill m.toNat).eng e).queue = q ∧
      ((t.mill m.toNat).eng e).args = i.args ∧ ((t.mill m.toNat).eng e).pc = i.entry ∧
      ((t.mill m.toNat).eng e).begun = ((s.mill m.toNat).eng e).begun + 1 ∧
      ((t.mill m.toNat).eng e).regs = ((s.mill m.toNat).eng e).regs)

/-- R92 to R97, R104: sinc puts an increment on its way that leaves the counter as it is for now; swait takes its value off a counter
that holds it, else common mode holds the engine, and the wait ends when the counter holds it; awr and agen feed an address FIFO with
room. -/
def Obligations.SyncAndAddressFifos : Prop :=
  (∀ (m : MillIx) (e : Eng) (c : BitVec 4) (a : Src) (s : State), e ≠ .sv → s.due m.toNat e (.sinc c a) →
    (s.mill m.toNat).reshape = none → 1 ≤ (((s.mill m.toNat).eng e).src a).toNat →
    (((s.mill m.toNat).eng e).src a).toNat ≤ 255 →
    ∃ t, exec (.sinc m e c a) s = .next t ∧ s.sameButMill t m.toNat ∧ (t.mill m.toNat).sync = (s.mill m.toNat).sync ∧
      (t.mill m.toNat).incs = (s.mill m.toNat).incs ++
        [{ at_ := s.clock.now, counter := c.toNat, amount := (((s.mill m.toNat).eng e).src a).toNat, eng := e }] ∧
      ((t.mill m.toNat).eng e).pc = ((s.mill m.toNat).eng e).pc + 8) ∧
  (∀ (m : MillIx) (e : Eng) (c : BitVec 4) (a : Src) (s : State), e ≠ .sv → s.due m.toNat e (.sinc c a) →
    (s.mill m.toNat).reshape = none →
    ((((s.mill m.toNat).eng e).src a).toNat = 0 ∨ 255 < (((s.mill m.toNat).eng e).src a).toNat) →
    exec (.sinc m e c a) s = .next (s.engineFault m.toNat e { status := .mismatch })) ∧
  (∀ (m : MillIx) (e : Eng) (c : BitVec 4) (v : Src) (s : State), e ≠ .sv → s.due m.toNat e (.swait c v) →
    (s.mill m.toNat).reshape = none → (s.mill m.toNat).portLate s.clock.now [waitKey c.toNat] e.num = false →
    ((((s.mill m.toNat).eng e).src v).toNat ≤ (s.mill m.toNat).cnt c.toNat →
      ∃ t, exec (.swait m e c v) s = .next t ∧ s.sameButMill t m.toNat ∧
        (t.mill m.toNat).cnt c.toNat = (s.mill m.toNat).cnt c.toNat - (((s.mill m.toNat).eng e).src v).toNat ∧
        (∀ k, k ≠ c.toNat → (t.mill m.toNat).cnt k = (s.mill m.toNat).cnt k) ∧
        ((t.mill m.toNat).eng e).pc = ((s.mill m.toNat).eng e).pc + 8) ∧
    ((s.mill m.toNat).cnt c.toNat < (((s.mill m.toNat).eng e).src v).toNat → (s.mill m.toNat).tilled = false →
      ∃ t, exec (.swait m e c v) s = .next t ∧ s.sameButEngine t m.toNat e ∧
        ((t.mill m.toNat).eng e).held = some (.swait c v) ∧ ((t.mill m.toNat).eng e).pc = ((s.mill m.toNat).eng e).pc)) ∧
  (∀ (m : MillIx) (e : Eng) (c : BitVec 4) (v : Src) (s : State), e ≠ .sv → s.holds m.toNat e (.swait c v) →
    (s.mill m.toNat).reshape = none → (s.mill m.toNat).portLate s.clock.now [waitKey c.toNat] e.num = false →
    (((s.mill m.toNat).eng e).src v).toNat ≤ (s.mill m.toNat).cnt c.toNat →
    ∃ t, exec (.swaitSatisfied m e) s = .next t ∧ s.sameButMill t m.toNat ∧ ((t.mill m.toNat).eng e).held = none ∧
      (t.mill m.toNat).cnt c.toNat = (s.mill m.toNat).cnt c.toNat - (((s.mill m.toNat).eng e).src v).toNat ∧
      ((t.mill m.toNat).eng e).pc = ((s.mill m.toNat).eng e).pc + 8) ∧
  (∀ (m : MillIx) (f : Af) (v : Src) (s : State), ((s.mill m.toNat).fifo f).words.length < 64 →
    (s.due m.toNat .st (.awr f v) →
      ∃ t, exec (.awr m f v) s = .next t ∧ s.sameButMill t m.toNat ∧ ((t.mill m.toNat).fifo f).words =
        ((s.mill m.toNat).fifo f).words ++ [(s.clock.now + 3, (s.mill m.toNat).st.src v)] ∧
        (∀ k, k ≠ f → (t.mill m.toNat).fifo k = (s.mill m.toNat).fifo k) ∧
        (t.mill m.toNat).st.pc = (s.mill m.toNat).st.pc + 8) ∧
    (s.holds m.toNat .st (.awr f v) →
      ∃ t, exec (.addressFifoWaitEnds m .st) s = .next t ∧ s.sameButMill t m.toNat ∧ (t.mill m.toNat).st.held = none ∧
        ((t.mill m.toNat).fifo f).words =
          ((s.mill m.toNat).fifo f).words ++ [(s.clock.now + 3, (s.mill m.toNat).st.src v)])) ∧
  (∀ (m : MillIx) (f : Af) (v : Src) (s : State), 64 ≤ ((s.mill m.toNat).fifo f).words.length →
    s.due m.toNat .st (.awr f v) → (s.mill m.toNat).tilled = false →
    ∃ t, exec (.awr m f v) s = .next t ∧ s.sameButEngine t m.toNat .st ∧ (t.mill m.toNat).st.held = some (.awr f v)) ∧
  (∀ (m : MillIx) (f : Af) (a : AgenArgs) (s : State), ((s.mill m.toNat).fifo f).words.length < 64 →
    ((s.mill m.toNat).fifo f).agen = none → 0 < agenTotal a.dims → s.due m.toNat .st (.agen f a) →
    ∃ t, exec (.agen m f a) s = .next t ∧ s.sameButMill t m.toNat ∧ (t.mill m.toNat).fifo f =
      { words := ((s.mill m.toNat).fifo f).words
        agen := some { base := (s.mill m.toNat).st.src a.base, dims := a.dims, idx := 0, total := agenTotal a.dims
                       next := s.clock.now + 3 } } ∧
      (t.mill m.toNat).st.pc = (s.mill m.toNat).st.pc + 8)

/-- R85, R86, R102, R104: ldl reads the loft's little-endian bytes into its register, ready six cycles on, and changes no byte of
memory; stl sends its register's bytes on their way to land two cycles on, and they land at the end of their cycle, on those bytes and
no others. A held load goes when its hazard has passed. -/
def Obligations.LoftAccesses : Prop :=
  (∀ (m : MillIx) (rd : BitVec 5) (b : Src) (off : Word) (w : Bool) (s : State),
    (s.mill m.toNat).st.loftAddr b off + (if w then 8 else 4) ≤ 2 ^ 20 →
    (∀ r ∈ loftRes ((s.mill m.toNat).st.loftAddr b off) (if w then 8 else 4),
      (s.mill m.toNat).mark r = {}) →
    (s.mill m.toNat).portLost s.clock.now (loftKeys ((s.mill m.toNat).st.loftAddr b off) (if w then 8 else 4) false)
      (portRankOf .st) = false →
    (s.mill m.toNat).portLate s.clock.now (loftKeys ((s.mill m.toNat).st.loftAddr b off) (if w then 8 else 4) false)
      (portRankOf .st) = false →
    s.badIn (loftCell m.toNat ((s.mill m.toNat).st.loftAddr b off)) (if w then 8 else 4) = false → s.soft = [] →
    (s.due m.toNat .st (.ldl rd b off w) →
      ∃ t, exec (.ldl m rd b off w) s = .next t ∧ s.sameButMill t m.toNat ∧
        (s.mill m.toNat).st.keeps (t.mill m.toNat).st (if w then [rd, rd + 1] else [rd]) ∧
        (t.mill m.toNat).st.reg rd =
          BitVec.ofNat 32 (leNat (Memory.readN s.mem (loftCell m.toNat ((s.mill m.toNat).st.loftAddr b off)) 4)) ∧
        (w = true → (t.mill m.toNat).st.reg (rd + 1) =
          BitVec.ofNat 32 (leNat (Memory.readN s.mem (loftCell m.toNat ((s.mill m.toNat).st.loftAddr b off) + 4) 4))) ∧
        Table.get 0 (t.mill m.toNat).st.ready rd.toNat = s.clock.now + 6 ∧
        (t.mill m.toNat).st.pc = (s.mill m.toNat).st.pc + 8) ∧
    (s.holds m.toNat .st (.ldl rd b off w) →
      ∃ t, exec (.hazardInterlockIssue m .st) s = .next t ∧ s.sameButMill t m.toNat ∧ (t.mill m.toNat).st.held = none ∧
        (t.mill m.toNat).st.reg rd =
          BitVec.ofNat 32 (leNat (Memory.readN s.mem (loftCell m.toNat ((s.mill m.toNat).st.loftAddr b off)) 4)))) ∧
  (∀ (m : MillIx) (rs : BitVec 5) (b : Src) (off : Word) (w : Bool) (s : State),
    (s.mill m.toNat).st.loftAddr b off + (if w then 8 else 4) ≤ 2 ^ 20 →
    (∀ r ∈ loftRes ((s.mill m.toNat).st.loftAddr b off) (if w then 8 else 4), (s.mill m.toNat).mark r = {}) →
    s.due m.toNat .st (.stl rs b off w) →
    ∃ t, exec (.stl m rs b off w) s = .next t ∧ s.sameButMill t m.toNat ∧
      (s.mill m.toNat).st.keeps (t.mill m.toNat).st [] ∧
      (t.mill m.toNat).lands = (s.mill m.toNat).lands ++ [(s.clock.now + 2, .loft ((s.mill m.toNat).st.loftAddr b off)
        (toLe 4 ((s.mill m.toNat).st.reg rs).toNat ++
          (if w then toLe 4 ((s.mill m.toNat).st.reg (rs + 1)).toNat else [])) .st)] ∧
      (∀ r ∈ loftRes ((s.mill m.toNat).st.loftAddr b off) (if w then 8 else 4),
        (t.mill m.toNat).mark r = { ready := s.clock.now + 2 }) ∧
      (t.mill m.toNat).st.pc = (s.mill m.toNat).st.pc + 8) ∧
  (∀ (m : MillIx) (b : Src) (off : Word) (w : Bool) (r : BitVec 5) (s : State),
    2 ^ 20 < (s.mill m.toNat).st.loftAddr b off + (if w then 8 else 4) →
    (s.due m.toNat .st (.ldl r b off w) →
      exec (.ldl m r b off w) s = .next (s.engineFault m.toNat .st { status := .mismatch })) ∧
    (s.due m.toNat .st (.stl r b off w) →
      exec (.stl m r b off w) s = .next (s.engineFault m.toNat .st { status := .mismatch }))) ∧
  (∀ (m off c : Nat) (bs : List Byte) (e : Eng) (s : State), s.narrowBad (loftCell m off) bs.length = false →
    s.land m c (.loft off bs e) = { s with
      mem := (s.land m c (.loft off bs e)).mem, bad := (s.land m c (.loft off bs e)).bad, soft := (s.land m c (.loft off bs e)).soft } ∧
    (∀ i, i < bs.length → Memory.read (s.land m c (.loft off bs e)).mem (loftCell m off + i) = bs.getD i 0) ∧
    (∀ a, (a < loftCell m off ∨ loftCell m off + bs.length ≤ a) →
      Memory.read (s.land m c (.loft off bs e)).mem a = Memory.read s.mem a))

/-- R57 to R60, R64, R65, R71, R89, R102: a load puts its operand on the yoke and busies it for 4R cycles; mmr and mmc enter flight
with the yoke busy for one cycle a group and their results landing 4R + 5 (4C + 5) cycles behind; their points come at the cycles R89
names; a row that self-test finds failing is replaced. -/
def Obligations.MatrixEngine : Prop :=
  (∀ (m : MillIx) (a : LdsArgs) (s : State), s.due m.toNat .mx (.lds a) → ldsForm (s.mill m.toNat) a = true →
    (s.mill m.toNat).mxGate (s.mill m.toNat).mx s.clock.now (.lds a) = .go →
    ∃ t, exec (.lds m a) s = .next t ∧ s.sameButMill t m.toNat ∧
      (t.mill m.toNat).loads = (s.mill m.toNat).loads ++ [{ args := a, issue := s.clock.now }] ∧
      (t.mill m.toNat).tiles = (s.mill m.toNat).tiles ∧
      (∀ q ∈ a.yoke.querns, (t.mill m.toNat).quern q =
        { stream := s.clock.now + 4 * a.yoke.shape.r
          drain := max ((s.mill m.toNat).quern q).drain (s.clock.now + 4 * a.yoke.shape.r), load := some a.yoke.key }) ∧
      (t.mill m.toNat).mx.pc = (s.mill m.toNat).mx.pc + 8) ∧
  (∀ (m c : Nat) (l : LoadFlight) (s : State), l.issue + l.row ≤ c → s.bad = [] →
    ∃ t, s.loadRow m c l = (if l.row + 1 < 4 * l.args.yoke.shape.r then some { l with row := l.row + 1 } else none, t) ∧
      s.sameButMill t m ∧
      (∀ i ∈ rowElems l.args.yoke l.args.fmt l.row, ∀ j, j < l.args.yoke.n →
        Table.get 0 (Table.get {} (t.mill m).tiles l.args.yoke.key).codes (i * 32 + j) =
          s.loftBits m (8 * l.args.src.base + i * l.args.src.rowBits + j * l.args.src.elemBits) l.args.fmt.bits) ∧
      (∀ k, k ≠ l.args.yoke.key → Table.get {} (t.mill m).tiles k = Table.get {} (s.mill m).tiles k)) ∧
  (∀ (m : MillIx) (col : Bool) (a : MmArgs) (s : State), s.due m.toNat .mx (.mm col a) →
    mmForm (s.mill m.toNat) (s.mill m.toNat).mx col a = true →
    (s.mill m.toNat).mxGate (s.mill m.toNat).mx s.clock.now (.mm col a) = .go →
    ∃ t f, exec (if col then .mmc m a else .mmr m a) s = .next t ∧ s.sameButMill t m.toNat ∧
      (t.mill m.toNat).flights = (s.mill m.toNat).flights ++ [f] ∧ f.col = col ∧ f.args = a ∧ f.issue = s.clock.now ∧
      f.entered = 0 ∧ f.tile = Table.get {} (s.mill m.toNat).tiles a.yoke.key ∧
      (t.mill m.toNat).tiles = (s.mill m.toNat).tiles ∧
      (∀ q ∈ a.yoke.querns, (t.mill m.toNat).quern q =
        { stream := s.clock.now + a.groups
          drain := max ((s.mill m.toNat).quern q).drain (s.clock.now + yokeLatency a.yoke col + a.groups), col := col }) ∧
      (∀ r ∈ dstRes a.dst (4 * a.rows * mmWidth col a),
        s.clock.now + yokeLatency a.yoke col + a.groups - 1 ≤ ((t.mill m.toNat).mark r).ready) ∧
      (t.mill m.toNat).mx.pc = (s.mill m.toNat).mx.pc + 8) ∧
  (∀ (m : MillIx) (col : Bool) (a : MmArgs) (s : State), s.due m.toNat .mx (.mm col a) →
    mmForm (s.mill m.toNat) (s.mill m.toNat).mx col a = false →
    exec (if col then .mmc m a else .mmr m a) s = .next (s.engineFault m.toNat .mx { status := .mismatch })) ∧
  (∀ (m : MillIx) (y : Yoke) (f : YokeFlight) (s : State), (s.mill m.toNat).frozen = false →
    ((s.mill m.toNat).flightOf y false = some f →
      exec (.yokeReadPoint m y) s = .next (s.advanceTo (f.issue + f.waits + f.args.groups + 1))) ∧
    ((s.mill m.toNat).flightOf y true = some f →
      exec (.yokeWritePoint m y) s =
        .next (s.advanceTo (f.issue + f.waits + yokeLatency y f.col + f.args.groups + 1)))) ∧
  (∀ (m : Nat) (y : YokeFlight) (i : Inc) (s : State), y.entered = y.args.groups → y.readDone = false →
    y.args.readInc = some i →
    ((s.flightIncs m (y.issue + y.waits + y.args.groups) y false).2.mill m).incs = (s.mill m).incs ++
      [{ at_ := y.issue + y.waits + y.args.groups, counter := i.counter.toNat, amount := y.readAmt, eng := .mx }]) ∧
  (∀ (m : MillIx) (p : Partition) (s : State), s.due m.toNat .mx (.rshp p) →
    (p.legal = true → (s.mill m.toNat).reshape = none →
      ∃ t, exec (.rshp m p) s = .next t ∧ s.sameButMill t m.toNat ∧ (t.mill m.toNat).reshape = some p ∧
        (t.mill m.toNat).part = (s.mill m.toNat).part ∧ (t.mill m.toNat).mx.pc = (s.mill m.toNat).mx.pc + 8) ∧
    (p.legal = false → exec (.rshp m p) s = .next (s.engineFault m.toNat .mx { status := .mismatch }))) ∧
  (∀ (m : MillIx) (q : BitVec 5) (r : BitVec 3) (s : State), s.millLive m.toNat = true → s.idleFor m.toNat 4 = true →
    s.bw.lead.isSome = true → r.toNat < 4 → ((s.mill m.toNat).spare q.toNat).used = false → s.hp.alerts.length < 64 →
    ∃ t, exec (.quernSelfTest m [(q, r)]) s = .next t ∧
      (t.mill m.toNat).spare q.toNat = { used := true, row := r.truncate 2 } ∧ (t.mill m.toNat).arith.getLsbD 3 = true ∧
      t.ident.qsub = s.ident.qsub + 1 ∧ t.ident.gen = s.ident.gen + 1 ∧ (t.mill m.toNat).oos = (s.mill m.toNat).oos ∧
      t.hp.alerts.length = s.hp.alerts.length + 1 ∧ t.mem = s.mem)

/-- R121, R125, R128, R130 to R133, R649: a bundle of sound form that meets no hazard issues: what it computes and moves is on its way
to its registers and stores, and control flow moves on; a bundle of bad form stops the sieve; a bundle that was held issues when its
hold has passed. A scalar result is on its way, to land in its register in its cycle; a branch takes effect behind two delay slots; a
repeat starts its body; the stop that waits for an accepted point halts the sieve there. -/
def Obligations.SieveBundles : Prop :=
  (∀ (m : MillIx) (f : XopFn) (d : BitVec 3) (a b : ESrc) (s : State),
    s.due m.toNat .sv (.bundle { op := .xop f d a b, moves := [] }) → s.stopDue m.toNat = none →
    ∃ t, exec (.svBundle m { op := .xop f d a b, moves := [] }) s = .next t ∧ s.sameButMill t m.toNat ∧
      (t.mill m.toNat).lands = (s.mill m.toNat).lands ++ [(s.clock.now + 1, .e d.toNat
        (xopFn f (eSrc (s.mill m.toNat).sieve (s.mill m.toNat).sv.args a)
          (eSrc (s.mill m.toNat).sieve (s.mill m.toNat).sv.args b)))] ∧
      (t.mill m.toNat).sieve.e = (s.mill m.toNat).sieve.e ∧
      ((s.mill m.toNat).sieve.rpt = none → (s.mill m.toNat).sieve.delay = none →
        (t.mill m.toNat).sv.pc = (s.mill m.toNat).sv.pc + 8) ∧
      (∀ target, (s.mill m.toNat).sieve.rpt = none → (s.mill m.toNat).sieve.delay = some { left := 1, target := some target } →
        (t.mill m.toNat).sv.pc = target ∧ (t.mill m.toNat).sieve.delay = none) ∧
      (∀ r, (s.mill m.toNat).sieve.rpt = some r → r.pos + 1 = r.body → 1 < r.left →
        (t.mill m.toNat).sv.pc = r.start ∧ (t.mill m.toNat).sieve.rpt = some { r with pos := 0, left := r.left - 1, cached := true })) ∧
  (∀ (m : MillIx) (b : Bundle) (s : State), s.due m.toNat .sv (.bundle b) → s.stopDue m.toNat = none →
    s.bundleForm m.toNat b = true → (s.mill m.toNat).bundleGate s.clock.now b = .go →
    (∀ c v, b.op = .swait c v → (s.mill m.toNat).portLate s.clock.now [waitKey c.toNat] Eng.sv.num = false) →
    (s.mill m.toNat).portLost s.clock.now (bundleKeys (bundleAccs (s.mill m.toNat).sieve b)) (portRankOf .sv) = false →
    (s.mill m.toNat).portLate s.clock.now (bundleKeys (bundleAccs (s.mill m.toNat).sieve b)) (portRankOf .sv) = false →
    s.bundleBad m.toNat (bundleAccs (s.mill m.toNat).sieve b) = none → b.op ≠ .endInv →
    ∃ t, exec (.svBundle m b) s = .next t ∧ s.sameButMill t m.toNat ∧
      (t.mill m.toNat).lands = (s.mill m.toNat).lands ++ s.bundleLands m.toNat s.clock.now b ∧
      (t.mill m.toNat).sieve =
        ((s.mill m.toNat).sieve.flow (s.mill m.toNat).sv.args (s.mill m.toNat).sv.pc b.op).1 ∧
      (t.mill m.toNat).sv.pc = ((s.mill m.toNat).sieve.flow (s.mill m.toNat).sv.args (s.mill m.toNat).sv.pc b.op).2 ∧
      (t.mill m.toNat).sv.nextIssue = s.clock.now + 1) ∧
  (∀ (m : MillIx) (b : Bundle) (s : State), s.holds m.toNat .sv (.bundle b) → s.stopDue m.toNat = none →
    s.bundleForm m.toNat b = true → (s.mill m.toNat).bundleGate s.clock.now b = .go →
    (∀ c v, b.op = .swait c v → (s.mill m.toNat).portLate s.clock.now [waitKey c.toNat] Eng.sv.num = false) →
    (s.mill m.toNat).portLost s.clock.now (bundleKeys (bundleAccs (s.mill m.toNat).sieve b)) (portRankOf .sv) = false →
    (s.mill m.toNat).portLate s.clock.now (bundleKeys (bundleAccs (s.mill m.toNat).sieve b)) (portRankOf .sv) = false →
    s.bundleBad m.toNat (bundleAccs (s.mill m.toNat).sieve b) = none → b.op ≠ .endInv →
    ∃ t, exec (.outputFifoHoldEnds m) s = .next t ∧ exec (.hazardInterlockIssue m .sv) s = .next t ∧
      (∀ c v, b.op = .swait c v → exec (.swaitSatisfied m .sv) s = .next t) ∧ s.sameButMill t m.toNat ∧
      (t.mill m.toNat).sv.held = none ∧
      (t.mill m.toNat).lands = (s.mill m.toNat).lands ++ s.bundleLands m.toNat s.clock.now b ∧
      (t.mill m.toNat).sieve =
        ((s.mill m.toNat).sieve.flow (s.mill m.toNat).sv.args (s.mill m.toNat).sv.pc b.op).1 ∧
      (t.mill m.toNat).sv.pc = ((s.mill m.toNat).sieve.flow (s.mill m.toNat).sv.args (s.mill m.toNat).sv.pc b.op).2 ∧
      (t.mill m.toNat).sv.nextIssue = s.clock.now + 1) ∧
  (∀ (m : MillIx) (b : Bundle) (s : State), s.due m.toNat .sv (.bundle b) → s.stopDue m.toNat = none →
    s.bundleForm m.toNat b = false → exec (.svBundle m b) s = .next (s.engineFault m.toNat .sv { status := .mismatch })) ∧
  (∀ (m : MillIx) (c : BitVec 4) (a : Src) (s : State),
    exec (.sinc m .sv c a) s = exec (.svBundle m { op := .sinc c (sieveSource a), moves := [] }) s ∧
    exec (.swait m .sv c a) s = exec (.svBundle m { op := .swait c (sieveSource a), moves := [] }) s) ∧
  (∀ (m : MillIx) (i : Invocation) (s : State), s.due m.toNat .sv (.bundle { op := .endInv, moves := [] }) →
    s.stopDue m.toNat = none → (s.mill m.toNat).sieve.rpt = none → (s.mill m.toNat).sieve.delay = none →
    (s.mill m.toNat).sv.running = some i → i.work = none → (s.mill m.toNat).sv.queue = [] → (s.mill m.toNat).st.held = none →
    (∀ q ∈ s.qs.queues, q.2.post = false) →
    ∃ t, exec (.endInv m .sv) s = .next t ∧ s.sameButMill t m.toNat ∧ (t.mill m.toNat).sv.running = none ∧
      (t.mill m.toNat).sv.ended = (s.mill m.toNat).sv.ended + 1 ∧ (t.mill m.toNat).sv.stack = [] ∧
      (t.mill m.toNat).sv.regs = (s.mill m.toNat).sv.regs) ∧
  (∀ (m : MillIx) (target : Word) (s : State), s.due m.toNat .sv (.bundle { op := .br target, moves := [] }) →
    s.stopDue m.toNat = none → (s.mill m.toNat).sieve.rpt = none → (s.mill m.toNat).sieve.delay = none →
    ∃ t, exec (.svBundle m { op := .br target, moves := [] }) s = .next t ∧ s.sameButMill t m.toNat ∧
      (t.mill m.toNat).sieve.delay = some { left := 2, target := some target } ∧
      (t.mill m.toNat).sv.pc = (s.mill m.toNat).sv.pc + 8) ∧
  (∀ (v : Sieve) (k : Nat) (x : BitVec 16), Table.get 0 (v.land (.e k x)).e k = x) ∧
  (∀ (m : MillIx) (at_ : Nat) (r : StopReq) (s : State), (s.mill m.toNat).sieve.req = some (at_, r) →
    (s.mill m.toNat).sieve.accepted (s.mill m.toNat).sv.fifoHeld = true → at_ + 1 ≤ s.clock.now →
    ∃ t, exec (.stopRequestAccepted m) s = .next t ∧ (t.mill m.toNat).sieve.req = none ∧
      (t.mill m.toNat).sv.regs = (s.mill m.toNat).sv.regs ∧
      (∀ why bp, r = .halt why bp → s.sameButMill t m.toNat ∧ (t.mill m.toNat).sv.dbg.halt = .halted ∧
        (t.mill m.toNat).sv.dbg.why = BitVec.ofNat 2 why ∧ (t.mill m.toNat).sv.pc = (s.mill m.toNat).sv.pc) ∧
      (r = .withdraw → (t.mill m.toNat).sv.running = none ∧
        (∀ i, (s.mill m.toNat).sv.running = some i →
          (t.mill m.toNat).sv.ended = (s.mill m.toNat).sv.ended + 1)) ∧
      (r = .mill → s.sameButMill t m.toNat ∧ (t.mill m.toNat).sv.held = none))

/-- R90, R102, R263, R275, R281, R567: strm and mov take the first free slot of their carter, or hold the engine until one is free;
ctake brings the cart at the head of a ring into four registers, ready four cycles on, and moves the head; cput sends four registers to
a ring, visible four cycles on; an empty ring holds the engine until a cart is there; the patrol corrects a line of the loft. -/
def Obligations.CarterOperations : Prop :=
  (∀ (m : MillIx) (c : Carter) (l : StreamAddr) (k : Nat) (s : State), listOk l.toNat = true →
    (s.mill m.toNat).listSlot c l.toNat = none → (s.mill m.toNat).freeSlot c = some k →
    (s.due m.toNat c.eng (.strm l none) →
      ∃ t x, exec (.strm m c l none) s = .next t ∧ s.sameButMill t m.toNat ∧ (t.mill m.toNat).slot k = some x ∧
        x.work = .stream l.toNat ∧ x.asked = true ∧ x.descs = [] ∧ x.start = s.clock.now ∧
        (∀ j, j ≠ k → (t.mill m.toNat).slot j = (s.mill m.toNat).slot j) ∧
        (Table.get {} (t.mill m.toNat).ssr k).desc = l.toNat ∧ (Table.get {} (t.mill m.toNat).ssr k).state = 1 ∧
        ((t.mill m.toNat).eng c.eng).pc = ((s.mill m.toNat).eng c.eng).pc + 8) ∧
    (s.holds m.toNat c.eng (.strm l none) →
      ∃ t x, exec (.carterSlotFree m c) s = .next t ∧ s.sameButMill t m.toNat ∧ (t.mill m.toNat).slot k = some x ∧
        x.work = .stream l.toNat ∧ ((t.mill m.toNat).eng c.eng).held = none)) ∧
  (∀ (m : MillIx) (c : Carter) (l : StreamAddr) (s : State), s.due m.toNat c.eng (.strm l none) →
    (listOk l.toNat = false →
      exec (.strm m c l none) s = .next (s.engineFault m.toNat c.eng { status := .mismatch })) ∧
    (listOk l.toNat = true → (s.mill m.toNat).listSlot c l.toNat = none → (s.mill m.toNat).freeSlot c = none →
      (s.mill m.toNat).tilled = false →
      ∃ t, exec (.strm m c l none) s = .next t ∧ s.sameButEngine t m.toNat c.eng ∧
        ((t.mill m.toNat).eng c.eng).held = some (.strm l none))) ∧
  (∀ (m : MillIx) (c : Carter) (a : MovArgs) (k : Nat) (s : State), a.afifo = false → a.inc = none → movForm a = true →
    (∀ r ∈ movRes a.src a.len ++ movRes a.dst a.len, (s.mill m.toNat).mark r = {}) →
    (s.mill m.toNat).freeSlot c = some k → s.due m.toNat c.eng (.mov a) →
    ∃ t x, exec (.mov m c a) s = .next t ∧ s.sameButMill t m.toNat ∧ (t.mill m.toNat).slot k = some x ∧
      x.work = .move a ∧ x.start = s.clock.now ∧ (∀ j, j ≠ k → (t.mill m.toNat).slot j = (s.mill m.toNat).slot j) ∧
      (∀ r ∈ movRes a.dst a.len, 0 < ((t.mill m.toNat).mark r).pending) ∧
      (∀ r ∈ movRes a.src a.len, 0 < ((t.mill m.toNat).mark r).reading) ∧
      ((t.mill m.toNat).eng c.eng).pc = ((s.mill m.toNat).eng c.eng).pc + 8) ∧
  (∀ (w : Who) (a n : Nat) (s : State), field a 44 4 = 1 → s.millLive (addrMill a) = true → a % 2 ^ 20 + n ≤ 2 ^ 20 →
    s.bad = [] → s.soft = [] →
    s.streamRead w a n = (.ok (some (Memory.readN s.mem (loftCell (addrMill a) (a % 2 ^ 20)) n)), s)) ∧
  (∀ (m : MillIx) (e : Eng) (q : QueueIx) (rd : BitVec 5) (b : List Byte) (s : State), (e = .st ∨ e = .ca ∨ e = .cb) →
    rd.toNat + 4 ≤ engRegs e → s.canTake q.toNat = .ok → (s.queue q.toNat).countsOk = true →
    s.streamRead (.queue (queueDie q.toNat))
      ((s.queue q.toNat).base + 16 * ((s.queue q.toNat).head.v.toNat % (s.queue q.toNat).size)) 16 = (.ok (some b), s) →
    (s.due m.toNat e (.ctake q rd) →
      ∃ t, exec (.ctake m e q rd) s = .next t ∧ { s with qs := t.qs }.sameButMill t m.toNat ∧
        t.queue q.toNat =
          { s.queue q.toNat with head := Count.mk' ((s.queue q.toNat).head.v + 1) } ∧
        (∀ k, k ≠ q.toNat → t.queue k = s.queue k) ∧
        (∀ i, i < 4 → ((t.mill m.toNat).eng e).reg (rd + BitVec.ofNat 5 i) = BitVec.ofNat 32 (leAt b (4 * i) 4)) ∧
        Table.get 0 ((t.mill m.toNat).eng e).ready rd.toNat = s.clock.now + 4 ∧
        ((t.mill m.toNat).eng e).pc = ((s.mill m.toNat).eng e).pc + 8) ∧
    (s.holds m.toNat e (.ctake q rd) →
      ∃ t, exec (.cartRingWaitEnds m e) s = .next t ∧ { s with qs := t.qs }.sameButMill t m.toNat ∧
        ((t.mill m.toNat).eng e).held = none ∧
        ((t.mill m.toNat).eng e).reg rd = BitVec.ofNat 32 (leAt b 0 4))) ∧
  (∀ (m : MillIx) (e : Eng) (q : QueueIx) (rd : BitVec 5) (s : State), (e = .st ∨ e = .ca ∨ e = .cb) → rd.toNat + 4 ≤ engRegs e →
    s.due m.toNat e (.ctake q rd) → (s.mill m.toNat).tilled = false → s.canTake q.toNat = .wait →
    ∃ t, exec (.ctake m e q rd) s = .next t ∧ s.sameButEngine t m.toNat e ∧
      ((t.mill m.toNat).eng e).held = some (.ctake q rd)) ∧
  (∀ (m : MillIx) (e : Eng) (q : QueueIx) (rs : BitVec 5) (s : State), (e = .st ∨ e = .ca ∨ e = .cb) → rs.toNat + 4 ≤ engRegs e →
    s.due m.toNat e (.cput q rs) → s.canPut q.toNat = .ok →
    s.ringAbsent q.toNat = false →
    (s.ringLocal m.toNat q.toNat = true ∨ field (s.queue q.toNat).base 44 4 = 1) →
    ∃ t f, exec (.cput m e q rs) s = .next t ∧ { s with qs := t.qs, outbox := t.outbox }.sameButMill t m.toNat ∧
      t.qs = { s.qs with flights := s.qs.flights ++ [f] } ∧ f.ring = q.toNat ∧ f.at_ = s.clock.now + 4 ∧
      f.cart = putForm (s.queue q.toNat) (((s.mill m.toNat).eng e).cartRegs rs) ∧
      ((t.mill m.toNat).eng e).pc = ((s.mill m.toNat).eng e).pc + 8 ∧
      (s.ringLocal m.toNat q.toNat = true → t.outbox = s.outbox) ∧
      (s.ringLocal m.toNat q.toNat = false → ∃ o, t.outbox = s.outbox ++ [o] ∧ o.kind = .injected ∧
        o.data.drop 16 = padTo 128 (f.cart.take 16))) ∧
  (∀ (m : MillIx) (s : State), s.millLive m.toNat = true → (s.mill m.toNat).patrolNext ≤ s.clock.now → s.bad = [] →
    (∀ k, (s.mill m.toNat).portUser s.clock.now k = none) →
    ∃ t, exec (.loftPatrol m) s = .next t ∧ { s with soft := t.soft }.sameButMill t m.toNat ∧
      (t.mill m.toNat).patrolLine = ((s.mill m.toNat).patrolLine + 1) % 2048 ∧
      (t.mill m.toNat).patrolNext = s.clock.now + 16 ∧
      (∀ w ∈ patrolWords m.toNat (s.mill m.toNat).patrolLine, Table.get false t.soft w = false) ∧
      (∀ w, w ∉ patrolWords m.toNat (s.mill m.toNat).patrolLine → Table.get false t.soft w = Table.get false s.soft w))

/-! ## The bell and the crossings -/

/-- R158, R159, R167, R170 to R174, R176, R178, R179: the bell reaches the next tick at its cycle 0; a bell frame that fails a check is
dropped, one that asks is answered with the next frame, an answer gives the hop; a marker makes a calibrating follower jump, keeps the
lock that it meets, and puts a follower that it does not meet into holdover, as four that are missing do; BELL_CTL sets the role and
relocks unless a group is held; BELL_NOW is captured; a lost reference is holdover. -/
def Obligations.BellRules : Prop :=
  (∀ s : State, s.inTick →
    ∃ t, exec .bellTick s = .next t ∧ t.clock.tick = s.clock.tick + 1 ∧ t.clock.cyc = 0 ∧
      t.clock.now = s.clock.now + (1248 - s.clock.cyc) ∧ exec .bellTick s = .next (s.advanceTo (s.clock.now + (1248 - s.clock.cyc))) ∧
      (s.still = true → t = { s with clock := t.clock, tally := t.tally, bell := t.bell, outbox := t.outbox
                                     pwr := { s.pwr with fresh := [] }, mills := t.mills } ∧
        ((s.clock.tick + 1).toNat % 65536 ≠ 0 → t.mills = s.mills) ∧ t.bell.seen = false ∧
        (s.bell.state = .calibrating → ∀ k, s.bell.lockNext = some k →
          t.bell.state = .locked ∧ t.bell.depth = BitVec.ofNat 8 (s.bell.upDepth + 1) ∧ t.bell.missed = 0) ∧
        (s.bell.state ≠ .calibrating → t.bell.state = s.bell.state ∧
          t.bell.missed = if s.bell.follows && !s.bell.seen then s.bell.missed + 1 else s.bell.missed))) ∧
  (∀ s : State, s.bell.state = .calibrating → s.bell.lockNext.isSome = true → exec .bellLocked s = exec .bellTick s) ∧
  (∀ (p : PortIx) (f : List Byte) (s : State), s.portUp p.toNat = false → exec (.bellFrameReceive p f) s = .next s) ∧
  (∀ (p : PortIx) (f : List Byte) (s : State), s.portUp p.toNat = true → f.length = 64 →
    (leAt f 8 8 ≠ 2 ^ 64 - 1 - leAt f 0 8 ∨ leAt f 18 2 ≠ s.bell.tag.toNat ∨ (leAt f 16 1 ≠ 1 ∧ leAt f 16 1 ≠ 2)) →
    ∃ t, exec (.bellFrameReceive p f) s = .next t ∧ t = { s with tally := t.tally }) ∧
  (∀ (p : PortIx) (f : List Byte) (s : State), s.portUp p.toNat = true → f.length = 64 →
    leAt f 8 8 = 2 ^ 64 - 1 - leAt f 0 8 → leAt f 18 2 = s.bell.tag.toNat →
    (leAt f 16 1 = 2 → leAt f 24 4 = 0 → exec (.bellFrameReceive p f) s = .next
      (if leAt f 20 4 = 0 then s else s.modBellPort p.toNat (fun y => { y with answer := some (leAt f 20 4, s.clock.now) }))) ∧
    (leAt f 16 1 = 1 → leAt f 20 4 = 0 → leAt f 24 4 = 0 → (s.bell.role ≠ 2 ∨ p ≠ s.bell.upPort) →
      exec (.bellFrameReceive p f) s = .next s) ∧
    (∀ q t0, leAt f 16 1 = 2 → leAt f 20 4 = 0 → leAt f 24 4 ≠ 0 → s.bell.state = .calibrating → s.bell.jumped = none →
      p = s.bell.upPort → (s.bell.port p.toNat).reqs.find? (fun r => decide (r.1 = leAt f 24 4)) = some (q, t0) →
      leAt f 28 4 ≤ s.clock.now - t0 → (s.clock.now - t0 - leAt f 28 4) % 2 = 0 →
      (s.clock.now - t0 - leAt f 28 4) / 2 ≤ 65535 →
      ∃ t, exec (.bellFrameReceive p f) s = .next t ∧ t = { s with bell := t.bell } ∧
        t.bell.h = some ((s.clock.now - t0 - leAt f 28 4) / 2) ∧ (t.bell.port p.toNat).valid = true ∧
        (t.bell.port p.toNat).hop = (s.clock.now - t0 - leAt f 28 4) / 2 ∧
        (t.bell.port p.toNat).rt = some (s.clock.now - t0)) ∧
    (leAt f 16 1 = 1 → leAt f 20 4 = 0 → leAt f 24 4 = 0 → s.bell.role = 2 → p = s.bell.upPort →
      (∀ h, s.bell.state = .calibrating → s.bell.h = some h → s.bell.jumped = none →
        ∃ t, exec (.bellFrameReceive p f) s = .next t ∧ t = { s with clock := t.clock, bell := t.bell, ports := t.ports } ∧
          t.clock.tick = BitVec.ofNat 64 (leAt f 0 8 + h / 1248) ∧ t.clock.cyc = h % 1248 ∧ t.clock.now = s.clock.now ∧
          t.bell.jumped = some 0) ∧
      (∀ h k, s.bell.state = .calibrating → s.bell.h = some h → s.bell.jumped = some k →
        ∃ t, exec (.bellFrameReceive p f) s = .next t ∧ t = { s with bell := t.bell } ∧
          t.bell.upDepth = leAt f 17 1 ∧
          (s.clock.cyc = h % 1248 → leAt f 0 8 + h / 1248 = s.clock.tick.toNat → t.bell.jumped = some (k + 1) ∧
            t.bell.lockNext = if 16 ≤ k + 1 then some s.clock.tick else none) ∧
          (s.clock.cyc ≠ h % 1248 → t.bell.jumped = some 0 ∧ t.bell.lockNext = none)) ∧
      ((s.bell.state = .locked ∨ s.bell.state = .holdover) → s.clock.cyc = (s.bell.port p.toNat).hop % 1248 →
        leAt f 0 8 + (s.bell.port p.toNat).hop / 1248 = s.clock.tick.toNat →
        exec (.bellFrameReceive p f) s = .next { s with bell := { s.bell with seen := true, missed := 0 } }) ∧
      ((s.bell.state = .locked ∨ s.bell.state = .holdover) →
        (s.clock.cyc ≠ (s.bell.port p.toNat).hop % 1248 ∨
          leAt f 0 8 + (s.bell.port p.toNat).hop / 1248 ≠ s.clock.tick.toNat) →
        ∃ t, exec (.bellFrameReceive p f) s = .next t ∧ t.bell.state = .holdover ∧ t.bell.slipBit = true ∧ t.bell.depth = 0xFF ∧
          t.mem = s.mem ∧ t.mills = s.mills))) ∧
  (∀ s : State, s.bell.role = 2 → (s.bell.state = .locked ∨ s.bell.state = .holdover) → 4 ≤ s.bell.missed →
    ∃ t, exec .markerTimeout s = .next t ∧ t.bell.state = .holdover ∧ t.bell.missed = 0 ∧ t.bell.slipBit = true ∧
      t.mem = s.mem ∧ t.mills = s.mills) ∧
  (∀ (w : Writer) (v : Word) (s : State), s.mayReg w = true →
    (v.toNat % 4 = 3 → exec (.relock w v) s = .next (s.cwFail w 0x3B00000 5) ∧
      exec (.bellRoleSet w v) s = .next (s.cwFail w 0x3B00000 5)) ∧
    (v.toNat % 4 = 2 → s.anyHeld = false → ∃ t, exec (.relock w v) s = .next t ∧ t = { s with bell := t.bell } ∧
      t.bell.state = .calibrating ∧ t.bell.depth = 0xFF ∧ t.bell.role = 2 ∧ t.bell.tag.toNat = v.toNat / 65536 ∧
      t.bell.upPort.toNat = v.toNat / 4 % 32) ∧
    (v.toNat % 4 = 2 → s.anyHeld = true → s.bell.state ≠ .source → ∃ t, exec (.relock w v) s = .next t ∧
      t = { s with bell := t.bell, w1c := t.w1c } ∧ t.bell.state = s.bell.state ∧ t.bell.refused = true) ∧
    (v.toNat % 4 = 1 → v.getLsbD 8 = false → s.bell.state ≠ .source → s.bell.state ≠ .holdover →
      ∃ t, exec (.bellRoleSet w v) s = .next t ∧ t = { s with bell := t.bell } ∧ t.bell.role = 1 ∧
        t.bell.depth = (if s.bell.refclk then 0 else 0xFF) ∧ t.bell.state = if s.bell.refclk then .source else .holdover) ∧
    (v.toNat % 4 = 1 → s.bell.state = .holdover →
      (v.getLsbD 8 = false → ∃ t, exec (.bellRoleSet w v) s = .next t ∧ t = { s with bell := t.bell } ∧ t.bell.role = 1 ∧
        t.bell.state = .holdover) ∧
      (s.bell.refclk = true → s.bell.plls = true → ∃ t, exec (.relock w v) s = .next t ∧ t = { s with bell := t.bell } ∧
        t.bell.state = .source ∧ t.bell.depth = 0)) ∧
    (v.toNat % 4 = 0 → v.getLsbD 8 = false → ∃ t, exec (.bellRoleSet w v) s = .next t ∧ t = { s with bell := t.bell } ∧
      t.bell.role = 0 ∧ t.bell.state = .standalone ∧ t.bell.depth = 0xFF)) ∧
  (∀ s : State, s.bootRom = false →
    exec .bellNowCapture s = .next { s with bell := { s.bell with capCycle := s.clock.cyc, capTick := s.clock.tick } }) ∧
  (∀ s : State, s.bell.refclk = true →
    ∃ t, exec .refclkLost s = .next t ∧ t.bell.refclk = false ∧ t.bell.plls = false ∧ t.bell.refLoss = true ∧
      t.bell.slipBit = true ∧ t.bell.state = .holdover ∧ t.mem = s.mem ∧ t.mills = s.mills) ∧
  (∀ s : State, exec .refclkReturn s = .next { s with bell := { s.bell with refclk := true, plls := true } }) ∧
  (∀ (s : State) (k : BitVec 64), s.inTick → s.still = true → s.bell.state = .calibrating → s.bell.lockNext = some k →
    ∃ t, exec .bellLocked s = .next t ∧ t.clock.tick = s.clock.tick + 1 ∧ t.clock.cyc = 0 ∧ t.bell.state = .locked ∧
      t.bell.depth = BitVec.ofNat 8 (s.bell.upDepth + 1) ∧ t.bell.missed = 0)

/-- R159, R160, R162, R164 to R166, R568: an elastic crossing passes its item on; one of fixed latency holds it until its release
cycle, which R164 gives; a late item is delivered and is a crossing fault; a resend that ends is only counted, and an item that three
resends do not save is lost. -/
def Obligations.CrossingRules : Prop :=
  (∀ (xid : BitVec 16) (c : BitVec 13) (item : List Byte) (x : Crossing) (s : State),
    s.bell.crossings.find? (fun e => decide (e.1 = xid.toNat)) = some (xid.toNat, x) → s.islandTakes x = true →
    (x.isFixed = false → exec (.crossingRelease xid c item) s = .next (s.send
      { kind := .crossItem, unit := xid.toNat, addr := s.clock.cyc, data := item, cycle := s.clock.now })) ∧
    (∀ r due, x.isFixed = true → s.releaseAt x c.toNat = some (r, due) → s.clock.now < due →
      (s.bell.store.filter (fun i => decide (i.xid = xid.toNat))).length < 64 → (∀ i ∈ s.bell.store, s.clock.now < i.due) →
      exec (.crossingRelease xid c item) s = .next { s with bell := { s.bell with
        store := s.bell.store ++ [{ xid := xid.toNat, release := r, due := due, item := item }] } })) ∧
  (∀ (xid : BitVec 16) (c : BitVec 13) (item : List Byte) (x : Crossing) (s : State),
    s.bell.crossings.find? (fun e => decide (e.1 = xid.toNat)) = some (xid.toNat, x) → s.islandTakes x = false →
    exec (.crossingRelease xid c item) s = .next s) ∧
  (∀ (x : Crossing) (c ns nd : Nat) (s : State), s.perTick x.src = some ns → s.perTick x.dst = some nd → 0 < ns → 0 < nd →
    x.typ ≠ 5 → s.inTick →
    ((if ns = nd then c else (c * nd + ns - 1) / ns) + x.delay < nd → s.releaseAt x c =
      some ((if ns = nd then c else (c * nd + ns - 1) / ns) + x.delay, s.clock.now - s.clock.cyc +
        (((if ns = nd then c else (c * nd + ns - 1) / ns) + x.delay) * 1248 + nd - 1) / nd)) ∧
    (nd ≤ (if ns = nd then c else (c * nd + ns - 1) / ns) + x.delay → s.releaseAt x c =
      some ((if ns = nd then c else (c * nd + ns - 1) / ns) + x.delay - nd, s.clock.now + 1248 - s.clock.cyc +
        (((if ns = nd then c else (c * nd + ns - 1) / ns) + x.delay - nd) * 1248 + nd - 1) / nd))) ∧
  (∀ s : State,
    s.releaseItems.bell = { s.bell with store := s.bell.store.filter (fun i => decide (s.clock.now < i.due)) } ∧
    s.releaseItems.outbox = s.outbox ++ (s.bell.store.filter (fun i => decide (i.due ≤ s.clock.now))).map (fun i =>
      { kind := .crossItem, unit := i.xid, addr := i.release, data := i.item, cycle := s.clock.now })) ∧
  (∀ (xid : BitVec 16) (c a : BitVec 13) (item : List Byte) (x : Crossing) (r due nd : Nat) (s : State),
    s.bell.crossings.find? (fun e => decide (e.1 = xid.toNat)) = some (xid.toNat, x) → s.islandTakes x = true →
    x.isFixed = true → s.releaseAt x c.toNat = some (r, due) → s.perTick x.dst = some nd → r < a.toNat → x.gslot = none →
    ∃ t u, exec (.crossingFault xid c a item) s = .next t ∧ u = s.advanceTo (due + (a.toNat - r) * 1248 / nd) ∧
      t = { u with bell := t.bell, outbox := t.outbox, reports := t.reports, w1c := t.w1c } ∧ t.bell.xfltBit = true ∧
      t.outbox = u.outbox ++
        [{ kind := .crossItem, unit := xid.toNat, addr := a.toNat, data := item, cycle := u.clock.now }] ∧
      (u.bell.xflt.w3.getLsbD 31 = true → t.reports = u.reports) ∧
      (u.bell.xflt.w3.getLsbD 31 = false → t.reports.length = u.reports.length + 1 ∧
        t.bell.xflt.w0 = (if s.clock.now - s.clock.cyc + 1248 ≤ due then s.clock.tick + 1 else s.clock.tick).truncate 32 ∧
        t.bell.xflt.w1.toNat = r % 65536 * 65536 + a.toNat % 65536)) ∧
  (∀ (d : Die) (n : Nat) (l : CrossLoss) (s : State),
    (n ≤ 3 → ∃ t, exec (.crossingResend d n l) s = .next t ∧ t = { s with tally := t.tally }) ∧
    (3 < n → ∃ t, exec (.crossingResend d n .registerRead) s = .next t ∧ t = { s with tally := t.tally, outbox := t.outbox } ∧
      t.outbox = s.outbox ++ [{ kind := .regReadFail, unit := Status.faultInteg.code, addr := 0, data := [] }]) ∧
    (3 < n → ∃ t, exec (.crossingResend d n .ringMessage) s = .next t ∧ t = { s with tally := t.tally, reports := t.reports } ∧
      t.reports.length = s.reports.length + 1) ∧
    (∀ c : EntryRef, 3 < n → c.cq = none →
      ∃ t, exec (.crossingResend d n (.command c)) s = .next t ∧ t = { s with tally := t.tally }) ∧
    (∀ m e, 3 < n → ∃ t, exec (.crossingResend d n (.work m e)) s = .next t ∧ s.sameButMill t m.toNat ∧
      ((t.mill m.toNat).eng e).deferred.isSome = true))

/-! ## Tilled groups, the torus, streams and carts -/

/-- R83, R192, R199 to R202, R205, R207 to R209, R211, R215, R217, R218, R223, R228: a booking acts at its cycle; a seat that no check
refuses readies its group's mills for its target epoch, and runs there with the sheaf's counters or restores from its mark; a halt
freezes the group's mills and alerts the host; notices, and frames that fail or are missing, halt a running group; an unseat waits for
the epoch; the parcel for this node is kept, and one that is no first frame is discarded. -/
def Obligations.TilledGroups : Prop :=
  (∀ (g : SlotIx) (i : Nat) (b : Booking) (al : Almanac) (s : State), (s.group g.toNat).almanac = some al →
    al.bookings[i]? = some b → (s.group g.toNat).state = .running → s.bookedTick (s.group g.toNat) b = true →
    s.clock.cyc ≤ b.cycle → b.cycle < 1248 →
    exec (.bookingTakesEffect g i) s = .next ((s.pass (b.cycle - s.clock.cyc)).useBooking g.toNat i b.act)) ∧
  (∀ (g i : Nat) (a : Action) (s : State), (∀ p ∈ (s.group g).badBook, p.1 ≠ i) → s.useBooking g i a = s.act a) ∧
  (∀ (g : Nat) (i : Nat) (m : MillIx) (e : Eng) (en : Word) (as : List Word) (p : Nat × Nat) (s : State),
    (s.group g).badBook.find? (fun p => decide (p.1 = i)) = some p →
    s.useBooking g i (.post m e en as) = s.raiseHalt g 1 m.toNat) ∧
  (∀ (m : MillIx) (e : Eng) (entry : Word) (args : List Word) (s : State), s.millLive m.toNat = true →
    (s.mill m.toNat).frozen = false → ((s.mill m.toNat).eng e).queue.length < 16 →
    s.sameButEngine (s.act (.post m e entry args)) m.toNat e ∧
    ∃ i, (((s.act (.post m e entry args)).mill m.toNat).eng e).queue = ((s.mill m.toNat).eng e).queue ++ [i] ∧
      i.entry = entry ∧ i.args = args ∧ i.posted = s.clock.now) ∧
  (∀ (w : Writer) (g : SlotIx) (e : BitVec 16) (k : BitVec 4) (s : State), s.mayHost w = true →
    (s.seatErr (s.group g.toNat) e.toNat k.toNat = 0 →
      ∃ t, exec (.groupSeat w g e k) s = .next t ∧ t = { s with groups := t.groups, mills := t.mills, cwHeld := t.cwHeld } ∧
        (t.group g.toNat).state = .seated ∧ (t.group g.toNat).seatMark = k ∧ (t.group g.toNat).halt = none ∧
        (t.group g.toNat).target = BitVec.ofNat 64 (targetEpoch s.clock.tick.toNat e.toNat * 65536) ∧
        (∀ m ∈ (s.group g.toNat).mills, (t.mill m).frozen = false ∧ (t.mill m).stopped = none ∧
          ∀ x, ((t.mill m).eng x).queue = [] ∧ ((t.mill m).eng x).running = none ∧
            ((t.mill m).eng x).regs = ((s.mill m).eng x).regs) ∧
        (∀ m, m ∉ (s.group g.toNat).mills → t.mill m = s.mill m) ∧ (∀ j, j ≠ g.toNat → t.group j = s.group j)) ∧
    (s.seatErr (s.group g.toNat) e.toNat k.toNat ≠ 0 →
      ∃ t, exec (.groupSeat w g e k) s = .next t ∧ t = { s with groups := t.groups, cwHeld := t.cwHeld } ∧
        t.group g.toNat = { s.group g.toNat with
          seatErr := BitVec.ofNat 4 (s.seatErr (s.group g.toNat) e.toNat k.toNat) } ∧
        (∀ j, j ≠ g.toNat → t.group j = s.group j))) ∧
  (∀ (w : Writer) (g : SlotIx) (s : State), s.mayHost w = true →
    ((s.group g.toNat).state = .halted →
      exec (.groupUnseat w g) s =
        .next ((s.cwHold (0x3908000 + 0x100 * g.toNat) 0).modGroup g.toNat (fun x => { x with unseat := true }))) ∧
    ((s.group g.toNat).state ≠ .halted → exec (.groupUnseat w g) s = .next (s.cwHold (0x3908000 + 0x100 * g.toNat) 0)) ∧
    ((s.group g.toNat).state = .running → (s.group g.toNat).due = none →
      ∃ t h, exec (.hostHalt w g) s = .next t ∧ t = { s with groups := t.groups, cwHeld := t.cwHeld } ∧ (t.group g.toNat).due = some h ∧
        h.cause = 12 ∧ h.originTick = s.clock.tick ∧ h.originCycle = s.clock.cyc ∧
        (t.group g.toNat).dueTick = s.clock.tick ∧ (t.group g.toNat).state = .running)) ∧
  (∀ (g : SlotIx) (s : State), s.clock.tick.toNat % 65536 = 0 → s.clock.cyc = 0 → (s.group g.toNat).unseat = true →
    (s.group g.toNat).state = .halted →
    exec (.unseatBoundary g) s = .next (s.modGroup g.toNat (fun x => { x with state := .loaded, unseat := false }))) ∧
  (∀ (g : SlotIx) (al : Almanac) (s : State), (s.group g.toNat).almanac = some al → (s.group g.toNat).state = .seated →
    s.clock.tick = (s.group g.toNat).target → s.clock.cyc = 0 →
    ((s.group g.toNat).markDef (s.group g.toNat).seatMark.toNat = none →
      ∃ t, exec (.seatBoundary g) s = .next t ∧ (t.group g.toNat).state = .running ∧
        (t.group g.toNat).base = (s.group g.toNat).target ∧
        (∀ m ∈ (s.group g.toNat).mills, ∀ c, c < 16 → (t.mill m).cnt c = ((s.mill m).syncInit.getD c 0).toNat) ∧
        t.mem = s.mem ∧ t.clock = s.clock) ∧
    (∀ d, (s.group g.toNat).markDef (s.group g.toNat).seatMark.toNat = some d →
      ∃ t, exec (.seatBoundary g) s = .next t ∧ (t.group g.toNat).state = .restoring ∧ t.mem = s.mem ∧ t.clock = s.clock)) ∧
  (∀ (g : SlotIx) (d : MarkDef) (s : State), (s.group g.toNat).markDef (s.group g.toNat).seatMark.toNat = some d →
    (s.group g.toNat).state = .restoring → s.clock.tick = (s.group g.toNat).resume → d.posts = [] →
    exec (.groupResume g) s = .next (s.modGroup g.toNat (fun x =>
      { x with state := .running, base := x.resume - BitVec.ofNat 64 d.pos }))) ∧
  (∀ (g : SlotIx) (k : BitVec 3) (d : MarkDef) (s : State), (s.group g.toNat).markDef k.toNat = some d →
    (s.group g.toNat).state = .running → s.posOf (s.group g.toNat) = d.pos % (s.group g.toNat).span → s.clock.cyc = 0 →
    exec (.checkpointMarkCommit g k) s = .next (s.modGroup g.toNat (fun x =>
      { x with mark := k.zeroExtend 4, markT := s.clock.tick }))) ∧
  (∀ (g : SlotIx) (h : HaltDue) (al : Almanac) (s : State), (s.group g.toNat).due = some h →
    (s.group g.toNat).almanac = some al → (s.group g.toNat).state = .running → (s.group g.toNat).halt = none →
    (s.group g.toNat).dueTick < s.clock.tick → s.hp.alerts.length < 64 →
    ∃ t r, exec (.groupHalt g) s = .next t ∧ (t.group g.toNat).state = .halted ∧ (t.group g.toNat).due = none ∧
      (t.group g.toNat).halt = some r ∧ r.cause = h.cause ∧ r.haltTick = s.clock.tick ∧ r.originNode = h.originNode ∧
      (∀ m ∈ (s.group g.toNat).mills, (t.mill m).frozen = true) ∧ t.hp.alerts.length = s.hp.alerts.length + 1 ∧
      t.mem = s.mem ∧ t.clock = s.clock) ∧
  (∀ (p : PortIx) (b : List Byte) (k : Nat) (x : Group) (s : State), s.portUp p.toNat = true → b.length = 64 →
    s.groups.find? (fun g => decide (g.2.almanac.map (fun a => a.group.toNat) = some (leAt b 2 2)) &&
      decide (g.2.state ≠ .empty)) = some (k, x) →
    (leAt b 16 8 ≠ 2 ^ 64 - 1 - leAt b 8 8 →
      ∃ t, exec (.haltNoticeReceive p b) s = .next t ∧ t = { s with tally := t.tally }) ∧
    (leAt b 16 8 = 2 ^ 64 - 1 - leAt b 8 8 → x.state = .running → x.due = none →
      ∃ t h, exec (.haltNoticeReceive p b) s = .next t ∧ t = { s with groups := t.groups } ∧ (t.group k).due = some h ∧
        h.cause = 13 ∧ h.detail = p.toNat ∧ h.originNode = leAt b 4 2 ∧ h.originCause = leAt b 1 1 ∧
        h.dist = leAt b 6 1 + 1 ∧ (t.group k).dueTick = s.clock.tick)) ∧
  (∀ (p : PortIx) (f : FrameSlot) (gs : List (BitVec 10)) (s : State),
    ((s.port p.toNat).serving f.lane.toNat = none ∨ s.portSlots p.toNat = false →
      exec (.bookedFrameReceive p f gs) s = .next s) ∧
    (∀ l syms rd, (s.port p.toNat).serving f.lane.toNat = some l → s.portSlots p.toNat = true →
      frameOfGroups ((s.port p.toNat).lane l).rd gs = (.data, syms, rd) → rsDecode (symBytes syms) ≠ none →
      (((s.port p.toNat).lane l).heads.filter (fun b => !b)).length < 4 →
      ((s.port p.toNat).link f.lane.toNat).bad.length < 4 →
      ∃ u : State, exec (.bookedFrameReceive p f gs) s = .next (u.bookedArrive p f (rsDecode (symBytes syms))) ∧
        u = { s with ports := u.ports, tally := u.tally })) ∧
  (∀ (p : PortIx) (f : FrameSlot) (r : Option (List Byte × Nat)) (s : State),
    (s.bookedGroup p f = none → s.bookedArrive p f r = s.tallyPort .routeErr p.toNat) ∧
    (∀ k, s.bookedGroup p f = some k →
      ((s.group k).live = false → s.bookedArrive p f r = s.tallyPort .tilledDrop p.toNat) ∧
      ((s.group k).state = .running → (s.group k).due = none → r = none →
        ∃ t h, s.bookedArrive p f r = t ∧ t = { s with groups := t.groups } ∧ (t.group k).due = some h ∧ h.cause = 3 ∧
          h.detail = p.toNat) ∧
      (∀ al msg out, (s.group k).state = .running → (s.group k).almanac = some al → r = some (msg, 0) →
        s.expects (s.group k) p f = some (.port out) → bitOf (leAt msg 0 1) 7 = true →
        leAt (msg.drop 1) 4 2 = al.group.toNat → bitOf (leAt (msg.drop 1) 3 1) 0 = true → 0 < leAt (msg.drop 1) 0 1 →
        leAt (msg.drop 1) 0 1 ≤ 19 → leAt (msg.drop 1) 1 1 ≤ 2 → leAt (msg.drop 1) 8 12 % 32 = out.toNat →
        s.portUp out.toNat = true →
        ∃ t, s.bookedArrive p f r = t ∧ t = { s with ports := t.ports, outbox := t.outbox } ∧
          (t.port out.toNat).bookedTx = (s.port out.toNat).bookedTx ++
            [{ no := (s.port out.toNat).bookedNo, src := .port p, first := true, data := nextHop (msg.drop 1) }] ∧
          (∀ q, q ≠ out.toNat → t.port q = s.port q)))) ∧
  (∀ (p : PortIx) (f : FrameSlot) (src : FrameSrc) (x : BookedTx) (s : State), s.portSlots p.toNat = true →
    (s.port p.toNat).bookedTx.find? (fun t => decide (t.src = src)) = some x →
    ∃ t o, s.act (.send p f src) = t ∧ t = { s with ports := t.ports, outbox := s.outbox ++ [o] } ∧
      (t.port p.toNat).bookedTx = (s.port p.toNat).bookedTx.erase x ∧ o.kind = .bookedFrame ∧ o.unit = p.toNat ∧
      o.addr = f.lane.toNat ∧ o.data.length = 71 ∧ (o.data.drop 1).take 64 = padTo 64 x.data) ∧
  (∀ (p : PortIx) (f : FrameSlot) (s : State),
    (∀ k x, s.groups.find? (fun g => g.2.live && (s.expects g.2 p f).isSome) = some (k, x) → (s.group k).state = .running →
      (s.group k).due = none → ∃ t h, exec (.bookedFrameMissing { port := p, slot := f }) s = .next t ∧ t = { s with groups := t.groups } ∧
        (t.group k).due = some h ∧ h.cause = 5 ∧ h.detail = p.toNat) ∧
    (s.groups.find? (fun g => g.2.live && (s.expects g.2 p f).isSome) = none →
      exec (.bookedFrameMissing { port := p, slot := f }) s = .next s)) ∧
  (∀ (p : PortIx) (h : List Byte) (rest : List (Bool × List Byte)) (s : State), s.portUp p.toNat = true → s.userIo = true →
    ((s.port p.toNat).stream = (true, h) :: rest → leAt h 1 1 ≤ 2 → leAt h 0 1 = 0 → leAt h 6 2 = s.node.toNat →
      ∃ t, exec (.parcelForward p) s = .next t ∧ t = { s with ports := t.ports } ∧
        (t.port p.toNat).stream = rest.dropWhile (fun f => !f.1) ∧
        (t.port p.toNat).arrived = (s.port p.toNat).arrived ++
          [{ hdr := h, data := (rest.takeWhile (fun f => !f.1)).flatMap Prod.snd, since := s.clock.now }]) ∧
    ((s.port p.toNat).stream = (false, h) :: rest →
      ∃ t, exec (.parcelForward p) s = .next t ∧ t = { s with ports := t.ports, tally := t.tally } ∧
        (t.port p.toNat).stream = rest ∧ (t.port p.toNat).give = (s.port p.toNat).give + 1))

/-- R95, R219, R239, R241 to R246, R248, R251, R253, R254, R342: a packet that a router takes waits two cycles on for the output of its
route; a header that is not legal is discarded and recorded; the packet at a free output leaves; P0 is forced after 63 grants; a write
packet writes exactly the granules its mask names, unless its epoch is older; a read request is answered with the bytes; an increment
counts; a cart lands four cycles on; a control message ends its stream. -/
def Obligations.TorusPackets : Prop :=
  (∀ (d : Die) (x y : BitVec 5) (i : BitVec 3) (hdr data : List Byte) (soft : Nat) (o : Option (MillIx × BitVec 3)) (s : State),
    x.toNat < 24 → y.toNat < s.rows → s.hasPort x.toNat y.toNat i.toNat = true →
    (s.hdrOk hdr = true → (pktHdr hdr).prio ≠ 3 → s.canArrive d x.toNat y.toNat i.toNat (pktHdr hdr) data.length = true →
      ∃ t, exec (.routerPacketReceive d x y i hdr data soft false o []) s = .next t ∧
        t = { s with routers := t.routers, tally := t.tally } ∧
        (t.router (routerKey d x.toNat y.toNat)).queue = (s.router (routerKey d x.toNat y.toNat)).queue ++
          [{ inp := i.toNat, out := s.routeOut d x.toNat y.toNat (pktHdr hdr).dst, hdr := (pktHdr hdr).bytes, data := data
             vc := (pktHdr hdr).vc, ready := s.clock.now + 2, lost := 0 }] ∧
        (∀ k, k ≠ routerKey d x.toNat y.toNat → t.router k = s.router k)) ∧
    (s.hdrOk hdr = true → s.canArrive d x.toNat y.toNat i.toNat (pktHdr hdr) data.length = false →
      ∃ t, exec (.routerPacketReceive d x y i hdr data soft false o []) s = .next t ∧ t = { s with tally := t.tally }) ∧
    (s.hdrOk hdr = false → (pktHdr hdr).slot = none → (pktHdr hdr).tag % 8 ≠ 5 →
      ∃ t, exec (.routerPacketReceive d x y i hdr data soft false o []) s = .next t ∧
        t = { s with torW := t.torW, torE := t.torE, reports := t.reports, tally := t.tally, w1c := t.w1c } ∧
        (if d = .w then t.torW else t.torE).w3.getLsbD 31 = true ∧
        ((if d = .w then s.torW else s.torE).w3.getLsbD 31 = true → t.reports = s.reports) ∧
        ((if d = .w then s.torW else s.torE).w3.getLsbD 31 = false → t.reports.length = s.reports.length + 1))) ∧
  (∀ (k : Nat) (w : Waiting) (s : State), (s.router k).queue = [w] → w.ready ≤ s.clock.now → w.out < 8 → s.groups = [] →
    Table.get 0 (s.router k).freeAt (w.out * 2) ≤ s.clock.now → Table.get 0 (s.router k).freeAt (w.out * 2 + 1) ≤ s.clock.now →
    s.hasCredit k w = true →
    ∃ t o, s.serveOut k w.out = t ∧ t = { s with routers := t.routers, outbox := s.outbox ++ [o], tally := t.tally } ∧
      o.kind = .torusPacket ∧ o.unit = k ∧ o.addr = w.out ∧ o.data.drop 16 = w.data ∧ (t.router k).queue = []) ∧
  (∀ (k : Nat) (v w : Waiting) (s : State), (s.router k).queue = [v, w] → v.out = w.out → outLanes w.out = 1 → w.out < 8 →
    v.prio ≠ 0 → v.prio ≠ 3 → w.prio = 0 → v.ready ≤ s.clock.now → w.ready ≤ s.clock.now → s.groups = [] →
    Table.get 0 (s.router k).freeAt (w.out * 2) ≤ s.clock.now → s.hasCredit k v = true → s.hasCredit k w = true →
    (63 ≤ Table.get 0 (s.router k).counts w.out →
      ((s.serveOut k w.out).router k).queue = [v] ∧ Table.get 0 ((s.serveOut k w.out).router k).counts w.out = 0) ∧
    (Table.get 0 (s.router k).counts w.out < 63 →
      ((s.serveOut k w.out).router k).queue = [w] ∧
      Table.get 0 ((s.serveOut k w.out).router k).counts w.out = Table.get 0 (s.router k).counts w.out + 1)) ∧
  (∀ (d : Die) (x y : BitVec 5) (o : BitVec 3) (s : State), s.inTick →
    ∃ t, exec (.p0ForceGrant d x y o) s = .next t ∧
      (t.p0Forced (routerKey d x.toNat y.toNat) o.toNat = false ∨
        (∀ v ∈ (t.router (routerKey d x.toNat y.toNat)).queue, v.out = o.toNat → v.prio ≠ 0) ∨
        t.clock.now = s.clock.now + 2496)) ∧
  (∀ (hdr data : List Byte) (c : Nat) (s : State), s.hdrOk hdr = true → (pktHdr hdr).kind = 0 → nodeEnd (pktHdr hdr).dst < 4 →
    s.atEnd (pktHdr hdr) = true → (pktHdr hdr).addr % 2 ^ 20 + data.length ≤ 2 ^ 20 → s.packetCell (pktHdr hdr) = .ok c →
    ((1 < nodeEnd (pktHdr hdr).dst ∨ (s.mill (nodeMill (pktHdr hdr).dst)).accepted.toNat = (pktHdr hdr).pepoch) →
      ∃ t o, exec (.writePacketArrive hdr data) s = .next t ∧
        t = { s with mem := t.mem, bad := t.bad, soft := t.soft, outbox := s.outbox ++ [o] } ∧ o.kind = .writeAck ∧
        o.unit = (pktHdr hdr).src ∧
        (∀ n i, n < 8 → i < 64 → Memory.read t.mem (c + 64 * n + i) =
          if bitOf (pktHdr hdr).gmask n then data.getD (64 * n + i) 0 else Memory.read s.mem (c + 64 * n + i)) ∧
        (∀ a, (a < c ∨ c + 512 ≤ a) → Memory.read t.mem a = Memory.read s.mem a)) ∧
    (nodeEnd (pktHdr hdr).dst ≤ 1 → (pktHdr hdr).slot = none → (pktHdr hdr).tag % 8 ≠ 5 →
      epochCheck (s.mill (nodeMill (pktHdr hdr).dst)).accepted.toNat (pktHdr hdr).pepoch = some .superseded →
      ∃ t, exec (.writePacketArrive hdr data) s = .next t ∧ t = { s with tally := t.tally })) ∧
  (∀ (hdr : List Byte) (c : Nat) (s : State), s.hdrOk hdr = true → (pktHdr hdr).kind = 1 → nodeEnd (pktHdr hdr).dst < 4 →
    s.atEnd (pktHdr hdr) = true → (pktHdr hdr).addr % 2 ^ 20 + 128 * max 1 (pktHdr hdr).flits ≤ 2 ^ 20 →
    s.packetCell (pktHdr hdr) = .ok c → s.badIn c (128 * max 1 (pktHdr hdr).flits) = false → s.soft = [] →
    ∃ t o, exec (.readRequestArrive hdr) s = .next t ∧ t = { s with outbox := s.outbox ++ [o] } ∧
      o.kind = .torusPacket ∧ o.unit = (pktHdr hdr).src ∧
      o.data.drop 16 = Memory.readN s.mem c (128 * max 1 (pktHdr hdr).flits)) ∧
  (∀ (m : MillIx) (c : BitVec 4) (n : Byte) (s : State), s.millLive m.toNat = true → n ≠ 0 → (s.mill m.toNat).frozen = false →
    ∃ t, exec (.syncIncrementArrive m c n) s = .next t ∧ s.sameButMill t m.toNat ∧ (t.mill m.toNat).sync = (s.mill m.toNat).sync ∧
      (t.mill m.toNat).incs = (s.mill m.toNat).incs ++
        [{ at_ := s.clock.now, counter := c.toNat, amount := n.toNat, eng := .st }]) ∧
  (∀ (q : QueueIx) (f : CartFlight) (s : State), s.qs.flights.find? (fun f => decide (f.ring = q.toNat) && !f.local_) = some f →
    ((∀ e, f.epoch = some e → e = (s.queue q.toNat).pepoch) →
      exec (.cartDeliveryArrive q) s = .next
        (({ s with qs := { s.qs with flights := s.qs.flights.erase f } }.advanceTo (s.clock.now + 4)).landFar f)) ∧
    (∀ e, f.epoch = some e → epochCheck (s.queue q.toNat).pepoch e = some .superseded → f.slot = none →
      ∃ t, exec (.cartDeliveryArrive q) s = .next t ∧
        t = { s with qs := { s.qs with flights := s.qs.flights.erase f }, tally := t.tally }) ∧
    (∀ e g, f.epoch = some e → epochCheck (s.queue q.toNat).pepoch e = some .mismatch → s.ringGroup q.toNat = some g →
      exec (.cartDeliveryArrive q) s = .next
        ({ s with qs := { s.qs with flights := s.qs.flights.erase f } }.raiseHalt g 10 (s.ringMill q.toNat)))) ∧
  (∀ (m : MillIx) (k : BitVec 3) (absent : Bool) (sl : Slot) (l : Nat) (d : DescBytes) (s : State),
    (s.mill m.toNat).slot k.toNat = some sl → sl.work = .stream l → sl.descs = [d] → descCq d = none → sl.inCart = none →
    sl.outCart = none → sl.shadow = none → sl.heldRearm = false → sl.refused = 0 →
    ∃ t x, exec (.controlMessageArrive m k absent) s = .next t ∧
      t = { s with mills := t.mills, hp := t.hp, reports := s.reports ++ [x] } ∧ (t.mill m.toNat).slot k.toNat = none ∧
      (Table.get {} (t.mill m.toNat).ssr k.toNat).state = 3 ∧
      x.status = (if absent then Status.absent else .faultInteg).code ∧ (∀ j, j ≠ m.toNat → t.mill j = s.mill j))

/-- R253 to R269, R281, R282: a burst of descriptors joins its slot; a legal descriptor with no hazard starts its transfer, an illegal
one ends the stream; a page fault halts the slot where it stands; the last transfer's end frees the slot, an earlier one's goes on; a
move's bytes land in its last cycle; a committed resume goes on from the halt, an abandon ends the stream. -/
def Obligations.StreamSlots : Prop :=
  (∀ (m : MillIx) (k : BitVec 3) (sl : Slot) (l : Nat) (s : State), (s.mill m.toNat).slot k.toNat = some sl →
    sl.work = .stream l → (s.mill m.toNat).frozen = false → sl.asked = true → sl.halted = false →
    (s.mill m.toNat).parity = [] → (sl.fetched = 0 → sl.start + 8 ≤ s.clock.now) →
    (∀ ds, s.readBurst m.toNat l sl.fetched = (.ok (some ds), s) →
      ∃ t x, exec (.descriptorBurstArrive m k) s = .next t ∧ s.sameButMill t m.toNat ∧ (t.mill m.toNat).slot k.toNat = some x ∧
        x.descs = sl.descs ++ ds ∧ x.fetched = sl.fetched + ds.length ∧ x.asked = false ∧ x.more = !ds.any descLast ∧
        (sl.fetched = 0 → x.arrived = s.clock.now) ∧
        (∀ j, j ≠ k.toNat → (t.mill m.toNat).slot j = (s.mill m.toNat).slot j)) ∧
    (s.readBurst m.toNat l sl.fetched = (.error .faultPage, s) → sl.descs = [] → s.tilledRuns m.toNat = false →
      ∃ t x r, exec (.descriptorBurstArrive m k) s = .next t ∧ (t.mill m.toNat).slot k.toNat = some x ∧ x.halted = true ∧
        (Table.get {} (t.mill m.toNat).ssr k.toNat).state = 2 ∧
        (Table.get {} (t.mill m.toNat).ssr k.toNat).faultAddr = l + 64 * sl.fetched ∧
        t.reports = s.reports ++ [r] ∧ r.page.isSome = true ∧ t.mem = s.mem)) ∧
  (∀ (m : MillIx) (k : BitVec 3) (sl : Slot) (d : DescBytes) (rest : List DescBytes) (s : State),
    (s.mill m.toNat).slot k.toNat = some sl → sl.descs = d :: rest → sl.run = false → sl.halted = false →
    (s.mill m.toNat).frozen = false → (s.mill m.toNat).parity = [] →
    (sl.ended = 0 → sl.firstAccess m.toNat ≤ s.clock.now) →
    (descOk m.toNat d = true → startHazards (s.mill m.toNat) m.toNat s.clock.now d = [] →
      ∃ t x, exec (.transferStart m k) s = .next t ∧ s.sameButMill t m.toNat ∧ (t.mill m.toNat).slot k.toNat = some x ∧
        x.run = true ∧ x.fin = false ∧ x.wrote = false ∧ x.pos = {} ∧ x.descs = sl.descs ∧
        (∀ r ∈ dstSpan m.toNat d, 0 < ((t.mill m.toNat).mark r).pending) ∧
        (∀ r ∈ srcRes m.toNat d, 0 < ((t.mill m.toNat).mark r).reading)) ∧
    (descOk m.toNat d = true → startHazards (s.mill m.toNat) m.toNat s.clock.now d ≠ [] → (s.mill m.toNat).tilled = false →
      ∃ t, exec (.transferStart m k) s = .next t ∧ s.sameButMill t m.toNat ∧
        (∀ j, (t.mill m.toNat).slot j = (s.mill m.toNat).slot j)) ∧
    (descOk m.toNat d = false →
      exec (.transferStart m k) s = .next (s.failTransfer m.toNat k.toNat sl .mismatch 0 sl.descAddr true))) ∧
  (∀ (m : MillIx) (k : BitVec 3) (sl x : Slot) (d : DescBytes) (a f : Nat) (s u : State),
    s.runningSlot m.toNat k.toNat = some (sl, d) → (s.mill m.toNat).parity = [] →
    s.pieces m.toNat k.toNat sl d (pieceBound d) = (.page a f, x, u) → x.descs = [d] → descCq d = none →
    u.tilledRuns m.toNat = false →
    ∃ t r, exec (.streamPageFault m k) s = .next t ∧ (t.mill m.toNat).slot k.toNat = some { x with halted := true } ∧
      (Table.get {} (t.mill m.toNat).ssr k.toNat).state = 2 ∧ (Table.get {} (t.mill m.toNat).ssr k.toNat).faultAddr = a ∧
      t.reports = u.reports ++ [r] ∧ r.page.isSome = true ∧ t.mem = u.mem) ∧
  (∀ (m : MillIx) (k : BitVec 3) (sl : Slot) (l : Nat) (d : DescBytes) (rest : List DescBytes) (s : State),
    (s.mill m.toNat).slot k.toNat = some sl → sl.work = .stream l → sl.descs = d :: rest → sl.run = true →
    sl.halted = false → sl.fin = true → (s.mill m.toNat).frozen = false → (s.mill m.toNat).parity = [] → descCq d = none →
    (descLast d = true → sl.shadow = none → sl.heldRearm = false → sl.refused = 0 →
      ∃ t, exec (.transferComplete m k) s = .next t ∧ t = { s with mills := t.mills, hp := t.hp } ∧
        (t.mill m.toNat).slot k.toNat = none ∧ (Table.get {} (t.mill m.toNat).ssr k.toNat).state = 0 ∧
        (∀ c n, sl.inc = some (c, n) → (t.mill m.toNat).incs = (s.mill m.toNat).incs ++
          [{ at_ := s.clock.now, counter := c, amount := n, eng := (slotCarter k.toNat).eng }]) ∧
        (∀ j, j ≠ m.toNat → t.mill j = s.mill j)) ∧
    (descLast d = false →
      ∃ t x, exec (.transferComplete m k) s = .next t ∧ t = { s with mills := t.mills } ∧
        (t.mill m.toNat).slot k.toNat = some x ∧ x.descs = rest ∧ x.ended = sl.ended + 1 ∧ x.run = false)) ∧
  (∀ (m : MillIx) (k : BitVec 3) (sl : Slot) (d : DescBytes) (a b n : Nat) (s : State),
    s.runningSlot m.toNat k.toNat = some (sl, d) → descMode d = 0 → descIn d = false → descOut d = false → descAf d = false →
    sl.outCart = none → (s.mill m.toNat).parity = [] →
    Table.get 0 (s.mill m.toNat).moveFree (carterIx (slotCarter k.toNat)) ≤ s.clock.now →
    (rowAddr d sl.pos).map (· + sl.pos.off) = some a →
    (addrAdd (descDst d) (flatRow d sl.pos * descStep d) (descDstRow d)).map (· + sl.pos.off) = some b →
    field a 44 4 = 1 → field b 44 4 = 1 → addrMill a ≠ m.toNat → s.millLive (addrMill a) = true → addrMill b = m.toNat →
    s.millLive m.toNat = true →
    n = min (min (descRow d - sl.pos.off) (descDstRow d - sl.pos.off)) (min (ioRoom a) (ioRoom b)) → 0 < n →
    a % 2 ^ 20 + n ≤ 2 ^ 20 → b % 2 ^ 20 + n ≤ 2 ^ 20 → s.bad = [] → s.soft = [] →
    (s.mill m.toNat).portLost s.clock.now (loftKeys (b % 2 ^ 20) n true) (portRankOf (slotCarter k.toNat).eng) = false →
    (s.mill m.toNat).portLate s.clock.now (loftKeys (b % 2 ^ 20) n true) (portRankOf (slotCarter k.toNat).eng) = false →
    ∃ t x, exec (.readResponseArrive m k) s = .next t ∧ t.mem = s.mem ∧
      (t.mill m.toNat).lands = (s.mill m.toNat).lands ++ [(s.clock.now, .loft (b % 2 ^ 20)
        (Memory.readN s.mem (loftCell (addrMill a) (a % 2 ^ 20)) n) (slotCarter k.toNat).eng)] ∧
      (t.mill m.toNat).slot k.toNat = some x ∧ x.wrote = true ∧ x.pos.bytes = sl.pos.bytes + n ∧ x.descs = sl.descs ∧
      (∀ j, j ≠ k.toNat → (t.mill m.toNat).slot j = (s.mill m.toNat).slot j)) ∧
  (∀ (m c k n o p : Nat) (cr : Carter) (sl : Slot) (a : MovArgs) (s : State), (s.mill m).slot k = some sl → a.src = .loft o →
    a.dst = .loft p → s.bad = [] →
    ∃ t, s.moveBytes m c cr k sl a n = t ∧ s.sameButMill t m ∧
      (t.mill m).lands = (s.mill m).lands ++ [(c, .loft (p + sl.pos.bytes)
        (Memory.readN s.mem (loftCell m o + sl.pos.bytes) n) cr.eng)] ∧
      (∀ j, j ≠ k → (t.mill m).slot j = (s.mill m).slot j) ∧
      (sl.pos.bytes + n < a.len → ∃ x, (t.mill m).slot k = some x ∧ x.pos.bytes = sl.pos.bytes + n ∧ x.work = sl.work) ∧
      (a.len ≤ sl.pos.bytes + n → (t.mill m).slot k = none ∧
        (∀ q v, sl.inc = some (q, v) → (t.mill m).incs = (s.mill m).incs ++
          [{ at_ := c, counter := q, amount := v, eng := cr.eng }]))) ∧
  (∀ (m : MillIx) (k : BitVec 3) (sl : Slot) (a : MovArgs) (s u : State),
    (s.mill m.toNat).slot k.toNat = some sl → sl.work = .move a → (s.mill m.toNat).frozen = false →
    (s.mill m.toNat).parity = [] →
    u = s.advanceTo (max s.clock.now (sl.start + 8) + (s.mill m.toNat).moveLoad (slotCarter k.toNat)) →
    ((u.mill m.toNat).slot k.toNat = none → exec (.transferComplete m k) s = .next u) ∧
    (∀ x, (u.mill m.toNat).slot k.toNat = some x →
      exec (.transferComplete m k) s = .next (if x.work = sl.work ∧ x.start = sl.start then s else u))) ∧
  (∀ (w : Writer) (m : MillIx) (v : Word) (s : State), s.mayHost w = true → s.millLive m.toNat = true →
    (65536 ≤ v.toNat → exec (.streamResume w m v) s = .next (s.cwFail w (0x1000400 + m.toNat * 0x1000) 5)) ∧
    (v.toNat < 256 →
      ∃ t, exec (.streamResume w m v) s = .next t ∧ s.sameButMill t m.toNat ∧
        (∀ k sl, k < 8 → (s.mill m.toNat).slot k = some sl → v.getLsbD k = true →
          ∃ x, (t.mill m.toNat).slot k = some x ∧ x.halted = false ∧ x.descs = sl.descs ∧ x.pos = sl.pos) ∧
        (∀ k, v.getLsbD k = false → (t.mill m.toNat).slot k = (s.mill m.toNat).slot k))) ∧
  (∀ (w : Writer) (m : MillIx) (k l : Nat) (sl : Slot) (d : DescBytes) (s : State), s.mayHost w = true →
    s.millLive m.toNat = true → k < 8 → (s.mill m.toNat).slot k = some sl → sl.work = .stream l → sl.halted = true →
    sl.descs = [d] → descCq d = none → sl.inCart = none → sl.outCart = none → sl.shadow = none → sl.heldRearm = false →
    sl.refused = 0 → ∃ t, exec (.streamAbandon w m (BitVec.ofNat 8 (2 ^ k))) s = .next t ∧
      t = { s with mills := t.mills, hp := t.hp, reports := t.reports } ∧ (t.mill m.toNat).slot k = none ∧
      (∀ j, j ≠ k → (t.mill m.toNat).slot j = (s.mill m.toNat).slot j) ∧ (∀ j, j ≠ m.toNat → t.mill j = s.mill j))

/-- R277 to R280: a field port takes the cart at the head of a ring it consumes and sends it, and returns it to its return ring when
its parcels are acknowledged; a class-0 parcel for a ring that takes none is answered DENIED, one that goes on fills the open cart, one
that finds no empty cart is held, and after 100 µs answered TIMEOUT; a neighbour's DENIED sends the carts back. -/
def Obligations.FieldPortCarts : Prop :=
  (∀ (p : PortIx) (q : QueueIx) (r : Route) (n : Nat) (c b : List Byte) (s u : State), s.portUp p.toNat = true →
    s.userIo = true → (s.queue q.toNat).portIs p.toNat = true → (s.queue q.toNat).tilled = false → s.canTake q.toNat = .ok →
    s.routes.paths.find? (fun r => decide (r.1 = (s.queue q.toNat).arg / 65536)) = some (n, r) →
    s.takeCart q.toNat = (some c, u) → cartOk c = true → u.streamRead .port (cartAddr c) (cartFill c) = (.ok (some b), u) →
    ∃ t y, exec (.fieldPortCartSend p q) s = .next t ∧ t = { u with ports := t.ports, outbox := t.outbox } ∧
      (t.port p.toNat).sends = (u.port p.toNat).sends ++ [y] ∧ y.ring = q.toNat ∧ y.cart = c ∧ y.booked = false ∧
      (t.port p.toNat).frameNo = y.sent) ∧
  (∀ (p : PortIx) (q : QueueIx) (r : Route) (n : Nat) (c b : List Byte) (s u : State), s.portUp p.toNat = true →
    s.userIo = true → (s.queue q.toNat).portIs p.toNat = true → (s.queue q.toNat).tilled = true → s.canTake q.toNat = .ok →
    s.routes.paths.find? (fun r => decide (r.1 = (s.queue q.toNat).arg / 65536)) = some (n, r) →
    (s.sendGroup p q = none → exec (.fieldPortCartSend p q) s = .next s) ∧
    (∀ g, s.sendGroup p q = some g → s.takeCart q.toNat = (some c, u) → cartOk c = true →
      u.streamRead .port (cartAddr c) (cartFill c) = (.ok (some b), u) →
      ∃ t y, exec (.fieldPortCartSend p q) s = .next t ∧ t = { u with ports := t.ports } ∧
        (t.port p.toNat).sends = (u.port p.toNat).sends ++ [y] ∧ y.ring = q.toNat ∧ y.cart = c ∧ y.booked = true ∧
        (t.port p.toNat).bookedNo = y.sent ∧ (t.port p.toNat).waiting = (u.port p.toNat).waiting)) ∧
  (∀ (p : PortIx) (y : PortSend) (rest : List PortSend) (s : State),
    ((s.port p.toNat).sends = y :: rest → (s.port p.toNat).bookedTx = [] → (s.port p.toNat).waiting = [] → (s.port p.toNat).replay = [] → s.canPut (s.queue y.ring).pair = .ok →
      ∃ t f, exec (.fieldPortCartReturn p) s = .next t ∧
        t = { s with ports := t.ports, qs := { s.qs with flights := s.qs.flights ++ [f] } } ∧
        (t.port p.toNat).sends = rest ∧ f.ring = (s.queue y.ring).pair ∧ f.at_ = s.clock.now + 4 ∧
        f.cart = putForm (s.queue (s.queue y.ring).pair) (reCart y.cart 0 (cartGen y.cart) 0)) ∧
    ((s.port p.toNat).sends = [y] → y.booked = false → (∃ g ∈ (s.port p.toNat).waiting ++ (s.port p.toNat).replay, g.no < y.sent) →
      exec (.fieldPortCartReturn p) s = .next s)) ∧
  (∀ (p : PortIx) (x : Parcel) (s : State), (s.port p.toNat).parked = none → (s.port p.toNat).arrived = [x] →
    leAt x.hdr 1 1 = 0 →
    (s.ingressOk (leAt x.hdr 24 2) = false →
      ∃ t, exec (.class0ParcelDeliver p) s = .next t ∧ t = { s with ports := t.ports, outbox := t.outbox } ∧
        (t.port p.toNat).arrived = [] ∧ t.outbox = s.outbox ++ [({ kind := .ringMessage, unit := p.toNat, addr := leAt x.hdr 34 2, data := (
          toLe 1 Status.denied.code ++ toLe 2 (leAt x.hdr 24 2)) } : Out)]) ∧
    (∀ i : Ingress, s.ingressOk (leAt x.hdr 24 2) = true → (s.queue (leAt x.hdr 24 2)).pepoch = leAt x.hdr 2 1 →
      (s.port p.toNat).ingress = [i] → i.ring = leAt x.hdr 24 2 → i.cart ≠ [] → leAt x.hdr 28 4 = i.next →
      leAt x.hdr 34 2 = i.src → i.next + leAt x.hdr 32 2 ≤ cartLen i.cart → 0 < leAt x.hdr 32 2 → leAt x.hdr 32 2 ≤ 4096 →
      x.data.length = leAt x.hdr 32 2 → bitOf (leAt x.hdr 27 1) 1 = false → field (cartAddr i.cart + i.next) 44 4 = 1 →
      s.millLive (addrMill (cartAddr i.cart + i.next)) = true →
      (cartAddr i.cart + i.next) % 2 ^ 20 + x.data.length ≤ 2 ^ 20 → s.bad = [] →
      ∃ t, exec (.class0ParcelDeliver p) s = .next t ∧ t = { s with ports := t.ports, mem := t.mem, soft := t.soft } ∧
        (t.port p.toNat).ingress = [{ i with next := i.next + x.data.length }] ∧ (t.port p.toNat).arrived = [] ∧
        (∀ j, j < x.data.length → Memory.read t.mem (loftCell (addrMill (cartAddr i.cart + i.next))
          ((cartAddr i.cart + i.next) % 2 ^ 20) + j) = x.data.getD j 0)) ∧
    (s.ingressOk (leAt x.hdr 24 2) = true → (s.queue (leAt x.hdr 24 2)).pepoch = leAt x.hdr 2 1 →
      (s.port p.toNat).ingress = [] → bitOf (leAt x.hdr 27 1) 0 = true →
      s.canTake (s.queue (leAt x.hdr 24 2)).pair = .wait →
      ∃ t, exec (.class0ParcelDeliver p) s = .next t ∧ t = { s with ports := t.ports, tally := t.tally } ∧
        (t.port p.toNat).parked = some { x with since := s.clock.now } ∧ (t.port p.toNat).arrived = [])) ∧
  (∀ (p : PortIx) (ring : BitVec 16) (st : Status) (s : State),
    (st = .ok ∨ st = .absent → exec (.deniedReplyReceive p ring st) s = .next s) ∧
    (st = .denied ∨ st = .timeout → s.mills = [] →
      ∃ t, exec (.deniedReplyReceive p ring st) s = .next t ∧ t = { s with ports := t.ports, qs := t.qs, reports := t.reports } ∧
        (t.port p.toNat).sends = (s.port p.toNat).sends.filter (fun c => !(s.qs.queues.any (fun q =>
          decide (q.1 = c.ring) && q.2.portIs p.toNat && decide (q.2.arg % 65536 = ring.toNat)))))) ∧
  (∀ (p : PortIx) (x : Parcel) (s : State), (s.port p.toNat).parked = some x →
    ((∀ i ∈ (s.port p.toNat).ingress, i.ring ≠ leAt x.hdr 24 2) → s.canTake (s.queue (leAt x.hdr 24 2)).pair = .wait →
      exec (.ingressWaitEnd p) s = .next s) ∧
    (s.canTake (s.queue (leAt x.hdr 24 2)).pair ≠ .wait → s.ingressOk (leAt x.hdr 24 2) = false →
      ∃ t, exec (.ingressWaitEnd p) s = .next t ∧ t = { s with ports := t.ports, outbox := t.outbox } ∧
        (t.port p.toNat).parked = none ∧ t.outbox.length = s.outbox.length + 1) ∧
    (x.since + 130000 ≤ s.clock.now →
      ∃ t, exec (.ingressWaitTimeout p) s = .next t ∧ t = { s with ports := t.ports, outbox := t.outbox } ∧
        (t.port p.toNat).parked = none ∧
        t.outbox = s.outbox ++ [({ kind := .ringMessage, unit := p.toNat, addr := leAt x.hdr 34 2, data := (
          toLe 1 Status.timeout.code ++ toLe 2 (leAt x.hdr 24 2)) } : Out)] ∧
        (bitOf (leAt x.hdr 27 1) 1 = false → ∃ i ∈ (t.port p.toNat).ingress, i.ring = leAt x.hdr 24 2 ∧ i.cart = [])))

/-! ## Queues and granaries -/

/-- R285, R287, R289, R293, R294, R299, R311 to R314, R582: a doorbell that passes its checks moves its side's count, and one that does
not is discarded, counted and recorded with its kind; a burst of entries is fetched, or the queue enters its fetch-fault state; QS_QCTL
enables, clears and disables; a record is written only while its queue is disabled. -/
def Obligations.QueueControl : Prop :=
  (∀ (w : Writer) (q : QueueIx) (v : BitVec 17) (s : State), w.priv = true → w.reeve = false → s.shutOut w = false →
    s.bootRom = false →
    ((s.queue q.toNat).en = true → (s.queue q.toNat).fault = false → (s.queue q.toNat).reeve = false →
      (s.queue q.toNat).countsOk = true → q.toNat < 4096 →
      ((v - (s.queue q.toNat).head.v).toNat ≤ (s.queue q.toNat).size →
        ∃ t, exec (.doorbell w q v) s = .next t ∧ t = { s with qs := t.qs } ∧ (t.queue q.toNat).tail = Count.mk' v ∧
          (t.queue q.toNat).head = (s.queue q.toNat).head ∧ (t.queue q.toNat).en = true ∧
          (∀ k, k ≠ q.toNat → t.queue k = s.queue k)) ∧
      ((s.queue q.toNat).size < (v - (s.queue q.toNat).head.v).toNat →
        ∃ t, exec (.doorbell w q v) s = .next t ∧ t = { s with qs := { s.qs with err := t.qs.err }, tally := t.tally, w1c := t.w1c } ∧
          (s.qs.err.w1.getLsbD 31 = false → t.qs.err.w1 = 0x80000000 ||| BitVec.ofNat 32 (4 * 65536 + q.toNat)))) ∧
    ((s.queue q.toNat).en = false →
      ∃ t, exec (.doorbell w q v) s = .next t ∧ t = { s with qs := { s.qs with err := t.qs.err }, tally := t.tally, w1c := t.w1c } ∧
        (s.qs.err.w1.getLsbD 31 = false → t.qs.err.w1 = 0x80000000 ||| BitVec.ofNat 32 (65536 + q.toNat)))) ∧
  (∀ (q : QueueIx) (v : BitVec 17) (s : State), s.bootRom = false → q.toNat < 8192 → (s.queue q.toNat).en = true →
    (s.queue q.toNat).fault = false → (s.queue q.toNat).priv = true →
    ∃ t, exec (.doorbell .hostU q v) s = .next t ∧ t = { s with qs := { s.qs with err := t.qs.err }, tally := t.tally, w1c := t.w1c } ∧
      (s.qs.err.w1.getLsbD 31 = false →
        t.qs.err.w1 = 0x80000000 ||| BitVec.ofNat 32 (2 ^ 29 + 2 * 65536 + q.toNat))) ∧
  (∀ (q : QueueIx) (v : BitVec 17) (s : State), 4096 ≤ q.toNat → q.toNat < 8192 → (s.queue q.toNat).en = true →
    (s.queue q.toNat).fault = false → (s.queue q.toNat).reeve = true → (s.queue q.toNat).countsOk = true →
    (v - (s.queue q.toNat).head.v).toNat ≤ (s.queue q.toNat).occ →
    ∃ t, exec (.reeveDoorbell q v) s = .next t ∧ t = { s with qs := t.qs } ∧ (t.queue q.toNat).head = Count.mk' v ∧
      (t.queue q.toNat).tail = (s.queue q.toNat).tail ∧ (∀ k, k ≠ q.toNat → t.queue k = s.queue k)) ∧
  (∀ (q : QueueIx) (s : State), q.toNat < 4096 → (s.queue q.toNat).en = true → (s.queue q.toNat).fault = false →
    (s.queue q.toNat).fetch = false → (s.queue q.toNat).wdr = false → (s.queue q.toNat).disabling = false →
    (s.queue q.toNat).burst ≠ 0 → (s.queue q.toNat).countsOk = true →
    (∀ a b, a = (s.queue q.toNat).base + 64 * (((s.queue q.toNat).head.v.toNat + (s.queue q.toNat).fetched.length) %
        (s.queue q.toNat).size) → field a 44 4 = 1 → s.millLive (addrMill a) = true →
      a % 2 ^ 20 + 64 * (s.queue q.toNat).burst ≤ 2 ^ 20 → s.bad = [] → s.soft = [] →
      b = Memory.readN s.mem (loftCell (addrMill a) (a % 2 ^ 20)) (64 * (s.queue q.toNat).burst) →
      exec (.sqBurstArrive q) s = .next (s.modQueue q.toNat (fun x =>
        { x with fetched := x.fetched ++ frames64 (s.queue q.toNat).burst b }))) ∧
    (∀ b, s.streamRead (.queue (queueDie q.toNat)) ((s.queue q.toNat).base + 64 * (((s.queue q.toNat).head.v.toNat +
        (s.queue q.toNat).fetched.length) % (s.queue q.toNat).size)) (64 * (s.queue q.toNat).burst) = (.ok (some b), s) →
      exec (.sqBurstArrive q) s = .next (s.modQueue q.toNat (fun x =>
        { x with fetched := x.fetched ++ frames64 (s.queue q.toNat).burst b }))) ∧
    (∀ st, s.streamRead (.queue (queueDie q.toNat)) ((s.queue q.toNat).base + 64 * (((s.queue q.toNat).head.v.toNat +
        (s.queue q.toNat).fetched.length) % (s.queue q.toNat).size)) (64 * (s.queue q.toNat).burst) = (.error st, s) →
      ∃ t r, exec (.sqBurstArrive q) s = .next t ∧ t = { s with qs := t.qs, reports := s.reports ++ [r] } ∧
        t.queue q.toNat = { s.queue q.toNat with fetch := true } ∧ r.block = 6 ∧ r.status = st.code)) ∧
  (∀ (w : Writer) (q : QueueIx) (clr : Bool) (s : State), s.mayHost w = true → q.toNat < 8192 →
    (4 ≤ (s.queue q.toNat).lg → (s.queue q.toNat).lg ≤ 16 →
      ∃ t, exec (.queueEnable w q clr) s = .next t ∧ t = { s with qs := t.qs, cwHeld := t.cwHeld } ∧
        (clr = true → (t.queue q.toNat).en = true ∧ (t.queue q.toNat).fault = false ∧ (t.queue q.toNat).head = {} ∧
          (t.queue q.toNat).tail = {}) ∧
        (clr = false → (s.queue q.toNat).fault = false → (t.queue q.toNat).en = true ∧
          (t.queue q.toNat).head = (s.queue q.toNat).head ∧ (t.queue q.toNat).tail = (s.queue q.toNat).tail) ∧
        (t.queue q.toNat).record = (s.queue q.toNat).record ∧ (∀ k, k ≠ q.toNat → t.queue k = s.queue k)) ∧
    ((s.queue q.toNat).lg < 4 → exec (.queueEnable w q clr) s = .next (s.cwFail w 0x440000 5))) ∧
  (∀ (w : Writer) (q : QueueIx) (s : State), s.mayHost w = true →
    ((s.queue q.toNat).fetched = [] →
      ∃ t, exec (.queueDisable w q) s = .next t ∧ t = { s with qs := t.qs, cwHeld := t.cwHeld } ∧
        t.queue q.toNat = { s.queue q.toNat with en := false } ∧ (∀ k, k ≠ q.toNat → t.queue k = s.queue k)) ∧
    ((s.queue q.toNat).fetched ≠ [] → (s.queue q.toNat).en = true →
      ∃ t, exec (.queueDisable w q) s = .next t ∧ t = { s with qs := t.qs, cwHeld := t.cwHeld } ∧
        t.queue q.toNat = { s.queue q.toNat with disabling := true }) ∧
    ((s.queue q.toNat).en = false →
      ∃ t, exec (.ovfClr w q false) s = .next t ∧ t = { s with qs := t.qs, cwHeld := t.cwHeld } ∧
        t.queue q.toNat = { s.queue q.toNat with ovf := false })) ∧
  (∀ (w : Writer) (q : BitVec 13) (i : BitVec 3) (v : Word) (s : State), s.mayHost w = true → i.toNat < 6 →
    ((s.queue q.toNat).en = false →
      ∃ t, exec (.queueRecordWrite w q i v) s = .next t ∧ t = { s with qs := t.qs } ∧
        (t.queue q.toNat).bits (32 * i.toNat) 32 = (v &&& recordMask q.toNat i.toNat).toNat ∧
        (∀ j, j < 6 → j ≠ i.toNat → (t.queue q.toNat).bits (32 * j) 32 = (s.queue q.toNat).bits (32 * j) 32) ∧
        (∀ k, k ≠ q.toNat → t.queue k = s.queue k)) ∧
    ((s.queue q.toNat).en = true →
      ∃ t, exec (.queueRecordWrite w q i v) s = .next t ∧ t = { s with qs := { s.qs with err := t.qs.err }, w1c := t.w1c }))

/-- R291 to R293, R296, R302 to R308: the dispatcher places a run entry on its mill with its arguments and moves the head; the commands
of an SQ start a fence or a withdraw, step a placement epoch, set a ring up, resume streams; fences and withdraws end when nothing is
left; a pending completion is written at its CQ's tail. -/
def Obligations.QueueService : Prop :=
  (∀ (d : Die) (q : Nat) (e : List Byte) (s : State), s.nextEntry d q e → entryOp e = 1 → entryAny e = false →
    (s.cannotTake (entryMill e) = none → s.eligible (entryMill e) = true →
      ∃ t i, exec (.dispatchPlace d) s = .next t ∧ t = { s with qs := t.qs, mills := t.mills, tally := t.tally } ∧
        s.entryTaken t q ∧ (t.mill (entryMill e)).st.queue = (s.mill (entryMill e)).st.queue ++ [i] ∧
        i.entry = BitVec.ofNat 32 (entryEntry e) ∧
        i.args = (List.range 8).map (fun k => BitVec.ofNat 32 (entryArg e k)) ∧
        (∃ w, i.work = some w ∧ w.sq = q ∧ w.idx = (s.queue q).head.v ∧ w.tag = entryTag e) ∧ i.posted = s.clock.now ∧
        (∀ m, m ≠ entryMill e → t.mill m = s.mill m)) ∧
    (∀ a, s.cannotTake (entryMill e) = some a →
      ∃ t, exec (.dispatchPlace d) s = .next t ∧ t = { s with qs := t.qs } ∧ s.entryTaken t q)) ∧
  (∀ (d : Die) (q : Nat) (e : List Byte) (s : State), s.nextCommand d q 2 e → s.cannotTake (entryMill e) = none →
    entryEntry e ≠ 0 → entryMill e + entryEntry e ≤ 1152 →
    ∃ t f, exec (.fence d) s = .next t ∧ t = { s with qs := t.qs } ∧ s.entryTaken t q ∧ t.qs.fences = s.qs.fences ++ [f] ∧
      f.first = entryMill e ∧ f.count = entryEntry e ∧ f.ref.sq = q) ∧
  (∀ (d : Die) (q : Nat) (e : List Byte) (s : State), s.nextCommand d q 3 e → s.cannotTake (entryMill e) = none →
    entryEntry e % 4 = 1 → 1 ≤ entryArg e 1 → entryArg e 1 ≤ 1000 → (∀ x, ((s.mill (entryMill e)).eng x).queue = []) →
    (s.mill (entryMill e)).parity = [] →
    (∀ k, (s.mill (entryMill e)).slot k = none) →
    ∃ t f, exec (.withdraw d) s = .next t ∧ { s with qs := t.qs }.sameButMill t (entryMill e) ∧ s.entryTaken t q ∧
      t.qs.withdraws = s.qs.withdraws ++ [f] ∧ f.mill = some (entryMill e) ∧ f.sq = none ∧ f.cancelled = 0 ∧
      f.deadline = s.clock.now + entryArg e 1 * 1300 ∧ t.mill (entryMill e) = s.mill (entryMill e)) ∧
  (∀ (d : Die) (q : Nat) (e : List Byte) (s : State), s.nextCommand d q 4 e → entryEntry e % 4 = 0 →
    s.cannotTake (entryArg e 0) = none → s.millHeld (entryArg e 0) = false →
    (s.mill (entryArg e 0)).held.toNat = entryArg e 1 % 256 →
    ∃ t, exec (.migrate d) s = .next t ∧ { s with qs := t.qs }.sameButMill t (entryArg e 0) ∧ s.entryTaken t q ∧
      t.mill (entryArg e 0) = { s.mill (entryArg e 0) with
        held := (s.mill (entryArg e 0)).held + 1, accepted := (s.mill (entryArg e 0)).held + 1 }) ∧
  (∀ (d : Die) (q : Nat) (e : List Byte) (x : Queue) (s : State), s.nextCommand d q 5 e → 8192 ≤ entryEntry e →
    entryEntry e < 32768 → q < 4096 → x = { record := BitVec.ofNat 192 (leAt e 20 24), written := true, en := true } →
    x.ringRecordOk = true → x.tilled = false → (s.queue (entryEntry e)).occ = 0 → (s.queue x.pair).occ = 0 →
    s.qs.flights = [] → s.groups = [] →
    ∃ t, exec (.ringSetup d) s = .next t ∧ t = { s with qs := t.qs } ∧ s.entryTaken t q ∧ t.queue (entryEntry e) = x) ∧
  (∀ (d : Die) (q : Nat) (e : List Byte) (s : State), s.nextCommand d q 6 e → s.cannotTake (entryMill e) = none →
    entryArg e 0 < 256 →
    ∃ t, exec (.streamResumeCommand d) s = .next t ∧ { s with qs := t.qs }.sameButMill t (entryMill e) ∧ s.entryTaken t q ∧
      (∀ k sl, k < 8 → (s.mill (entryMill e)).slot k = some sl → bitOf (entryArg e 0) k = true →
        ∃ x, (t.mill (entryMill e)).slot k = some x ∧ x.halted = false ∧ x.descs = sl.descs ∧ x.pos = sl.pos)) ∧
  (∀ (d : Die) (c : Completion) (s : State), s.qs.pend d = [c] → (s.queue c.cq).en = true → (s.queue c.cq).fault = false →
    (s.queue c.cq).countsOk = true → (s.queue c.cq).occ < (s.queue c.cq).size → (s.queue c.cq).alert = false →
    ∀ a, a = (s.queue c.cq).base + 32 * ((s.queue c.cq).tail.v.toNat % (s.queue c.cq).size) → field a 44 4 = 1 →
    s.millLive (addrMill a) = true → a % 2 ^ 20 + 32 ≤ 2 ^ 20 → s.bad = [] →
    ∃ t, exec (.pendingCompletionPost d) s = .next t ∧ t = { s with qs := t.qs, mem := t.mem, soft := t.soft } ∧
      t.qs.pend d = [] ∧ (t.queue c.cq).tail = Count.mk' ((s.queue c.cq).tail.v + 1) ∧
      Memory.readN t.mem (loftCell (addrMill a) (a % 2 ^ 20)) 32 =
        completionBytes s c (s.queue c.cq).tail.v.toNat (s.queue c.cq).lg) ∧
  (∀ (q : QueueIx) (f : FenceRun) (s : State), s.qs.fences.find? (fun f => decide (f.ref.sq = q.toNat) && s.fenceMet f) = some f →
    f.ref.cq = none →
    exec (.fenceComplete q) s = .next { s with qs := { s.qs with fences := s.qs.fences.erase f } }) ∧
  (∀ (q : QueueIx) (w : WithdrawRun) (s : State),
    (s.qs.withdraws.find? (fun w => decide (w.ref.sq = q.toNat) && !w.expired) = some w → w.deadline ≤ s.clock.now →
      w.force = false →
      exec (.withdrawLimitExpiry q) s = .next { s with qs := { s.qs with
        withdraws := s.qs.withdraws.map (fun v => if v = w then { w with expired := true } else v) } }) ∧
    (s.qs.withdraws.find? (fun w => decide (w.ref.sq = q.toNat) && s.withdrawMet w) = some w → w.ref.cq = none →
      ∃ t, exec (.withdrawComplete q) s = .next t ∧ t = { s with qs := t.qs } ∧ t.qs.withdraws = s.qs.withdraws.erase w ∧
        (∀ k, w.sq = some k → (t.queue k).wdr = false)))

/-- R322, R324 to R328, R333 to R346: requests queue by pseudo-channel, and one to a closed site is answered ABSENT; a write changes
exactly the bytes its mask names, a read brings the granule; windows open on the cadence and end; a hot stack switches the cadence;
GRN_CTL, the masks and training runs follow their commit conditions. -/
def Obligations.Granaries : Prop :=
  (∀ (k : SiteIx) (a : BitVec 36) (src : BitVec 16) (tag : Byte) (wr : Bool) (mask : BitVec 64) (data : List Byte) (s : State),
    (s.siteOpen k.toNat = false →
      ∃ t o, exec (.granaryRequestArrive k a src tag wr mask data) s = .next t ∧ t = { s with outbox := s.outbox ++ [o] } ∧
        o.unit = src.toNat ∧ o.data.drop 16 = toLe 1 Status.absent.code) ∧
    (s.siteOpen k.toNat = true → ((s.granary k.toNat).pc ((s.granary k.toNat).pcOf a.toNat)).wr = [] →
      ((s.granary k.toNat).pc ((s.granary k.toNat).pcOf a.toNat)).rd.length < 64 →
      ∃ t r, exec (.granaryRequestArrive k a src tag wr mask data) s = .next t ∧ t = { s with granaries := t.granaries } ∧
        r.addr = a.toNat / 64 * 64 ∧ r.write = wr ∧ r.mask = mask ∧ r.src = src.toNat ∧
        (wr = true → ((t.granary k.toNat).pc ((s.granary k.toNat).pcOf a.toNat)).wr = [r]) ∧
        (wr = false → ((t.granary k.toNat).pc ((s.granary k.toNat).pcOf a.toNat)).rd =
          ((s.granary k.toNat).pc ((s.granary k.toNat).pcOf a.toNat)).rd ++ [r]))) ∧
  (∀ (k : SiteIx) (p i : BitVec 6) (r : GrnReq) (s : State), s.siteOpen k.toNat = true → (s.granary k.toNat).window = none →
    s.groups = [] → s.bad = [] → s.soft = [] → r.data.length = 64 →
    (((s.granary k.toNat).pc p.toNat).wr[i.toNat]? = some r →
      (∀ w ∈ ((s.granary k.toNat).pc p.toNat).wr.take i.toNat, w.same r = false) →
      ∃ t, exec (.granaryCommandIssue k p true i) s = .next t ∧
        t = { s with granaries := t.granaries, mem := t.mem, outbox := t.outbox } ∧
        (∀ j, j < 64 → Memory.read t.mem (stackCell (physAddr k.toNat r.addr) + j) =
          if r.mask.getLsbD j then r.data.getD j 0 else Memory.read s.mem (stackCell (physAddr k.toNat r.addr) + j)) ∧
        (∀ c, (c < stackCell (physAddr k.toNat r.addr) ∨ stackCell (physAddr k.toNat r.addr) + 64 ≤ c) →
          Memory.read t.mem c = Memory.read s.mem c) ∧
        ((t.granary k.toNat).pc p.toNat).wr = ((s.granary k.toNat).pc p.toNat).wr.eraseIdx i.toNat) ∧
    (((s.granary k.toNat).pc p.toNat).rd[i.toNat]? = some r → r.waits = none →
      ∃ t x, exec (.granaryCommandIssue k p false i) s = .next t ∧
        t = { s with granaries := t.granaries, outbox := t.outbox } ∧
        (t.granary k.toNat).reads = (s.granary k.toNat).reads ++ [x] ∧ x.pc = p.toNat ∧ x.req = r ∧ x.code = 0 ∧
        x.data = Memory.readN s.mem (stackCell (physAddr k.toNat r.addr)) 64)) ∧
  (∀ (k : SiteIx) (p : BitVec 6) (r : GrnRead) (s : State),
    (s.granary k.toNat).reads.find? (fun r => decide (r.pc = p.toNat)) = some r → r.code = 0 → r.due ≤ s.clock.now →
    ∃ t o, exec (.granaryReadReturn k p) s = .next t ∧ t = { s with granaries := t.granaries, outbox := s.outbox ++ [o] } ∧
      (t.granary k.toNat).reads = (s.granary k.toNat).reads.erase r ∧ o.kind = .torusPacket ∧ o.unit = r.req.src ∧
      o.data.drop 16 = padTo 128 r.data) ∧
  (∀ (k : SiteIx) (c : GrnCmd) (rest : List GrnCmd) (s : State), s.siteOpen k.toNat = true →
    (s.granary k.toNat).booked = c :: rest → c.data.length = 64 →
    ∃ t, exec (.bookedGranaryCommand k none) s = .next t ∧ (t.granary k.toNat).booked = rest ∧ t.mills = s.mills ∧ t.qs = s.qs ∧
      (c.write = true → ∀ j, j < 64 →
        Memory.read t.mem (stackCell (physAddr k.toNat (c.addr.toNat / 64 * 64)) + j) = c.data.getD j 0) ∧
      (c.write = false → t.mem = s.mem ∧ ∃ x, (t.granary k.toNat).reads = (s.granary k.toNat).reads ++ [x] ∧
        x.due = hbmRelease s.clock.now)) ∧
  (∀ s : State, s.clock.cyc = 0 →
    (s.clock.tick.toNat % s.cadence.interval = 0 → s.clock.tick.toNat % 1024 ≠ 0 →
      ∃ t, exec .refreshWindow s = .next t ∧ t = { s with granaries := t.granaries, outbox := t.outbox } ∧
        (∀ k ∈ s.poweredSites, (t.granary k).window = some (s.clock.now + 540) ∧ (t.granary k).slot = false) ∧
        (∀ k, k ∉ s.poweredSites → t.granary k = s.granary k)) ∧
    (s.clock.tick.toNat % 1024 = 0 →
      ∃ t, exec .trainingSlot s = .next t ∧ t = { s with granaries := t.granaries, outbox := t.outbox } ∧
        (∀ k ∈ s.poweredSites, (t.granary k).window = some (s.clock.now + 2496) ∧ (t.granary k).slot = true))) ∧
  (∀ (n : Nat) (s : State), s.granaries.findSome? (fun g => g.2.window) = some n → n ≤ s.clock.now →
    ∃ t, exec .refreshWindowEnd s = .next t ∧ t = { s with granaries := t.granaries } ∧
      (∀ k, (t.granary k).window = none ∧ (t.granary k).opened = (s.granary k).opened)) ∧
  (∀ (k : SiteIx) (temp : Byte) (s : State), s.hasGranary k.toNat = true → (s.granary k.toNat).powered = true →
    s.clock.tick.toNat % 256 = 0 →
    (temp.toNat ≤ 85 → exec (.temperatureReading k temp) s = .next (s.modGranary k.toNat (fun g => { g with temp := temp }))) ∧
    (85 < temp.toNat → s.cadence.hot = false → s.cadence.next ≠ some true → s.hp.alerts.length < 64 →
      ∃ t, exec (.temperatureReading k temp) s = .next t ∧ t.cadence.next = some true ∧ t.cadence.tcf = true ∧
        t.cadence.hot = false ∧ (t.granary k.toNat).hot = true ∧ t.hp.alerts.length = s.hp.alerts.length + 1 ∧
        t.mem = s.mem ∧ t.mills = s.mills)) ∧
  (∀ (b : Bool) (s : State), s.cadence.next = some b → s.clock.tick.toNat % 65536 = 0 → s.clock.cyc = 0 →
    exec .cadenceChange s = .next { s with cadence := { s.cadence with hot := b, next := none } }) ∧
  (∀ (w : Writer) (hot : Bool) (s : State), s.mayHost w = true →
    (s.almanacOf (!hot) = true →
      ∃ t, exec (.grnCadWrite w hot) s = .next t ∧ t = { s with cadence := { s.cadence with refused := true }, w1c := t.w1c }) ∧
    (hot = false → (∃ k, k < 12 ∧ s.hasGranary k = true ∧ 80 < (s.granary k).temp.toNat) →
      ∃ t, exec (.grnCadWrite w hot) s = .next t ∧ t = { s with cadence := { s.cadence with refused := true }, w1c := t.w1c }) ∧
    (hot = true → s.almanacOf false = false →
      exec (.grnCadWrite w hot) s = .next { s with cadence := { s.cadence with
        next := if s.cadence.hot = true then none else some true } })) ∧
  (∀ (w : Writer) (k : SiteIx) (s : State), s.mayHost w = true → s.hasGranary k.toNat = true →
    ((s.granary k.toNat).state = 2 → exec (.grnOpen w k) s =
      .next (s.modGranary k.toNat (fun g => { g with opened := true, stageL := [], stageH := [] }))) ∧
    ((s.granary k.toNat).state ≠ 2 → exec (.grnOpen w k) s = .next (s.cwFail w (0xC00000 + k.toNat * 0x10000) 5)) ∧
    (∀ (h : BitVec 4) (v o : Word) (n : Nat), h.toNat < 12 → (s.granary k.toNat).opened = false →
      (s.granary k.toNat).stageL.find? (fun e => decide (e.1 = h.toNat)) = some (n, o) →
      maskOk h.toNat ((v &&& 0xFF).toNat * 2 ^ 32 + o.toNat) = true →
      ∃ t, exec (.grnHashWrite w k h true v) s = .next t ∧ t = { s with granaries := t.granaries } ∧
        (t.granary k.toNat).mask h.toNat = BitVec.ofNat 40 ((v &&& 0xFF).toNat * 2 ^ 32 + o.toNat) ∧
        (∀ j, j ≠ h.toNat → (t.granary k.toNat).mask j = (s.granary k.toNat).mask j))) ∧
  (∀ (k : SiteIx) (lg : BitVec 5) (pt : BitVec 2) (dir pc : Bool) (ch : BitVec 5) (s : State), s.hasGranary k.toNat = true →
    (s.granary k.toNat).busy = false → (s.granary k.toNat).state ≤ 2 → (s.granary k.toNat).opened = false → lg.toNat ≤ 16 →
    ∃ t, exec (.trainingRunStart k lg pt dir pc ch) s = .next t ∧ t = { s with granaries := t.granaries } ∧
      (t.granary k.toNat).busy = true ∧ (t.granary k.toNat).done = false ∧ (t.granary k.toNat).state ≠ 0 ∧
      (t.granary k.toNat).trn = { lg := lg.toNat, pattern := pt.toNat, dir := dir, pc := bn pc, ch := ch.toNat }) ∧
  (∀ (k : SiteIx) (errs : List (BitVec 16)) (s : State), (s.granary k.toNat).busy = true → (s.granary k.toNat).opened = false →
    ∃ t, exec (.trainingRunDone k errs) s = .next t ∧ t = { s with granaries := t.granaries } ∧
      (t.granary k.toNat).busy = false ∧ (t.granary k.toNat).done = true ∧ (t.granary k.toNat).cut = false ∧
      (∀ i, i < 34 → i < errs.length → Table.get 0 (t.granary k.toNat).errs i = errs.getD i 0)) ∧
  (∀ (k : SiteIx) (l : BitVec 6) (a b : BitVec 7) (s : State), s.hasGranary k.toNat = true → l.toNat < 34 →
    (s.granary k.toNat).opened = false →
    exec (.trainingDelayWrite k l a b) s = .next (s.modGranary k.toNat (fun g => { g with delays := (Table.put {} g.delays
      (((s.granary k.toNat).trn.ch * 2 + (s.granary k.toNat).trn.pc) * 34 + l.toNat) { wr := a, rd := b }) }))) ∧
  (∀ (k : SiteIx) (ok : Bool) (ls : List (BitVec 16)) (s : State), s.hasGranary k.toNat = true →
    (s.granary k.toNat).opened = false → (s.granary k.toNat).state ≤ 1 →
    exec (.granaryTrainingComplete k ok ls) s =
      .next (s.modGranary k.toNat (fun g => { g with state := if ok then 2 else 5, modes := ls }))) ∧
  (∀ (k : SiteIx) (a : BitVec 36) (s : State), s.hasGranary k.toNat = true → (s.granary k.toNat).powered = true →
    s.clock.tick.toNat % 65536 < 4 → s.groups = [] →
    ∃ t x, exec (.softRowRepair k a) s = .next t ∧ t = { s with granaries := t.granaries } ∧
      (t.granary k.toNat).repairs = (s.granary k.toNat).repairs ++ [x] ∧ x.2 = a.toNat / 2 ^ 22)

/-! ## The page ledger and the fabric -/

/-- R355 to R357, R360, R361: an update that 11 Table 2 allows changes both copies of its entry and of no other, drops the page from
every cache, zeroes the frame it gives up and is outstanding; one that the table refuses, or a reeve's under an old term, leaves its
status alone; a commit while the path's update is outstanding fails; a completed update clears its path and its frames' seals. -/
def Obligations.LedgerUpdates : Prop :=
  (∀ (w : Writer) (page : BitVec 19) (e : LedgerEntry) (s : State), s.mayHost w = true → s.ledger.host = none →
    e = s.ledger.copy .w page.toNat → e.ok = true → (s.ledger.copy .e page.toNat).ok = true →
    (s.refusal page.toNat e s.ledger.upd0 s.ledger.upd1 = none →
      ∃ t u, exec (.ledgerUpdate (.host w) page) s = .next t ∧
        t = { s with ledger := t.ledger, mem := t.mem, bad := t.bad, soft := t.soft } ∧
        t.ledger.host = some u ∧ u.page = page.toNat ∧ u.old = e ∧ u.fresh = updated e s.ledger.upd0 s.ledger.upd1 ∧
        t.ledger.reeve = s.ledger.reeve ∧ t.ledger.upd2.toNat = page.toNat ∧ t.ledger.upage = page.toNat ∧
        (∀ d, t.ledger.copy d page.toNat = u.fresh ∧
          ∀ q, q ≠ page.toNat → t.ledger.copy d q = s.ledger.copy d q) ∧
        (∀ c ∈ t.ledger.caches, ∀ l ∈ c.lines, l.1 ≠ page.toNat) ∧
        (∀ f ∈ u.zero, ∀ i, i < 2 ^ 21 → Memory.read t.mem (stackCell (f * 2 ^ 21) + i) = 0) ∧
        (∀ a, (∀ f ∈ u.zero, a < stackCell (f * 2 ^ 21) ∨ stackCell (f * 2 ^ 21) + 2 ^ 21 ≤ a) →
          Memory.read t.mem a = Memory.read s.mem a)) ∧
    (∀ st, s.refusal page.toNat e s.ledger.upd0 s.ledger.upd1 = some st →
      ∃ t, exec (.ledgerUpdate (.host w) page) s = .next t ∧ t = { s with ledger := { s.ledger with
        upd2 := t.ledger.upd2, usrc := false, ustatus := st.code, upage := page.toNat } } ∧
        t.ledger.upd2.toNat = page.toNat)) ∧
  (∀ (w : Writer) (page : BitVec 19) (s : State), s.mayHost w = true → s.ledger.host.isSome = true →
    exec (.ledgerUpdate (.host w) page) s = .next (s.cwFail w offPglUpd2 5)) ∧
  (∀ (term ctl frame : Word) (page : BitVec 19) (s : State), s.ledger.reeve = none →
    (term ≠ s.bw.term → ∃ t o, exec (.ledgerUpdate (.reeve term ctl frame) page) s = .next t ∧
      t = { s with tally := t.tally, outbox := s.outbox ++ [o], ledger := { s.ledger with
        usrc := true, ustatus := Status.denied.code, upage := page.toNat } } ∧
      o.kind = .ringMessage ∧ o.addr = page.toNat ∧ o.data = toLe 1 Status.denied.code) ∧
    (∀ e, term = s.bw.term → e = s.ledger.copy .w page.toNat → e.ok = true → (s.ledger.copy .e page.toNat).ok = true →
      s.refusal page.toNat e ctl frame = none →
      ∃ t u, exec (.ledgerUpdate (.reeve term ctl frame) page) s = .next t ∧
        t = { s with ledger := t.ledger, mem := t.mem, bad := t.bad, soft := t.soft } ∧ t.ledger.reeve = some u ∧
        u.term = some term ∧ u.fresh = updated e ctl frame ∧ t.ledger.host = s.ledger.host ∧
        ∀ d, t.ledger.copy d page.toNat = u.fresh ∧ ∀ q, q ≠ page.toNat → t.ledger.copy d q = s.ledger.copy d q)) ∧
  (∀ (u : LedgerUpdate) (s : State), s.ledger.host = some u →
    (s.oldAccess u = true → exec (.ledgerUpdateComplete false) s = .next s) ∧
    (s.oldAccess u = false → s.hp.posted = [] → s.hp.reads = [] → s.dbg.run = none →
      ∃ t, exec (.ledgerUpdateComplete false) s = .next t ∧ t = { s with ledger := t.ledger } ∧ t.ledger.host = none ∧
        t.ledger.ustatus = 0 ∧ t.ledger.upage = u.page ∧ t.ledger.usrc = false ∧
        (∀ f ∈ u.zero, Table.get 0 t.ledger.seals f = 0) ∧
        (∀ f, f ∉ u.zero → Table.get 0 t.ledger.seals f = Table.get 0 s.ledger.seals f) ∧
        t.ledger.copyW = s.ledger.copyW ∧ t.ledger.copyE = s.ledger.copyE ∧ t.ledger.reeve = s.ledger.reeve))

/-- R359, R363, R370, R377 to R390, R395, R397: a plot leaves Live at the tick after it was asked to, opens, and is live after its two
release stages; its taps answer ABSENT unless it is live or idle, serve its block memories but in states 0, 1 and 3, stamp its packets
and read and write through the ledger; its logic starts and ends streams and puts carts; a block memory delivers a word in the next
fabric cycle; the probe pins carry a byte of the probe bus. -/
def Obligations.FabricCommands : Prop :=
  (∀ (p : PlotIx) (st : PlotState) (s : State), (s.plot p.toNat).closing = some st →
    (s.plot p.toNat).state = .live ∨ (s.plot p.toNat).state = .idle → (s.plot p.toNat).asked < s.clock.tick → s.clock.cyc = 0 →
    (s.plot p.toNat).carts = [] →
    ∃ t, exec (.plotClose p) s = .next t ∧ t = { s with fab := t.fab, outbox := t.outbox } ∧
      (t.plot p.toNat).state = st ∧ (t.plot p.toNat).closing = none ∧ (t.plot p.toNat).writesOn = false ∧
      (t.plot p.toNat).resetsOn = true ∧ (t.plot p.toNat).streams = [] ∧
      (t.plot p.toNat).nets = (s.plot p.toNat).nets ∧ (t.plot p.toNat).regs = (s.plot p.toNat).regs ∧
      t.outbox.length = s.outbox.length + (s.plot p.toNat).streams.length ∧
      ∀ j, j ≠ p.toNat → t.plot j = { s.plot j with hold := (t.plot j).hold }) ∧
  (∀ (p : PlotIx) (k : BitVec 64) (s : State), (s.plot p.toNat).releaseAt = some k → (s.plot p.toNat).state = .configured →
    k < s.clock.tick → s.clock.cyc = 0 → s.fabN (plotDie p.toNat) ≠ 0 →
    ∃ t, exec (.plotRelease p) s = .next t ∧ t = { s with fab := t.fab } ∧ (t.plot p.toNat).state = .releasing ∧
      (t.plot p.toNat).stage = 0 ∧ (t.plot p.toNat).stageAt = s.clock.now ∧ (t.plot p.toNat).writesOn = false ∧
      (t.plot p.toNat).resetsOn = true ∧ (t.plot p.toNat).releaseAt = none ∧
      (t.plot p.toNat).image = (s.plot p.toNat).image ∧ ∀ j, j ≠ p.toNat → t.plot j = s.plot j) ∧
  (∀ (p : PlotIx) (s : State), (s.plot p.toNat).state = .releasing → s.fabN (plotDie p.toNat) ≠ 0 →
    ((s.plot p.toNat).stage = 0 → (s.plot p.toNat).stageAt + s.fabCycles (plotDie p.toNat) 16 ≤ s.clock.now →
      exec (.plotReleaseStage p) s = .next (s.modPlot p.toNat (fun x => { x with stage := 1, writesOn := true }))) ∧
    ((s.plot p.toNat).stage ≠ 0 → (s.plot p.toNat).stageAt + s.fabCycles (plotDie p.toNat) 32 ≤ s.clock.now →
      exec (.plotReleaseStage p) s = .next (s.modPlot p.toNat (fun x =>
        { x with stage := 2, resetsOn := false, state := .live, asked := s.clock.tick }))) ∧
    ((s.plot p.toNat).stage ≠ 0 → s.inTick →
      ∃ t, exec (.plotReleaseStage p) s = .next t ∧ (t.plot p.toNat).state = .live ∧ (t.plot p.toNat).resetsOn = false ∧
        t.clock.now = max s.clock.now ((s.plot p.toNat).stageAt + s.fabCycles (plotDie p.toNat) 32))) ∧
  (∀ (d : Die) (x : BitVec 6) (hdr data : List Byte) (s : State), x.toNat < 48 → s.hdrOk hdr = true →
    nodeEnd (pktHdr hdr).dst = 5 →
    (∀ sp, (if sp && decide ((pktHdr hdr).kind ≤ 1) then (s.plot (tapPlot d x.toNat)).serves else (s.plot (tapPlot d x.toNat)).answers) =
      false → (pktHdr hdr).slot = none → (pktHdr hdr).tag % 8 ≠ 5 →
      ∃ t o, exec (.tapPacketArrive d x sp hdr data) s = .next t ∧ t = { s with tally := t.tally, outbox := s.outbox ++ [o] } ∧
        o.kind = .torusPacket ∧ o.unit = (pktHdr hdr).src ∧ o.addr = (pktHdr hdr).addr) ∧
    ((s.plot (tapPlot d x.toNat)).answers = true →
      exec (.tapPacketArrive d x false hdr data) s = .next { s with outbox := s.outbox ++
        [({ kind := .userPacket, unit := tapPlot d x.toNat, addr := (pktHdr hdr).addr, data := hdr.take 16 ++ data } : Out)] }) ∧
    (∀ b c, (s.plot (tapPlot d x.toNat)).serves = true → (pktHdr hdr).kind = 0 → b = field (pktHdr hdr).addr 16 8 →
      b < 192 → c = bramCell (tapPlot d x.toNat) b ((pktHdr hdr).addr % 2 ^ 13) →
      (pktHdr hdr).addr % 2 ^ 13 + data.length ≤ 4608 →
      (Table.get {} (s.plot (tapPlot d x.toNat)).brams b).portBUser = false →
      (pktHdr hdr).pepoch = (s.plot (tapPlot d x.toNat)).accepted.toNat → s.bad = [] →
      ∃ t, exec (.tapPacketArrive d x true hdr data) s = .next t ∧ t = { s with mem := t.mem, soft := t.soft } ∧
        ∀ n, n < 8 → Memory.readN t.mem (c + 64 * n) 64 =
          if bitOf (pktHdr hdr).gmask n then padTo 64 ((data.drop (64 * n)).take 64)
          else Memory.readN s.mem (c + 64 * n) 64)) ∧
  (∀ (d : Die) (x : BitVec 6) (hdr data : List Byte) (s : State), x.toNat < 48 →
    (s.plot (tapPlot d x.toNat)).state = .live →
    (∀ g, s.hdrOk hdr = true → s.deadMill (pktHdr hdr) = false →
      g = s.p3Into d (s.tapXY x.toNat).1 (s.tapXY x.toNat).2 7 →
      (pktHdr hdr).prio ≠ 3 ∨ g = none ∨ (s.plot (tapPlot d x.toNat)).tilled = false →
      exec (.tapUserPacketSend d x hdr data) s = .next { s with outbox := s.outbox ++
        [({ kind := .torusPacket, unit := s.tapNode d x.toNat, addr := (pktHdr hdr).addr,
            data := ({ pktHdr hdr with
              src := s.tapNode d x.toNat, vc := false, prio := if (pktHdr hdr).prio = 3 then 1 else (pktHdr hdr).prio
              age := (s.millCycle s.clock.now).toNat % 65536
              pepoch := (if (pktHdr hdr).kind = 1 ∨ (pktHdr hdr).kind = 2 ∨ (pktHdr hdr).kind = 6 then 0
                         else (s.plot (tapPlot d x.toNat)).pepoch.toNat) } : PktHdr).bytes ++ data } : Out)] }) ∧
    (∀ g, s.hdrOk hdr = true → s.deadMill (pktHdr hdr) = false → (pktHdr hdr).prio = 3 →
      s.p3Into d (s.tapXY x.toNat).1 (s.tapXY x.toNat).2 7 = some g → (s.plot (tapPlot d x.toNat)).tilled = true →
      (s.plot (tapPlot d x.toNat)).gslot.toNat = g → (s.group g).state = .running →
      ∃ t o, exec (.tapUserPacketSend d x hdr data) s = .next t ∧ t = { s with outbox := s.outbox ++ [o] } ∧
        o.kind = .torusPacket ∧ (pktHdr o.data).prio = 3) ∧
    (s.hdrOk hdr = true → s.deadMill (pktHdr hdr) = true →
      exec (.tapUserPacketSend d x hdr data) s = .next (s.tellUser (tapPlot d x.toNat) (pktHdr hdr).addr .absent [])) ∧
    (s.hdrOk hdr = false →
      ∃ t, exec (.tapUserPacketSend d x hdr data) s = .next t ∧
        t = { s with torW := t.torW, torE := t.torE, w1c := t.w1c, reports := t.reports } ∧
        ((match d with | .w => s.torW | .e => s.torE).w3.getLsbD 31 = false → t.reports.length = s.reports.length + 1))) ∧
  (∀ (p : PlotIx) (va : BitVec 40) (len : BitVec 12) (e : LedgerEntry) (s : State), (s.plot p.toNat).state = .live →
    s.ledger.updating (va.toNat / 2 ^ 21) = false → s.ledger.lines (.tap (plotDie p.toNat)) = [] →
    e = s.ledger.copy (plotDie p.toNat) (va.toNat / 2 ^ 21) → e.ok = true →
    (∀ data, e.present = false → len.toNat ≤ pageRoom va.toNat →
      ∃ t o, exec (.tapVirtualAccess p va len data) s = .next t ∧ t = { s with ledger := t.ledger, outbox := s.outbox ++ [o] } ∧
        o.kind = .userPacket ∧ o.unit = p.toNat ∧ o.data = toLe 1 Status.faultPage.code) ∧
    (∀ b c, e.present = true → e.writable = true → s.entryPlace e va.toNat = .cell c → b.length ≤ pageRoom va.toNat →
      s.bad = [] →
      ∃ t o, exec (.tapVirtualAccess p va len (some b)) s = .next t ∧
        t = { s with ledger := t.ledger, mem := t.mem, soft := t.soft, outbox := s.outbox ++ [o] } ∧
        o.data = toLe 1 Status.ok.code ∧ Memory.readN t.mem c b.length = b ∧
        ∀ a, (a < c ∨ c + b.length ≤ a) → Memory.read t.mem a = Memory.read s.mem a) ∧
    (∀ c, e.present = true → s.entryPlace e va.toNat = .cell c → len.toNat ≤ pageRoom va.toNat → s.bad = [] → s.soft = [] →
      ∃ t o, exec (.tapVirtualAccess p va len none) s = .next t ∧ t = { s with ledger := t.ledger, outbox := s.outbox ++ [o] } ∧
        o.data = toLe 1 Status.ok.code ++ Memory.readN s.mem c len.toNat)) ∧
  (∀ (p : PlotIx) (s : State), (s.plot p.toNat).state = .live →
    (∀ tag, exec (.tapCartStage p (.streamStart tag)) s =
      .next (s.modPlot p.toNat (fun x => { x with streams := x.streams ++ [{ tag := tag.toNat, bytes := 0 }] }))) ∧
    (∀ tag x, (s.plot p.toNat).streams = [x] → x.tag = tag.toNat →
      ∃ t o, exec (.tapCartStage p (.streamEnd tag)) s = .next t ∧ t = { s with fab := t.fab, outbox := s.outbox ++ [o] } ∧
        (t.plot p.toNat).streams = [] ∧ o.addr = x.tag ∧ o.data = toLe 1 Status.ok.code ++ toLe 4 x.bytes) ∧
    (∀ q reading c u, stageTap (s.queue q.toNat).cons p.toNat = true → s.canTake q.toNat = .ok →
      s.takeCart q.toNat = (some c, u) → cartOk c = true →
      ∃ t, exec (.tapCartStage p (.take q reading)) s = .next t ∧ t = { u with fab := t.fab, outbox := t.outbox } ∧
        (t.plot p.toNat).carts = (u.plot p.toNat).carts ++ [{ ring := q.toNat, cart := c, wrote := 0, reading := reading }]) ∧
    (∀ i c, (s.plot p.toNat).carts[i]? = some c → s.canPut (s.queue c.ring).pair = .ok →
      ∃ t x, exec (.tapCartStage p (.put i)) s = .next t ∧
        t = { s with fab := t.fab, qs := { s.qs with flights := s.qs.flights ++ [x] } } ∧
        (t.plot p.toNat).carts = (s.plot p.toNat).carts.eraseIdx i ∧ x.ring = (s.queue c.ring).pair ∧ x.at_ = s.clock.now + 4)) ∧
  (∀ (p : PlotIx) (b : Byte) (w : BitVec 12) (m : Bram) (s : State), b.toNat < 192 →
    m = Table.get {} (s.plot p.toNat).brams b.toNat → w.toNat * aspectWidth m.aspect + aspectWidth m.aspect ≤ 36864 →
    (s.plot p.toNat).state = .live → s.bad = [] → s.soft = [] → (s.plot p.toNat).image.ports = [] →
    ∀ v u, u = s.afterFab (plotDie p.toNat) 1 → v = BitVec.ofNat 72 (leNat (Memory.readN s.mem
        (bramCell p.toNat b.toNat (w.toNat * aspectWidth m.aspect / 72 * 9)) 9) /
        2 ^ (w.toNat * aspectWidth m.aspect % 72) % 2 ^ aspectWidth m.aspect) →
    (∃ t, exec (.blockMemoryUserPortRead p b false w) s = .next t ∧ t = { u with fab := t.fab } ∧
      Table.get {} (t.plot p.toNat).brams b.toNat =
        { Table.get {} (u.plot p.toNat).brams b.toNat with portA := v, err := false }) ∧
    (m.portBUser = true →
      ∃ t, exec (.blockMemoryUserPortRead p b true w) s = .next t ∧ t = { u with fab := t.fab } ∧
        Table.get {} (t.plot p.toNat).brams b.toNat =
          { Table.get {} (u.plot p.toNat).brams b.toNat with portB := v, err := false }) ∧
    (m.portBUser = false → exec (.blockMemoryUserPortRead p b true w) s = .next s)) ∧
  (∀ (d : Die) (s : State), (s.fab.prbPin.getLsbD 31 = false →
      exec .probePinUpdate s = .next { s with fab := { s.fab with pins := none } }) ∧
    (s.fab.prbPin.getLsbD 31 = true → s.userIo = true → d = (if s.fab.prbPin.getLsbD 2 then Die.e else Die.w) →
      ∃ t b u, exec .probePinUpdate s = .next t ∧ u = s.advanceTo (s.clock.now + s.pinCycles d) ∧
        t = { u with fab := { u.fab with pins := some b }, outbox := t.outbox } ∧
        b = BitVec.ofNat 8 ((u.probeBus d).1.toNat / 2 ^ (8 * (s.fab.prbPin.toNat % 4))) ∧
        t.outbox = u.outbox ++ [{ kind := .probePin, unit := d.num, addr := 0, data := [b] }]))

/-! ## The loader and the sexton -/

/-- R407 to R420: a load starts, arms the chain or aborts by a committed CFG_LOAD, and one while a load runs is refused with reason 8;
window bytes in order join the sheaf, others fail it; stage A fails it before any write or blanks the plots it names; a sheaf that
stops coming times out; stage C refuses it or it commits; the chain passes bytes, ends and aborts on; the err bit, releases and
readback follow. -/
def Obligations.LoaderCommands : Prop :=
  (∀ (w : Writer) (s : State), s.may w = true →
    (s.cfg.loading = false →
      (∃ t, exec (.loadStart w) s = .next t ∧ t = { s with cfg := t.cfg, cwHeld := t.cwHeld } ∧
        t.cfg.run = some { src := 1, lastAt := s.clock.now } ∧ t.cfg.chain = some { hop := 0 } ∧ t.cfg.state = 2 ∧
        t.cfg.reason = 0 ∧ t.cfg.sect = 0 ∧ t.cfg.pos = 0 ∧ t.cfg.frames = s.cfg.frames ∧ t.cfg.fullOk = s.cfg.fullOk) ∧
      (∃ t, exec (.chainArm w) s = .next t ∧ t = { s with cfg := t.cfg, cwHeld := t.cwHeld } ∧
        t.cfg.run = some { src := 2, armed := true, lastAt := s.clock.now } ∧ t.cfg.chain = none ∧ t.cfg.state = 1 ∧
        t.cfg.aw3 = true ∧ t.cfg.frames = s.cfg.frames ∧ t.cfg.fullOk = s.cfg.fullOk)) ∧
    (s.cfg.loading = true →
      exec (.loadStart w) s = .next ((s.cwFail w offCfgLoad 5).modCfg (fun c => { c with reason := 8 })) ∧
      exec (.chainArm w) s = .next ((s.cwFail w offCfgLoad 5).modCfg (fun c => { c with reason := 8 }))) ∧
    (s.cfg.run = none → exec (.loadAbort w) s = .next (s.cwHold offCfgLoad 0)) ∧
    (∀ r, s.cfg.run = some r → exec (.loadAbort w) s = .next ((s.loadFail 12 0 0).cwHold offCfgLoad 0))) ∧
  (∀ (why sect fa : Nat) (r : LoadRun) (s : State), s.cfg.run = some r → r.passed = false → s.cfg.forwards = false → why < 16 →
    ∃ t, s.loadFail why sect fa = t ∧ t = { s with cfg := t.cfg, w1c := t.w1c } ∧ t.cfg.run = none ∧ t.cfg.chain = none ∧ t.cfg.state = 6 ∧
      t.cfg.reason.toNat = why ∧ t.cfg.err = (s.cfg.err || decide (why ≠ 12)) ∧ t.cfg.frames = s.cfg.frames ∧
      t.cfg.fullOk = s.cfg.fullOk) ∧
  (∀ (off : BitVec 20) (data : List Byte) (r : LoadRun) (k : ChainRun) (s : State), s.cfg.run = some r → s.cfg.chain = some k →
    r.src = 1 → data ≠ [] →
    (off.toNat ≠ k.got % 2 ^ 20 → exec (.sheafWindowWrite off data) s = .next (s.loadFail 11 r.secs 0)) ∧
    (off.toNat = k.got % 2 ^ 20 → r.passed = false → k.follow = none → 16 ≤ (r.rx ++ data).length →
      (r.rx ++ data).length < sheafLen (r.rx ++ data) →
      ∃ t x y, exec (.sheafWindowWrite off data) s = .next t ∧ t = { s with cfg := t.cfg } ∧ t.cfg.run = some x ∧
        x = { r with rx := r.rx ++ data, lastAt := s.clock.now } ∧ t.cfg.chain = some y ∧
        y = { k with got := k.got + data.length } ∧ t.cfg.pos = s.cfg.pos + BitVec.ofNat 64 data.length ∧
        t.cfg.state = s.cfg.state ∧ t.cfg.frames = s.cfg.frames)) ∧
  (∀ (r : LoadRun) (s : State), s.cfg.run = some r → r.armed = false → r.passed = false → r.headReady = true →
    (∀ why i, s.stageA r.hop r.rx = some (why, i) → exec .stageADone s = .next (s.loadFail why i 0)) ∧
    (s.stageA r.hop r.rx = none → sheafFull r.rx = false → namedBy r.rx [2, 3] = [] → 0 < nsect r.rx →
      r.rx.length < secOff (secEntry r.rx r.secs) + secLen (secEntry r.rx r.secs) → r.secs < nsect r.rx →
      (∀ p ∈ namedBy r.rx [1], (s.plot p).state.closed = true ∧ (s.plot p).sealed = false) →
      ∃ t, exec .stageADone s = .next t ∧ t = { s with cfg := t.cfg, fab := t.fab } ∧ t.cfg.state = 3 ∧
        t.cfg.run = some { r with passed := true } ∧ t.cfg.fullOk = s.cfg.fullOk ∧
        (∀ p ∈ namedBy r.rx [1], (t.plot p).state = .blank ∧ (t.plot p).pepoch = (s.plot p).pepoch) ∧
        (∀ p, p ∉ namedBy r.rx [1] → t.plot p = s.plot p) ∧
        ∀ e, e ∈ t.cfg.frames ↔ (e ∈ s.cfg.frames ∧ ∀ p ∈ namedBy r.rx [1], frameOf 0 p e.1 = false))) ∧
  (∀ (r : LoadRun) (s : State), s.cfg.run = some r → r.armed = false → 16 ≤ r.rx.length → r.rx.length < sheafLen r.rx →
    r.lastAt + usCycles 10000 ≤ s.clock.now → exec .loadSequenceTimeout s = .next (s.loadFail 11 r.secs 0)) ∧
  (∀ (r : LoadRun) (s : State), s.cfg.run = some r → s.cfg.state = 4 →
    (s.stageCBad r = true → exec .loadCommit s = .next (s.loadFail 9 0 0)) ∧
    (s.stageCBad r = false →
      ∃ t, exec .loadCommit s = .next t ∧ t.cfg.run = none ∧ t.cfg.state = 5 ∧ t.cfg.err = false ∧
        t.cfg.fullOk = (s.cfg.fullOk || sheafFull r.rx) ∧ t.cfg.sheafId.toNat = leAt r.rx 28 4 ∧ t.sec.loaded = true ∧
        t.sec.count = s.sec.count + 1 ∧ t.cfg.frames = s.cfg.frames ∧
        (∀ p ∈ namedBy r.rx [1], (t.plot p).state = .configured) ∧
        (∀ p, p ∉ namedBy r.rx [1] → t.plot p = s.plot p) ∧
        (∀ m ∈ namedBy r.rx [2], (t.mill m).configured = true) ∧
        (∀ m, m ∉ namedBy r.rx [2, 3] → t.mill m = s.mill m) ∧ t.clock = s.clock ∧ t.hp = s.hp)) ∧
  (∀ (b : List Byte) (s : State),
    (s.cfg.run = none → ∃ t, exec (.chainStartReceive b) s = .next t ∧ t = { s with tally := t.tally }) ∧
    (∀ r, s.cfg.run = some r → r.armed = true → leAt b 0 1 = 0x31 → leAt b 16 8 = 2 ^ 64 - 1 - leAt b 8 8 →
      ∃ t x y, exec (.chainStartReceive b) s = .next t ∧ t = { s with cfg := t.cfg } ∧ t.cfg.state = 2 ∧
        t.cfg.chainPos.toNat = leAt b 1 1 ∧ t.cfg.run = some x ∧ x.armed = false ∧ x.hop = leAt b 1 1 ∧
        t.cfg.chain = some y ∧ y.hop = leAt b 1 1 ∧ y.follow = some (leAt b 8 8) ∧ y.got = 0)) ∧
  (∀ (data : List Byte) (k : ChainRun) (n : Nat) (s : State), s.cfg.chain = some k → k.follow = some n → s.cfg.run = none →
    k.started = true → k.buf = [] → data.length = 64 →
    (k.got + 64 ≤ n →
      ∃ t, exec (.chainDataReceive data) s = .next t ∧ t = { s with cfg := t.cfg, outbox := s.outbox ++
          [({ kind := .chainFrame, unit := 7, addr := 1, data := data } : Out)] } ∧
        t.cfg.chain = some { k with got := k.got + 64, fwd := k.fwd ++ data }) ∧
    (∃ t, exec .chainEndReceive s = .next t ∧ t = { s with cfg := t.cfg, outbox := s.outbox ++
          [({ kind := .chainFrame, unit := 7, addr := 0, data := padTo 64 (toLe 1 0x32) } : Out)] } ∧
        t.cfg.chain = none ∧ t.cfg.aw3 = false ∧ t.cfg.ae3 = false ∧ t.cfg.state = s.cfg.state) ∧
    (∃ t, exec (.chainAbortReceive data) s = .next t ∧ t = { s with cfg := t.cfg, outbox := s.outbox ++
          [({ kind := .chainFrame, unit := 7, addr := 0,
              data := padTo 64 (toLe 1 0x33 ++ toLe 1 k.hop ++ toLe 1 (leAt data 2 1)) } : Out)] } ∧
        t.cfg.chain = none ∧ t.cfg.aw3 = false ∧ t.cfg.ae3 = false)) ∧
  (∀ (b : List Byte) (r : LoadRun) (s : State), s.cfg.run = some r → r.src = 2 → r.armed = false →
    exec (.chainAbortReceive b) s = .next (s.loadFail 10 r.secs 0)) ∧
  (∀ (w : Writer) (s : State), s.may w = true →
    (s.cfg.fullOk = true → s.cfg.run = none → s.quietCycle →
      exec (.confErrRelease w) s = .next { s with cfg := { s.cfg with err := false } }) ∧
    (s.cfg.fullOk = false ∨ s.cfg.run.isSome = true → exec (.confErrRelease w) s = .next s) ∧
    (∀ v : Word, ∃ t, exec (.cfgRel w v) s = .next t ∧ t = { s with fab := t.fab } ∧
      (∀ p, p < 32 → t.plot p = if v.getLsbD p = true ∧ (s.plot p).state = .configured then
        { s.plot p with releaseAt := some s.clock.tick } else s.plot p)) ∧
    (∀ fa : Word, (s.withheld fa.toNat = true → exec (.frameReadback w fa) s = .next { s with cfg :=
        { s.cfg with rba := fa, rbDone := true, rbDenied := true, rbd := none } }) ∧
      (s.withheld fa.toNat = false → ∀ f, s.cfg.frames.find? (fun e => decide (e.1 = fa.toNat)) = some (fa.toNat, f) →
        exec (.frameReadback w fa) s = .next { s with cfg :=
          { s.cfg with rba := fa, rbDone := true, rbDenied := false, rbd := some f } })))

/-- R421, R422, R424 to R426: a pass starts over the frames in use when 52,084 ticks have come; its frame is read 156 arithmetic cycles
on, and kept, corrected and counted, or recorded, alerted and its plot stopped; a repair is counted, and one of the pointer restarts
the pass. -/
def Obligations.SextonCommands : Prop :=
  (∀ s : State, s.cfg.sxt.ptr = none →
    ((s.cfg.sxt.start.map (fun k => k.toNat + 52084)).getD 0 ≤ s.clock.tick.toNat → ∀ f, s.nextFrame 0 = some f →
      exec .sextonPassStart s =
        .next (s.modSxt (fun x => { x with ptr := some f, start := some s.clock.tick }))) ∧
    (s.clock.tick.toNat < (s.cfg.sxt.start.map (fun k => k.toNat + 52084)).getD 0 → exec .sextonPassStart s = .next s)) ∧
  (∀ (fa : Nat) (f : FrameRec) (s : State), s.cfg.sxt.ptr = some fa → s.still = true → s.clock.cyc + 156 < 1248 →
    s.cfg.frames.find? (fun e => decide (e.1 = fa)) = some (fa, f) → s.frameInUse fa = true → fa / 2 ^ 29 ≠ 2 →
    (f.check = .same →
      ∃ t, exec (.sextonFrameCheck [] false) s = .next t ∧ t = { s with clock := t.clock, tally := t.tally, cfg := t.cfg } ∧
        t.clock.now = s.clock.now + 156 ∧ t.cfg.frames = s.cfg.frames ∧ t.cfg.sxt.ptr = s.nextFrame (fa + 1) ∧
        t.cfg.sxt.corr = s.cfg.sxt.corr ∧
        t.cfg.sxt.passes = if (s.nextFrame (fa + 1)).isSome then s.cfg.sxt.passes else s.cfg.sxt.passes + 1) ∧
    (∀ (us : List (BitVec 12)) (g : FrameRec), (f.flip (us.map BitVec.toNat)).check = .fixed g →
      s.cfg.sxt.corr ≠ 0xFFFFFFFF →
      ∃ t, exec (.sextonFrameCheck us false) s = .next t ∧ t = { s with clock := t.clock, tally := t.tally, cfg := t.cfg } ∧
        Table.get f t.cfg.frames fa = g ∧ t.cfg.sxt.corr = s.cfg.sxt.corr + 1 ∧ t.cfg.sxt.ue = s.cfg.sxt.ue) ∧
    (∀ (us : List (BitVec 12)), (f.flip (us.map BitVec.toNat)).check = .bad → fa / 2 ^ 29 = 0 →
      (s.plot (field fa 24 5)).state = .live → (s.plot (field fa 24 5)).tilled = false → s.hp.alerts.length < 64 →
      ∃ t, exec (.sextonFrameCheck us false) s = .next t ∧ t.hp.alerts.length = s.hp.alerts.length + 1 ∧
        t.reports.length = s.reports.length + 1 ∧ t.cfg.sxt.ue.w3.getLsbD 31 = true ∧
        (t.plot (field fa 24 5)).closing = some .stopped ∧ (t.plot (field fa 24 5)).state = .live ∧
        t.cfg.sxt.corr = s.cfg.sxt.corr ∧ t.mem = s.mem ∧ t.mills = s.mills)) ∧
  (∀ (us : List (BitVec 12)) (second : Bool) (s : State), s.inTick → s.cfg.sxt.ptr.isSome = true →
    ∃ t, exec (.sextonFrameCheck us second) s = .next t ∧ t.clock.now = s.clock.now + 156) ∧
  (∀ s : State, s.cfg.sxt.repair ≠ 0xFFFFFFFF →
    exec (.sextonLatchRepair false) s = .next (s.modSxt (fun x => { x with repair := x.repair + 1 })) ∧
    (s.cfg.sxt.ptr.isSome = true → exec (.sextonLatchRepair true) s =
      .next (s.modSxt (fun x => { x with repair := x.repair + 1, ptr := s.nextFrame 0 }))))

/-! ## Field lanes and ports -/

/-- R440 to R445, R463: a lane comes to signal, comma and frame lock and loses them; the lane of a port in service asks for the spare,
and without one the port is lost; a committed LANE_CTL opens and closes the ladder; capability frames set the target, its leading end
steps, and at the target the port is up; a step that times out is undone and alerted, the lowest rate is tried again; EQ_PEAK is set. -/
def Obligations.LanesAndLadder : Prop :=
  (∀ (p : PortIx) (l : BitVec 4) (s : State), s.laneAt p.toNat l.toNat = true →
    (((s.port p.toNat).lane l.toNat).align = 0 →
      ∃ t, exec (.laneSignalDetect p l) s = .next t ∧ t = { s with ports := t.ports } ∧
        (t.port p.toNat).lane l.toNat = { (s.port p.toNat).lane l.toNat with align := 1 } ∧
        ∀ q, q ≠ p.toNat → t.port q = s.port q) ∧
    (((s.port p.toNat).lane l.toNat).align = 1 →
      ∃ t, exec (.commaDetect p l) s = .next t ∧ t = { s with ports := t.ports } ∧
        (t.port p.toNat).lane l.toNat = { (s.port p.toNat).lane l.toNat with align := 2, good := 0, groups := [] } ∧
        ∀ q, q ≠ p.toNat → t.port q = s.port q) ∧
    ((s.port p.toNat).state ≠ .up →
      ∃ t, exec (.laneSignalLoss (some p) l) s = .next t ∧ t = { s with ports := t.ports } ∧
        ((t.port p.toNat).lane l.toNat).align = 0 ∧ ((t.port p.toNat).lane l.toNat).good = 0 ∧
        (t.port p.toNat).state = (s.port p.toNat).state) ∧
    ((s.port p.toNat).state = .up → ((s.port p.toNat).lane l.toNat).align = 3 → (s.port p.toNat).role l.toNat < 8 →
      (s.port p.toNat).sub = none → (s.port p.toNat).spareLog = none →
      ((s.port p.toNat).sparePhys.isSome = true →
        ∃ t o, exec (.laneSignalLoss (some p) l) s = .next t ∧
          t = { s with ports := t.ports, tally := t.tally, outbox := s.outbox ++ [o] } ∧ o.kind = .laneControl ∧ o.unit = p.toNat ∧
          o.data = padTo 64 (toLe 1 0x12 ++ toLe 1 ((s.port p.toNat).role l.toNat) ++ toLe 1 1) ∧
          (t.port p.toNat).sub = some ((s.port p.toNat).role l.toNat, 0) ∧ (t.port p.toNat).state = .up) ∧
      ((s.port p.toNat).sparePhys = none →
        ∃ t, exec (.laneSignalLoss (some p) l) s = .next t ∧ (t.port p.toNat).state = .ladder ∧ (t.port p.toNat).lost = true ∧
          (t.port p.toNat).rate = 0 ∧ (t.port p.toNat).replay = [] ∧ t.mem = s.mem ∧ t.mills = s.mills))) ∧
  (∀ (l : BitVec 4) (s : State), s.hp.state = .up → l.toNat < 8 →
    exec (.laneSignalLoss none l) s = .next (s.linkFail 1)) ∧
  (∀ (p : PortIx) (l : BitVec 4) (g0 : BitVec 10) (gs : List (BitVec 10)) (hdr : LaneHdr) (syms : List (Option Byte)) (rd : Bool) (y : PhysLane)
      (s : State), s.laneAt p.toNat l.toNat = true → y = (s.port p.toNat).lane l.toNat → frameOfGroups y.rd (g0 :: gs) = (hdr, syms, rd) →
    (y.align.toNat < 2 →
      ∃ t, exec (.frameReceive p l g0 gs) s = .next t ∧ t = { s with ports := t.ports } ∧
        (t.port p.toNat).lane l.toNat = { y with rd := rd, force := y.peak }) ∧
    (y.align = 2 → badWindow 16 (y.groups ++ (decide (hdr ≠ .invalid) :: syms.map Option.isSome)) = false →
      ∃ t, exec (.frameReceive p l g0 gs) s = .next t ∧ t = { s with ports := t.ports } ∧
        ((t.port p.toNat).lane l.toNat).align = (if hdr ≠ .invalid ∧ 63 ≤ y.good then 3 else 2) ∧
        ((t.port p.toNat).lane l.toNat).good = (if hdr = .invalid ∨ 63 ≤ y.good then 0 else y.good + 1) ∧
        ((t.port p.toNat).lane l.toNat).force = y.peak ∧ ((t.port p.toNat).lane l.toNat).rd = rd) ∧
    (y.align = 2 → badWindow 16 (y.groups ++ (decide (hdr ≠ .invalid) :: syms.map Option.isSome)) = true →
      (s.port p.toNat).state ≠ .up →
      ∃ t, exec (.frameReceive p l g0 gs) s = .next t ∧ t = { s with ports := t.ports } ∧
        ((t.port p.toNat).lane l.toNat).align = 1) ∧
    (y.align = 3 → hdr = .invalid → 3 ≤ ((y.heads.drop (y.heads.length - 63)).filter (fun b => !b)).length →
      y.heads.length ≤ 63 → (s.port p.toNat).state ≠ .up →
      ∃ t, exec (.frameReceive p l g0 gs) s = .next t ∧ t = { s with ports := t.ports } ∧
        ((t.port p.toNat).lane l.toNat).align = 2)) ∧
  (∀ (rd : Bool) (b : Byte), groupOf rd (groupFor rd b) = .data b) ∧
  (∀ (w : Writer) (p : PortIx) (v : Word) (s : State), s.mayHost w = true → s.portFitted p.toNat = true →
    (v.getLsbD 0 = true → 5 ≤ (v >>> 5).toNat % 8 →
      exec (.portEnable w p v) s = .next (s.cwFail w (offLaneCtl p.toNat) 5)) ∧
    (v.getLsbD 0 = true → (v >>> 5).toNat % 8 < 5 → (s.port p.toNat).en = false →
      ∃ t, exec (.portEnable w p v) s = .next t ∧ t = { s with ports := t.ports, free := t.free } ∧
        (t.port p.toNat).state = .ladder ∧ (t.port p.toNat).en = true ∧ (t.port p.toNat).rate = 0 ∧
        (t.port p.toNat).maxRate.toNat = (v >>> 5).toNat % 8 ∧ (t.port p.toNat).credit = 0 ∧
        (t.port p.toNat).deadline = some (s.clock.now + usCycles 2000) ∧ ∀ q, q ≠ p.toNat → t.port q = s.port q) ∧
    (v.getLsbD 0 = false → (v >>> 5).toNat % 8 < 5 → (s.port p.toNat).en = true → (s.port p.toNat).sends = [] →
      ∃ t, exec (.portDisable w p v) s = .next t ∧ t = { s with ports := t.ports, bell := t.bell } ∧
        (t.port p.toNat).state = .idle ∧ (t.port p.toNat).en = false ∧ (t.port p.toNat).credit = 0 ∧
        (t.port p.toNat).replay = [] ∧ (t.port p.toNat).deadline = none ∧ ∀ q, q ≠ p.toNat → t.port q = s.port q)) ∧
  (∀ (p : PortIx) (b : List Byte) (far : BitVec 10) (tg : Nat) (s : State), s.portFitted p.toNat = true →
    (s.port p.toNat).state = .ladder → 8 ≤ (s.port p.toNat).locked.length → b.length = 64 → leAt b 0 1 = 0x10 → leAt b 1 1 = 1 →
    tg = min (min 4 (leAt b 2 1)) (min (s.port p.toNat).maxRate.toNat ((s.port p.toNat).limit.getD 4)) →
    s.node.toNat ≠ far.toNat →
    ((s.port p.toNat).rate < tg →
      ∃ t, exec (.capabilityReceive p b far) s = .next t ∧ t = { s with ports := t.ports, outbox := t.outbox } ∧
        (t.port p.toNat).target = some tg ∧ (t.port p.toNat).state = .ladder ∧
        (t.port p.toNat).leading = decide (s.node.toNat < far.toNat) ∧
        t.outbox.length = s.outbox.length + (if s.node.toNat < far.toNat then 72 else 8)) ∧
    (tg ≤ (s.port p.toNat).rate → (s.port p.toNat).locked.length = 9 → (s.port p.toNat).waiting = [] →
      ∃ t os, exec (.capabilityReceive p b far) s = .next t ∧ t = { s with ports := t.ports, outbox := s.outbox ++ os } ∧
        os.map Out.addr = List.range 8 ∧ (∀ o ∈ os, o.data = padTo 64 (s.port p.toNat).capability) ∧ (t.port p.toNat).state = .up ∧
        (t.port p.toNat).rate = (s.port p.toNat).rate ∧ (t.port p.toNat).credit = min 1024 (64 * leAt b 6 1) ∧
        (t.port p.toNat).deadline = none ∧ (t.port p.toNat).ackFrom = s.clock.now)) ∧
  (∀ (p : PortIx) (rate cd : Byte) (s : State), s.portFitted p.toNat = true → (s.port p.toNat).state = .ladder →
    rate.toNat = (s.port p.toNat).rate + 1 → rate.toNat ≤ 4 →
    (cd = 0 → (s.port p.toNat).leading = true →
      ∃ t, exec (.stepFrameReceive p rate cd) s = .next t ∧ t = { s with ports := t.ports, free := t.free } ∧
        (t.port p.toNat).state = .ladder ∧ (t.port p.toNat).rate = rate.toNat ∧
        (t.port p.toNat).prev = (s.port p.toNat).rate ∧ (t.port p.toNat).deadline = some (s.clock.now + usCycles 2000)) ∧
    (cd ≠ 0 → (s.port p.toNat).leading = false →
      exec (.stepFrameReceive p rate cd) s = .next { s with outbox := s.outbox ++
        [({ kind := .laneControl, unit := p.toNat, addr := 0,
            data := padTo 64 (toLe 1 0x11 ++ toLe 1 rate.toNat ++ toLe 1 cd.toNat), cycle := s.clock.now } : Out)] })) ∧
  (∀ (p : PortIx) (k : Nat) (s : State), (s.port p.toNat).state = .ladder → (s.port p.toNat).deadline = some k →
    ((s.port p.toNat).rate ≠ 0 → k ≤ s.clock.now → s.hp.alerts.length < 64 → s.hp.home = none →
      ∃ t, exec (.ladderStepTimeout p) s = .next t ∧
        (t.port p.toNat).stepFail = true ∧ (t.port p.toNat).failRate = (s.port p.toNat).rate ∧
        (t.port p.toNat).limit = some (s.port p.toNat).prev ∧ (t.port p.toNat).rate = (s.port p.toNat).prev ∧
        (t.port p.toNat).state = .ladder ∧ t.hp.alerts.length = s.hp.alerts.length + 1 ∧ t.mem = s.mem ∧ t.mills = s.mills) ∧
    ((s.port p.toNat).rate = 0 → k + usCycles 8000 ≤ s.clock.now →
      ∃ t, exec (.ladderRetry p) s = .next t ∧ t = { s with ports := t.ports, free := t.free } ∧
        (t.port p.toNat).state = .ladder ∧ (t.port p.toNat).rate = 0 ∧
        (t.port p.toNat).deadline = some (s.clock.now + usCycles 2000))) ∧
  (∀ (w : Writer) (p : PortIx) (l : BitVec 4) (v : Word) (s : State), s.mayHost w = true → s.laneAt p.toNat l.toNat = true →
    ∃ t, exec (.eqPeakWrite w p l v) s = .next t ∧ t = { s with ports := t.ports } ∧
      ((t.port p.toNat).lane l.toNat).peak.toNat = min 20 (v.toNat % 32) ∧
      ((t.port p.toNat).lane l.toNat).force = ((s.port p.toNat).lane l.toNat).force)

/-- R439, R450 to R455, R459, R461: a frame in order is taken and counted, one out of order or uncorrectable is refused; acks release
and resend frames and give credits; acks are sent and frames resent on time; a block ends with its filler; a lane moves to the spare,
and a failed lane that holds lock becomes the spare. -/
def Obligations.FramesAndSpares : Prop :=
  (∀ (p : PortIx) (l : BitVec 4) (g0 : BitVec 10) (gs : List (BitVec 10)) (syms : List (Option Byte)) (rd : Bool) (n : Nat) (s : State),
    s.laneAt p.toNat l.toNat = true → ((s.port p.toNat).lane l.toNat).align = 3 → ((s.port p.toNat).lane l.toNat).heads = [] →
    frameOfGroups ((s.port p.toNat).lane l.toNat).rd (g0 :: gs) = (.data, syms, rd) →
    n = (s.port p.toNat).role l.toNat → n < 8 → (s.port p.toNat).state = .up → ((s.port p.toNat).link n).bad = [] →
    (∀ m, rsDecode (symBytes syms) = some (m, 0) → leAt m 0 1 % 128 = ((s.port p.toNat).link n).expect →
      s.portMode p.toNat ≠ 1 →
      ∃ t, exec (.frameReceive p l g0 gs) s = .next t ∧ t = { s with ports := t.ports } ∧
        ((t.port p.toNat).link n).expect = (((s.port p.toNat).link n).expect + 1) % 128 ∧
        ((t.port p.toNat).link n).unacked = ((s.port p.toNat).link n).unacked + 1 ∧
        ((t.port p.toNat).link n).nak = false ∧ (t.port p.toNat).held = (s.port p.toNat).held + 1) ∧
    (∀ m, rsDecode (symBytes syms) = some (m, 0) → leAt m 0 1 % 128 ≠ ((s.port p.toNat).link n).expect →
      ∃ t, exec (.frameReceive p l g0 gs) s = .next t ∧ t = { s with ports := t.ports } ∧
        ((t.port p.toNat).link n).expect = ((s.port p.toNat).link n).expect ∧ ((t.port p.toNat).link n).nak = true ∧
        (t.port p.toNat).stream = (s.port p.toNat).stream) ∧
    (rsDecode (symBytes syms) = none →
      ∃ t, exec (.frameReceive p l g0 gs) s = .next t ∧ t = { s with ports := t.ports, tally := t.tally } ∧
        ((t.port p.toNat).link n).expect = ((s.port p.toNat).link n).expect ∧ ((t.port p.toNat).link n).nak = true)) ∧
  (∀ (p : PortIx) (b : List Byte) (f : TxFrame) (s : State), s.portUp p.toNat = true → (s.port p.toNat).replay = [f] →
    (s.port p.toNat).waiting = [] → b.length = 64 → (∀ n, n < 8 → n ≠ f.no % 8 → leAt b (8 + n) 1 < 128) →
    (leAt b (8 + f.no % 8) 1 = (f.no / 8 + 1) % 128 →
      ∃ t, exec (.ackReceive p b) s = .next t ∧ t = { s with ports := t.ports } ∧ (t.port p.toNat).replay = [] ∧
        (t.port p.toNat).credit = min 1024 ((s.port p.toNat).credit + leAt b 16 2)) ∧
    (∀ k g, leAt b (8 + f.no % 8) 1 = 128 + f.no / 8 % 128 → (s.takeSlot p.toNat (f.no % 8)).map Prod.fst = some k →
      g = { f with at_ := k, resends := f.resends + 1 } →
      ∃ t, exec (.ackReceive p b) s = .next t ∧
        t = { s with ports := t.ports, tally := t.tally, outbox := s.outbox ++ [g.out p.toNat] } ∧
        (t.port p.toNat).replay = [g])) ∧
  (∀ (p n : Nat) (s : State), (s.port p).rate ≠ 4 → s.takeSlot p n = some (s.clock.now, s)) ∧
  (∀ (p : PortIx) (f g : TxFrame) (k : Nat) (s : State), s.portUp p.toNat = true → (s.port p.toNat).replay = [f] →
    f.at_ + usCycles 4 ≤ s.clock.now → (s.takeSlot p.toNat (f.no % 8)).map Prod.fst = some k →
    g = { f with at_ := k, resends := f.resends + 1 } →
    ∃ t, exec (.replayTimeout p) s = .next t ∧
      t = { s with ports := t.ports, tally := t.tally, outbox := s.outbox ++ [g.out p.toNat] } ∧
      (t.port p.toNat).replay = [g]) ∧
  (∀ (p : PortIx) (n : Nat) (s : State), s.portUp p.toNat = true → n < 8 → 32 ≤ ((s.port p.toNat).link n).unacked →
    (∀ k, ((s.port p.toNat).link k).naks < 7) →
    ∃ t o, exec (.ackSend p) s = .next t ∧ t = { s with ports := t.ports, outbox := s.outbox ++ [o] } ∧ o.kind = .laneControl ∧
      o.unit = p.toNat ∧ (t.port p.toNat).give = 0 ∧ (t.port p.toNat).ackFrom = s.clock.now ∧
      ∀ k, k < 8 → ((t.port p.toNat).link k).unacked = 0 ∧ ((t.port p.toNat).link k).nak = false ∧
        ((t.port p.toNat).link k).expect = ((s.port p.toNat).link k).expect) ∧
  (∀ (p : PortIx) (s : State), s.portSlots p.toNat = true →
    ∃ t, exec (.blockEnd p) s = .next t ∧ t = { s with ports := t.ports, outbox := t.outbox } ∧
      t.outbox.length = s.outbox.length + 8 ∧ (t.port p.toNat).jumpPending = false ∧
      (t.port p.toNat).replay = (s.port p.toNat).replay) ∧
  (∀ (p : PortIx) (n : BitVec 3) (s : State),
    (s.portUp p.toNat = true → (s.port p.toNat).txServes = none →
      ∃ t, exec (.spareRequestReceive p n) s = .next t ∧ t = { s with ports := t.ports } ∧
        t.port p.toNat = { s.port p.toNat with txDup := some n.toNat }) ∧
    ((s.port p.toNat).txDup = some n.toNat →
      ∃ t, exec (.spareDoneReceive p n) s = .next t ∧ t = { s with ports := t.ports } ∧
        t.port p.toNat = { s.port p.toNat with txDup := none, txServes := some n.toNat })) ∧
  (∀ (p : PortIx) (n k q : Nat) (s : State), (s.port p.toNat).sub = some (n, k) → (s.port p.toNat).sparePhys = some q →
    64 ≤ k → n < 8 → ((s.port p.toNat).lane q).align = 3 → s.hp.alerts.length < 64 →
    ∃ t, exec (.spareSwitch p) s = .next t ∧ (t.port p.toNat).sub = none ∧ (t.port p.toNat).spareLog = some n ∧
      (t.port p.toNat).role q = n ∧ t.hp.alerts.length = s.hp.alerts.length + 1 ∧ t.mem = s.mem ∧ t.mills = s.mills) ∧
  (∀ (p : PortIx) (l : BitVec 4) (s : State), s.laneAt p.toNat l.toNat = true → (s.port p.toNat).role l.toNat = 9 →
    ((s.port p.toNat).lane l.toNat).align = 3 → 2 ^ 20 ≤ ((s.port p.toNat).lane l.toNat).clean →
    ∃ t, exec (.laneRestoredAsSpare p l) s = .next t ∧ t = { s with ports := t.ports } ∧ (t.port p.toNat).role l.toNat = 8 ∧
      (t.port p.toNat).sparePhys = some l.toNat ∧ (t.port p.toNat).spareLog = none ∧
      (t.port p.toNat).state = (s.port p.toNat).state)

/-! ## The whole machine -/

/-- A command completes: exec answers a next state for every command and state, and leaves the queue of commands to the step. (That no
command stops is the model's reading of the spec, which gives every row an effect or none: log entries 1 and 2.) -/
def Obligations.EveryCommandCompletes : Prop :=
  ∀ (i : Instr) (s : State), ∃ t, exec i s = .next t ∧ t.pending = s.pending

/-- The stores stay in their canonical form through every step, from every state where they have it. -/
def Obligations.MemoryFormKept : Prop :=
  ∀ s t : State, s.memOk → step s = .next t → t.memOk

/-- R155, R159: the cycle within the tick stays below 1,248 through every step, and the count of arithmetic cycles never goes back. -/
def Obligations.ClockKept : Prop :=
  ∀ s t : State, s.clock.cyc ≤ 1247 → step s = .next t → t.clock.cyc ≤ 1247 ∧ s.clock.now ≤ t.clock.now

/-- R541, R544, R550, R622: no step clears the kill fuse, the revocation of Frarel key 0 or of an owner slot, programs an owner slot
again, or changes what was built. -/
def Obligations.FusesKept : Prop :=
  ∀ s t : State, step s = .next t →
    (s.sec.killed = true → t.sec.killed = true) ∧ (s.sec.frarel0 = true → t.sec.frarel0 = true) ∧
    (∀ (i : Nat) (o : OwnerSlot), s.sec.slots[i]? = some o →
      ∃ p, t.sec.slots[i]? = some p ∧ p.hash = o.hash ∧ (o.revoked = true → p.revoked = true)) ∧
    t.ident.option = s.ident.option ∧ t.ident.grade2 = s.ident.grade2

/-- What reset leaves, where the spec gives the value; the invariants of the other statements hold there. -/
def Obligations.ResetState : Prop :=
  State.reset.memOk ∧ State.reset.pending = [] ∧ State.reset.clock.cyc ≤ 1247 ∧
    State.reset.level = 0 ∧ State.reset.cfg.state = 0 ∧ State.reset.cfg.fullOk = false ∧ State.reset.cfg.run = none ∧
    State.reset.cfg.frames = [] ∧ State.reset.cfg.sxt.corr = 0 ∧
    State.reset.bell.state = .standalone ∧ State.reset.bell.role = 0 ∧ State.reset.cadence.hot = false ∧
    State.reset.hp.state = .down ∧ State.reset.hp.alerts = [] ∧ State.reset.cwPend = [] ∧ State.reset.tally.freeze = false ∧
    State.reset.bw.term = 0 ∧ State.reset.bootRom = true ∧ State.reset.sec.cmd = none ∧ State.reset.sec.log = [] ∧
    (∀ g, (State.reset.group g).state = .empty) ∧ (∀ p, (State.reset.plot p).state = .blank) ∧
    (∀ p, (State.reset.port p).state = .idle ∧ (State.reset.port p).en = false) ∧ (∀ q, (State.reset.queue q).en = false) ∧
    (∀ d p, State.reset.ledger.copy d p = {}) ∧
    (∀ m, (State.reset.mill m).tiles = [] ∧ (State.reset.mill m).stopped = none ∧ ∀ c, (State.reset.mill m).cnt c = 0)

/-- R170: a read of BELL_NOW0 returns the cycle and captures the bell; reads of BELL_NOW1 and BELL_NOW2 return the captured tick count;
any later read of BELL_NOW0 captures anew. -/
def Obligations.BellNowReads : Prop :=
  ∀ (w : Writer) (s : State), s.bootRom = false →
    s.regRead w 0x3B00020 = (BitVec.ofNat 32 s.clock.cyc,
      { s with bell := { s.bell with capCycle := s.clock.cyc, capTick := s.clock.tick } }) ∧
    exec .bellNowCapture s = .next { s with bell := { s.bell with capCycle := s.clock.cyc, capTick := s.clock.tick } } ∧
    s.regRead w 0x3B00024 = (s.bell.capTick.truncate 32, s) ∧
    s.regRead w 0x3B00028 = ((s.bell.capTick >>> 32).truncate 32, s)

/-- R608: when the level drops below 2 every debug halt is released and every breakpoint cleared, and frozen mills stay frozen. -/
def Obligations.LevelDropReleases : Prop :=
  ∀ (l : BitVec 2) (s : State), 2 ≤ s.level.toNat → l.toNat < 2 →
    (s.setLevel l).level = l ∧
    (∀ (m : Nat) (e : Eng), (((s.setLevel l).mill m).eng e).dbg.halt = .none ∧ (((s.setLevel l).mill m).eng e).dbg.bps = []) ∧
    (s.setLevel l).reeveW.dbg.halt = .none ∧ (s.setLevel l).reeveW.dbg.bps = [] ∧
    (s.setLevel l).reeveE.dbg.halt = .none ∧ (s.setLevel l).reeveE.dbg.bps = [] ∧
    (∀ m : Nat, ((s.setLevel l).mill m).frozen = (s.mill m).frozen ∧ ((s.setLevel l).mill m).stopped = (s.mill m).stopped)

/-- R45: a reshape that takes effect zeroes the stationary operand of each yoke it alters, and of no other. -/
def Obligations.ReshapeZeroes : Prop :=
  ∀ (m : MillIx) (p : Partition) (s : State), s.clock.tick.toNat % 65536 = 0 → s.clock.cyc = 0 →
    (s.mill m.toNat).frozen = false → (s.mill m.toNat).reshape = some p → (s.mill m.toNat).flights = [] → (s.mill m.toNat).loads = [] →
    (∀ q, ((s.mill m.toNat).quern q).stream ≤ s.clock.now) →
    ∃ t, exec (.reshapeTakesEffect m) s = .next t ∧ s.sameButMill t m.toNat ∧ (t.mill m.toNat).part = p ∧
      (t.mill m.toNat).reshape = none ∧
      (∀ q, q < 32 → yokeAt p q ≠ yokeAt (s.mill m.toNat).part q → Table.get {} (t.mill m.toNat).tiles q = {}) ∧
      (∀ q, q < 32 → yokeAt p q = yokeAt (s.mill m.toNat).part q →
        Table.get {} (t.mill m.toNat).tiles q = Table.get {} (s.mill m.toNat).tiles q)
end

