-- ==== Sys2Proof/Laws/Table.lean ====
section
/-! SUPPORT. Laws of sparse tables: a read after a write, a read elsewhere, and the canonical form. -/

namespace Sys2Proof.Machine

theorem Table.get_erase_same {α : Type} (d : α) (t : Table α) (k : Nat) : Table.get d (Table.erase t k) k = d := by
  induction t with
  | nil => rfl
  | cons e t ih =>
    obtain ⟨j, v⟩ := e
    unfold Table.erase
    split
    · exact ih
    · next h => simp only [Table.get, h, if_false]; exact ih

theorem Table.get_erase_ne {α : Type} (d : α) (t : Table α) {j k : Nat} (h : j ≠ k) :
    Table.get d (Table.erase t j) k = Table.get d t k := by
  induction t with
  | nil => rfl
  | cons e t ih =>
    obtain ⟨i, v⟩ := e
    unfold Table.erase
    split
    · next hi => subst hi; simp only [Table.get, h, if_false]; exact ih
    · simp only [Table.get]; split
      · rfl
      · exact ih

theorem Table.get_insert_same {α : Type} (d : α) (t : Table α) (k : Nat) (x : α) : Table.get d (Table.insert t k x) k = x := by
  induction t with
  | nil => simp [Table.insert, Table.get]
  | cons e t ih =>
    obtain ⟨j, v⟩ := e
    unfold Table.insert
    split
    · simp [Table.get]
    · split
      · simp [Table.get]
      · next h => simp only [Table.get, h, if_false]; exact ih

theorem Table.get_insert_ne {α : Type} (d : α) (t : Table α) {j k : Nat} (x : α) (h : j ≠ k) :
    Table.get d (Table.insert t j x) k = Table.get d t k := by
  induction t with
  | nil => simp [Table.insert, Table.get, h]
  | cons e t ih =>
    obtain ⟨i, v⟩ := e
    unfold Table.insert
    split
    · simp [Table.get, h]
    · split
      · next hi => subst hi; simp [Table.get, h]
      · simp only [Table.get]; split
        · rfl
        · exact ih

/-- A read after a write of the same key gives what was written, whatever the table. -/
@[simp] theorem Table.get_put_same {α : Type} [DecidableEq α] (d : α) (t : Table α) (k : Nat) (x : α) :
    Table.get d (Table.put d t k x) k = x := by
  unfold Table.put
  split
  · next h => rw [Table.get_erase_same, h]
  · exact Table.get_insert_same d t k x

/-- A write leaves every other key alone. -/
theorem Table.get_put_ne {α : Type} [DecidableEq α] (d : α) (t : Table α) {j k : Nat} (x : α) (h : j ≠ k) :
    Table.get d (Table.put d t j x) k = Table.get d t k := by
  unfold Table.put
  split
  · exact Table.get_erase_ne d t h
  · exact Table.get_insert_ne d t x h

theorem Table.get_put {α : Type} [DecidableEq α] (d : α) (t : Table α) (j k : Nat) (x : α) :
    Table.get d (Table.put d t j x) k = if j = k then x else Table.get d t k := by
  split
  · next h => subst h; simp
  · next h => exact Table.get_put_ne d t x h

@[simp] theorem Table.get_upd_same {α : Type} [DecidableEq α] (d : α) (t : Table α) (k : Nat) (f : α → α) :
    Table.get d (Table.upd d t k f) k = f (Table.get d t k) := by
  unfold Table.upd; exact Table.get_put_same d t k _

theorem Table.get_upd_ne {α : Type} [DecidableEq α] (d : α) (t : Table α) {j k : Nat} (f : α → α) (h : j ≠ k) :
    Table.get d (Table.upd d t j f) k = Table.get d t k := by
  unfold Table.upd; exact Table.get_put_ne d t _ h

/-- A function mapped over the values of a table that keeps the default acts on each read. -/
theorem Table.get_map {α : Type} (d : α) (t : Table α) (f : α → α) (h : f d = d) (k : Nat) :
    Table.get d (t.map (fun e => (e.1, f e.2))) k = f (Table.get d t k) := by
  induction t with
  | nil => exact h.symm
  | cons e t ih =>
    obtain ⟨j, v⟩ := e
    simp only [List.map, Table.get]
    split
    · rfl
    · exact ih

/-! ## The canonical form -/

theorem Table.wfFrom_mono {α : Type} [DecidableEq α] (d : α) (t : Table α) {a b : Nat} (h : a ≤ b)
    (w : Table.wfFrom d b t = true) : Table.wfFrom d a t = true := by
  cases t with
  | nil => rfl
  | cons e t =>
    obtain ⟨j, v⟩ := e
    simp only [Table.wfFrom, Bool.and_eq_true, decide_eq_true_eq] at w ⊢
    exact ⟨⟨by omega, w.1.2⟩, w.2⟩

theorem Table.wfFrom_erase {α : Type} [DecidableEq α] (d : α) (t : Table α) (a k : Nat) (w : Table.wfFrom d a t = true) :
    Table.wfFrom d a (Table.erase t k) = true := by
  induction t generalizing a with
  | nil => rfl
  | cons e t ih =>
    obtain ⟨j, v⟩ := e
    simp only [Table.wfFrom, Bool.and_eq_true, decide_eq_true_eq] at w
    unfold Table.erase
    split
    · exact ih a (Table.wfFrom_mono d t (by omega) w.2)
    · simp only [Table.wfFrom, Bool.and_eq_true, decide_eq_true_eq]
      exact ⟨w.1, ih _ w.2⟩

theorem Table.wfFrom_insert {α : Type} [DecidableEq α] (d : α) (t : Table α) (a k : Nat) (x : α) (hk : a ≤ k) (hx : x ≠ d)
    (w : Table.wfFrom d a t = true) : Table.wfFrom d a (Table.insert t k x) = true := by
  induction t generalizing a with
  | nil => simp [Table.insert, Table.wfFrom, hk, hx]
  | cons e t ih =>
    obtain ⟨j, v⟩ := e
    simp only [Table.wfFrom, Bool.and_eq_true, decide_eq_true_eq] at w
    unfold Table.insert
    split
    · next h =>
      simp only [Table.wfFrom, Bool.and_eq_true, decide_eq_true_eq, Bool.not_eq_true']
      exact ⟨⟨hk, by simp [hx]⟩, ⟨⟨by omega, by simpa using w.1.2⟩, w.2⟩⟩
    · split
      · next h =>
        subst h
        simp only [Table.wfFrom, Bool.and_eq_true, decide_eq_true_eq, Bool.not_eq_true']
        exact ⟨⟨hk, by simp [hx]⟩, w.2⟩
      · simp only [Table.wfFrom, Bool.and_eq_true, decide_eq_true_eq]
        exact ⟨w.1, ih _ (by omega) w.2⟩

/-- A write keeps the canonical form. -/
theorem Table.wf_put {α : Type} [DecidableEq α] (d : α) (t : Table α) (k : Nat) (x : α) (w : Table.wf d t = true) :
    Table.wf d (Table.put d t k x) = true := by
  unfold Table.wf at *
  unfold Table.put
  split
  · exact Table.wfFrom_erase d t 0 k w
  · next h => exact Table.wfFrom_insert d t 0 k x (Nat.zero_le k) h w

/-- Dropping entries keeps the canonical form. -/
theorem Table.wfFrom_filter {α : Type} [DecidableEq α] (d : α) (t : Table α) (a : Nat) (p : Nat × α → Bool)
    (w : Table.wfFrom d a t = true) : Table.wfFrom d a (t.filter p) = true := by
  induction t generalizing a with
  | nil => rfl
  | cons e t ih =>
    obtain ⟨j, v⟩ := e
    simp only [Table.wfFrom, Bool.and_eq_true, decide_eq_true_eq] at w
    rw [List.filter_cons]
    split
    · simp only [Table.wfFrom, Bool.and_eq_true, decide_eq_true_eq]
      exact ⟨w.1, ih _ w.2⟩
    · exact ih a (Table.wfFrom_mono d t (by omega) w.2)

/-- A read of a filtered table whose filter looks at keys alone. -/
theorem Table.get_filter {α : Type} (d : α) (t : Table α) (p : Nat → Bool) (k : Nat) :
    Table.get d (t.filter (fun e => p e.1)) k = if p k then Table.get d t k else d := by
  induction t with
  | nil => simp [Table.get]
  | cons e t ih =>
    obtain ⟨j, v⟩ := e
    rw [List.filter_cons]
    by_cases h : j = k
    · subst h
      by_cases hp : p j = true
      · simp [hp, Table.get]
      · simp only [hp, Bool.false_eq_true, if_false] at ih ⊢; exact ih
    · by_cases hp : p j = true
      · simp only [hp, if_true, Table.get, h, if_false]; exact ih
      · simp only [hp, Bool.false_eq_true, if_false, Table.get, h]; exact ih

end Sys2Proof.Machine
end

