-- ==== Sys2Proof/Laws/Memory.lean ====
section
/-! SUPPORT. Laws of the byte stores: a read after a write, a read elsewhere, and the canonical form that every memory operation keeps. -/

namespace Sys2Proof.Machine

open Sys2Proof

theorem Memory.read_write (mem : List Host.Cell) (a c : Nat) (b : Byte) :
    Memory.read (Memory.write mem a b) c = if a = c then b else Memory.read mem c := Table.get_put _ mem a c b

theorem Memory.wf_write (mem : List Host.Cell) (a : Nat) (b : Byte) (w : Memory.wf mem = true) :
    Memory.wf (Memory.write mem a b) = true := Table.wf_put _ mem a b w

/-- Bytes outside the span of a write read as before. -/
theorem Memory.read_writeN_out (mem : List Host.Cell) (a c : Nat) (b : List Byte) (h : c < a ∨ a + b.length ≤ c) :
    Memory.read (Memory.writeN mem a b) c = Memory.read mem c := by
  induction b generalizing mem a with
  | nil => rfl
  | cons x b ih =>
    simp only [List.length_cons] at h
    unfold Memory.writeN
    rw [ih _ _ (by omega), Memory.read_write, if_neg (by omega)]

/-- Bytes inside the span of a write read as written. -/
theorem Memory.read_writeN_in (mem : List Host.Cell) (a i : Nat) (b : List Byte) (h : i < b.length) :
    Memory.read (Memory.writeN mem a b) (a + i) = b.getD i 0 := by
  induction b generalizing mem a i with
  | nil => simp at h
  | cons x b ih =>
    unfold Memory.writeN
    cases i with
    | zero => rw [Memory.read_writeN_out _ _ _ _ (by omega), Memory.read_write]; simp
    | succ i =>
      have := ih (Memory.write mem a x) (a + 1) i (by simpa using h)
      rw [show a + (i + 1) = a + 1 + i by omega, this]; simp

theorem Memory.readN_congr (m n : List Host.Cell) (a k : Nat)
    (h : ∀ i, i < k → Memory.read m (a + i) = Memory.read n (a + i)) : Memory.readN m a k = Memory.readN n a k := by
  induction k generalizing a with
  | zero => rfl
  | succ k ih =>
    unfold Memory.readN
    rw [show Memory.read m a = Memory.read n a by simpa using h 0 (by omega)]
    rw [ih (a + 1) (fun i hi => by rw [show a + 1 + i = a + (i + 1) by omega]; exact h (i + 1) (by omega))]

/-- A write is read back whole. -/
theorem Memory.readN_writeN (mem : List Host.Cell) (a : Nat) (b : List Byte) :
    Memory.readN (Memory.writeN mem a b) a b.length = b := by
  induction b generalizing mem a with
  | nil => rfl
  | cons x b ih =>
    simp only [List.length_cons]
    unfold Memory.readN Memory.writeN
    rw [Memory.read_writeN_out _ _ _ _ (by omega), Memory.read_write, if_pos rfl, ih]

/-- A span apart from a write reads as before. -/
theorem Memory.readN_writeN_out (mem : List Host.Cell) (a c n : Nat) (b : List Byte) (h : c + n ≤ a ∨ a + b.length ≤ c) :
    Memory.readN (Memory.writeN mem a b) c n = Memory.readN mem c n :=
  Memory.readN_congr _ _ _ _ (fun i hi => Memory.read_writeN_out mem a (c + i) b (by omega))

theorem Memory.wf_writeN (mem : List Host.Cell) (a : Nat) (b : List Byte) (w : Memory.wf mem = true) :
    Memory.wf (Memory.writeN mem a b) = true := by
  induction b generalizing mem a with
  | nil => exact w
  | cons x b ih => exact ih _ _ (Memory.wf_write mem a x w)

theorem Memory.wf_filter (mem : List Host.Cell) (p : Host.Cell → Bool) (w : Memory.wf mem = true) :
    Memory.wf (mem.filter p) = true := Table.wfFrom_filter _ mem 0 p w

/-- Writes of a list of cells keep the form. -/
theorem Memory.wf_foldl (l : List (Nat × Byte)) (f : Nat → Nat) (mem : List Host.Cell) (w : Memory.wf mem = true) :
    Memory.wf (l.foldl (fun mem (c : Nat × Byte) => Memory.write mem (f c.1) c.2) mem) = true := by
  induction l generalizing mem with
  | nil => exact w
  | cons x l ih => exact ih _ (Memory.wf_write mem _ _ w)

theorem State.wf_setBytes (s : State) (a : Nat) (b : List Byte) (w : Memory.wf s.mem = true) :
    Memory.wf (s.setBytes a b).mem = true := Memory.wf_writeN s.mem a b w

end Sys2Proof.Machine
end

