-- ==== Sys2Proof/Laws/State.lean ====
section
/-! SUPPORT. What each named update of the state leaves alone, and what it puts there: one law per field and update. -/

namespace Sys2Proof.Machine

open Sys2Proof

@[simp] theorem State.send_keeps (s : State) (o : Out) :
    (s.send o).pending = s.pending ∧ (s.send o).free = s.free ∧ (s.send o).clock = s.clock ∧ (s.send o).ident = s.ident ∧
    (s.send o).cwPend = s.cwPend ∧ (s.send o).cwf = s.cwf ∧ (s.send o).mem = s.mem ∧ (s.send o).bad = s.bad ∧
    (s.send o).reports = s.reports ∧ (s.send o).collector = s.collector ∧ (s.send o).mills = s.mills ∧ (s.send o).qs = s.qs ∧
    (s.send o).hostSeen = s.hostSeen ∧ (s.send o).ledger = s.ledger ∧ (s.send o).hp = s.hp ∧ (s.send o).tally = s.tally ∧
    (s.send o).level = s.level ∧ (s.send o).soft = s.soft ∧ (s.send o).granaries = s.granaries ∧ (s.send o).cadence = s.cadence ∧
    (s.send o).fab = s.fab ∧ (s.send o).groups = s.groups ∧ (s.send o).node = s.node ∧ (s.send o).bell = s.bell ∧
    (s.send o).ports = s.ports ∧ (s.send o).routes = s.routes ∧ (s.send o).routers = s.routers ∧ (s.send o).torW = s.torW ∧
    (s.send o).torE = s.torE ∧ (s.send o).cfg = s.cfg ∧ (s.send o).bw = s.bw ∧ (s.send o).reeveW = s.reeveW ∧
    (s.send o).reeveE = s.reeveE ∧ (s.send o).pwr = s.pwr ∧ (s.send o).rst = s.rst ∧ (s.send o).sec = s.sec ∧
    (s.send o).board = s.board ∧ (s.send o).pb = s.pb ∧ (s.send o).dbg = s.dbg ∧ (s.send o).cwUpset = s.cwUpset ∧
    (s.send o).cwHeld = s.cwHeld ∧ (s.send o).w1c = s.w1c :=
    ⟨rfl, rfl, rfl, rfl, rfl, rfl, rfl, rfl, rfl, rfl, rfl, rfl, rfl, rfl, rfl, rfl, rfl, rfl, rfl, rfl, rfl, rfl, rfl, rfl, rfl,
    rfl, rfl, rfl, rfl, rfl, rfl, rfl, rfl, rfl, rfl, rfl, rfl, rfl, rfl, rfl, rfl, rfl⟩

@[simp] theorem State.setBytes_keeps (s : State) (a : Nat) (b : List Byte) :
    (s.setBytes a b).pending = s.pending ∧ (s.setBytes a b).free = s.free ∧ (s.setBytes a b).outbox = s.outbox ∧
    (s.setBytes a b).clock = s.clock ∧ (s.setBytes a b).ident = s.ident ∧ (s.setBytes a b).cwPend = s.cwPend ∧
    (s.setBytes a b).cwf = s.cwf ∧ (s.setBytes a b).reports = s.reports ∧ (s.setBytes a b).collector = s.collector ∧
    (s.setBytes a b).mills = s.mills ∧ (s.setBytes a b).qs = s.qs ∧ (s.setBytes a b).hostSeen = s.hostSeen ∧
    (s.setBytes a b).ledger = s.ledger ∧ (s.setBytes a b).hp = s.hp ∧ (s.setBytes a b).tally = s.tally ∧
    (s.setBytes a b).level = s.level ∧ (s.setBytes a b).granaries = s.granaries ∧ (s.setBytes a b).cadence = s.cadence ∧
    (s.setBytes a b).fab = s.fab ∧ (s.setBytes a b).groups = s.groups ∧ (s.setBytes a b).node = s.node ∧
    (s.setBytes a b).bell = s.bell ∧ (s.setBytes a b).ports = s.ports ∧ (s.setBytes a b).routes = s.routes ∧
    (s.setBytes a b).routers = s.routers ∧ (s.setBytes a b).torW = s.torW ∧ (s.setBytes a b).torE = s.torE ∧
    (s.setBytes a b).cfg = s.cfg ∧ (s.setBytes a b).bw = s.bw ∧ (s.setBytes a b).reeveW = s.reeveW ∧
    (s.setBytes a b).reeveE = s.reeveE ∧ (s.setBytes a b).pwr = s.pwr ∧ (s.setBytes a b).rst = s.rst ∧ (s.setBytes a b).sec = s.sec ∧
    (s.setBytes a b).board = s.board ∧ (s.setBytes a b).pb = s.pb ∧ (s.setBytes a b).dbg = s.dbg ∧
    (s.setBytes a b).cwUpset = s.cwUpset ∧ (s.setBytes a b).cwHeld = s.cwHeld ∧ (s.setBytes a b).w1c = s.w1c :=
    ⟨rfl, rfl, rfl, rfl, rfl, rfl, rfl, rfl, rfl, rfl, rfl, rfl, rfl, rfl, rfl, rfl, rfl, rfl, rfl, rfl, rfl, rfl, rfl, rfl, rfl,
    rfl, rfl, rfl, rfl, rfl, rfl, rfl, rfl, rfl, rfl, rfl, rfl, rfl, rfl, rfl⟩

@[simp] theorem State.zeroRange_keeps (s : State) (a n : Nat) :
    (s.zeroRange a n).pending = s.pending ∧ (s.zeroRange a n).free = s.free ∧ (s.zeroRange a n).outbox = s.outbox ∧
    (s.zeroRange a n).clock = s.clock ∧ (s.zeroRange a n).ident = s.ident ∧ (s.zeroRange a n).cwPend = s.cwPend ∧
    (s.zeroRange a n).cwf = s.cwf ∧ (s.zeroRange a n).reports = s.reports ∧ (s.zeroRange a n).collector = s.collector ∧
    (s.zeroRange a n).mills = s.mills ∧ (s.zeroRange a n).qs = s.qs ∧ (s.zeroRange a n).hostSeen = s.hostSeen ∧
    (s.zeroRange a n).ledger = s.ledger ∧ (s.zeroRange a n).hp = s.hp ∧ (s.zeroRange a n).tally = s.tally ∧
    (s.zeroRange a n).level = s.level ∧ (s.zeroRange a n).granaries = s.granaries ∧ (s.zeroRange a n).cadence = s.cadence ∧
    (s.zeroRange a n).fab = s.fab ∧ (s.zeroRange a n).groups = s.groups ∧ (s.zeroRange a n).node = s.node ∧
    (s.zeroRange a n).bell = s.bell ∧ (s.zeroRange a n).ports = s.ports ∧ (s.zeroRange a n).routes = s.routes ∧
    (s.zeroRange a n).routers = s.routers ∧ (s.zeroRange a n).torW = s.torW ∧ (s.zeroRange a n).torE = s.torE ∧
    (s.zeroRange a n).cfg = s.cfg ∧ (s.zeroRange a n).bw = s.bw ∧ (s.zeroRange a n).reeveW = s.reeveW ∧
    (s.zeroRange a n).reeveE = s.reeveE ∧ (s.zeroRange a n).pwr = s.pwr ∧ (s.zeroRange a n).rst = s.rst ∧
    (s.zeroRange a n).sec = s.sec ∧ (s.zeroRange a n).board = s.board ∧ (s.zeroRange a n).pb = s.pb ∧ (s.zeroRange a n).dbg = s.dbg ∧
    (s.zeroRange a n).cwUpset = s.cwUpset ∧ (s.zeroRange a n).cwHeld = s.cwHeld ∧ (s.zeroRange a n).w1c = s.w1c :=
    ⟨rfl, rfl, rfl, rfl, rfl, rfl, rfl, rfl, rfl, rfl, rfl, rfl, rfl, rfl, rfl, rfl, rfl, rfl, rfl, rfl, rfl, rfl, rfl, rfl, rfl,
    rfl, rfl, rfl, rfl, rfl, rfl, rfl, rfl, rfl, rfl, rfl, rfl, rfl, rfl, rfl⟩

@[simp] theorem State.setMill_keeps (s : State) (m : Nat) (x : Mill) :
    (s.setMill m x).pending = s.pending ∧ (s.setMill m x).free = s.free ∧ (s.setMill m x).outbox = s.outbox ∧
    (s.setMill m x).clock = s.clock ∧ (s.setMill m x).ident = s.ident ∧ (s.setMill m x).cwPend = s.cwPend ∧
    (s.setMill m x).cwf = s.cwf ∧ (s.setMill m x).mem = s.mem ∧ (s.setMill m x).bad = s.bad ∧ (s.setMill m x).reports = s.reports ∧
    (s.setMill m x).collector = s.collector ∧ (s.setMill m x).qs = s.qs ∧ (s.setMill m x).hostSeen = s.hostSeen ∧
    (s.setMill m x).ledger = s.ledger ∧ (s.setMill m x).hp = s.hp ∧ (s.setMill m x).tally = s.tally ∧ (s.setMill m x).level = s.level ∧
    (s.setMill m x).soft = s.soft ∧ (s.setMill m x).granaries = s.granaries ∧ (s.setMill m x).cadence = s.cadence ∧
    (s.setMill m x).fab = s.fab ∧ (s.setMill m x).groups = s.groups ∧ (s.setMill m x).node = s.node ∧ (s.setMill m x).bell = s.bell ∧
    (s.setMill m x).ports = s.ports ∧ (s.setMill m x).routes = s.routes ∧ (s.setMill m x).routers = s.routers ∧
    (s.setMill m x).torW = s.torW ∧ (s.setMill m x).torE = s.torE ∧ (s.setMill m x).cfg = s.cfg ∧ (s.setMill m x).bw = s.bw ∧
    (s.setMill m x).reeveW = s.reeveW ∧ (s.setMill m x).reeveE = s.reeveE ∧ (s.setMill m x).pwr = s.pwr ∧ (s.setMill m x).rst = s.rst ∧
    (s.setMill m x).sec = s.sec ∧ (s.setMill m x).board = s.board ∧ (s.setMill m x).pb = s.pb ∧ (s.setMill m x).dbg = s.dbg ∧
    (s.setMill m x).cwUpset = s.cwUpset ∧ (s.setMill m x).cwHeld = s.cwHeld ∧ (s.setMill m x).w1c = s.w1c :=
    ⟨rfl, rfl, rfl, rfl, rfl, rfl, rfl, rfl, rfl, rfl, rfl, rfl, rfl, rfl, rfl, rfl, rfl, rfl, rfl, rfl, rfl, rfl, rfl, rfl, rfl,
    rfl, rfl, rfl, rfl, rfl, rfl, rfl, rfl, rfl, rfl, rfl, rfl, rfl, rfl, rfl, rfl, rfl⟩

@[simp] theorem State.modMill_keeps (s : State) (m : Nat) (f : Mill → Mill) :
    (s.modMill m f).pending = s.pending ∧ (s.modMill m f).free = s.free ∧ (s.modMill m f).outbox = s.outbox ∧
    (s.modMill m f).clock = s.clock ∧ (s.modMill m f).ident = s.ident ∧ (s.modMill m f).cwPend = s.cwPend ∧
    (s.modMill m f).cwf = s.cwf ∧ (s.modMill m f).mem = s.mem ∧ (s.modMill m f).bad = s.bad ∧ (s.modMill m f).reports = s.reports ∧
    (s.modMill m f).collector = s.collector ∧ (s.modMill m f).qs = s.qs ∧ (s.modMill m f).hostSeen = s.hostSeen ∧
    (s.modMill m f).ledger = s.ledger ∧ (s.modMill m f).hp = s.hp ∧ (s.modMill m f).tally = s.tally ∧ (s.modMill m f).level = s.level ∧
    (s.modMill m f).soft = s.soft ∧ (s.modMill m f).granaries = s.granaries ∧ (s.modMill m f).cadence = s.cadence ∧
    (s.modMill m f).fab = s.fab ∧ (s.modMill m f).groups = s.groups ∧ (s.modMill m f).node = s.node ∧ (s.modMill m f).bell = s.bell ∧
    (s.modMill m f).ports = s.ports ∧ (s.modMill m f).routes = s.routes ∧ (s.modMill m f).routers = s.routers ∧
    (s.modMill m f).torW = s.torW ∧ (s.modMill m f).torE = s.torE ∧ (s.modMill m f).cfg = s.cfg ∧ (s.modMill m f).bw = s.bw ∧
    (s.modMill m f).reeveW = s.reeveW ∧ (s.modMill m f).reeveE = s.reeveE ∧ (s.modMill m f).pwr = s.pwr ∧ (s.modMill m f).rst = s.rst ∧
    (s.modMill m f).sec = s.sec ∧ (s.modMill m f).board = s.board ∧ (s.modMill m f).pb = s.pb ∧ (s.modMill m f).dbg = s.dbg ∧
    (s.modMill m f).cwUpset = s.cwUpset ∧ (s.modMill m f).cwHeld = s.cwHeld ∧ (s.modMill m f).w1c = s.w1c :=
    ⟨rfl, rfl, rfl, rfl, rfl, rfl, rfl, rfl, rfl, rfl, rfl, rfl, rfl, rfl, rfl, rfl, rfl, rfl, rfl, rfl, rfl, rfl, rfl, rfl, rfl,
    rfl, rfl, rfl, rfl, rfl, rfl, rfl, rfl, rfl, rfl, rfl, rfl, rfl, rfl, rfl, rfl, rfl⟩

@[simp] theorem State.modEng_keeps (s : State) (m : Nat) (e : Eng) (f : Engine → Engine) :
    (s.modEng m e f).pending = s.pending ∧ (s.modEng m e f).free = s.free ∧ (s.modEng m e f).outbox = s.outbox ∧
    (s.modEng m e f).clock = s.clock ∧ (s.modEng m e f).ident = s.ident ∧ (s.modEng m e f).cwPend = s.cwPend ∧
    (s.modEng m e f).cwf = s.cwf ∧ (s.modEng m e f).mem = s.mem ∧ (s.modEng m e f).bad = s.bad ∧ (s.modEng m e f).reports = s.reports ∧
    (s.modEng m e f).collector = s.collector ∧ (s.modEng m e f).qs = s.qs ∧ (s.modEng m e f).hostSeen = s.hostSeen ∧
    (s.modEng m e f).ledger = s.ledger ∧ (s.modEng m e f).hp = s.hp ∧ (s.modEng m e f).tally = s.tally ∧
    (s.modEng m e f).level = s.level ∧ (s.modEng m e f).soft = s.soft ∧ (s.modEng m e f).granaries = s.granaries ∧
    (s.modEng m e f).cadence = s.cadence ∧ (s.modEng m e f).fab = s.fab ∧ (s.modEng m e f).groups = s.groups ∧
    (s.modEng m e f).node = s.node ∧ (s.modEng m e f).bell = s.bell ∧ (s.modEng m e f).ports = s.ports ∧
    (s.modEng m e f).routes = s.routes ∧ (s.modEng m e f).routers = s.routers ∧ (s.modEng m e f).torW = s.torW ∧
    (s.modEng m e f).torE = s.torE ∧ (s.modEng m e f).cfg = s.cfg ∧ (s.modEng m e f).bw = s.bw ∧ (s.modEng m e f).reeveW = s.reeveW ∧
    (s.modEng m e f).reeveE = s.reeveE ∧ (s.modEng m e f).pwr = s.pwr ∧ (s.modEng m e f).rst = s.rst ∧ (s.modEng m e f).sec = s.sec ∧
    (s.modEng m e f).board = s.board ∧ (s.modEng m e f).pb = s.pb ∧ (s.modEng m e f).dbg = s.dbg ∧
    (s.modEng m e f).cwUpset = s.cwUpset ∧ (s.modEng m e f).cwHeld = s.cwHeld ∧ (s.modEng m e f).w1c = s.w1c :=
    ⟨rfl, rfl, rfl, rfl, rfl, rfl, rfl, rfl, rfl, rfl, rfl, rfl, rfl, rfl, rfl, rfl, rfl, rfl, rfl, rfl, rfl, rfl, rfl, rfl, rfl,
    rfl, rfl, rfl, rfl, rfl, rfl, rfl, rfl, rfl, rfl, rfl, rfl, rfl, rfl, rfl, rfl, rfl⟩

@[simp] theorem State.setSlot_keeps (s : State) (m k : Nat) (x : Option Slot) :
    (s.setSlot m k x).pending = s.pending ∧ (s.setSlot m k x).free = s.free ∧ (s.setSlot m k x).outbox = s.outbox ∧
    (s.setSlot m k x).clock = s.clock ∧ (s.setSlot m k x).ident = s.ident ∧ (s.setSlot m k x).cwPend = s.cwPend ∧
    (s.setSlot m k x).cwf = s.cwf ∧ (s.setSlot m k x).mem = s.mem ∧ (s.setSlot m k x).bad = s.bad ∧
    (s.setSlot m k x).reports = s.reports ∧ (s.setSlot m k x).collector = s.collector ∧ (s.setSlot m k x).qs = s.qs ∧
    (s.setSlot m k x).hostSeen = s.hostSeen ∧ (s.setSlot m k x).ledger = s.ledger ∧ (s.setSlot m k x).hp = s.hp ∧
    (s.setSlot m k x).tally = s.tally ∧ (s.setSlot m k x).level = s.level ∧ (s.setSlot m k x).soft = s.soft ∧
    (s.setSlot m k x).granaries = s.granaries ∧ (s.setSlot m k x).cadence = s.cadence ∧ (s.setSlot m k x).fab = s.fab ∧
    (s.setSlot m k x).groups = s.groups ∧ (s.setSlot m k x).node = s.node ∧ (s.setSlot m k x).bell = s.bell ∧
    (s.setSlot m k x).ports = s.ports ∧ (s.setSlot m k x).routes = s.routes ∧ (s.setSlot m k x).routers = s.routers ∧
    (s.setSlot m k x).torW = s.torW ∧ (s.setSlot m k x).torE = s.torE ∧ (s.setSlot m k x).cfg = s.cfg ∧ (s.setSlot m k x).bw = s.bw ∧
    (s.setSlot m k x).reeveW = s.reeveW ∧ (s.setSlot m k x).reeveE = s.reeveE ∧ (s.setSlot m k x).pwr = s.pwr ∧
    (s.setSlot m k x).rst = s.rst ∧ (s.setSlot m k x).sec = s.sec ∧ (s.setSlot m k x).board = s.board ∧ (s.setSlot m k x).pb = s.pb ∧
    (s.setSlot m k x).dbg = s.dbg ∧ (s.setSlot m k x).cwUpset = s.cwUpset ∧ (s.setSlot m k x).cwHeld = s.cwHeld ∧
    (s.setSlot m k x).w1c = s.w1c :=
    ⟨rfl, rfl, rfl, rfl, rfl, rfl, rfl, rfl, rfl, rfl, rfl, rfl, rfl, rfl, rfl, rfl, rfl, rfl, rfl, rfl, rfl, rfl, rfl, rfl, rfl,
    rfl, rfl, rfl, rfl, rfl, rfl, rfl, rfl, rfl, rfl, rfl, rfl, rfl, rfl, rfl, rfl, rfl⟩

@[simp] theorem State.modSsr_keeps (s : State) (m k : Nat) (f : Ssr → Ssr) :
    (s.modSsr m k f).pending = s.pending ∧ (s.modSsr m k f).free = s.free ∧ (s.modSsr m k f).outbox = s.outbox ∧
    (s.modSsr m k f).clock = s.clock ∧ (s.modSsr m k f).ident = s.ident ∧ (s.modSsr m k f).cwPend = s.cwPend ∧
    (s.modSsr m k f).cwf = s.cwf ∧ (s.modSsr m k f).mem = s.mem ∧ (s.modSsr m k f).bad = s.bad ∧ (s.modSsr m k f).reports = s.reports ∧
    (s.modSsr m k f).collector = s.collector ∧ (s.modSsr m k f).qs = s.qs ∧ (s.modSsr m k f).hostSeen = s.hostSeen ∧
    (s.modSsr m k f).ledger = s.ledger ∧ (s.modSsr m k f).hp = s.hp ∧ (s.modSsr m k f).tally = s.tally ∧
    (s.modSsr m k f).level = s.level ∧ (s.modSsr m k f).soft = s.soft ∧ (s.modSsr m k f).granaries = s.granaries ∧
    (s.modSsr m k f).cadence = s.cadence ∧ (s.modSsr m k f).fab = s.fab ∧ (s.modSsr m k f).groups = s.groups ∧
    (s.modSsr m k f).node = s.node ∧ (s.modSsr m k f).bell = s.bell ∧ (s.modSsr m k f).ports = s.ports ∧
    (s.modSsr m k f).routes = s.routes ∧ (s.modSsr m k f).routers = s.routers ∧ (s.modSsr m k f).torW = s.torW ∧
    (s.modSsr m k f).torE = s.torE ∧ (s.modSsr m k f).cfg = s.cfg ∧ (s.modSsr m k f).bw = s.bw ∧ (s.modSsr m k f).reeveW = s.reeveW ∧
    (s.modSsr m k f).reeveE = s.reeveE ∧ (s.modSsr m k f).pwr = s.pwr ∧ (s.modSsr m k f).rst = s.rst ∧ (s.modSsr m k f).sec = s.sec ∧
    (s.modSsr m k f).board = s.board ∧ (s.modSsr m k f).pb = s.pb ∧ (s.modSsr m k f).dbg = s.dbg ∧
    (s.modSsr m k f).cwUpset = s.cwUpset ∧ (s.modSsr m k f).cwHeld = s.cwHeld ∧ (s.modSsr m k f).w1c = s.w1c :=
    ⟨rfl, rfl, rfl, rfl, rfl, rfl, rfl, rfl, rfl, rfl, rfl, rfl, rfl, rfl, rfl, rfl, rfl, rfl, rfl, rfl, rfl, rfl, rfl, rfl, rfl,
    rfl, rfl, rfl, rfl, rfl, rfl, rfl, rfl, rfl, rfl, rfl, rfl, rfl, rfl, rfl, rfl, rfl⟩

@[simp] theorem State.setQueue_keeps (s : State) (q : Nat) (x : Queue) :
    (s.setQueue q x).pending = s.pending ∧ (s.setQueue q x).free = s.free ∧ (s.setQueue q x).outbox = s.outbox ∧
    (s.setQueue q x).clock = s.clock ∧ (s.setQueue q x).ident = s.ident ∧ (s.setQueue q x).cwPend = s.cwPend ∧
    (s.setQueue q x).cwf = s.cwf ∧ (s.setQueue q x).mem = s.mem ∧ (s.setQueue q x).bad = s.bad ∧ (s.setQueue q x).reports = s.reports ∧
    (s.setQueue q x).collector = s.collector ∧ (s.setQueue q x).mills = s.mills ∧ (s.setQueue q x).hostSeen = s.hostSeen ∧
    (s.setQueue q x).ledger = s.ledger ∧ (s.setQueue q x).hp = s.hp ∧ (s.setQueue q x).tally = s.tally ∧
    (s.setQueue q x).level = s.level ∧ (s.setQueue q x).soft = s.soft ∧ (s.setQueue q x).granaries = s.granaries ∧
    (s.setQueue q x).cadence = s.cadence ∧ (s.setQueue q x).fab = s.fab ∧ (s.setQueue q x).groups = s.groups ∧
    (s.setQueue q x).node = s.node ∧ (s.setQueue q x).bell = s.bell ∧ (s.setQueue q x).ports = s.ports ∧
    (s.setQueue q x).routes = s.routes ∧ (s.setQueue q x).routers = s.routers ∧ (s.setQueue q x).torW = s.torW ∧
    (s.setQueue q x).torE = s.torE ∧ (s.setQueue q x).cfg = s.cfg ∧ (s.setQueue q x).bw = s.bw ∧ (s.setQueue q x).reeveW = s.reeveW ∧
    (s.setQueue q x).reeveE = s.reeveE ∧ (s.setQueue q x).pwr = s.pwr ∧ (s.setQueue q x).rst = s.rst ∧ (s.setQueue q x).sec = s.sec ∧
    (s.setQueue q x).board = s.board ∧ (s.setQueue q x).pb = s.pb ∧ (s.setQueue q x).dbg = s.dbg ∧
    (s.setQueue q x).cwUpset = s.cwUpset ∧ (s.setQueue q x).cwHeld = s.cwHeld ∧ (s.setQueue q x).w1c = s.w1c :=
    ⟨rfl, rfl, rfl, rfl, rfl, rfl, rfl, rfl, rfl, rfl, rfl, rfl, rfl, rfl, rfl, rfl, rfl, rfl, rfl, rfl, rfl, rfl, rfl, rfl, rfl,
    rfl, rfl, rfl, rfl, rfl, rfl, rfl, rfl, rfl, rfl, rfl, rfl, rfl, rfl, rfl, rfl, rfl⟩

@[simp] theorem State.modQueue_keeps (s : State) (q : Nat) (f : Queue → Queue) :
    (s.modQueue q f).pending = s.pending ∧ (s.modQueue q f).free = s.free ∧ (s.modQueue q f).outbox = s.outbox ∧
    (s.modQueue q f).clock = s.clock ∧ (s.modQueue q f).ident = s.ident ∧ (s.modQueue q f).cwPend = s.cwPend ∧
    (s.modQueue q f).cwf = s.cwf ∧ (s.modQueue q f).mem = s.mem ∧ (s.modQueue q f).bad = s.bad ∧ (s.modQueue q f).reports = s.reports ∧
    (s.modQueue q f).collector = s.collector ∧ (s.modQueue q f).mills = s.mills ∧ (s.modQueue q f).hostSeen = s.hostSeen ∧
    (s.modQueue q f).ledger = s.ledger ∧ (s.modQueue q f).hp = s.hp ∧ (s.modQueue q f).tally = s.tally ∧
    (s.modQueue q f).level = s.level ∧ (s.modQueue q f).soft = s.soft ∧ (s.modQueue q f).granaries = s.granaries ∧
    (s.modQueue q f).cadence = s.cadence ∧ (s.modQueue q f).fab = s.fab ∧ (s.modQueue q f).groups = s.groups ∧
    (s.modQueue q f).node = s.node ∧ (s.modQueue q f).bell = s.bell ∧ (s.modQueue q f).ports = s.ports ∧
    (s.modQueue q f).routes = s.routes ∧ (s.modQueue q f).routers = s.routers ∧ (s.modQueue q f).torW = s.torW ∧
    (s.modQueue q f).torE = s.torE ∧ (s.modQueue q f).cfg = s.cfg ∧ (s.modQueue q f).bw = s.bw ∧ (s.modQueue q f).reeveW = s.reeveW ∧
    (s.modQueue q f).reeveE = s.reeveE ∧ (s.modQueue q f).pwr = s.pwr ∧ (s.modQueue q f).rst = s.rst ∧ (s.modQueue q f).sec = s.sec ∧
    (s.modQueue q f).board = s.board ∧ (s.modQueue q f).pb = s.pb ∧ (s.modQueue q f).dbg = s.dbg ∧
    (s.modQueue q f).cwUpset = s.cwUpset ∧ (s.modQueue q f).cwHeld = s.cwHeld ∧ (s.modQueue q f).w1c = s.w1c :=
    ⟨rfl, rfl, rfl, rfl, rfl, rfl, rfl, rfl, rfl, rfl, rfl, rfl, rfl, rfl, rfl, rfl, rfl, rfl, rfl, rfl, rfl, rfl, rfl, rfl, rfl,
    rfl, rfl, rfl, rfl, rfl, rfl, rfl, rfl, rfl, rfl, rfl, rfl, rfl, rfl, rfl, rfl, rfl⟩

@[simp] theorem State.setDsp_keeps (s : State) (d : Die) (x : Dispatcher) :
    (s.setDsp d x).pending = s.pending ∧ (s.setDsp d x).free = s.free ∧ (s.setDsp d x).outbox = s.outbox ∧
    (s.setDsp d x).clock = s.clock ∧ (s.setDsp d x).ident = s.ident ∧ (s.setDsp d x).cwPend = s.cwPend ∧ (s.setDsp d x).cwf = s.cwf ∧
    (s.setDsp d x).mem = s.mem ∧ (s.setDsp d x).bad = s.bad ∧ (s.setDsp d x).reports = s.reports ∧
    (s.setDsp d x).collector = s.collector ∧ (s.setDsp d x).mills = s.mills ∧ (s.setDsp d x).hostSeen = s.hostSeen ∧
    (s.setDsp d x).ledger = s.ledger ∧ (s.setDsp d x).hp = s.hp ∧ (s.setDsp d x).tally = s.tally ∧ (s.setDsp d x).level = s.level ∧
    (s.setDsp d x).soft = s.soft ∧ (s.setDsp d x).granaries = s.granaries ∧ (s.setDsp d x).cadence = s.cadence ∧
    (s.setDsp d x).fab = s.fab ∧ (s.setDsp d x).groups = s.groups ∧ (s.setDsp d x).node = s.node ∧ (s.setDsp d x).bell = s.bell ∧
    (s.setDsp d x).ports = s.ports ∧ (s.setDsp d x).routes = s.routes ∧ (s.setDsp d x).routers = s.routers ∧
    (s.setDsp d x).torW = s.torW ∧ (s.setDsp d x).torE = s.torE ∧ (s.setDsp d x).cfg = s.cfg ∧ (s.setDsp d x).bw = s.bw ∧
    (s.setDsp d x).reeveW = s.reeveW ∧ (s.setDsp d x).reeveE = s.reeveE ∧ (s.setDsp d x).pwr = s.pwr ∧ (s.setDsp d x).rst = s.rst ∧
    (s.setDsp d x).sec = s.sec ∧ (s.setDsp d x).board = s.board ∧ (s.setDsp d x).pb = s.pb ∧ (s.setDsp d x).dbg = s.dbg ∧
    (s.setDsp d x).cwUpset = s.cwUpset ∧ (s.setDsp d x).cwHeld = s.cwHeld ∧ (s.setDsp d x).w1c = s.w1c := by
  cases d <;> exact
    ⟨rfl, rfl, rfl, rfl, rfl, rfl, rfl, rfl, rfl, rfl, rfl, rfl, rfl, rfl, rfl, rfl, rfl, rfl, rfl, rfl, rfl, rfl, rfl, rfl, rfl,
    rfl, rfl, rfl, rfl, rfl, rfl, rfl, rfl, rfl, rfl, rfl, rfl, rfl, rfl, rfl, rfl, rfl⟩

@[simp] theorem State.setPort_keeps (s : State) (p : Nat) (x : Port) :
    (s.setPort p x).pending = s.pending ∧ (s.setPort p x).free = s.free ∧ (s.setPort p x).outbox = s.outbox ∧
    (s.setPort p x).clock = s.clock ∧ (s.setPort p x).ident = s.ident ∧ (s.setPort p x).cwPend = s.cwPend ∧
    (s.setPort p x).cwf = s.cwf ∧ (s.setPort p x).mem = s.mem ∧ (s.setPort p x).bad = s.bad ∧ (s.setPort p x).reports = s.reports ∧
    (s.setPort p x).collector = s.collector ∧ (s.setPort p x).mills = s.mills ∧ (s.setPort p x).qs = s.qs ∧
    (s.setPort p x).hostSeen = s.hostSeen ∧ (s.setPort p x).ledger = s.ledger ∧ (s.setPort p x).hp = s.hp ∧
    (s.setPort p x).tally = s.tally ∧ (s.setPort p x).level = s.level ∧ (s.setPort p x).soft = s.soft ∧
    (s.setPort p x).granaries = s.granaries ∧ (s.setPort p x).cadence = s.cadence ∧ (s.setPort p x).fab = s.fab ∧
    (s.setPort p x).groups = s.groups ∧ (s.setPort p x).node = s.node ∧ (s.setPort p x).bell = s.bell ∧
    (s.setPort p x).routes = s.routes ∧ (s.setPort p x).routers = s.routers ∧ (s.setPort p x).torW = s.torW ∧
    (s.setPort p x).torE = s.torE ∧ (s.setPort p x).cfg = s.cfg ∧ (s.setPort p x).bw = s.bw ∧ (s.setPort p x).reeveW = s.reeveW ∧
    (s.setPort p x).reeveE = s.reeveE ∧ (s.setPort p x).pwr = s.pwr ∧ (s.setPort p x).rst = s.rst ∧ (s.setPort p x).sec = s.sec ∧
    (s.setPort p x).board = s.board ∧ (s.setPort p x).pb = s.pb ∧ (s.setPort p x).dbg = s.dbg ∧ (s.setPort p x).cwUpset = s.cwUpset ∧
    (s.setPort p x).cwHeld = s.cwHeld ∧ (s.setPort p x).w1c = s.w1c :=
    ⟨rfl, rfl, rfl, rfl, rfl, rfl, rfl, rfl, rfl, rfl, rfl, rfl, rfl, rfl, rfl, rfl, rfl, rfl, rfl, rfl, rfl, rfl, rfl, rfl, rfl,
    rfl, rfl, rfl, rfl, rfl, rfl, rfl, rfl, rfl, rfl, rfl, rfl, rfl, rfl, rfl, rfl, rfl⟩

@[simp] theorem State.modPort_keeps (s : State) (p : Nat) (f : Port → Port) :
    (s.modPort p f).pending = s.pending ∧ (s.modPort p f).free = s.free ∧ (s.modPort p f).outbox = s.outbox ∧
    (s.modPort p f).clock = s.clock ∧ (s.modPort p f).ident = s.ident ∧ (s.modPort p f).cwPend = s.cwPend ∧
    (s.modPort p f).cwf = s.cwf ∧ (s.modPort p f).mem = s.mem ∧ (s.modPort p f).bad = s.bad ∧ (s.modPort p f).reports = s.reports ∧
    (s.modPort p f).collector = s.collector ∧ (s.modPort p f).mills = s.mills ∧ (s.modPort p f).qs = s.qs ∧
    (s.modPort p f).hostSeen = s.hostSeen ∧ (s.modPort p f).ledger = s.ledger ∧ (s.modPort p f).hp = s.hp ∧
    (s.modPort p f).tally = s.tally ∧ (s.modPort p f).level = s.level ∧ (s.modPort p f).soft = s.soft ∧
    (s.modPort p f).granaries = s.granaries ∧ (s.modPort p f).cadence = s.cadence ∧ (s.modPort p f).fab = s.fab ∧
    (s.modPort p f).groups = s.groups ∧ (s.modPort p f).node = s.node ∧ (s.modPort p f).bell = s.bell ∧
    (s.modPort p f).routes = s.routes ∧ (s.modPort p f).routers = s.routers ∧ (s.modPort p f).torW = s.torW ∧
    (s.modPort p f).torE = s.torE ∧ (s.modPort p f).cfg = s.cfg ∧ (s.modPort p f).bw = s.bw ∧ (s.modPort p f).reeveW = s.reeveW ∧
    (s.modPort p f).reeveE = s.reeveE ∧ (s.modPort p f).pwr = s.pwr ∧ (s.modPort p f).rst = s.rst ∧ (s.modPort p f).sec = s.sec ∧
    (s.modPort p f).board = s.board ∧ (s.modPort p f).pb = s.pb ∧ (s.modPort p f).dbg = s.dbg ∧ (s.modPort p f).cwUpset = s.cwUpset ∧
    (s.modPort p f).cwHeld = s.cwHeld ∧ (s.modPort p f).w1c = s.w1c :=
    ⟨rfl, rfl, rfl, rfl, rfl, rfl, rfl, rfl, rfl, rfl, rfl, rfl, rfl, rfl, rfl, rfl, rfl, rfl, rfl, rfl, rfl, rfl, rfl, rfl, rfl,
    rfl, rfl, rfl, rfl, rfl, rfl, rfl, rfl, rfl, rfl, rfl, rfl, rfl, rfl, rfl, rfl, rfl⟩

@[simp] theorem State.modGroup_keeps (s : State) (g : Nat) (f : Group → Group) :
    (s.modGroup g f).pending = s.pending ∧ (s.modGroup g f).free = s.free ∧ (s.modGroup g f).outbox = s.outbox ∧
    (s.modGroup g f).clock = s.clock ∧ (s.modGroup g f).ident = s.ident ∧ (s.modGroup g f).cwPend = s.cwPend ∧
    (s.modGroup g f).cwf = s.cwf ∧ (s.modGroup g f).mem = s.mem ∧ (s.modGroup g f).bad = s.bad ∧ (s.modGroup g f).reports = s.reports ∧
    (s.modGroup g f).collector = s.collector ∧ (s.modGroup g f).mills = s.mills ∧ (s.modGroup g f).qs = s.qs ∧
    (s.modGroup g f).hostSeen = s.hostSeen ∧ (s.modGroup g f).ledger = s.ledger ∧ (s.modGroup g f).hp = s.hp ∧
    (s.modGroup g f).tally = s.tally ∧ (s.modGroup g f).level = s.level ∧ (s.modGroup g f).soft = s.soft ∧
    (s.modGroup g f).granaries = s.granaries ∧ (s.modGroup g f).cadence = s.cadence ∧ (s.modGroup g f).fab = s.fab ∧
    (s.modGroup g f).node = s.node ∧ (s.modGroup g f).bell = s.bell ∧ (s.modGroup g f).ports = s.ports ∧
    (s.modGroup g f).routes = s.routes ∧ (s.modGroup g f).routers = s.routers ∧ (s.modGroup g f).torW = s.torW ∧
    (s.modGroup g f).torE = s.torE ∧ (s.modGroup g f).cfg = s.cfg ∧ (s.modGroup g f).bw = s.bw ∧ (s.modGroup g f).reeveW = s.reeveW ∧
    (s.modGroup g f).reeveE = s.reeveE ∧ (s.modGroup g f).pwr = s.pwr ∧ (s.modGroup g f).rst = s.rst ∧ (s.modGroup g f).sec = s.sec ∧
    (s.modGroup g f).board = s.board ∧ (s.modGroup g f).pb = s.pb ∧ (s.modGroup g f).dbg = s.dbg ∧
    (s.modGroup g f).cwUpset = s.cwUpset ∧ (s.modGroup g f).cwHeld = s.cwHeld ∧ (s.modGroup g f).w1c = s.w1c :=
    ⟨rfl, rfl, rfl, rfl, rfl, rfl, rfl, rfl, rfl, rfl, rfl, rfl, rfl, rfl, rfl, rfl, rfl, rfl, rfl, rfl, rfl, rfl, rfl, rfl, rfl,
    rfl, rfl, rfl, rfl, rfl, rfl, rfl, rfl, rfl, rfl, rfl, rfl, rfl, rfl, rfl, rfl, rfl⟩

@[simp] theorem State.raiseHalt_keeps (s : State) (g cause detail : Nat) :
    (s.raiseHalt g cause detail).pending = s.pending ∧ (s.raiseHalt g cause detail).free = s.free ∧
    (s.raiseHalt g cause detail).outbox = s.outbox ∧ (s.raiseHalt g cause detail).clock = s.clock ∧
    (s.raiseHalt g cause detail).ident = s.ident ∧ (s.raiseHalt g cause detail).cwPend = s.cwPend ∧
    (s.raiseHalt g cause detail).cwf = s.cwf ∧ (s.raiseHalt g cause detail).mem = s.mem ∧ (s.raiseHalt g cause detail).bad = s.bad ∧
    (s.raiseHalt g cause detail).reports = s.reports ∧ (s.raiseHalt g cause detail).collector = s.collector ∧
    (s.raiseHalt g cause detail).mills = s.mills ∧ (s.raiseHalt g cause detail).qs = s.qs ∧
    (s.raiseHalt g cause detail).hostSeen = s.hostSeen ∧ (s.raiseHalt g cause detail).ledger = s.ledger ∧
    (s.raiseHalt g cause detail).hp = s.hp ∧ (s.raiseHalt g cause detail).tally = s.tally ∧
    (s.raiseHalt g cause detail).level = s.level ∧ (s.raiseHalt g cause detail).soft = s.soft ∧
    (s.raiseHalt g cause detail).granaries = s.granaries ∧ (s.raiseHalt g cause detail).cadence = s.cadence ∧
    (s.raiseHalt g cause detail).fab = s.fab ∧ (s.raiseHalt g cause detail).node = s.node ∧
    (s.raiseHalt g cause detail).bell = s.bell ∧ (s.raiseHalt g cause detail).ports = s.ports ∧
    (s.raiseHalt g cause detail).routes = s.routes ∧ (s.raiseHalt g cause detail).routers = s.routers ∧
    (s.raiseHalt g cause detail).torW = s.torW ∧ (s.raiseHalt g cause detail).torE = s.torE ∧
    (s.raiseHalt g cause detail).cfg = s.cfg ∧ (s.raiseHalt g cause detail).bw = s.bw ∧
    (s.raiseHalt g cause detail).reeveW = s.reeveW ∧ (s.raiseHalt g cause detail).reeveE = s.reeveE ∧
    (s.raiseHalt g cause detail).pwr = s.pwr ∧ (s.raiseHalt g cause detail).rst = s.rst ∧ (s.raiseHalt g cause detail).sec = s.sec ∧
    (s.raiseHalt g cause detail).board = s.board ∧ (s.raiseHalt g cause detail).pb = s.pb ∧ (s.raiseHalt g cause detail).dbg = s.dbg ∧
    (s.raiseHalt g cause detail).cwUpset = s.cwUpset ∧ (s.raiseHalt g cause detail).cwHeld = s.cwHeld ∧
    (s.raiseHalt g cause detail).w1c = s.w1c :=
    ⟨rfl, rfl, rfl, rfl, rfl, rfl, rfl, rfl, rfl, rfl, rfl, rfl, rfl, rfl, rfl, rfl, rfl, rfl, rfl, rfl, rfl, rfl, rfl, rfl, rfl,
    rfl, rfl, rfl, rfl, rfl, rfl, rfl, rfl, rfl, rfl, rfl, rfl, rfl, rfl, rfl, rfl, rfl⟩

@[simp] theorem State.modGranary_keeps (s : State) (k : Nat) (f : Granary → Granary) :
    (s.modGranary k f).pending = s.pending ∧ (s.modGranary k f).free = s.free ∧ (s.modGranary k f).outbox = s.outbox ∧
    (s.modGranary k f).clock = s.clock ∧ (s.modGranary k f).ident = s.ident ∧ (s.modGranary k f).cwPend = s.cwPend ∧
    (s.modGranary k f).cwf = s.cwf ∧ (s.modGranary k f).mem = s.mem ∧ (s.modGranary k f).bad = s.bad ∧
    (s.modGranary k f).reports = s.reports ∧ (s.modGranary k f).collector = s.collector ∧ (s.modGranary k f).mills = s.mills ∧
    (s.modGranary k f).qs = s.qs ∧ (s.modGranary k f).hostSeen = s.hostSeen ∧ (s.modGranary k f).ledger = s.ledger ∧
    (s.modGranary k f).hp = s.hp ∧ (s.modGranary k f).tally = s.tally ∧ (s.modGranary k f).level = s.level ∧
    (s.modGranary k f).soft = s.soft ∧ (s.modGranary k f).cadence = s.cadence ∧ (s.modGranary k f).fab = s.fab ∧
    (s.modGranary k f).groups = s.groups ∧ (s.modGranary k f).node = s.node ∧ (s.modGranary k f).bell = s.bell ∧
    (s.modGranary k f).ports = s.ports ∧ (s.modGranary k f).routes = s.routes ∧ (s.modGranary k f).routers = s.routers ∧
    (s.modGranary k f).torW = s.torW ∧ (s.modGranary k f).torE = s.torE ∧ (s.modGranary k f).cfg = s.cfg ∧
    (s.modGranary k f).bw = s.bw ∧ (s.modGranary k f).reeveW = s.reeveW ∧ (s.modGranary k f).reeveE = s.reeveE ∧
    (s.modGranary k f).pwr = s.pwr ∧ (s.modGranary k f).rst = s.rst ∧ (s.modGranary k f).sec = s.sec ∧
    (s.modGranary k f).board = s.board ∧ (s.modGranary k f).pb = s.pb ∧ (s.modGranary k f).dbg = s.dbg ∧
    (s.modGranary k f).cwUpset = s.cwUpset ∧ (s.modGranary k f).cwHeld = s.cwHeld ∧ (s.modGranary k f).w1c = s.w1c :=
    ⟨rfl, rfl, rfl, rfl, rfl, rfl, rfl, rfl, rfl, rfl, rfl, rfl, rfl, rfl, rfl, rfl, rfl, rfl, rfl, rfl, rfl, rfl, rfl, rfl, rfl,
    rfl, rfl, rfl, rfl, rfl, rfl, rfl, rfl, rfl, rfl, rfl, rfl, rfl, rfl, rfl, rfl, rfl⟩

@[simp] theorem State.modPlot_keeps (s : State) (p : Nat) (f : Plot → Plot) :
    (s.modPlot p f).pending = s.pending ∧ (s.modPlot p f).free = s.free ∧ (s.modPlot p f).outbox = s.outbox ∧
    (s.modPlot p f).clock = s.clock ∧ (s.modPlot p f).ident = s.ident ∧ (s.modPlot p f).cwPend = s.cwPend ∧
    (s.modPlot p f).cwf = s.cwf ∧ (s.modPlot p f).mem = s.mem ∧ (s.modPlot p f).bad = s.bad ∧ (s.modPlot p f).reports = s.reports ∧
    (s.modPlot p f).collector = s.collector ∧ (s.modPlot p f).mills = s.mills ∧ (s.modPlot p f).qs = s.qs ∧
    (s.modPlot p f).hostSeen = s.hostSeen ∧ (s.modPlot p f).ledger = s.ledger ∧ (s.modPlot p f).hp = s.hp ∧
    (s.modPlot p f).tally = s.tally ∧ (s.modPlot p f).level = s.level ∧ (s.modPlot p f).soft = s.soft ∧
    (s.modPlot p f).granaries = s.granaries ∧ (s.modPlot p f).cadence = s.cadence ∧ (s.modPlot p f).groups = s.groups ∧
    (s.modPlot p f).node = s.node ∧ (s.modPlot p f).bell = s.bell ∧ (s.modPlot p f).ports = s.ports ∧
    (s.modPlot p f).routes = s.routes ∧ (s.modPlot p f).routers = s.routers ∧ (s.modPlot p f).torW = s.torW ∧
    (s.modPlot p f).torE = s.torE ∧ (s.modPlot p f).cfg = s.cfg ∧ (s.modPlot p f).bw = s.bw ∧ (s.modPlot p f).reeveW = s.reeveW ∧
    (s.modPlot p f).reeveE = s.reeveE ∧ (s.modPlot p f).pwr = s.pwr ∧ (s.modPlot p f).rst = s.rst ∧ (s.modPlot p f).sec = s.sec ∧
    (s.modPlot p f).board = s.board ∧ (s.modPlot p f).pb = s.pb ∧ (s.modPlot p f).dbg = s.dbg ∧ (s.modPlot p f).cwUpset = s.cwUpset ∧
    (s.modPlot p f).cwHeld = s.cwHeld ∧ (s.modPlot p f).w1c = s.w1c :=
    ⟨rfl, rfl, rfl, rfl, rfl, rfl, rfl, rfl, rfl, rfl, rfl, rfl, rfl, rfl, rfl, rfl, rfl, rfl, rfl, rfl, rfl, rfl, rfl, rfl, rfl,
    rfl, rfl, rfl, rfl, rfl, rfl, rfl, rfl, rfl, rfl, rfl, rfl, rfl, rfl, rfl, rfl, rfl⟩

@[simp] theorem State.modBell_keeps (s : State) (f : Bell → Bell) :
    (s.modBell f).pending = s.pending ∧ (s.modBell f).free = s.free ∧ (s.modBell f).outbox = s.outbox ∧ (s.modBell f).clock = s.clock ∧
    (s.modBell f).ident = s.ident ∧ (s.modBell f).cwPend = s.cwPend ∧ (s.modBell f).cwf = s.cwf ∧ (s.modBell f).mem = s.mem ∧
    (s.modBell f).bad = s.bad ∧ (s.modBell f).reports = s.reports ∧ (s.modBell f).collector = s.collector ∧
    (s.modBell f).mills = s.mills ∧ (s.modBell f).qs = s.qs ∧ (s.modBell f).hostSeen = s.hostSeen ∧ (s.modBell f).ledger = s.ledger ∧
    (s.modBell f).hp = s.hp ∧ (s.modBell f).tally = s.tally ∧ (s.modBell f).level = s.level ∧ (s.modBell f).soft = s.soft ∧
    (s.modBell f).granaries = s.granaries ∧ (s.modBell f).cadence = s.cadence ∧ (s.modBell f).fab = s.fab ∧
    (s.modBell f).groups = s.groups ∧ (s.modBell f).node = s.node ∧ (s.modBell f).ports = s.ports ∧ (s.modBell f).routes = s.routes ∧
    (s.modBell f).routers = s.routers ∧ (s.modBell f).torW = s.torW ∧ (s.modBell f).torE = s.torE ∧ (s.modBell f).cfg = s.cfg ∧
    (s.modBell f).bw = s.bw ∧ (s.modBell f).reeveW = s.reeveW ∧ (s.modBell f).reeveE = s.reeveE ∧ (s.modBell f).pwr = s.pwr ∧
    (s.modBell f).rst = s.rst ∧ (s.modBell f).sec = s.sec ∧ (s.modBell f).board = s.board ∧ (s.modBell f).pb = s.pb ∧
    (s.modBell f).dbg = s.dbg ∧ (s.modBell f).cwUpset = s.cwUpset ∧ (s.modBell f).cwHeld = s.cwHeld ∧ (s.modBell f).w1c = s.w1c :=
    ⟨rfl, rfl, rfl, rfl, rfl, rfl, rfl, rfl, rfl, rfl, rfl, rfl, rfl, rfl, rfl, rfl, rfl, rfl, rfl, rfl, rfl, rfl, rfl, rfl, rfl,
    rfl, rfl, rfl, rfl, rfl, rfl, rfl, rfl, rfl, rfl, rfl, rfl, rfl, rfl, rfl, rfl, rfl⟩

@[simp] theorem State.modBellPort_keeps (s : State) (p : Nat) (f : BellPort → BellPort) :
    (s.modBellPort p f).pending = s.pending ∧ (s.modBellPort p f).free = s.free ∧ (s.modBellPort p f).outbox = s.outbox ∧
    (s.modBellPort p f).clock = s.clock ∧ (s.modBellPort p f).ident = s.ident ∧ (s.modBellPort p f).cwPend = s.cwPend ∧
    (s.modBellPort p f).cwf = s.cwf ∧ (s.modBellPort p f).mem = s.mem ∧ (s.modBellPort p f).bad = s.bad ∧
    (s.modBellPort p f).reports = s.reports ∧ (s.modBellPort p f).collector = s.collector ∧ (s.modBellPort p f).mills = s.mills ∧
    (s.modBellPort p f).qs = s.qs ∧ (s.modBellPort p f).hostSeen = s.hostSeen ∧ (s.modBellPort p f).ledger = s.ledger ∧
    (s.modBellPort p f).hp = s.hp ∧ (s.modBellPort p f).tally = s.tally ∧ (s.modBellPort p f).level = s.level ∧
    (s.modBellPort p f).soft = s.soft ∧ (s.modBellPort p f).granaries = s.granaries ∧ (s.modBellPort p f).cadence = s.cadence ∧
    (s.modBellPort p f).fab = s.fab ∧ (s.modBellPort p f).groups = s.groups ∧ (s.modBellPort p f).node = s.node ∧
    (s.modBellPort p f).ports = s.ports ∧ (s.modBellPort p f).routes = s.routes ∧ (s.modBellPort p f).routers = s.routers ∧
    (s.modBellPort p f).torW = s.torW ∧ (s.modBellPort p f).torE = s.torE ∧ (s.modBellPort p f).cfg = s.cfg ∧
    (s.modBellPort p f).bw = s.bw ∧ (s.modBellPort p f).reeveW = s.reeveW ∧ (s.modBellPort p f).reeveE = s.reeveE ∧
    (s.modBellPort p f).pwr = s.pwr ∧ (s.modBellPort p f).rst = s.rst ∧ (s.modBellPort p f).sec = s.sec ∧
    (s.modBellPort p f).board = s.board ∧ (s.modBellPort p f).pb = s.pb ∧ (s.modBellPort p f).dbg = s.dbg ∧
    (s.modBellPort p f).cwUpset = s.cwUpset ∧ (s.modBellPort p f).cwHeld = s.cwHeld ∧ (s.modBellPort p f).w1c = s.w1c :=
    ⟨rfl, rfl, rfl, rfl, rfl, rfl, rfl, rfl, rfl, rfl, rfl, rfl, rfl, rfl, rfl, rfl, rfl, rfl, rfl, rfl, rfl, rfl, rfl, rfl, rfl,
    rfl, rfl, rfl, rfl, rfl, rfl, rfl, rfl, rfl, rfl, rfl, rfl, rfl, rfl, rfl, rfl, rfl⟩

@[simp] theorem State.modHp_keeps (s : State) (f : HostPort → HostPort) :
    (s.modHp f).pending = s.pending ∧ (s.modHp f).free = s.free ∧ (s.modHp f).outbox = s.outbox ∧ (s.modHp f).clock = s.clock ∧
    (s.modHp f).ident = s.ident ∧ (s.modHp f).cwPend = s.cwPend ∧ (s.modHp f).cwf = s.cwf ∧ (s.modHp f).mem = s.mem ∧
    (s.modHp f).bad = s.bad ∧ (s.modHp f).reports = s.reports ∧ (s.modHp f).collector = s.collector ∧ (s.modHp f).mills = s.mills ∧
    (s.modHp f).qs = s.qs ∧ (s.modHp f).hostSeen = s.hostSeen ∧ (s.modHp f).ledger = s.ledger ∧ (s.modHp f).tally = s.tally ∧
    (s.modHp f).level = s.level ∧ (s.modHp f).soft = s.soft ∧ (s.modHp f).granaries = s.granaries ∧ (s.modHp f).cadence = s.cadence ∧
    (s.modHp f).fab = s.fab ∧ (s.modHp f).groups = s.groups ∧ (s.modHp f).node = s.node ∧ (s.modHp f).bell = s.bell ∧
    (s.modHp f).ports = s.ports ∧ (s.modHp f).routes = s.routes ∧ (s.modHp f).routers = s.routers ∧ (s.modHp f).torW = s.torW ∧
    (s.modHp f).torE = s.torE ∧ (s.modHp f).cfg = s.cfg ∧ (s.modHp f).bw = s.bw ∧ (s.modHp f).reeveW = s.reeveW ∧
    (s.modHp f).reeveE = s.reeveE ∧ (s.modHp f).pwr = s.pwr ∧ (s.modHp f).rst = s.rst ∧ (s.modHp f).sec = s.sec ∧
    (s.modHp f).board = s.board ∧ (s.modHp f).pb = s.pb ∧ (s.modHp f).dbg = s.dbg ∧ (s.modHp f).cwUpset = s.cwUpset ∧
    (s.modHp f).cwHeld = s.cwHeld ∧ (s.modHp f).w1c = s.w1c :=
    ⟨rfl, rfl, rfl, rfl, rfl, rfl, rfl, rfl, rfl, rfl, rfl, rfl, rfl, rfl, rfl, rfl, rfl, rfl, rfl, rfl, rfl, rfl, rfl, rfl, rfl,
    rfl, rfl, rfl, rfl, rfl, rfl, rfl, rfl, rfl, rfl, rfl, rfl, rfl, rfl, rfl, rfl, rfl⟩

@[simp] theorem State.hostErr_keeps (s : State) (reason kind node addr : Nat) :
    (s.hostErr reason kind node addr).pending = s.pending ∧ (s.hostErr reason kind node addr).free = s.free ∧
    (s.hostErr reason kind node addr).outbox = s.outbox ∧ (s.hostErr reason kind node addr).clock = s.clock ∧
    (s.hostErr reason kind node addr).ident = s.ident ∧ (s.hostErr reason kind node addr).cwPend = s.cwPend ∧
    (s.hostErr reason kind node addr).cwf = s.cwf ∧ (s.hostErr reason kind node addr).mem = s.mem ∧
    (s.hostErr reason kind node addr).bad = s.bad ∧ (s.hostErr reason kind node addr).reports = s.reports ∧
    (s.hostErr reason kind node addr).collector = s.collector ∧ (s.hostErr reason kind node addr).mills = s.mills ∧
    (s.hostErr reason kind node addr).qs = s.qs ∧ (s.hostErr reason kind node addr).hostSeen = s.hostSeen ∧
    (s.hostErr reason kind node addr).ledger = s.ledger ∧ (s.hostErr reason kind node addr).tally = s.tally ∧
    (s.hostErr reason kind node addr).level = s.level ∧ (s.hostErr reason kind node addr).soft = s.soft ∧
    (s.hostErr reason kind node addr).granaries = s.granaries ∧ (s.hostErr reason kind node addr).cadence = s.cadence ∧
    (s.hostErr reason kind node addr).fab = s.fab ∧ (s.hostErr reason kind node addr).groups = s.groups ∧
    (s.hostErr reason kind node addr).node = s.node ∧ (s.hostErr reason kind node addr).bell = s.bell ∧
    (s.hostErr reason kind node addr).ports = s.ports ∧ (s.hostErr reason kind node addr).routes = s.routes ∧
    (s.hostErr reason kind node addr).routers = s.routers ∧ (s.hostErr reason kind node addr).torW = s.torW ∧
    (s.hostErr reason kind node addr).torE = s.torE ∧ (s.hostErr reason kind node addr).cfg = s.cfg ∧
    (s.hostErr reason kind node addr).bw = s.bw ∧ (s.hostErr reason kind node addr).reeveW = s.reeveW ∧
    (s.hostErr reason kind node addr).reeveE = s.reeveE ∧ (s.hostErr reason kind node addr).pwr = s.pwr ∧
    (s.hostErr reason kind node addr).rst = s.rst ∧ (s.hostErr reason kind node addr).sec = s.sec ∧
    (s.hostErr reason kind node addr).board = s.board ∧ (s.hostErr reason kind node addr).pb = s.pb ∧
    (s.hostErr reason kind node addr).dbg = s.dbg ∧ (s.hostErr reason kind node addr).cwUpset = s.cwUpset ∧
    (s.hostErr reason kind node addr).cwHeld = s.cwHeld :=
    ⟨rfl, rfl, rfl, rfl, rfl, rfl, rfl, rfl, rfl, rfl, rfl, rfl, rfl, rfl, rfl, rfl, rfl, rfl, rfl, rfl, rfl, rfl, rfl, rfl, rfl,
    rfl, rfl, rfl, rfl, rfl, rfl, rfl, rfl, rfl, rfl, rfl, rfl, rfl, rfl, rfl, rfl⟩

@[simp] theorem State.modCfg_keeps (s : State) (f : Cfg → Cfg) :
    (s.modCfg f).pending = s.pending ∧ (s.modCfg f).free = s.free ∧ (s.modCfg f).outbox = s.outbox ∧ (s.modCfg f).clock = s.clock ∧
    (s.modCfg f).ident = s.ident ∧ (s.modCfg f).cwPend = s.cwPend ∧ (s.modCfg f).cwf = s.cwf ∧ (s.modCfg f).mem = s.mem ∧
    (s.modCfg f).bad = s.bad ∧ (s.modCfg f).reports = s.reports ∧ (s.modCfg f).collector = s.collector ∧ (s.modCfg f).mills = s.mills ∧
    (s.modCfg f).qs = s.qs ∧ (s.modCfg f).hostSeen = s.hostSeen ∧ (s.modCfg f).ledger = s.ledger ∧ (s.modCfg f).hp = s.hp ∧
    (s.modCfg f).tally = s.tally ∧ (s.modCfg f).level = s.level ∧ (s.modCfg f).soft = s.soft ∧ (s.modCfg f).granaries = s.granaries ∧
    (s.modCfg f).cadence = s.cadence ∧ (s.modCfg f).fab = s.fab ∧ (s.modCfg f).groups = s.groups ∧ (s.modCfg f).node = s.node ∧
    (s.modCfg f).bell = s.bell ∧ (s.modCfg f).ports = s.ports ∧ (s.modCfg f).routes = s.routes ∧ (s.modCfg f).routers = s.routers ∧
    (s.modCfg f).torW = s.torW ∧ (s.modCfg f).torE = s.torE ∧ (s.modCfg f).bw = s.bw ∧ (s.modCfg f).reeveW = s.reeveW ∧
    (s.modCfg f).reeveE = s.reeveE ∧ (s.modCfg f).pwr = s.pwr ∧ (s.modCfg f).rst = s.rst ∧ (s.modCfg f).sec = s.sec ∧
    (s.modCfg f).board = s.board ∧ (s.modCfg f).pb = s.pb ∧ (s.modCfg f).dbg = s.dbg ∧ (s.modCfg f).cwUpset = s.cwUpset ∧
    (s.modCfg f).cwHeld = s.cwHeld ∧ (s.modCfg f).w1c = s.w1c :=
    ⟨rfl, rfl, rfl, rfl, rfl, rfl, rfl, rfl, rfl, rfl, rfl, rfl, rfl, rfl, rfl, rfl, rfl, rfl, rfl, rfl, rfl, rfl, rfl, rfl, rfl,
    rfl, rfl, rfl, rfl, rfl, rfl, rfl, rfl, rfl, rfl, rfl, rfl, rfl, rfl, rfl, rfl, rfl⟩

@[simp] theorem State.modRun_keeps (s : State) (f : LoadRun → LoadRun) :
    (s.modRun f).pending = s.pending ∧ (s.modRun f).free = s.free ∧ (s.modRun f).outbox = s.outbox ∧ (s.modRun f).clock = s.clock ∧
    (s.modRun f).ident = s.ident ∧ (s.modRun f).cwPend = s.cwPend ∧ (s.modRun f).cwf = s.cwf ∧ (s.modRun f).mem = s.mem ∧
    (s.modRun f).bad = s.bad ∧ (s.modRun f).reports = s.reports ∧ (s.modRun f).collector = s.collector ∧ (s.modRun f).mills = s.mills ∧
    (s.modRun f).qs = s.qs ∧ (s.modRun f).hostSeen = s.hostSeen ∧ (s.modRun f).ledger = s.ledger ∧ (s.modRun f).hp = s.hp ∧
    (s.modRun f).tally = s.tally ∧ (s.modRun f).level = s.level ∧ (s.modRun f).soft = s.soft ∧ (s.modRun f).granaries = s.granaries ∧
    (s.modRun f).cadence = s.cadence ∧ (s.modRun f).fab = s.fab ∧ (s.modRun f).groups = s.groups ∧ (s.modRun f).node = s.node ∧
    (s.modRun f).bell = s.bell ∧ (s.modRun f).ports = s.ports ∧ (s.modRun f).routes = s.routes ∧ (s.modRun f).routers = s.routers ∧
    (s.modRun f).torW = s.torW ∧ (s.modRun f).torE = s.torE ∧ (s.modRun f).bw = s.bw ∧ (s.modRun f).reeveW = s.reeveW ∧
    (s.modRun f).reeveE = s.reeveE ∧ (s.modRun f).pwr = s.pwr ∧ (s.modRun f).rst = s.rst ∧ (s.modRun f).sec = s.sec ∧
    (s.modRun f).board = s.board ∧ (s.modRun f).pb = s.pb ∧ (s.modRun f).dbg = s.dbg ∧ (s.modRun f).cwUpset = s.cwUpset ∧
    (s.modRun f).cwHeld = s.cwHeld ∧ (s.modRun f).w1c = s.w1c :=
    ⟨rfl, rfl, rfl, rfl, rfl, rfl, rfl, rfl, rfl, rfl, rfl, rfl, rfl, rfl, rfl, rfl, rfl, rfl, rfl, rfl, rfl, rfl, rfl, rfl, rfl,
    rfl, rfl, rfl, rfl, rfl, rfl, rfl, rfl, rfl, rfl, rfl, rfl, rfl, rfl, rfl, rfl, rfl⟩

@[simp] theorem State.modSxt_keeps (s : State) (f : Sexton → Sexton) :
    (s.modSxt f).pending = s.pending ∧ (s.modSxt f).free = s.free ∧ (s.modSxt f).outbox = s.outbox ∧ (s.modSxt f).clock = s.clock ∧
    (s.modSxt f).ident = s.ident ∧ (s.modSxt f).cwPend = s.cwPend ∧ (s.modSxt f).cwf = s.cwf ∧ (s.modSxt f).mem = s.mem ∧
    (s.modSxt f).bad = s.bad ∧ (s.modSxt f).reports = s.reports ∧ (s.modSxt f).collector = s.collector ∧ (s.modSxt f).mills = s.mills ∧
    (s.modSxt f).qs = s.qs ∧ (s.modSxt f).hostSeen = s.hostSeen ∧ (s.modSxt f).ledger = s.ledger ∧ (s.modSxt f).hp = s.hp ∧
    (s.modSxt f).tally = s.tally ∧ (s.modSxt f).level = s.level ∧ (s.modSxt f).soft = s.soft ∧ (s.modSxt f).granaries = s.granaries ∧
    (s.modSxt f).cadence = s.cadence ∧ (s.modSxt f).fab = s.fab ∧ (s.modSxt f).groups = s.groups ∧ (s.modSxt f).node = s.node ∧
    (s.modSxt f).bell = s.bell ∧ (s.modSxt f).ports = s.ports ∧ (s.modSxt f).routes = s.routes ∧ (s.modSxt f).routers = s.routers ∧
    (s.modSxt f).torW = s.torW ∧ (s.modSxt f).torE = s.torE ∧ (s.modSxt f).bw = s.bw ∧ (s.modSxt f).reeveW = s.reeveW ∧
    (s.modSxt f).reeveE = s.reeveE ∧ (s.modSxt f).pwr = s.pwr ∧ (s.modSxt f).rst = s.rst ∧ (s.modSxt f).sec = s.sec ∧
    (s.modSxt f).board = s.board ∧ (s.modSxt f).pb = s.pb ∧ (s.modSxt f).dbg = s.dbg ∧ (s.modSxt f).cwUpset = s.cwUpset ∧
    (s.modSxt f).cwHeld = s.cwHeld ∧ (s.modSxt f).w1c = s.w1c :=
    ⟨rfl, rfl, rfl, rfl, rfl, rfl, rfl, rfl, rfl, rfl, rfl, rfl, rfl, rfl, rfl, rfl, rfl, rfl, rfl, rfl, rfl, rfl, rfl, rfl, rfl,
    rfl, rfl, rfl, rfl, rfl, rfl, rfl, rfl, rfl, rfl, rfl, rfl, rfl, rfl, rfl, rfl, rfl⟩

@[simp] theorem State.modSec_keeps (s : State) (f : Sec → Sec) :
    (s.modSec f).pending = s.pending ∧ (s.modSec f).free = s.free ∧ (s.modSec f).outbox = s.outbox ∧ (s.modSec f).clock = s.clock ∧
    (s.modSec f).ident = s.ident ∧ (s.modSec f).cwPend = s.cwPend ∧ (s.modSec f).cwf = s.cwf ∧ (s.modSec f).mem = s.mem ∧
    (s.modSec f).bad = s.bad ∧ (s.modSec f).reports = s.reports ∧ (s.modSec f).collector = s.collector ∧ (s.modSec f).mills = s.mills ∧
    (s.modSec f).qs = s.qs ∧ (s.modSec f).hostSeen = s.hostSeen ∧ (s.modSec f).ledger = s.ledger ∧ (s.modSec f).hp = s.hp ∧
    (s.modSec f).tally = s.tally ∧ (s.modSec f).level = s.level ∧ (s.modSec f).soft = s.soft ∧ (s.modSec f).granaries = s.granaries ∧
    (s.modSec f).cadence = s.cadence ∧ (s.modSec f).fab = s.fab ∧ (s.modSec f).groups = s.groups ∧ (s.modSec f).node = s.node ∧
    (s.modSec f).bell = s.bell ∧ (s.modSec f).ports = s.ports ∧ (s.modSec f).routes = s.routes ∧ (s.modSec f).routers = s.routers ∧
    (s.modSec f).torW = s.torW ∧ (s.modSec f).torE = s.torE ∧ (s.modSec f).cfg = s.cfg ∧ (s.modSec f).bw = s.bw ∧
    (s.modSec f).reeveW = s.reeveW ∧ (s.modSec f).reeveE = s.reeveE ∧ (s.modSec f).pwr = s.pwr ∧ (s.modSec f).rst = s.rst ∧
    (s.modSec f).board = s.board ∧ (s.modSec f).pb = s.pb ∧ (s.modSec f).dbg = s.dbg ∧ (s.modSec f).cwUpset = s.cwUpset ∧
    (s.modSec f).cwHeld = s.cwHeld ∧ (s.modSec f).w1c = s.w1c :=
    ⟨rfl, rfl, rfl, rfl, rfl, rfl, rfl, rfl, rfl, rfl, rfl, rfl, rfl, rfl, rfl, rfl, rfl, rfl, rfl, rfl, rfl, rfl, rfl, rfl, rfl,
    rfl, rfl, rfl, rfl, rfl, rfl, rfl, rfl, rfl, rfl, rfl, rfl, rfl, rfl, rfl, rfl, rfl⟩

@[simp] theorem State.logEntry_keeps (s : State) (kind arg sheaf : Nat) (digest : List Byte) (ver : Nat) :
    (s.logEntry kind arg sheaf digest ver).pending = s.pending ∧ (s.logEntry kind arg sheaf digest ver).free = s.free ∧
    (s.logEntry kind arg sheaf digest ver).outbox = s.outbox ∧ (s.logEntry kind arg sheaf digest ver).clock = s.clock ∧
    (s.logEntry kind arg sheaf digest ver).ident = s.ident ∧ (s.logEntry kind arg sheaf digest ver).cwPend = s.cwPend ∧
    (s.logEntry kind arg sheaf digest ver).cwf = s.cwf ∧ (s.logEntry kind arg sheaf digest ver).mem = s.mem ∧
    (s.logEntry kind arg sheaf digest ver).bad = s.bad ∧ (s.logEntry kind arg sheaf digest ver).reports = s.reports ∧
    (s.logEntry kind arg sheaf digest ver).collector = s.collector ∧ (s.logEntry kind arg sheaf digest ver).mills = s.mills ∧
    (s.logEntry kind arg sheaf digest ver).qs = s.qs ∧ (s.logEntry kind arg sheaf digest ver).hostSeen = s.hostSeen ∧
    (s.logEntry kind arg sheaf digest ver).ledger = s.ledger ∧ (s.logEntry kind arg sheaf digest ver).hp = s.hp ∧
    (s.logEntry kind arg sheaf digest ver).tally = s.tally ∧ (s.logEntry kind arg sheaf digest ver).level = s.level ∧
    (s.logEntry kind arg sheaf digest ver).soft = s.soft ∧ (s.logEntry kind arg sheaf digest ver).granaries = s.granaries ∧
    (s.logEntry kind arg sheaf digest ver).cadence = s.cadence ∧ (s.logEntry kind arg sheaf digest ver).fab = s.fab ∧
    (s.logEntry kind arg sheaf digest ver).groups = s.groups ∧ (s.logEntry kind arg sheaf digest ver).node = s.node ∧
    (s.logEntry kind arg sheaf digest ver).bell = s.bell ∧ (s.logEntry kind arg sheaf digest ver).ports = s.ports ∧
    (s.logEntry kind arg sheaf digest ver).routes = s.routes ∧ (s.logEntry kind arg sheaf digest ver).routers = s.routers ∧
    (s.logEntry kind arg sheaf digest ver).torW = s.torW ∧ (s.logEntry kind arg sheaf digest ver).torE = s.torE ∧
    (s.logEntry kind arg sheaf digest ver).cfg = s.cfg ∧ (s.logEntry kind arg sheaf digest ver).bw = s.bw ∧
    (s.logEntry kind arg sheaf digest ver).reeveW = s.reeveW ∧ (s.logEntry kind arg sheaf digest ver).reeveE = s.reeveE ∧
    (s.logEntry kind arg sheaf digest ver).pwr = s.pwr ∧ (s.logEntry kind arg sheaf digest ver).rst = s.rst ∧
    (s.logEntry kind arg sheaf digest ver).board = s.board ∧ (s.logEntry kind arg sheaf digest ver).pb = s.pb ∧
    (s.logEntry kind arg sheaf digest ver).dbg = s.dbg ∧ (s.logEntry kind arg sheaf digest ver).cwUpset = s.cwUpset ∧
    (s.logEntry kind arg sheaf digest ver).cwHeld = s.cwHeld ∧ (s.logEntry kind arg sheaf digest ver).w1c = s.w1c :=
    ⟨rfl, rfl, rfl, rfl, rfl, rfl, rfl, rfl, rfl, rfl, rfl, rfl, rfl, rfl, rfl, rfl, rfl, rfl, rfl, rfl, rfl, rfl, rfl, rfl, rfl,
    rfl, rfl, rfl, rfl, rfl, rfl, rfl, rfl, rfl, rfl, rfl, rfl, rfl, rfl, rfl, rfl, rfl⟩

@[simp] theorem State.modBw_keeps (s : State) (f : Bellwether → Bellwether) :
    (s.modBw f).pending = s.pending ∧ (s.modBw f).free = s.free ∧ (s.modBw f).outbox = s.outbox ∧ (s.modBw f).clock = s.clock ∧
    (s.modBw f).ident = s.ident ∧ (s.modBw f).cwPend = s.cwPend ∧ (s.modBw f).cwf = s.cwf ∧ (s.modBw f).mem = s.mem ∧
    (s.modBw f).bad = s.bad ∧ (s.modBw f).reports = s.reports ∧ (s.modBw f).collector = s.collector ∧ (s.modBw f).mills = s.mills ∧
    (s.modBw f).qs = s.qs ∧ (s.modBw f).hostSeen = s.hostSeen ∧ (s.modBw f).ledger = s.ledger ∧ (s.modBw f).hp = s.hp ∧
    (s.modBw f).tally = s.tally ∧ (s.modBw f).level = s.level ∧ (s.modBw f).soft = s.soft ∧ (s.modBw f).granaries = s.granaries ∧
    (s.modBw f).cadence = s.cadence ∧ (s.modBw f).fab = s.fab ∧ (s.modBw f).groups = s.groups ∧ (s.modBw f).node = s.node ∧
    (s.modBw f).bell = s.bell ∧ (s.modBw f).ports = s.ports ∧ (s.modBw f).routes = s.routes ∧ (s.modBw f).routers = s.routers ∧
    (s.modBw f).torW = s.torW ∧ (s.modBw f).torE = s.torE ∧ (s.modBw f).cfg = s.cfg ∧ (s.modBw f).reeveW = s.reeveW ∧
    (s.modBw f).reeveE = s.reeveE ∧ (s.modBw f).pwr = s.pwr ∧ (s.modBw f).rst = s.rst ∧ (s.modBw f).sec = s.sec ∧
    (s.modBw f).board = s.board ∧ (s.modBw f).pb = s.pb ∧ (s.modBw f).dbg = s.dbg ∧ (s.modBw f).cwUpset = s.cwUpset ∧
    (s.modBw f).cwHeld = s.cwHeld ∧ (s.modBw f).w1c = s.w1c :=
    ⟨rfl, rfl, rfl, rfl, rfl, rfl, rfl, rfl, rfl, rfl, rfl, rfl, rfl, rfl, rfl, rfl, rfl, rfl, rfl, rfl, rfl, rfl, rfl, rfl, rfl,
    rfl, rfl, rfl, rfl, rfl, rfl, rfl, rfl, rfl, rfl, rfl, rfl, rfl, rfl, rfl, rfl, rfl⟩

@[simp] theorem State.modReeve_keeps (s : State) (d : Die) (f : Reeve → Reeve) :
    (s.modReeve d f).pending = s.pending ∧ (s.modReeve d f).free = s.free ∧ (s.modReeve d f).outbox = s.outbox ∧
    (s.modReeve d f).clock = s.clock ∧ (s.modReeve d f).ident = s.ident ∧ (s.modReeve d f).cwPend = s.cwPend ∧
    (s.modReeve d f).cwf = s.cwf ∧ (s.modReeve d f).mem = s.mem ∧ (s.modReeve d f).bad = s.bad ∧ (s.modReeve d f).reports = s.reports ∧
    (s.modReeve d f).collector = s.collector ∧ (s.modReeve d f).mills = s.mills ∧ (s.modReeve d f).qs = s.qs ∧
    (s.modReeve d f).hostSeen = s.hostSeen ∧ (s.modReeve d f).ledger = s.ledger ∧ (s.modReeve d f).hp = s.hp ∧
    (s.modReeve d f).tally = s.tally ∧ (s.modReeve d f).level = s.level ∧ (s.modReeve d f).soft = s.soft ∧
    (s.modReeve d f).granaries = s.granaries ∧ (s.modReeve d f).cadence = s.cadence ∧ (s.modReeve d f).fab = s.fab ∧
    (s.modReeve d f).groups = s.groups ∧ (s.modReeve d f).node = s.node ∧ (s.modReeve d f).bell = s.bell ∧
    (s.modReeve d f).ports = s.ports ∧ (s.modReeve d f).routes = s.routes ∧ (s.modReeve d f).routers = s.routers ∧
    (s.modReeve d f).torW = s.torW ∧ (s.modReeve d f).torE = s.torE ∧ (s.modReeve d f).cfg = s.cfg ∧ (s.modReeve d f).bw = s.bw ∧
    (s.modReeve d f).pwr = s.pwr ∧ (s.modReeve d f).rst = s.rst ∧ (s.modReeve d f).sec = s.sec ∧ (s.modReeve d f).board = s.board ∧
    (s.modReeve d f).pb = s.pb ∧ (s.modReeve d f).dbg = s.dbg ∧ (s.modReeve d f).cwUpset = s.cwUpset ∧
    (s.modReeve d f).cwHeld = s.cwHeld ∧ (s.modReeve d f).w1c = s.w1c := by
  cases d <;> exact
    ⟨rfl, rfl, rfl, rfl, rfl, rfl, rfl, rfl, rfl, rfl, rfl, rfl, rfl, rfl, rfl, rfl, rfl, rfl, rfl, rfl, rfl, rfl, rfl, rfl, rfl,
    rfl, rfl, rfl, rfl, rfl, rfl, rfl, rfl, rfl, rfl, rfl, rfl, rfl, rfl, rfl, rfl⟩

@[simp] theorem State.setTor_keeps (s : State) (d : Die) (r : ErrRec) :
    (s.setTor d r).pending = s.pending ∧ (s.setTor d r).free = s.free ∧ (s.setTor d r).outbox = s.outbox ∧
    (s.setTor d r).clock = s.clock ∧ (s.setTor d r).ident = s.ident ∧ (s.setTor d r).cwPend = s.cwPend ∧ (s.setTor d r).cwf = s.cwf ∧
    (s.setTor d r).mem = s.mem ∧ (s.setTor d r).bad = s.bad ∧ (s.setTor d r).reports = s.reports ∧
    (s.setTor d r).collector = s.collector ∧ (s.setTor d r).mills = s.mills ∧ (s.setTor d r).qs = s.qs ∧
    (s.setTor d r).hostSeen = s.hostSeen ∧ (s.setTor d r).ledger = s.ledger ∧ (s.setTor d r).hp = s.hp ∧
    (s.setTor d r).tally = s.tally ∧ (s.setTor d r).level = s.level ∧ (s.setTor d r).soft = s.soft ∧
    (s.setTor d r).granaries = s.granaries ∧ (s.setTor d r).cadence = s.cadence ∧ (s.setTor d r).fab = s.fab ∧
    (s.setTor d r).groups = s.groups ∧ (s.setTor d r).node = s.node ∧ (s.setTor d r).bell = s.bell ∧ (s.setTor d r).ports = s.ports ∧
    (s.setTor d r).routes = s.routes ∧ (s.setTor d r).routers = s.routers ∧ (s.setTor d r).cfg = s.cfg ∧ (s.setTor d r).bw = s.bw ∧
    (s.setTor d r).reeveW = s.reeveW ∧ (s.setTor d r).reeveE = s.reeveE ∧ (s.setTor d r).pwr = s.pwr ∧ (s.setTor d r).rst = s.rst ∧
    (s.setTor d r).sec = s.sec ∧ (s.setTor d r).board = s.board ∧ (s.setTor d r).pb = s.pb ∧ (s.setTor d r).dbg = s.dbg ∧
    (s.setTor d r).cwUpset = s.cwUpset ∧ (s.setTor d r).cwHeld = s.cwHeld ∧ (s.setTor d r).w1c = s.w1c := by
  cases d <;> exact
    ⟨rfl, rfl, rfl, rfl, rfl, rfl, rfl, rfl, rfl, rfl, rfl, rfl, rfl, rfl, rfl, rfl, rfl, rfl, rfl, rfl, rfl, rfl, rfl, rfl, rfl,
    rfl, rfl, rfl, rfl, rfl, rfl, rfl, rfl, rfl, rfl, rfl, rfl, rfl, rfl, rfl, rfl⟩

@[simp] theorem State.setRouter_keeps (s : State) (k : Nat) (r : Router) :
    (s.setRouter k r).pending = s.pending ∧ (s.setRouter k r).free = s.free ∧ (s.setRouter k r).outbox = s.outbox ∧
    (s.setRouter k r).clock = s.clock ∧ (s.setRouter k r).ident = s.ident ∧ (s.setRouter k r).cwPend = s.cwPend ∧
    (s.setRouter k r).cwf = s.cwf ∧ (s.setRouter k r).mem = s.mem ∧ (s.setRouter k r).bad = s.bad ∧
    (s.setRouter k r).reports = s.reports ∧ (s.setRouter k r).collector = s.collector ∧ (s.setRouter k r).mills = s.mills ∧
    (s.setRouter k r).qs = s.qs ∧ (s.setRouter k r).hostSeen = s.hostSeen ∧ (s.setRouter k r).ledger = s.ledger ∧
    (s.setRouter k r).hp = s.hp ∧ (s.setRouter k r).tally = s.tally ∧ (s.setRouter k r).level = s.level ∧
    (s.setRouter k r).soft = s.soft ∧ (s.setRouter k r).granaries = s.granaries ∧ (s.setRouter k r).cadence = s.cadence ∧
    (s.setRouter k r).fab = s.fab ∧ (s.setRouter k r).groups = s.groups ∧ (s.setRouter k r).node = s.node ∧
    (s.setRouter k r).bell = s.bell ∧ (s.setRouter k r).ports = s.ports ∧ (s.setRouter k r).routes = s.routes ∧
    (s.setRouter k r).torW = s.torW ∧ (s.setRouter k r).torE = s.torE ∧ (s.setRouter k r).cfg = s.cfg ∧ (s.setRouter k r).bw = s.bw ∧
    (s.setRouter k r).reeveW = s.reeveW ∧ (s.setRouter k r).reeveE = s.reeveE ∧ (s.setRouter k r).pwr = s.pwr ∧
    (s.setRouter k r).rst = s.rst ∧ (s.setRouter k r).sec = s.sec ∧ (s.setRouter k r).board = s.board ∧ (s.setRouter k r).pb = s.pb ∧
    (s.setRouter k r).dbg = s.dbg ∧ (s.setRouter k r).cwUpset = s.cwUpset ∧ (s.setRouter k r).cwHeld = s.cwHeld ∧
    (s.setRouter k r).w1c = s.w1c :=
    ⟨rfl, rfl, rfl, rfl, rfl, rfl, rfl, rfl, rfl, rfl, rfl, rfl, rfl, rfl, rfl, rfl, rfl, rfl, rfl, rfl, rfl, rfl, rfl, rfl, rfl,
    rfl, rfl, rfl, rfl, rfl, rfl, rfl, rfl, rfl, rfl, rfl, rfl, rfl, rfl, rfl, rfl, rfl⟩

@[simp] theorem State.report_keeps (s : State) (block unit : Nat) (cls : ErrClass) (st : Status) (kind addr : Nat) (covered : Bool) :
    (s.report block unit cls st kind addr covered).pending = s.pending ∧ (s.report block unit cls st kind addr covered).free = s.free ∧
    (s.report block unit cls st kind addr covered).outbox = s.outbox ∧ (s.report block unit cls st kind addr covered).clock = s.clock ∧
    (s.report block unit cls st kind addr covered).ident = s.ident ∧ (s.report block unit cls st kind addr covered).cwPend = s.cwPend ∧
    (s.report block unit cls st kind addr covered).cwf = s.cwf ∧ (s.report block unit cls st kind addr covered).mem = s.mem ∧
    (s.report block unit cls st kind addr covered).bad = s.bad ∧
    (s.report block unit cls st kind addr covered).collector = s.collector ∧
    (s.report block unit cls st kind addr covered).mills = s.mills ∧ (s.report block unit cls st kind addr covered).qs = s.qs ∧
    (s.report block unit cls st kind addr covered).hostSeen = s.hostSeen ∧
    (s.report block unit cls st kind addr covered).ledger = s.ledger ∧ (s.report block unit cls st kind addr covered).hp = s.hp ∧
    (s.report block unit cls st kind addr covered).tally = s.tally ∧ (s.report block unit cls st kind addr covered).level = s.level ∧
    (s.report block unit cls st kind addr covered).soft = s.soft ∧
    (s.report block unit cls st kind addr covered).granaries = s.granaries ∧
    (s.report block unit cls st kind addr covered).cadence = s.cadence ∧ (s.report block unit cls st kind addr covered).fab = s.fab ∧
    (s.report block unit cls st kind addr covered).groups = s.groups ∧ (s.report block unit cls st kind addr covered).node = s.node ∧
    (s.report block unit cls st kind addr covered).bell = s.bell ∧ (s.report block unit cls st kind addr covered).ports = s.ports ∧
    (s.report block unit cls st kind addr covered).routes = s.routes ∧
    (s.report block unit cls st kind addr covered).routers = s.routers ∧ (s.report block unit cls st kind addr covered).torW = s.torW ∧
    (s.report block unit cls st kind addr covered).torE = s.torE ∧ (s.report block unit cls st kind addr covered).cfg = s.cfg ∧
    (s.report block unit cls st kind addr covered).bw = s.bw ∧ (s.report block unit cls st kind addr covered).reeveW = s.reeveW ∧
    (s.report block unit cls st kind addr covered).reeveE = s.reeveE ∧ (s.report block unit cls st kind addr covered).pwr = s.pwr ∧
    (s.report block unit cls st kind addr covered).rst = s.rst ∧ (s.report block unit cls st kind addr covered).sec = s.sec ∧
    (s.report block unit cls st kind addr covered).board = s.board ∧ (s.report block unit cls st kind addr covered).pb = s.pb ∧
    (s.report block unit cls st kind addr covered).dbg = s.dbg ∧ (s.report block unit cls st kind addr covered).cwUpset = s.cwUpset ∧
    (s.report block unit cls st kind addr covered).cwHeld = s.cwHeld ∧ (s.report block unit cls st kind addr covered).w1c = s.w1c :=
    ⟨rfl, rfl, rfl, rfl, rfl, rfl, rfl, rfl, rfl, rfl, rfl, rfl, rfl, rfl, rfl, rfl, rfl, rfl, rfl, rfl, rfl, rfl, rfl, rfl, rfl,
    rfl, rfl, rfl, rfl, rfl, rfl, rfl, rfl, rfl, rfl, rfl, rfl, rfl, rfl, rfl, rfl, rfl⟩

@[simp] theorem State.evBits_keeps (s : State) (c off : Nat) (bits : List Nat) :
    (s.evBits c off bits).pending = s.pending ∧ (s.evBits c off bits).free = s.free ∧ (s.evBits c off bits).outbox = s.outbox ∧
    (s.evBits c off bits).clock = s.clock ∧ (s.evBits c off bits).ident = s.ident ∧ (s.evBits c off bits).cwPend = s.cwPend ∧
    (s.evBits c off bits).cwf = s.cwf ∧ (s.evBits c off bits).mem = s.mem ∧ (s.evBits c off bits).bad = s.bad ∧
    (s.evBits c off bits).reports = s.reports ∧ (s.evBits c off bits).collector = s.collector ∧ (s.evBits c off bits).mills = s.mills ∧
    (s.evBits c off bits).qs = s.qs ∧ (s.evBits c off bits).hostSeen = s.hostSeen ∧ (s.evBits c off bits).ledger = s.ledger ∧
    (s.evBits c off bits).hp = s.hp ∧ (s.evBits c off bits).tally = s.tally ∧ (s.evBits c off bits).level = s.level ∧
    (s.evBits c off bits).soft = s.soft ∧ (s.evBits c off bits).granaries = s.granaries ∧ (s.evBits c off bits).cadence = s.cadence ∧
    (s.evBits c off bits).fab = s.fab ∧ (s.evBits c off bits).groups = s.groups ∧ (s.evBits c off bits).node = s.node ∧
    (s.evBits c off bits).bell = s.bell ∧ (s.evBits c off bits).ports = s.ports ∧ (s.evBits c off bits).routes = s.routes ∧
    (s.evBits c off bits).routers = s.routers ∧ (s.evBits c off bits).torW = s.torW ∧ (s.evBits c off bits).torE = s.torE ∧
    (s.evBits c off bits).cfg = s.cfg ∧ (s.evBits c off bits).bw = s.bw ∧ (s.evBits c off bits).reeveW = s.reeveW ∧
    (s.evBits c off bits).reeveE = s.reeveE ∧ (s.evBits c off bits).pwr = s.pwr ∧ (s.evBits c off bits).rst = s.rst ∧
    (s.evBits c off bits).sec = s.sec ∧ (s.evBits c off bits).board = s.board ∧ (s.evBits c off bits).pb = s.pb ∧
    (s.evBits c off bits).dbg = s.dbg ∧ (s.evBits c off bits).cwUpset = s.cwUpset ∧ (s.evBits c off bits).cwHeld = s.cwHeld :=
    ⟨rfl, rfl, rfl, rfl, rfl, rfl, rfl, rfl, rfl, rfl, rfl, rfl, rfl, rfl, rfl, rfl, rfl, rfl, rfl, rfl, rfl, rfl, rfl, rfl, rfl,
    rfl, rfl, rfl, rfl, rfl, rfl, rfl, rfl, rfl, rfl, rfl, rfl, rfl, rfl, rfl, rfl, rfl⟩

@[simp] theorem State.setArith_keeps (s : State) (m : Nat) (b : BitVec 4) :
    (s.setArith m b).pending = s.pending ∧ (s.setArith m b).free = s.free ∧ (s.setArith m b).outbox = s.outbox ∧
    (s.setArith m b).clock = s.clock ∧ (s.setArith m b).ident = s.ident ∧ (s.setArith m b).cwPend = s.cwPend ∧
    (s.setArith m b).cwf = s.cwf ∧ (s.setArith m b).mem = s.mem ∧ (s.setArith m b).bad = s.bad ∧ (s.setArith m b).reports = s.reports ∧
    (s.setArith m b).collector = s.collector ∧ (s.setArith m b).qs = s.qs ∧ (s.setArith m b).hostSeen = s.hostSeen ∧
    (s.setArith m b).ledger = s.ledger ∧ (s.setArith m b).hp = s.hp ∧ (s.setArith m b).tally = s.tally ∧
    (s.setArith m b).level = s.level ∧ (s.setArith m b).soft = s.soft ∧ (s.setArith m b).granaries = s.granaries ∧
    (s.setArith m b).cadence = s.cadence ∧ (s.setArith m b).fab = s.fab ∧ (s.setArith m b).groups = s.groups ∧
    (s.setArith m b).node = s.node ∧ (s.setArith m b).bell = s.bell ∧ (s.setArith m b).ports = s.ports ∧
    (s.setArith m b).routes = s.routes ∧ (s.setArith m b).routers = s.routers ∧ (s.setArith m b).torW = s.torW ∧
    (s.setArith m b).torE = s.torE ∧ (s.setArith m b).cfg = s.cfg ∧ (s.setArith m b).bw = s.bw ∧ (s.setArith m b).reeveW = s.reeveW ∧
    (s.setArith m b).reeveE = s.reeveE ∧ (s.setArith m b).pwr = s.pwr ∧ (s.setArith m b).rst = s.rst ∧ (s.setArith m b).sec = s.sec ∧
    (s.setArith m b).board = s.board ∧ (s.setArith m b).pb = s.pb ∧ (s.setArith m b).dbg = s.dbg ∧
    (s.setArith m b).cwUpset = s.cwUpset ∧ (s.setArith m b).cwHeld = s.cwHeld :=
    ⟨rfl, rfl, rfl, rfl, rfl, rfl, rfl, rfl, rfl, rfl, rfl, rfl, rfl, rfl, rfl, rfl, rfl, rfl, rfl, rfl, rfl, rfl, rfl, rfl, rfl,
    rfl, rfl, rfl, rfl, rfl, rfl, rfl, rfl, rfl, rfl, rfl, rfl, rfl, rfl, rfl, rfl⟩

@[simp] theorem State.cwHold_keeps (s : State) (off : Nat) (v : Word) :
    (s.cwHold off v).pending = s.pending ∧ (s.cwHold off v).free = s.free ∧ (s.cwHold off v).outbox = s.outbox ∧
    (s.cwHold off v).clock = s.clock ∧ (s.cwHold off v).ident = s.ident ∧ (s.cwHold off v).cwPend = s.cwPend ∧
    (s.cwHold off v).cwf = s.cwf ∧ (s.cwHold off v).mem = s.mem ∧ (s.cwHold off v).bad = s.bad ∧ (s.cwHold off v).reports = s.reports ∧
    (s.cwHold off v).collector = s.collector ∧ (s.cwHold off v).mills = s.mills ∧ (s.cwHold off v).qs = s.qs ∧
    (s.cwHold off v).hostSeen = s.hostSeen ∧ (s.cwHold off v).ledger = s.ledger ∧ (s.cwHold off v).hp = s.hp ∧
    (s.cwHold off v).tally = s.tally ∧ (s.cwHold off v).level = s.level ∧ (s.cwHold off v).soft = s.soft ∧
    (s.cwHold off v).granaries = s.granaries ∧ (s.cwHold off v).cadence = s.cadence ∧ (s.cwHold off v).fab = s.fab ∧
    (s.cwHold off v).groups = s.groups ∧ (s.cwHold off v).node = s.node ∧ (s.cwHold off v).bell = s.bell ∧
    (s.cwHold off v).ports = s.ports ∧ (s.cwHold off v).routes = s.routes ∧ (s.cwHold off v).routers = s.routers ∧
    (s.cwHold off v).torW = s.torW ∧ (s.cwHold off v).torE = s.torE ∧ (s.cwHold off v).cfg = s.cfg ∧ (s.cwHold off v).bw = s.bw ∧
    (s.cwHold off v).reeveW = s.reeveW ∧ (s.cwHold off v).reeveE = s.reeveE ∧ (s.cwHold off v).pwr = s.pwr ∧
    (s.cwHold off v).rst = s.rst ∧ (s.cwHold off v).sec = s.sec ∧ (s.cwHold off v).board = s.board ∧ (s.cwHold off v).pb = s.pb ∧
    (s.cwHold off v).dbg = s.dbg ∧ (s.cwHold off v).cwUpset = s.cwUpset ∧ (s.cwHold off v).w1c = s.w1c :=
    ⟨rfl, rfl, rfl, rfl, rfl, rfl, rfl, rfl, rfl, rfl, rfl, rfl, rfl, rfl, rfl, rfl, rfl, rfl, rfl, rfl, rfl, rfl, rfl, rfl, rfl,
    rfl, rfl, rfl, rfl, rfl, rfl, rfl, rfl, rfl, rfl, rfl, rfl, rfl, rfl, rfl, rfl, rfl⟩

@[simp] theorem State.reportRecord_keeps (s : State) (block unit : Nat) (cls : ErrClass) (st : Status) (r : ErrRec) (covered : Bool) :
    (s.reportRecord block unit cls st r covered).pending = s.pending ∧ (s.reportRecord block unit cls st r covered).free = s.free ∧
    (s.reportRecord block unit cls st r covered).outbox = s.outbox ∧ (s.reportRecord block unit cls st r covered).clock = s.clock ∧
    (s.reportRecord block unit cls st r covered).ident = s.ident ∧ (s.reportRecord block unit cls st r covered).cwPend = s.cwPend ∧
    (s.reportRecord block unit cls st r covered).cwf = s.cwf ∧ (s.reportRecord block unit cls st r covered).mem = s.mem ∧
    (s.reportRecord block unit cls st r covered).bad = s.bad ∧ (s.reportRecord block unit cls st r covered).collector = s.collector ∧
    (s.reportRecord block unit cls st r covered).mills = s.mills ∧ (s.reportRecord block unit cls st r covered).qs = s.qs ∧
    (s.reportRecord block unit cls st r covered).hostSeen = s.hostSeen ∧
    (s.reportRecord block unit cls st r covered).ledger = s.ledger ∧ (s.reportRecord block unit cls st r covered).hp = s.hp ∧
    (s.reportRecord block unit cls st r covered).tally = s.tally ∧ (s.reportRecord block unit cls st r covered).level = s.level ∧
    (s.reportRecord block unit cls st r covered).soft = s.soft ∧ (s.reportRecord block unit cls st r covered).granaries = s.granaries ∧
    (s.reportRecord block unit cls st r covered).cadence = s.cadence ∧ (s.reportRecord block unit cls st r covered).fab = s.fab ∧
    (s.reportRecord block unit cls st r covered).groups = s.groups ∧ (s.reportRecord block unit cls st r covered).node = s.node ∧
    (s.reportRecord block unit cls st r covered).bell = s.bell ∧ (s.reportRecord block unit cls st r covered).ports = s.ports ∧
    (s.reportRecord block unit cls st r covered).routes = s.routes ∧ (s.reportRecord block unit cls st r covered).routers = s.routers ∧
    (s.reportRecord block unit cls st r covered).torW = s.torW ∧ (s.reportRecord block unit cls st r covered).torE = s.torE ∧
    (s.reportRecord block unit cls st r covered).cfg = s.cfg ∧ (s.reportRecord block unit cls st r covered).bw = s.bw ∧
    (s.reportRecord block unit cls st r covered).reeveW = s.reeveW ∧ (s.reportRecord block unit cls st r covered).reeveE = s.reeveE ∧
    (s.reportRecord block unit cls st r covered).pwr = s.pwr ∧ (s.reportRecord block unit cls st r covered).rst = s.rst ∧
    (s.reportRecord block unit cls st r covered).sec = s.sec ∧ (s.reportRecord block unit cls st r covered).board = s.board ∧
    (s.reportRecord block unit cls st r covered).pb = s.pb ∧ (s.reportRecord block unit cls st r covered).dbg = s.dbg ∧
    (s.reportRecord block unit cls st r covered).cwUpset = s.cwUpset ∧ (s.reportRecord block unit cls st r covered).cwHeld = s.cwHeld ∧
    (s.reportRecord block unit cls st r covered).w1c = s.w1c :=
    ⟨rfl, rfl, rfl, rfl, rfl, rfl, rfl, rfl, rfl, rfl, rfl, rfl, rfl, rfl, rfl, rfl, rfl, rfl, rfl, rfl, rfl, rfl, rfl, rfl, rfl,
    rfl, rfl, rfl, rfl, rfl, rfl, rfl, rfl, rfl, rfl, rfl, rfl, rfl, rfl, rfl, rfl, rfl⟩

@[simp] theorem State.reportPage_keeps (s : State) (m slot : Nat) (w : Bool) (addr : Nat) :
    (s.reportPage m slot w addr).pending = s.pending ∧ (s.reportPage m slot w addr).free = s.free ∧
    (s.reportPage m slot w addr).outbox = s.outbox ∧ (s.reportPage m slot w addr).clock = s.clock ∧
    (s.reportPage m slot w addr).ident = s.ident ∧ (s.reportPage m slot w addr).cwPend = s.cwPend ∧
    (s.reportPage m slot w addr).cwf = s.cwf ∧ (s.reportPage m slot w addr).mem = s.mem ∧ (s.reportPage m slot w addr).bad = s.bad ∧
    (s.reportPage m slot w addr).collector = s.collector ∧ (s.reportPage m slot w addr).mills = s.mills ∧
    (s.reportPage m slot w addr).qs = s.qs ∧ (s.reportPage m slot w addr).hostSeen = s.hostSeen ∧
    (s.reportPage m slot w addr).ledger = s.ledger ∧ (s.reportPage m slot w addr).hp = s.hp ∧
    (s.reportPage m slot w addr).tally = s.tally ∧ (s.reportPage m slot w addr).level = s.level ∧
    (s.reportPage m slot w addr).soft = s.soft ∧ (s.reportPage m slot w addr).granaries = s.granaries ∧
    (s.reportPage m slot w addr).cadence = s.cadence ∧ (s.reportPage m slot w addr).fab = s.fab ∧
    (s.reportPage m slot w addr).groups = s.groups ∧ (s.reportPage m slot w addr).node = s.node ∧
    (s.reportPage m slot w addr).bell = s.bell ∧ (s.reportPage m slot w addr).ports = s.ports ∧
    (s.reportPage m slot w addr).routes = s.routes ∧ (s.reportPage m slot w addr).routers = s.routers ∧
    (s.reportPage m slot w addr).torW = s.torW ∧ (s.reportPage m slot w addr).torE = s.torE ∧
    (s.reportPage m slot w addr).cfg = s.cfg ∧ (s.reportPage m slot w addr).bw = s.bw ∧
    (s.reportPage m slot w addr).reeveW = s.reeveW ∧ (s.reportPage m slot w addr).reeveE = s.reeveE ∧
    (s.reportPage m slot w addr).pwr = s.pwr ∧ (s.reportPage m slot w addr).rst = s.rst ∧ (s.reportPage m slot w addr).sec = s.sec ∧
    (s.reportPage m slot w addr).board = s.board ∧ (s.reportPage m slot w addr).pb = s.pb ∧ (s.reportPage m slot w addr).dbg = s.dbg ∧
    (s.reportPage m slot w addr).cwUpset = s.cwUpset ∧ (s.reportPage m slot w addr).cwHeld = s.cwHeld ∧
    (s.reportPage m slot w addr).w1c = s.w1c :=
    ⟨rfl, rfl, rfl, rfl, rfl, rfl, rfl, rfl, rfl, rfl, rfl, rfl, rfl, rfl, rfl, rfl, rfl, rfl, rfl, rfl, rfl, rfl, rfl, rfl, rfl,
    rfl, rfl, rfl, rfl, rfl, rfl, rfl, rfl, rfl, rfl, rfl, rfl, rfl, rfl, rfl, rfl, rfl⟩

@[simp] theorem State.reportRow_keeps (s : State) (m : Nat) (cls : ErrClass) (q row : Nat) (covered : Bool) :
    (s.reportRow m cls q row covered).pending = s.pending ∧ (s.reportRow m cls q row covered).free = s.free ∧
    (s.reportRow m cls q row covered).outbox = s.outbox ∧ (s.reportRow m cls q row covered).clock = s.clock ∧
    (s.reportRow m cls q row covered).ident = s.ident ∧ (s.reportRow m cls q row covered).cwPend = s.cwPend ∧
    (s.reportRow m cls q row covered).cwf = s.cwf ∧ (s.reportRow m cls q row covered).mem = s.mem ∧
    (s.reportRow m cls q row covered).bad = s.bad ∧ (s.reportRow m cls q row covered).collector = s.collector ∧
    (s.reportRow m cls q row covered).mills = s.mills ∧ (s.reportRow m cls q row covered).qs = s.qs ∧
    (s.reportRow m cls q row covered).hostSeen = s.hostSeen ∧ (s.reportRow m cls q row covered).ledger = s.ledger ∧
    (s.reportRow m cls q row covered).hp = s.hp ∧ (s.reportRow m cls q row covered).tally = s.tally ∧
    (s.reportRow m cls q row covered).level = s.level ∧ (s.reportRow m cls q row covered).soft = s.soft ∧
    (s.reportRow m cls q row covered).granaries = s.granaries ∧ (s.reportRow m cls q row covered).cadence = s.cadence ∧
    (s.reportRow m cls q row covered).fab = s.fab ∧ (s.reportRow m cls q row covered).groups = s.groups ∧
    (s.reportRow m cls q row covered).node = s.node ∧ (s.reportRow m cls q row covered).bell = s.bell ∧
    (s.reportRow m cls q row covered).ports = s.ports ∧ (s.reportRow m cls q row covered).routes = s.routes ∧
    (s.reportRow m cls q row covered).routers = s.routers ∧ (s.reportRow m cls q row covered).torW = s.torW ∧
    (s.reportRow m cls q row covered).torE = s.torE ∧ (s.reportRow m cls q row covered).cfg = s.cfg ∧
    (s.reportRow m cls q row covered).bw = s.bw ∧ (s.reportRow m cls q row covered).reeveW = s.reeveW ∧
    (s.reportRow m cls q row covered).reeveE = s.reeveE ∧ (s.reportRow m cls q row covered).pwr = s.pwr ∧
    (s.reportRow m cls q row covered).rst = s.rst ∧ (s.reportRow m cls q row covered).sec = s.sec ∧
    (s.reportRow m cls q row covered).board = s.board ∧ (s.reportRow m cls q row covered).pb = s.pb ∧
    (s.reportRow m cls q row covered).dbg = s.dbg ∧ (s.reportRow m cls q row covered).cwUpset = s.cwUpset ∧
    (s.reportRow m cls q row covered).cwHeld = s.cwHeld ∧ (s.reportRow m cls q row covered).w1c = s.w1c :=
    ⟨rfl, rfl, rfl, rfl, rfl, rfl, rfl, rfl, rfl, rfl, rfl, rfl, rfl, rfl, rfl, rfl, rfl, rfl, rfl, rfl, rfl, rfl, rfl, rfl, rfl,
    rfl, rfl, rfl, rfl, rfl, rfl, rfl, rfl, rfl, rfl, rfl, rfl, rfl, rfl, rfl, rfl, rfl⟩

@[simp] theorem State.reportRing_keeps (s : State) (q : Nat) :
    (s.reportRing q).pending = s.pending ∧ (s.reportRing q).free = s.free ∧ (s.reportRing q).outbox = s.outbox ∧
    (s.reportRing q).clock = s.clock ∧ (s.reportRing q).ident = s.ident ∧ (s.reportRing q).cwPend = s.cwPend ∧
    (s.reportRing q).cwf = s.cwf ∧ (s.reportRing q).mem = s.mem ∧ (s.reportRing q).bad = s.bad ∧
    (s.reportRing q).collector = s.collector ∧ (s.reportRing q).mills = s.mills ∧ (s.reportRing q).qs = s.qs ∧
    (s.reportRing q).hostSeen = s.hostSeen ∧ (s.reportRing q).ledger = s.ledger ∧ (s.reportRing q).hp = s.hp ∧
    (s.reportRing q).tally = s.tally ∧ (s.reportRing q).level = s.level ∧ (s.reportRing q).soft = s.soft ∧
    (s.reportRing q).granaries = s.granaries ∧ (s.reportRing q).cadence = s.cadence ∧ (s.reportRing q).fab = s.fab ∧
    (s.reportRing q).groups = s.groups ∧ (s.reportRing q).node = s.node ∧ (s.reportRing q).bell = s.bell ∧
    (s.reportRing q).ports = s.ports ∧ (s.reportRing q).routes = s.routes ∧ (s.reportRing q).routers = s.routers ∧
    (s.reportRing q).torW = s.torW ∧ (s.reportRing q).torE = s.torE ∧ (s.reportRing q).cfg = s.cfg ∧ (s.reportRing q).bw = s.bw ∧
    (s.reportRing q).reeveW = s.reeveW ∧ (s.reportRing q).reeveE = s.reeveE ∧ (s.reportRing q).pwr = s.pwr ∧
    (s.reportRing q).rst = s.rst ∧ (s.reportRing q).sec = s.sec ∧ (s.reportRing q).board = s.board ∧ (s.reportRing q).pb = s.pb ∧
    (s.reportRing q).dbg = s.dbg ∧ (s.reportRing q).cwUpset = s.cwUpset ∧ (s.reportRing q).cwHeld = s.cwHeld ∧
    (s.reportRing q).w1c = s.w1c :=
    ⟨rfl, rfl, rfl, rfl, rfl, rfl, rfl, rfl, rfl, rfl, rfl, rfl, rfl, rfl, rfl, rfl, rfl, rfl, rfl, rfl, rfl, rfl, rfl, rfl, rfl,
    rfl, rfl, rfl, rfl, rfl, rfl, rfl, rfl, rfl, rfl, rfl, rfl, rfl, rfl, rfl, rfl, rfl⟩

@[simp] theorem State.tallyDie_keeps (s : State) (t : Tly) (d : Die) (unit n : Nat) :
    (s.tally_ t d unit n).pending = s.pending ∧ (s.tally_ t d unit n).free = s.free ∧ (s.tally_ t d unit n).outbox = s.outbox ∧
    (s.tally_ t d unit n).clock = s.clock ∧ (s.tally_ t d unit n).ident = s.ident ∧ (s.tally_ t d unit n).cwPend = s.cwPend ∧
    (s.tally_ t d unit n).cwf = s.cwf ∧ (s.tally_ t d unit n).mem = s.mem ∧ (s.tally_ t d unit n).bad = s.bad ∧
    (s.tally_ t d unit n).reports = s.reports ∧ (s.tally_ t d unit n).collector = s.collector ∧ (s.tally_ t d unit n).mills = s.mills ∧
    (s.tally_ t d unit n).qs = s.qs ∧ (s.tally_ t d unit n).hostSeen = s.hostSeen ∧ (s.tally_ t d unit n).ledger = s.ledger ∧
    (s.tally_ t d unit n).hp = s.hp ∧ (s.tally_ t d unit n).level = s.level ∧ (s.tally_ t d unit n).soft = s.soft ∧
    (s.tally_ t d unit n).granaries = s.granaries ∧ (s.tally_ t d unit n).cadence = s.cadence ∧ (s.tally_ t d unit n).fab = s.fab ∧
    (s.tally_ t d unit n).groups = s.groups ∧ (s.tally_ t d unit n).node = s.node ∧ (s.tally_ t d unit n).bell = s.bell ∧
    (s.tally_ t d unit n).ports = s.ports ∧ (s.tally_ t d unit n).routes = s.routes ∧ (s.tally_ t d unit n).routers = s.routers ∧
    (s.tally_ t d unit n).torW = s.torW ∧ (s.tally_ t d unit n).torE = s.torE ∧ (s.tally_ t d unit n).cfg = s.cfg ∧
    (s.tally_ t d unit n).bw = s.bw ∧ (s.tally_ t d unit n).reeveW = s.reeveW ∧ (s.tally_ t d unit n).reeveE = s.reeveE ∧
    (s.tally_ t d unit n).pwr = s.pwr ∧ (s.tally_ t d unit n).rst = s.rst ∧ (s.tally_ t d unit n).sec = s.sec ∧
    (s.tally_ t d unit n).board = s.board ∧ (s.tally_ t d unit n).pb = s.pb ∧ (s.tally_ t d unit n).dbg = s.dbg ∧
    (s.tally_ t d unit n).cwUpset = s.cwUpset ∧ (s.tally_ t d unit n).cwHeld = s.cwHeld ∧ (s.tally_ t d unit n).w1c = s.w1c := by
  unfold State.tally_; simp only; split <;> exact
    ⟨rfl, rfl, rfl, rfl, rfl, rfl, rfl, rfl, rfl, rfl, rfl, rfl, rfl, rfl, rfl, rfl, rfl, rfl, rfl, rfl, rfl, rfl, rfl, rfl, rfl,
    rfl, rfl, rfl, rfl, rfl, rfl, rfl, rfl, rfl, rfl, rfl, rfl, rfl, rfl, rfl, rfl, rfl⟩

@[simp] theorem State.tallyMill_keeps (s : State) (t : Tly) (m n : Nat) :
    (s.tallyMill t m n).pending = s.pending ∧ (s.tallyMill t m n).free = s.free ∧ (s.tallyMill t m n).outbox = s.outbox ∧
    (s.tallyMill t m n).clock = s.clock ∧ (s.tallyMill t m n).ident = s.ident ∧ (s.tallyMill t m n).cwPend = s.cwPend ∧
    (s.tallyMill t m n).cwf = s.cwf ∧ (s.tallyMill t m n).mem = s.mem ∧ (s.tallyMill t m n).bad = s.bad ∧
    (s.tallyMill t m n).reports = s.reports ∧ (s.tallyMill t m n).collector = s.collector ∧ (s.tallyMill t m n).mills = s.mills ∧
    (s.tallyMill t m n).qs = s.qs ∧ (s.tallyMill t m n).hostSeen = s.hostSeen ∧ (s.tallyMill t m n).ledger = s.ledger ∧
    (s.tallyMill t m n).hp = s.hp ∧ (s.tallyMill t m n).level = s.level ∧ (s.tallyMill t m n).soft = s.soft ∧
    (s.tallyMill t m n).granaries = s.granaries ∧ (s.tallyMill t m n).cadence = s.cadence ∧ (s.tallyMill t m n).fab = s.fab ∧
    (s.tallyMill t m n).groups = s.groups ∧ (s.tallyMill t m n).node = s.node ∧ (s.tallyMill t m n).bell = s.bell ∧
    (s.tallyMill t m n).ports = s.ports ∧ (s.tallyMill t m n).routes = s.routes ∧ (s.tallyMill t m n).routers = s.routers ∧
    (s.tallyMill t m n).torW = s.torW ∧ (s.tallyMill t m n).torE = s.torE ∧ (s.tallyMill t m n).cfg = s.cfg ∧
    (s.tallyMill t m n).bw = s.bw ∧ (s.tallyMill t m n).reeveW = s.reeveW ∧ (s.tallyMill t m n).reeveE = s.reeveE ∧
    (s.tallyMill t m n).pwr = s.pwr ∧ (s.tallyMill t m n).rst = s.rst ∧ (s.tallyMill t m n).sec = s.sec ∧
    (s.tallyMill t m n).board = s.board ∧ (s.tallyMill t m n).pb = s.pb ∧ (s.tallyMill t m n).dbg = s.dbg ∧
    (s.tallyMill t m n).cwUpset = s.cwUpset ∧ (s.tallyMill t m n).cwHeld = s.cwHeld ∧ (s.tallyMill t m n).w1c = s.w1c := by
  unfold State.tallyMill; simp only; split <;> exact
    ⟨rfl, rfl, rfl, rfl, rfl, rfl, rfl, rfl, rfl, rfl, rfl, rfl, rfl, rfl, rfl, rfl, rfl, rfl, rfl, rfl, rfl, rfl, rfl, rfl, rfl,
    rfl, rfl, rfl, rfl, rfl, rfl, rfl, rfl, rfl, rfl, rfl, rfl, rfl, rfl, rfl, rfl, rfl⟩

@[simp] theorem State.tallyW_keeps (s : State) (t : Tly) :
    (s.tallyW t).pending = s.pending ∧ (s.tallyW t).free = s.free ∧ (s.tallyW t).outbox = s.outbox ∧ (s.tallyW t).clock = s.clock ∧
    (s.tallyW t).ident = s.ident ∧ (s.tallyW t).cwPend = s.cwPend ∧ (s.tallyW t).cwf = s.cwf ∧ (s.tallyW t).mem = s.mem ∧
    (s.tallyW t).bad = s.bad ∧ (s.tallyW t).reports = s.reports ∧ (s.tallyW t).collector = s.collector ∧ (s.tallyW t).mills = s.mills ∧
    (s.tallyW t).qs = s.qs ∧ (s.tallyW t).hostSeen = s.hostSeen ∧ (s.tallyW t).ledger = s.ledger ∧ (s.tallyW t).hp = s.hp ∧
    (s.tallyW t).level = s.level ∧ (s.tallyW t).soft = s.soft ∧ (s.tallyW t).granaries = s.granaries ∧
    (s.tallyW t).cadence = s.cadence ∧ (s.tallyW t).fab = s.fab ∧ (s.tallyW t).groups = s.groups ∧ (s.tallyW t).node = s.node ∧
    (s.tallyW t).bell = s.bell ∧ (s.tallyW t).ports = s.ports ∧ (s.tallyW t).routes = s.routes ∧ (s.tallyW t).routers = s.routers ∧
    (s.tallyW t).torW = s.torW ∧ (s.tallyW t).torE = s.torE ∧ (s.tallyW t).cfg = s.cfg ∧ (s.tallyW t).bw = s.bw ∧
    (s.tallyW t).reeveW = s.reeveW ∧ (s.tallyW t).reeveE = s.reeveE ∧ (s.tallyW t).pwr = s.pwr ∧ (s.tallyW t).rst = s.rst ∧
    (s.tallyW t).sec = s.sec ∧ (s.tallyW t).board = s.board ∧ (s.tallyW t).pb = s.pb ∧ (s.tallyW t).dbg = s.dbg ∧
    (s.tallyW t).cwUpset = s.cwUpset ∧ (s.tallyW t).cwHeld = s.cwHeld ∧ (s.tallyW t).w1c = s.w1c := by
  unfold State.tallyW; simp

@[simp] theorem State.tallyPort_keeps (s : State) (t : Tly) (p : Nat) :
    (s.tallyPort t p).pending = s.pending ∧ (s.tallyPort t p).free = s.free ∧ (s.tallyPort t p).outbox = s.outbox ∧
    (s.tallyPort t p).clock = s.clock ∧ (s.tallyPort t p).ident = s.ident ∧ (s.tallyPort t p).cwPend = s.cwPend ∧
    (s.tallyPort t p).cwf = s.cwf ∧ (s.tallyPort t p).mem = s.mem ∧ (s.tallyPort t p).bad = s.bad ∧
    (s.tallyPort t p).reports = s.reports ∧ (s.tallyPort t p).collector = s.collector ∧ (s.tallyPort t p).mills = s.mills ∧
    (s.tallyPort t p).qs = s.qs ∧ (s.tallyPort t p).hostSeen = s.hostSeen ∧ (s.tallyPort t p).ledger = s.ledger ∧
    (s.tallyPort t p).hp = s.hp ∧ (s.tallyPort t p).level = s.level ∧ (s.tallyPort t p).soft = s.soft ∧
    (s.tallyPort t p).granaries = s.granaries ∧ (s.tallyPort t p).cadence = s.cadence ∧ (s.tallyPort t p).fab = s.fab ∧
    (s.tallyPort t p).groups = s.groups ∧ (s.tallyPort t p).node = s.node ∧ (s.tallyPort t p).bell = s.bell ∧
    (s.tallyPort t p).ports = s.ports ∧ (s.tallyPort t p).routes = s.routes ∧ (s.tallyPort t p).routers = s.routers ∧
    (s.tallyPort t p).torW = s.torW ∧ (s.tallyPort t p).torE = s.torE ∧ (s.tallyPort t p).cfg = s.cfg ∧ (s.tallyPort t p).bw = s.bw ∧
    (s.tallyPort t p).reeveW = s.reeveW ∧ (s.tallyPort t p).reeveE = s.reeveE ∧ (s.tallyPort t p).pwr = s.pwr ∧
    (s.tallyPort t p).rst = s.rst ∧ (s.tallyPort t p).sec = s.sec ∧ (s.tallyPort t p).board = s.board ∧ (s.tallyPort t p).pb = s.pb ∧
    (s.tallyPort t p).dbg = s.dbg ∧ (s.tallyPort t p).cwUpset = s.cwUpset ∧ (s.tallyPort t p).cwHeld = s.cwHeld ∧
    (s.tallyPort t p).w1c = s.w1c := by
  unfold State.tallyPort; simp

@[simp] theorem State.cwFail_keeps (s : State) (w : Writer) (off kind : Nat) :
    (s.cwFail w off kind).pending = s.pending ∧ (s.cwFail w off kind).free = s.free ∧ (s.cwFail w off kind).outbox = s.outbox ∧
    (s.cwFail w off kind).clock = s.clock ∧ (s.cwFail w off kind).ident = s.ident ∧ (s.cwFail w off kind).cwPend = s.cwPend ∧
    (s.cwFail w off kind).mem = s.mem ∧ (s.cwFail w off kind).bad = s.bad ∧ (s.cwFail w off kind).reports = s.reports ∧
    (s.cwFail w off kind).collector = s.collector ∧ (s.cwFail w off kind).mills = s.mills ∧ (s.cwFail w off kind).qs = s.qs ∧
    (s.cwFail w off kind).hostSeen = s.hostSeen ∧ (s.cwFail w off kind).ledger = s.ledger ∧ (s.cwFail w off kind).hp = s.hp ∧
    (s.cwFail w off kind).level = s.level ∧ (s.cwFail w off kind).soft = s.soft ∧ (s.cwFail w off kind).granaries = s.granaries ∧
    (s.cwFail w off kind).cadence = s.cadence ∧ (s.cwFail w off kind).fab = s.fab ∧ (s.cwFail w off kind).groups = s.groups ∧
    (s.cwFail w off kind).node = s.node ∧ (s.cwFail w off kind).bell = s.bell ∧ (s.cwFail w off kind).ports = s.ports ∧
    (s.cwFail w off kind).routes = s.routes ∧ (s.cwFail w off kind).routers = s.routers ∧ (s.cwFail w off kind).torW = s.torW ∧
    (s.cwFail w off kind).torE = s.torE ∧ (s.cwFail w off kind).cfg = s.cfg ∧ (s.cwFail w off kind).bw = s.bw ∧
    (s.cwFail w off kind).reeveW = s.reeveW ∧ (s.cwFail w off kind).reeveE = s.reeveE ∧ (s.cwFail w off kind).pwr = s.pwr ∧
    (s.cwFail w off kind).rst = s.rst ∧ (s.cwFail w off kind).sec = s.sec ∧ (s.cwFail w off kind).board = s.board ∧
    (s.cwFail w off kind).pb = s.pb ∧ (s.cwFail w off kind).dbg = s.dbg ∧ (s.cwFail w off kind).cwUpset = s.cwUpset ∧
    (s.cwFail w off kind).cwHeld = s.cwHeld := by
  unfold State.cwFail; simp

/-! ## What an update puts there -/

@[simp] theorem State.mill_setMill (s : State) (k : Nat) (x : Mill) : (s.setMill k x).mill k = x := by
  simp [State.mill, State.setMill]

theorem State.mill_setMill_ne (s : State) {j k : Nat} (x : Mill) (h : j ≠ k) : (s.setMill j x).mill k = s.mill k :=
  Table.get_put_ne _ _ _ h

@[simp] theorem State.mill_modMill (s : State) (k : Nat) (f : Mill → Mill) : (s.modMill k f).mill k = f (s.mill k) := by
  simp [State.modMill]

theorem State.mill_modMill_ne (s : State) {j k : Nat} (f : Mill → Mill) (h : j ≠ k) : (s.modMill j f).mill k = s.mill k :=
  State.mill_setMill_ne s _ h

@[simp] theorem State.queue_setQueue (s : State) (k : Nat) (x : Queue) : (s.setQueue k x).queue k = x := by
  simp [State.queue, State.setQueue]

theorem State.queue_setQueue_ne (s : State) {j k : Nat} (x : Queue) (h : j ≠ k) : (s.setQueue j x).queue k = s.queue k :=
  Table.get_put_ne _ _ _ h

@[simp] theorem State.queue_modQueue (s : State) (k : Nat) (f : Queue → Queue) : (s.modQueue k f).queue k = f (s.queue k) := by
  simp [State.modQueue]

theorem State.queue_modQueue_ne (s : State) {j k : Nat} (f : Queue → Queue) (h : j ≠ k) : (s.modQueue j f).queue k = s.queue k :=
  State.queue_setQueue_ne s _ h

@[simp] theorem State.port_setPort (s : State) (k : Nat) (x : Port) : (s.setPort k x).port k = x := by
  simp [State.port, State.setPort]

theorem State.port_setPort_ne (s : State) {j k : Nat} (x : Port) (h : j ≠ k) : (s.setPort j x).port k = s.port k :=
  Table.get_put_ne _ _ _ h

@[simp] theorem State.port_modPort (s : State) (k : Nat) (f : Port → Port) : (s.modPort k f).port k = f (s.port k) := by
  simp [State.modPort]

theorem State.port_modPort_ne (s : State) {j k : Nat} (f : Port → Port) (h : j ≠ k) : (s.modPort j f).port k = s.port k :=
  State.port_setPort_ne s _ h

@[simp] theorem State.group_modGroup (s : State) (k : Nat) (f : Group → Group) : (s.modGroup k f).group k = f (s.group k) := by
  simp [State.group, State.modGroup]

theorem State.group_modGroup_ne (s : State) {j k : Nat} (f : Group → Group) (h : j ≠ k) : (s.modGroup j f).group k = s.group k :=
  Table.get_upd_ne _ _ _ h

@[simp] theorem State.granary_modGranary (s : State) (k : Nat) (f : Granary → Granary) : (s.modGranary k f).granary k = f (s.granary k) := by
  simp [State.granary, State.modGranary]

theorem State.granary_modGranary_ne (s : State) {j k : Nat} (f : Granary → Granary) (h : j ≠ k) : (s.modGranary j f).granary k = s.granary k :=
  Table.get_upd_ne _ _ _ h

@[simp] theorem State.plot_modPlot (s : State) (k : Nat) (f : Plot → Plot) : (s.modPlot k f).plot k = f (s.plot k) := by
  simp [State.plot, State.modPlot]

theorem State.plot_modPlot_ne (s : State) {j k : Nat} (f : Plot → Plot) (h : j ≠ k) : (s.modPlot j f).plot k = s.plot k :=
  Table.get_upd_ne _ _ _ h

@[simp] theorem State.router_setRouter (s : State) (k : Nat) (r : Router) : (s.setRouter k r).router k = r := by
  simp [State.router, State.setRouter]

theorem State.router_setRouter_ne (s : State) {j k : Nat} (r : Router) (h : j ≠ k) : (s.setRouter j r).router k = s.router k :=
  Table.get_put_ne _ _ _ h

@[simp] theorem State.reeve_modReeve (s : State) (d : Die) (f : Reeve → Reeve) : (s.modReeve d f).reeve d = f (s.reeve d) := by
  cases d <;> rfl

@[simp] theorem Mill.eng_setEng (x : Mill) (e : Eng) (g : Engine) : (x.setEng e g).eng e = g := by cases e <;> rfl

theorem Mill.eng_setEng_ne (x : Mill) {e f : Eng} (g : Engine) (h : e ≠ f) : (x.setEng e g).eng f = x.eng f := by
  cases e <;> cases f <;> first | rfl | exact absurd rfl h

@[simp] theorem State.draw_snd (s : State) : s.draw.2 = { s with free := s.free + 1 } := rfl

@[simp] theorem State.pass_zero (s : State) : s.pass 0 = s := rfl

/-- Time that has come passes nothing. -/
theorem State.advanceTo_le (s : State) (n : Nat) (h : n ≤ s.clock.now) : s.advanceTo n = s := by
  unfold State.advanceTo; rw [Nat.sub_eq_zero_of_le h]; rfl

theorem State.passFor_zero (s : State) (k : Nat) : s.passFor k 0 = s := by cases k <;> rfl

/-- While nothing is in flight, the rest of a tick passes at once. -/
theorem State.pass_still (s : State) (n : Nat) (h : s.still = true) (hn : 0 < n) (hc : s.clock.cyc + n ≤ 1248) : s.pass n = s.leap n := by
  obtain ⟨m, rfl⟩ := Nat.exists_eq_succ_of_ne_zero (Nat.ne_of_gt hn)
  unfold State.pass State.passFor
  rw [if_neg (Nat.succ_ne_zero m), if_pos h]
  dsimp only
  rw [Nat.min_eq_left (by omega), Nat.max_eq_right (by omega), Nat.sub_self, State.passFor_zero]

/-- Within a tick, time in which nothing moves changes the clock and the cycle counters alone. -/
theorem State.leap_within (s : State) (n : Nat) (hc : s.clock.cyc + n < 1248) :
    s.leap n = { s.countCycles n with clock := s.clock.pass n } := by
  unfold State.leap State.tickOver
  exact if_pos hc

end Sys2Proof.Machine
end

