-- ==== Sys2Proof/Laws/Keeps.lean ====
section
/-! SUPPORT. What every command keeps, and how a state that is built step by step keeps it. -/

namespace Sys2Proof.Machine

open Sys2Proof

/-- What every command keeps between two states: the commands that wait, the canonical form of memory, a clock that goes on,
    what
fuses hold, and the option and grade of the device. -/
structure State.Keeps (s t : State) : Prop where
  pending : t.pending = s.pending
  mem : s.memOk → t.memOk
  cyc : s.clock.cyc ≤ 1247 → t.clock.cyc ≤ 1247
  now : s.clock.now ≤ t.clock.now
  killed : s.sec.killed = true → t.sec.killed = true
  frarel0 : s.sec.frarel0 = true → t.sec.frarel0 = true
  slots : ∀ (i : Nat) (o : OwnerSlot), s.sec.slots[i]? = some o →
    ∃ p, t.sec.slots[i]? = some p ∧ p.hash = o.hash ∧ (o.revoked = true → p.revoked = true)
  option : t.ident.option = s.ident.option
  grade2 : t.ident.grade2 = s.ident.grade2

theorem State.Keeps.refl (s : State) : s.Keeps s :=
  ⟨rfl, id, id, Nat.le_refl _, id, id, fun _ o h => ⟨o, h, rfl, id⟩, rfl, rfl⟩

theorem State.Keeps.trans {s t u : State} (h : s.Keeps t) (k : t.Keeps u) : s.Keeps u :=
  ⟨k.pending.trans h.pending, k.mem ∘ h.mem, k.cyc ∘ h.cyc, Nat.le_trans h.now k.now, k.killed ∘ h.killed, k.frarel0 ∘
      h.frarel0,
    fun i o e =>
      have ⟨p, hp, hh, hr⟩ := h.slots i o e
      have ⟨q, hq, gh, gr⟩ := k.slots i p hp
      ⟨q, hq, gh.trans hh, gr ∘ hr⟩, k.option.trans h.option, k.grade2.trans h.grade2⟩

theorem State.Keeps.upd {r s t : State} (a : t.pending = s.pending) (b : t.mem = s.mem) (c : t.clock = s.clock)
    (d : t.sec.killed = s.sec.killed) (e : t.sec.frarel0 = s.sec.frarel0) (f : t.sec.slots = s.sec.slots)
    (g : t.ident.option = s.ident.option) (i : t.ident.grade2 = s.ident.grade2) (h : r.Keeps s) : r.Keeps t :=
  h.trans ⟨a, by unfold State.memOk; rw [b]; exact id, by rw [c]; exact id, Nat.le_of_eq (by rw [c]), by rw [d]; exact id,
    by rw [e]; exact id, fun i o h => ⟨o, by rw [f]; exact h, rfl, id⟩, g, i⟩

/-- An update of memory that keeps its form. -/
theorem State.Keeps.updMem {r s t : State} (a : t.pending = s.pending) (c : t.clock = s.clock)
    (d : t.sec = s.sec) (g : t.ident = s.ident) (b : s.memOk → t.memOk) (h : r.Keeps s) : r.Keeps t :=
  h.trans ⟨a, b, by rw [c]; exact id, Nat.le_of_eq (by rw [c]), by rw [d]; exact id,
    by rw [d]; exact id, fun i o h => ⟨o, by rw [d]; exact h, rfl, id⟩, by rw [g], by rw [g]⟩

/-- An update of the clock. -/
theorem State.Keeps.updClock {r s t : State} (a : t.pending = s.pending) (b : t.mem = s.mem)
    (d : t.sec = s.sec) (g : t.ident = s.ident) (c : s.clock.cyc ≤ 1247 → t.clock.cyc ≤ 1247) (n : s.clock.now ≤ t.clock.now)
    (h : r.Keeps s) : r.Keeps t :=
  h.trans ⟨a, by unfold State.memOk; rw [b]; exact id, c, n, by rw [d]; exact id,
    by rw [d]; exact id, fun i o h => ⟨o, by rw [d]; exact h, rfl, id⟩, by rw [g], by rw [g]⟩

/-- The states of an optional state. -/
structure State.OKeeps (r : State) (o : Option State) : Prop where
  all : ∀ t, o = some t → r.Keeps t

theorem State.OKeeps.none {r : State} : r.OKeeps none := ⟨fun _ h => nomatch h⟩
theorem State.OKeeps.some {r s : State} (h : r.Keeps s) : r.OKeeps (some s) := ⟨fun _ e => Option.some.inj e ▸ h⟩
theorem State.OKeeps.get {r t : State} {o : Option State} (e : o = Option.some t) (h : r.OKeeps o) : r.Keeps t := h.all t e
theorem State.OKeeps.map {r : State} {o : Option State} {f : State → State} (h : r.OKeeps o) (hf : ∀ s, r.Keeps s → r.Keeps (f
    s)) :
    r.OKeeps (o.map f) := by
  cases o with
  | none => exact State.OKeeps.none
  | some s => exact State.OKeeps.some (hf s (h.all s rfl))
theorem State.OKeeps.getD {r s : State} {o : Option State} (h : r.OKeeps o) (hs : r.Keeps s) : r.Keeps (o.getD s) := by
  cases o with
  | none => exact hs
  | some s => exact h.all s rfl

/-- The states of an optional pair. -/
structure State.OPKeeps {α : Type} (r : State) (o : Option (α × State)) : Prop where
  all : ∀ t, o = some t → r.Keeps t.2

theorem State.OPKeeps.none {α : Type} {r : State} : r.OPKeeps (none : Option (α × State)) := ⟨fun _ h => nomatch h⟩
theorem State.OPKeeps.some {α : Type} {r : State} {p : α × State} (h : r.Keeps p.2) : r.OPKeeps (some p) := ⟨fun _ e =>
    Option.some.inj e ▸ h⟩
theorem State.OPKeeps.get {α : Type} {r t : State} {x : α} {o : Option (α × State)} (e : o = Option.some (x, t)) (h : r.OPKeeps
    o) : r.Keeps t := h.all _ e
theorem State.OPKeeps.get' {α : Type} {r : State} {x : α × State} {o : Option (α × State)} (e : o = Option.some x) (h :
    r.OPKeeps o) : r.Keeps x.2 := h.all _ e

/-- The states of an answer that may fail. -/
structure State.EKeeps {ε : Type} (r : State) (o : Except ε State) : Prop where
  all : ∀ t, o = .ok t → r.Keeps t
theorem State.EKeeps.error {ε : Type} {r : State} {e : ε} : r.EKeeps (.error e) := ⟨fun _ h => nomatch h⟩
theorem State.EKeeps.ok {ε : Type} {r s : State} (h : r.Keeps s) : r.EKeeps (.ok s : Except ε State) := ⟨fun _ e =>
    Except.ok.inj e ▸ h⟩
theorem State.EKeeps.get {ε : Type} {r t : State} {o : Except ε State} (e : o = .ok t) (h : r.EKeeps o) : r.Keeps t := h.all t e

theorem State.Keeps.snd {α : Type} {r t : State} {p : α × State} {x : α} (e : p = (x, t)) (h : r.Keeps p.2) : r.Keeps t := by
  subst e; exact h
theorem State.Keeps.snd3 {α β : Type} {r t : State} {p : α × β × State} {x : α} {y : β} (e : p = (x, y, t)) (h : r.Keeps p.2.2)
    :
    r.Keeps t := by
  subst e; exact h

theorem State.Keeps.foldl {α : Type} {r s : State} {f : State → α → State} {l : List α} (h : r.Keeps s)
    (hf : ∀ s a, r.Keeps s → r.Keeps (f s a)) : r.Keeps (l.foldl f s) := by
  induction l generalizing s with
  | nil => exact h
  | cons a l ih => exact ih (hf s a h)

/-- A fold that carries a state beside another value. -/
theorem State.Keeps.foldlPair {α β : Type} {r : State} {p : β × State} {f : β × State → α → β × State} {l : List α} (h :
    r.Keeps p.2)
    (hf : ∀ p a, r.Keeps p.2 → r.Keeps (f p a).2) : r.Keeps (l.foldl f p).2 := by
  induction l generalizing p with
  | nil => exact h
  | cons a l ih => exact ih (hf p a h)

/-- The outcome is a next state that keeps what every event keeps. -/
def State.RKeeps (r : State) (x : Res) : Prop := ∃ t, x = .next t ∧ r.Keeps t
theorem State.RKeeps.next {r s : State} (h : r.Keeps s) : r.RKeeps (.next s) := ⟨s, rfl, h⟩

/-- The states of an optional triple. -/
structure State.DKeeps {α β : Type} (r : State) (o : Option (α × β × State)) : Prop where
  all : ∀ t, o = some t → r.Keeps t.2.2
theorem State.DKeeps.none {α β : Type} {r : State} : r.DKeeps (none : Option (α × β × State)) := ⟨fun _ h => nomatch h⟩
theorem State.DKeeps.some {α β : Type} {r : State} {p : α × β × State} (h : r.Keeps p.2.2) : r.DKeeps (some p) := ⟨fun _ e =>
    Option.some.inj e ▸ h⟩
theorem State.DKeeps.get {α β : Type} {r t : State} {x : α} {y : β} {o : Option (α × β × State)} (e : o = Option.some (x, y,
    t)) (h : r.DKeeps o) : r.Keeps t := h.all _ e

theorem State.Keeps.with {r s : State} (free_ : Nat) (outbox_ : List Out) (cwPend_ : List PendingCw) (cwf_ : ErrRec) (bad_ :
    Table Bool) (reports_ : List Report) (collector_ : List Report) (mills_ : Table Mill) (qs_ : QueueStore) (hostSeen_ : List
    Host.Cell) (ledger_ : Ledger) (hp_ : HostPort) (tally_ : Tallies) (level_ : BitVec 2) (soft_ : Table Bool) (granaries_ :
    Table Granary) (cadence_ : Cadence) (fab_ : Fabric) (groups_ : Table Group) (node_ : BitVec 10) (bell_ : Bell) (ports_ :
    Table Port) (routes_ : Routes) (routers_ : Table Router) (torW_ : ErrRec) (torE_ : ErrRec) (cfg_ : Cfg) (bw_ : Bellwether)
    (reeveW_ : Reeve) (reeveE_ : Reeve) (pwr_ : Power) (rst_ : Resets) (board_ : Board) (pb_ : ProbeBuf) (dbg_ : DebugPort) (cwUpset_ : Table Bool) (cwHeld_ : Table Word) (w1c_ : Table Nat)
    (h     : r.Keeps s) : r.Keeps ⟨s.pending, free_, outbox_, s.clock, s.ident, cwPend_, cwf_, s.mem, bad_, reports_, collector_,
    mills_, qs_, hostSeen_, ledger_, hp_, tally_, level_, soft_, granaries_, cadence_, fab_, groups_, node_, bell_, ports_,
    routes_, routers_, torW_, torE_, cfg_, bw_, reeveW_, reeveE_, pwr_, rst_, s.sec, board_, pb_, dbg_, cwUpset_, cwHeld_, w1c_⟩ :=
  State.Keeps.upd (s := s) rfl rfl rfl rfl rfl rfl rfl rfl h
theorem State.Keeps.withIdent {r s : State} (free_ : Nat) (outbox_ : List Out) (ident_ : Identity) (cwPend_ : List PendingCw)
    (cwf_ : ErrRec) (bad_ : Table Bool) (reports_ : List Report) (collector_ : List Report) (mills_ : Table Mill) (qs_ :
    QueueStore) (hostSeen_ : List Host.Cell) (ledger_ : Ledger) (hp_ : HostPort) (tally_ : Tallies) (level_ : BitVec 2) (soft_
    : Table Bool) (granaries_ : Table Granary) (cadence_ : Cadence) (fab_ : Fabric) (groups_ : Table Group) (node_ : BitVec 10)
    (bell_ : Bell) (ports_ : Table Port) (routes_ : Routes) (routers_ : Table Router) (torW_ : ErrRec) (torE_ : ErrRec) (cfg_ :
    Cfg) (bw_ : Bellwether) (reeveW_ : Reeve) (reeveE_ : Reeve) (pwr_ : Power) (rst_ : Resets) (board_ : Board) (pb_ :
    ProbeBuf) (dbg_ : DebugPort) (cwUpset_ : Table Bool) (cwHeld_ : Table Word) (w1c_ : Table Nat)
    (h : r.Keeps s) (a : ident_.option = s.ident.option) (b : ident_.grade2 = s.ident.grade2) :
    r.Keeps ⟨s.pending, free_, outbox_, s.clock, ident_, cwPend_, cwf_, s.mem, bad_, reports_, collector_, mills_, qs_,
    hostSeen_, ledger_, hp_, tally_, level_, soft_, granaries_, cadence_, fab_, groups_, node_, bell_, ports_, routes_,
    routers_, torW_, torE_, cfg_, bw_, reeveW_, reeveE_, pwr_, rst_, s.sec, board_, pb_, dbg_, cwUpset_, cwHeld_, w1c_⟩ :=
  State.Keeps.upd (s := s) rfl rfl rfl rfl rfl rfl a b h
theorem State.Keeps.withSec {r s : State} (free_ : Nat) (outbox_ : List Out) (cwPend_ : List PendingCw) (cwf_ : ErrRec) (bad_ :
    Table Bool) (reports_ : List Report) (collector_ : List Report) (mills_ : Table Mill) (qs_ : QueueStore) (hostSeen_ : List
    Host.Cell) (ledger_ : Ledger) (hp_ : HostPort) (tally_ : Tallies) (level_ : BitVec 2) (soft_ : Table Bool) (granaries_ :
    Table Granary) (cadence_ : Cadence) (fab_ : Fabric) (groups_ : Table Group) (node_ : BitVec 10) (bell_ : Bell) (ports_ :
    Table Port) (routes_ : Routes) (routers_ : Table Router) (torW_ : ErrRec) (torE_ : ErrRec) (cfg_ : Cfg) (bw_ : Bellwether)
    (reeveW_ : Reeve) (reeveE_ : Reeve) (pwr_ : Power) (rst_ : Resets) (sec_ : Sec) (board_ : Board) (pb_ : ProbeBuf) (dbg_ :
    DebugPort) (cwUpset_ : Table Bool) (cwHeld_ : Table Word) (w1c_ : Table Nat)
    (h : r.Keeps s) (a : sec_.killed = s.sec.killed) (b : sec_.frarel0 = s.sec.frarel0) (c : sec_.slots =
    s.sec.slots) : r.Keeps ⟨s.pending, free_, outbox_, s.clock, s.ident, cwPend_, cwf_, s.mem, bad_, reports_, collector_,
    mills_, qs_, hostSeen_, ledger_, hp_, tally_, level_, soft_, granaries_, cadence_, fab_, groups_, node_, bell_, ports_,
    routes_, routers_, torW_, torE_, cfg_, bw_, reeveW_, reeveE_, pwr_, rst_, sec_, board_, pb_, dbg_, cwUpset_, cwHeld_, w1c_⟩ :=
  State.Keeps.upd (s := s) rfl rfl rfl a b c rfl rfl h
theorem State.Keeps.withMem {r s : State} (free_ : Nat) (outbox_ : List Out) (cwPend_ : List PendingCw) (cwf_ : ErrRec) (mem_ :
    List Host.Cell) (bad_ : Table Bool) (reports_ : List Report) (collector_ : List Report) (mills_ : Table Mill) (qs_ :
    QueueStore) (hostSeen_ : List Host.Cell) (ledger_ : Ledger) (hp_ : HostPort) (tally_ : Tallies) (level_ : BitVec 2) (soft_
    : Table Bool) (granaries_ : Table Granary) (cadence_ : Cadence) (fab_ : Fabric) (groups_ : Table Group) (node_ : BitVec 10)
    (bell_ : Bell) (ports_ : Table Port) (routes_ : Routes) (routers_ : Table Router) (torW_ : ErrRec) (torE_ : ErrRec) (cfg_ :
    Cfg) (bw_ : Bellwether) (reeveW_ : Reeve) (reeveE_ : Reeve) (pwr_ : Power) (rst_ : Resets) (board_ : Board) (pb_ :
    ProbeBuf) (dbg_ : DebugPort) (cwUpset_ : Table Bool) (cwHeld_ : Table Word) (w1c_ : Table Nat)
    (h : r.Keeps s) (a : Memory.wf s.mem = true → Memory.wf mem_ = true) : r.Keeps ⟨s.pending,
    free_, outbox_, s.clock, s.ident, cwPend_, cwf_, mem_, bad_, reports_, collector_, mills_, qs_, hostSeen_, ledger_, hp_,
    tally_, level_, soft_, granaries_, cadence_, fab_, groups_, node_, bell_, ports_, routes_, routers_, torW_, torE_, cfg_,
    bw_, reeveW_, reeveE_, pwr_, rst_, s.sec, board_, pb_, dbg_, cwUpset_, cwHeld_, w1c_⟩ :=
  State.Keeps.updMem (s := s) rfl rfl rfl rfl a h
theorem State.Keeps.withClock {r s : State} (free_ : Nat) (outbox_ : List Out) (clock_ : Clock) (cwPend_ : List PendingCw)
    (cwf_ : ErrRec) (bad_ : Table Bool) (reports_ : List Report) (collector_ : List Report) (mills_ : Table Mill) (qs_ :
    QueueStore) (hostSeen_ : List Host.Cell) (ledger_ : Ledger) (hp_ : HostPort) (tally_ : Tallies) (level_ : BitVec 2) (soft_
    : Table Bool) (granaries_ : Table Granary) (cadence_ : Cadence) (fab_ : Fabric) (groups_ : Table Group) (node_ : BitVec 10)
    (bell_ : Bell) (ports_ : Table Port) (routes_ : Routes) (routers_ : Table Router) (torW_ : ErrRec) (torE_ : ErrRec) (cfg_ :
    Cfg) (bw_ : Bellwether) (reeveW_ : Reeve) (reeveE_ : Reeve) (pwr_ : Power) (rst_ : Resets) (board_ : Board) (pb_ :
    ProbeBuf) (dbg_ : DebugPort) (cwUpset_ : Table Bool) (cwHeld_ : Table Word) (w1c_ : Table Nat)
    (h : r.Keeps s) (a : s.clock.cyc ≤ 1247 → clock_.cyc ≤ 1247) (b : s.clock.now ≤ clock_.now) :
    r.Keeps ⟨s.pending, free_, outbox_, clock_, s.ident, cwPend_, cwf_, s.mem, bad_, reports_, collector_, mills_, qs_,
    hostSeen_, ledger_, hp_, tally_, level_, soft_, granaries_, cadence_, fab_, groups_, node_, bell_, ports_, routes_,
    routers_, torW_, torE_, cfg_, bw_, reeveW_, reeveE_, pwr_, rst_, s.sec, board_, pb_, dbg_, cwUpset_, cwHeld_, w1c_⟩ :=
  State.Keeps.updClock (s := s) rfl rfl rfl rfl a b h
theorem State.Keeps.foldlPair3 {α β γ : Type} {r : State} {p : β × γ × State} {f : β × γ × State → α → β × γ × State} {l : List
    α} (h : r.Keeps p.2.2)
    (hf : ∀ p a, r.Keeps p.2.2 → r.Keeps (f p a).2.2) : r.Keeps (l.foldl f p).2.2 := by
  induction l generalizing p with
  | nil => exact h
  | cons a l ih => exact ih (hf p a h)
theorem State.Keeps.ite {r x y : State} {c : Prop} [Decidable c] (a : r.Keeps x) (b : r.Keeps y) : r.Keeps (if c then x
    else y) := by
  split
  · exact a
  · exact b
theorem State.DKeeps.ite {α β : Type} {r : State} {x y : Option (α × β × State)} {c : Prop} [Decidable c] (a : r.DKeeps x) (b
    : r.DKeeps y) : r.DKeeps (if c then x else y) := by
  split
  · exact a
  · exact b

end Sys2Proof.Machine
end

