-- ==== Sys2Proof/Laws/KeepsDevice.lean ====
section
/-! SUPPORT. What every command keeps (Laws/Keeps.lean), for the operations of memory, reports, ports, host link, accesses and
    queue records. -/

namespace Sys2Proof.Machine

open Sys2Proof

/-! ### Ops.lean -/

theorem State.draw_kept {r₀ : State} (s : State) (h : r₀.Keeps s) :
    r₀.Keeps (State.draw s).2 := by
  unfold State.draw
  repeat' (first
    | with_reducible (first
      | assumption)
    | with_reducible (first
      | apply State.Keeps.with))

theorem State.send_kept {r₀ : State} (s : State) (o : Out) (h : r₀.Keeps s) :
    r₀.Keeps (State.send s o) := by
  unfold State.send
  repeat' (first
    | with_reducible (first
      | assumption)
    | with_reducible (first
      | apply State.Keeps.with))

theorem State.setBytes_kept {r s : State} (a : Nat) (b : List Byte) (h : r.Keeps s) : r.Keeps (s.setBytes a b) := by
  unfold State.setBytes
  exact State.Keeps.withMem (s := s) (h := h) (a := fun w => Memory.wf_writeN _ _ _ w) ..

theorem State.setMill_kept {r₀ : State} (s : State) (m : Nat) (x : Mill) (h : r₀.Keeps s) :
    r₀.Keeps (State.setMill s m x) := by
  unfold State.setMill
  repeat' (first
    | with_reducible (first
      | assumption)
    | with_reducible (first
      | apply State.Keeps.with))

theorem State.modMill_kept {r₀ : State} (s : State) (m : Nat) (f : Mill → Mill) (h : r₀.Keeps s) :
    r₀.Keeps (State.modMill s m f) := by
  unfold State.modMill
  repeat' (first
    | with_reducible (first
      | assumption | apply State.setMill_kept))

theorem State.modEng_kept {r₀ : State} (s : State) (m : Nat) (e : Eng) (f : Engine → Engine) (h : r₀.Keeps s) :
    r₀.Keeps (State.modEng s m e f) := by
  unfold State.modEng
  repeat' (first
    | with_reducible (first
      | assumption | apply State.modMill_kept))

theorem State.evBits_kept {r₀ : State} (s : State) (c off : Nat) (bits : List Nat) (h : r₀.Keeps s) :
    r₀.Keeps (State.evBits s c off bits) := by
  unfold State.evBits
  repeat' (first
    | with_reducible (first
      | assumption)
    | split
    | with_reducible (first
      | apply State.Keeps.with))

theorem State.setArith_kept {r₀ : State} (s : State) (m : Nat) (b : BitVec 4) (h : r₀.Keeps s) :
    r₀.Keeps (State.setArith s m b) := by
  unfold State.setArith
  repeat' (first
    | with_reducible (first
      | assumption | apply State.modMill_kept | apply State.evBits_kept)
    | split)

theorem State.cwHold_kept {r₀ : State} (s : State) (off : Nat) (v : Word) (h : r₀.Keeps s) :
    r₀.Keeps (State.cwHold s off v) := by
  unfold State.cwHold
  repeat' (first
    | with_reducible (first
      | assumption)
    | split
    | with_reducible (first
      | apply State.Keeps.with))

theorem State.tallyMill_kept {r₀ : State} (s : State) (t : Tly) (m n : Nat) (h : r₀.Keeps s) :
    r₀.Keeps (State.tallyMill s t m n) := by
  unfold State.tallyMill
  repeat' (first
    | with_reducible (first
      | assumption)
    | split
    | with_reducible (first
      | apply State.Keeps.with))

theorem State.tally__kept {r₀ : State} (s : State) (t : Tly) (d : Die) (unit n : Nat) (h : r₀.Keeps s) :
    r₀.Keeps (State.tally_ s t d unit n) := by
  unfold State.tally_
  repeat' (first
    | with_reducible (first
      | assumption)
    | split
    | with_reducible (first
      | apply State.Keeps.with))

theorem State.tallyW_kept {r₀ : State} (s : State) (t : Tly) (h : r₀.Keeps s) :
    r₀.Keeps (State.tallyW s t) := by
  unfold State.tallyW
  repeat' (first
    | with_reducible (first
      | assumption | apply State.tally__kept))

theorem State.tallyPort_kept {r₀ : State} (s : State) (t : Tly) (p : Nat) (h : r₀.Keeps s) :
    r₀.Keeps (State.tallyPort s t p) := by
  unfold State.tallyPort
  repeat' (first
    | with_reducible (first
      | assumption | apply State.tally__kept))

theorem State.report_kept {r₀ : State} (s : State) (block unit : Nat) (cls : ErrClass) (st : Status) (kind addr : Nat) (covered
    : Bool) (h : r₀.Keeps s) :
    r₀.Keeps (State.report s block unit cls st kind addr covered) := by
  unfold State.report
  repeat' (first
    | with_reducible (first
      | assumption)
    | with_reducible (first
      | apply State.Keeps.with))

theorem State.reportRow_kept {r₀ : State} (s : State) (m : Nat) (cls : ErrClass) (q row : Nat) (covered : Bool)
    (h : r₀.Keeps s) : r₀.Keeps (State.reportRow s m cls q row covered) := State.Keeps.with (h := h) ..

theorem State.reportSched_kept {r₀ : State} (s : State) (m : Nat) (cls : ErrClass) (r : SchedRec) (covered : Bool) (h : r₀.Keeps s) :
    r₀.Keeps (State.reportSched s m cls r covered) := by
  unfold State.reportSched
  repeat' (first
    | with_reducible (first
      | assumption)
    | split
    | with_reducible (first
      | apply State.Keeps.with))

theorem State.reportRecord_kept {r₀ : State} (s : State) (block unit : Nat) (cls : ErrClass) (st : Status) (r : ErrRec) (covered : Bool) (h : r₀.Keeps s) :
    r₀.Keeps (State.reportRecord s block unit cls st r covered) := by
  unfold State.reportRecord
  repeat' (first
    | with_reducible (first
      | assumption)
    | split
    | with_reducible (first
      | apply State.Keeps.with))

theorem State.reportPage_kept {r₀ : State} (s : State) (m slot : Nat) (writeSide : Bool) (addr : Nat) (h : r₀.Keeps s) :
    r₀.Keeps (State.reportPage s m slot writeSide addr) := by
  unfold State.reportPage
  repeat' (first
    | with_reducible (first
      | assumption)
    | with_reducible (first
      | apply State.Keeps.with))

theorem State.modGroup_kept {r₀ : State} (s : State) (g : Nat) (f : Group → Group) (h : r₀.Keeps s) :
    r₀.Keeps (State.modGroup s g f) := by
  unfold State.modGroup
  repeat' (first
    | with_reducible (first
      | assumption)
    | with_reducible (first
      | apply State.Keeps.with))

theorem State.raiseHalt_kept {r₀ : State} (s : State) (g cause detail : Nat) (h : r₀.Keeps s) :
    r₀.Keeps (State.raiseHalt s g cause detail) := by
  unfold State.raiseHalt
  repeat' (first
    | with_reducible (first
      | assumption | apply State.modGroup_kept))

theorem State.raiseMill_kept {r₀ : State} (s : State) (m cause : Nat) (h : r₀.Keeps s) :
    r₀.Keeps (State.raiseMill s m cause) := by
  unfold State.raiseMill
  repeat' (first
    | with_reducible (first
      | assumption | apply State.raiseHalt_kept)
    | split)

/-! ### PortSend.lean -/

theorem State.setPort_kept {r₀ : State} (s : State) (p : Nat) (x : Port) (h : r₀.Keeps s) :
    r₀.Keeps (State.setPort s p x) := by
  unfold State.setPort
  repeat' (first
    | with_reducible (first
      | assumption)
    | with_reducible (first
      | apply State.Keeps.with))

theorem State.modPort_kept {r₀ : State} (s : State) (p : Nat) (f : Port → Port) (h : r₀.Keeps s) :
    r₀.Keeps (State.modPort s p f) := by
  unfold State.modPort
  repeat' (first
    | with_reducible (first
      | assumption | apply State.setPort_kept))

theorem State.takeSlot_kept {r₀ : State} (s : State) (p n : Nat) (h : r₀.Keeps s) : r₀.OPKeeps (State.takeSlot s p n) := by
  unfold State.takeSlot
  split
  · exact State.OPKeeps.some h
  · split
    · exact State.OPKeeps.none
    · refine State.OPKeeps.some ?_
      dsimp only
      exact State.modPort_kept (h := h) ..

theorem State.controlOn_kept {r₀ : State} (s : State) (p n : Nat) (payload : List Byte) (h : r₀.Keeps s) :
    r₀.Keeps (State.controlOn s p n payload) := by
  unfold State.controlOn
  try dsimp only
  repeat' (first
    | with_reducible (first
      | assumption | apply State.Keeps.foldl | apply State.Keeps.foldlPair | apply State.send_kept
      | apply State.takeSlot_kept)
    | intro _ | split
    | with_reducible (first
      | apply State.Keeps.snd3 (by assumption) | apply State.Keeps.snd (by assumption)
      | apply State.OPKeeps.get (by assumption) | apply State.Keeps.with))

theorem State.control_kept {r₀ : State} (s : State) (p : Nat) (payload : List Byte) (h : r₀.Keeps s) :
    r₀.Keeps (State.control s p payload) := State.controlOn_kept s p (s.firstLane p) payload h

theorem State.pump_kept {r₀ : State} : ∀ (x0 : Nat), ∀ (s : State) (p : Nat), r₀.Keeps s →
    r₀.Keeps (State.pump s p x0) := by
  intro x0
  induction x0 with
  | zero =>
    intros
    unfold State.pump
    try dsimp only
    repeat' (first
      | with_reducible (first
        | assumption | apply State.Keeps.foldl | apply State.Keeps.foldlPair | apply State.send_kept
        | apply State.modPort_kept | apply State.takeSlot_kept)
      | intro _ | split
      | with_reducible (first
        | apply State.Keeps.snd3 (by assumption) | apply State.Keeps.snd (by assumption)
        | apply State.OPKeeps.get (by assumption) | apply State.Keeps.with))
  | succ n ih =>
    intros
    unfold State.pump
    try dsimp only
    repeat' (first
      | with_reducible (first
        | assumption | apply ih | apply State.Keeps.foldl | apply State.Keeps.foldlPair | apply State.send_kept
        | apply State.modPort_kept | apply State.takeSlot_kept)
      | intro _ | split
      | with_reducible (first
        | apply State.Keeps.snd3 (by assumption) | apply State.Keeps.snd (by assumption)
        | apply State.OPKeeps.get (by assumption) | apply State.Keeps.with))

theorem State.pumpPort_kept {r₀ : State} (s : State) (p : Nat) (h : r₀.Keeps s) :
    r₀.Keeps (State.pumpPort s p) := by
  unfold State.pumpPort
  repeat' (first
    | with_reducible (first
      | assumption | apply State.pump_kept))

theorem State.sendParcel_kept {r₀ : State} (s : State) (p : Nat) (hdr data : List Byte) (h : r₀.Keeps s) :
    r₀.Keeps (State.sendParcel s p hdr data) := by
  unfold State.sendParcel
  repeat' (first
    | with_reducible (first
      | assumption | apply State.setPort_kept | apply State.pumpPort_kept))

theorem State.launchParcel_kept {r₀ : State} (s : State) (hdr data : List Byte) (h : r₀.Keeps s) :
    r₀.Keeps (State.launchParcel s hdr data) := by
  unfold State.launchParcel
  try dsimp only
  repeat' (first
    | with_reducible (first
      | assumption | apply State.tallyPort_kept | apply State.sendParcel_kept)
    | split)

/-! ### HostLink.lean -/

theorem State.sendPacket_kept {r₀ : State} (s : State) (pool : Nat) (t : List Byte) (h : r₀.Keeps s) :
    r₀.Keeps (State.sendPacket s pool t) := by
  unfold State.sendPacket
  repeat' (first
    | with_reducible (first
      | assumption | apply State.send_kept)
    | with_reducible (first
      | apply State.Keeps.with))

theorem State.pumpWait_kept {r₀ : State} : ∀ (x0 : Nat), ∀ (s : State), r₀.Keeps s →
    r₀.Keeps (State.pumpWait s x0) := by
  intro x0
  induction x0 with
  | zero =>
    intros
    unfold State.pumpWait
    repeat' (first
      | with_reducible (first
        | assumption | apply State.sendPacket_kept)
      | split
      | with_reducible (first
        | apply State.Keeps.with))
  | succ n ih =>
    intros
    unfold State.pumpWait
    repeat' (first
      | with_reducible (first
        | assumption | apply ih | apply State.sendPacket_kept)
      | split
      | with_reducible (first
        | apply State.Keeps.with))

theorem State.pumpAlerts_kept {r₀ : State} : ∀ (x0 : Nat), ∀ (s : State), r₀.Keeps s →
    r₀.Keeps (State.pumpAlerts s x0) := by
  intro x0
  induction x0 with
  | zero =>
    intros
    unfold State.pumpAlerts
    repeat' (first
      | with_reducible (first
        | assumption | apply State.sendPacket_kept)
      | split
      | with_reducible (first
        | apply State.Keeps.with))
  | succ n ih =>
    intros
    unfold State.pumpAlerts
    repeat' (first
      | with_reducible (first
        | assumption | apply ih | apply State.sendPacket_kept)
      | split
      | with_reducible (first
        | apply State.Keeps.with))

theorem State.sendHome_kept {r₀ : State} (s : State) (v : Via) (t : List Byte) (h : r₀.Keeps s) :
    r₀.Keeps (State.sendHome s v t) := by
  unfold State.sendHome
  repeat' (first
    | with_reducible (first
      | assumption | apply State.launchParcel_kept))

theorem State.relayAlerts_kept {r₀ : State} (s : State) (v : Via) (h : r₀.Keeps s) :
    r₀.Keeps (State.relayAlerts s v) := by
  unfold State.relayAlerts
  repeat' (first
    | with_reducible (first
      | assumption | apply State.Keeps.foldl | apply State.sendHome_kept)
    | intro _
    | with_reducible (first
      | apply State.Keeps.with))

theorem State.pumpHost_kept {r₀ : State} (s : State) (h : r₀.Keeps s) :
    r₀.Keeps (State.pumpHost s) := by
  unfold State.pumpHost
  repeat' (first
    | with_reducible (first
      | assumption | apply State.pumpWait_kept | apply State.pumpAlerts_kept | apply State.relayAlerts_kept)
    | split)

theorem State.sendTrans_kept {r₀ : State} (s : State) (pool : Nat) (t : List Byte) (h : r₀.Keeps s) :
    r₀.Keeps (State.sendTrans s pool t) := by
  unfold State.sendTrans
  repeat' (first
    | with_reducible (first
      | assumption | apply State.pumpHost_kept)
    | with_reducible (first
      | apply State.Keeps.with))

theorem State.writeHost_kept {r₀ : State} (s : State) (a : Nat) (b : List Byte) (h : r₀.Keeps s) :
    r₀.Keeps (State.writeHost s a b) := by
  unfold State.writeHost
  repeat' (first
    | with_reducible (first
      | assumption | apply State.Keeps.foldl | apply State.sendTrans_kept)
    | intro _
    | with_reducible (first
      | apply State.Keeps.with))

theorem State.askHost_kept {r₀ : State} (s : State) (tag a n : Nat) (h : r₀.Keeps s) :
    r₀.Keeps (State.askHost s tag a n) := by
  unfold State.askHost
  repeat' (first
    | with_reducible (first
      | assumption | apply State.sendTrans_kept))

theorem State.readHost_kept {r₀ : State} (s : State) (a n : Nat) (h : r₀.Keeps s) :
    r₀.Keeps (State.readHost s a n) := by
  unfold State.readHost
  repeat' (first
    | with_reducible (first
      | assumption | apply State.Keeps.foldl | apply State.askHost_kept)
    | intro _
    | with_reducible (first
      | apply State.Keeps.with))

theorem State.alert_kept {r₀ : State} (s : State) (code : Nat) (detail : List Byte) (h : r₀.Keeps s) :
    r₀.Keeps (State.alert s code detail) := by
  unfold State.alert
  repeat' (first
    | with_reducible (first
      | assumption | apply State.tallyW_kept | apply State.pumpHost_kept)
    | split
    | with_reducible (first
      | apply State.Keeps.with))

/-! ### Access.lean -/

theorem State.modGranary_kept {r₀ : State} (s : State) (site : Nat) (f : Granary → Granary) (h : r₀.Keeps s) :
    r₀.Keeps (State.modGranary s site f) := by
  unfold State.modGranary
  repeat' (first
    | with_reducible (first
      | assumption)
    | with_reducible (first
      | apply State.Keeps.with))

theorem State.modPlot_kept {r₀ : State} (s : State) (p : Nat) (f : Plot → Plot) (h : r₀.Keeps s) :
    r₀.Keeps (State.modPlot s p f) := by
  unfold State.modPlot
  repeat' (first
    | with_reducible (first
      | assumption)
    | with_reducible (first
      | apply State.Keeps.with))

theorem State.ledgerRead_kept {r₀ : State} (s : State) (d : Die) (page : Nat) (h : r₀.Keeps s) :
    r₀.Keeps (State.ledgerRead s d page).2 := by
  unfold State.ledgerRead
  try dsimp only
  repeat' (first
    | with_reducible (first
      | assumption | apply State.tally__kept | apply State.report_kept)
    | split
    | with_reducible (first
      | apply State.Keeps.with))

theorem State.lookup_kept {r₀ : State} (s : State) (c : CacheId) (va : Nat) (h : r₀.Keeps s) :
    r₀.Keeps (State.lookup s c va).2 := by
  unfold State.lookup
  dsimp only
  split
  · exact h
  · split
    · exact State.Keeps.with (h := h) ..
    · have hr := State.ledgerRead_kept s c.die va h
      generalize s.ledgerRead c.die va = q at hr ⊢
      obtain ⟨_ | e, s1⟩ := q
      · exact hr
      · exact State.Keeps.with (h := hr) ..

theorem State.translate_kept {r₀ : State} (s : State) (c : CacheId) (va : Nat) (wr : Bool) (h : r₀.Keeps s) :
    r₀.Keeps (State.translate s c va wr).2 := by
  unfold State.translate
  repeat' (first
    | with_reducible (first
      | assumption | apply State.lookup_kept)
    | split
    | with_reducible (first
      | apply State.Keeps.snd (by assumption) | fail))

theorem State.resolve_kept {r₀ : State} (s : State) (w : Who) (a n : Nat) (wr : Bool) (h : r₀.Keeps s) :
    r₀.Keeps (State.resolve s w a n wr).2 := by
  unfold State.resolve
  try dsimp only
  repeat' (first
    | with_reducible (first
      | assumption | apply State.tally__kept | apply State.translate_kept)
    | split)

theorem State.countSoft_kept {r₀ : State} (s : State) (a n : Nat) (h : r₀.Keeps s) :
    r₀.Keeps (State.countSoft s a n) := by
  unfold State.countSoft
  repeat' (first
    | with_reducible (first
      | assumption | apply State.tallyMill_kept | apply State.tally__kept)
    | split)

theorem State.grnError_kept {r₀ : State} (s : State) (phys : Nat) (wr : Bool) (h : r₀.Keeps s) :
    r₀.Keeps (State.grnError s phys wr) := by
  unfold State.grnError
  repeat' (first
    | with_reducible (first
      | assumption | apply State.evBits_kept | apply State.report_kept | apply State.modGranary_kept)
    | split)

theorem State.badRead_kept {r₀ : State} (s : State) (a : Nat) (h : r₀.Keeps s) :
    r₀.Keeps (State.badRead s a) := by
  unfold State.badRead
  repeat' (first
    | with_reducible (first
      | assumption | apply State.evBits_kept | apply State.report_kept | apply State.modPlot_kept
      | apply State.grnError_kept)
    | split)

theorem State.accRead_kept {r₀ : State} (s : State) (acc : Acc) (n : Nat) (h : r₀.Keeps s) :
    r₀.Keeps (State.accRead s acc n).2 := by
  unfold State.accRead
  repeat' (first
    | with_reducible (first
      | assumption | apply State.readHost_kept | apply State.countSoft_kept | apply State.badRead_kept)
    | split)

theorem State.accWrite_kept {r₀ : State} (s : State) (acc : Acc) (b : List Byte) (h : r₀.Keeps s) :
    r₀.Keeps (State.accWrite s acc b).2 := by
  unfold State.accWrite
  repeat' (first
    | with_reducible (first
      | assumption | apply State.setBytes_kept | apply State.writeHost_kept | apply State.grnError_kept
      | apply State.badRead_kept)
    | split)

theorem State.streamRead_kept {r₀ : State} (s : State) (w : Who) (a n : Nat) (h : r₀.Keeps s) :
    r₀.Keeps (State.streamRead s w a n).2 := by
  unfold State.streamRead
  repeat' (first
    | with_reducible (first
      | assumption | apply State.resolve_kept | apply State.accRead_kept))

theorem State.streamWrite_kept {r₀ : State} (s : State) (w : Who) (a : Nat) (b : List Byte) (h : r₀.Keeps s) :
    r₀.Keeps (State.streamWrite s w a b).2 := by
  unfold State.streamWrite
  repeat' (first
    | with_reducible (first
      | assumption | apply State.resolve_kept | apply State.accWrite_kept))

/-! ### QueueOps.lean -/

theorem State.setQueue_kept {r₀ : State} (s : State) (q : Nat) (x : Queue) (h : r₀.Keeps s) :
    r₀.Keeps (State.setQueue s q x) := by
  unfold State.setQueue
  repeat' (first
    | with_reducible (first
      | assumption)
    | with_reducible (first
      | apply State.Keeps.with))

theorem State.modQueue_kept {r₀ : State} (s : State) (q : Nat) (f : Queue → Queue) (h : r₀.Keeps s) :
    r₀.Keeps (State.modQueue s q f) := by
  unfold State.modQueue
  repeat' (first
    | with_reducible (first
      | assumption | apply State.setQueue_kept))

theorem State.queueFault_kept {r₀ : State} (s : State) (q : Nat) (h : r₀.Keeps s) :
    r₀.Keeps (State.queueFault s q) := by
  unfold State.queueFault
  repeat' (first
    | with_reducible (first
      | assumption | apply State.tally__kept | apply State.report_kept | apply State.modQueue_kept))

theorem State.checkCounts_kept {r₀ : State} (s : State) (q : Nat) (h : r₀.Keeps s) :
    r₀.Keeps (State.checkCounts s q).2 := by
  unfold State.checkCounts
  repeat' (first
    | with_reducible (first
      | assumption | apply State.queueFault_kept)
    | split)

theorem State.tryPost_kept {r₀ : State} (s : State) (c : Completion) (h : r₀.Keeps s) :
    r₀.Keeps (State.tryPost s c).2 := by
  unfold State.tryPost
  try dsimp only
  repeat' (first
    | with_reducible (first
      | assumption | apply State.alert_kept | apply State.streamWrite_kept | apply State.modQueue_kept
      | apply State.checkCounts_kept)
    | split
    | with_reducible (first
      | apply State.Keeps.snd (by assumption) | fail))

theorem State.complete_kept {r₀ : State} (s : State) (c : Completion) (h : r₀.Keeps s) :
    r₀.Keeps (State.complete s c) := by
  unfold State.complete
  repeat' (first
    | with_reducible (first
      | assumption | apply State.tally__kept | apply State.alert_kept | apply State.modQueue_kept
      | apply State.tryPost_kept)
    | split
    | with_reducible (first
      | apply State.Keeps.with))

theorem State.completeIf_kept {r₀ : State} (s : State) (ask : Option Nat) (c : Completion) (h : r₀.Keeps s) :
    r₀.Keeps (State.completeIf s ask c) := by
  unfold State.completeIf
  repeat' (first
    | with_reducible (first
      | assumption | apply State.complete_kept)
    | split)

theorem State.postPendingFrom_kept {r₀ : State} : ∀ (x0 : List Completion), ∀ (s : State) (d : Die) (done : List Completion),
    r₀.Keeps s →
    r₀.Keeps (State.postPendingFrom s d done x0) := by
  intro x0
  induction x0 with
  | nil =>
    intros
    unfold State.postPendingFrom
    repeat' (first
      | with_reducible (first
        | assumption | apply State.tryPost_kept)
      | split
      | with_reducible (first
        | apply State.Keeps.snd (by assumption) | apply State.Keeps.with))
  | cons a l ih =>
    intros
    unfold State.postPendingFrom
    repeat' (first
      | with_reducible (first
        | assumption | apply ih | apply State.tryPost_kept)
      | split
      | with_reducible (first
        | apply State.Keeps.snd (by assumption) | apply State.Keeps.with))

theorem State.endWork_kept {r₀ : State} (s : State) (w : Option Work) (st : Status) (mill : Nat) (detail : Word) (h : r₀.Keeps
    s) :
    r₀.Keeps (State.endWork s w st mill detail) := by
  unfold State.endWork
  repeat' (first
    | with_reducible (first
      | assumption | apply State.completeIf_kept)
    | split)

theorem State.cancelAll_kept {r₀ : State} (s : State) (m : Nat) (l : List Invocation) (h : r₀.Keeps s) :
    r₀.Keeps (State.cancelAll s m l) := by
  unfold State.cancelAll
  repeat' (first
    | with_reducible (first
      | assumption | apply State.Keeps.foldl | apply State.endWork_kept)
    | intro _)

theorem State.cancelQueue_kept {r₀ : State} (s : State) (m : Nat) (e : Eng) (h : r₀.Keeps s) :
    r₀.Keeps (State.cancelQueue s m e) := by
  unfold State.cancelQueue
  repeat' (first
    | with_reducible (first
      | assumption | apply State.modMill_kept | apply State.modEng_kept | apply State.cancelAll_kept))

theorem State.endFlow_kept {r₀ : State} (s : State) (m : Nat) (e : Eng) (h : r₀.Keeps s) :
    r₀.Keeps (State.endFlow s m e) := by
  unfold State.endFlow
  repeat' (first
    | with_reducible (first
      | assumption | apply State.modMill_kept)
    | split)

theorem State.endRunning_kept {r₀ : State} (s : State) (m : Nat) (e : Eng) (st : Status) (h : r₀.Keeps s) :
    r₀.Keeps (State.endRunning s m e st) := by
  unfold State.endRunning
  repeat' (first
    | with_reducible (first
      | assumption | apply State.modEng_kept | apply State.endWork_kept | apply State.endFlow_kept)
    | split
    | with_reducible (first
      | apply State.Keeps.with))

theorem State.stopMill_kept {r₀ : State} (s : State) (m : Nat) (st : Status) (h : r₀.Keeps s) :
    r₀.Keeps (State.stopMill s m st) := by
  unfold State.stopMill
  repeat' (first
    | with_reducible (first
      | assumption | apply State.Keeps.foldl | apply State.modMill_kept | apply State.modEng_kept
      | apply State.cancelQueue_kept | apply State.endRunning_kept)
    | intro _)

theorem State.recordSched_kept {r₀ : State} (s : State) (m : Nat) (r : SchedRec) (h : r₀.Keeps s) :
    r₀.Keeps (State.recordSched s m r) := by
  unfold State.recordSched
  repeat' (first
    | with_reducible (first
      | assumption | apply State.setMill_kept | apply State.reportSched_kept)
    | split
    | with_reducible (first
      | apply State.Keeps.with))

theorem State.engineFault_kept {r₀ : State} (s : State) (m : Nat) (e : Eng) (f : EngFault) (h : r₀.Keeps s) :
    r₀.Keeps (State.engineFault s m e f) := by
  unfold State.engineFault
  try dsimp only
  repeat' (first
    | with_reducible (first
      | assumption | apply State.modEng_kept | apply State.report_kept | apply State.reportRow_kept
      | apply State.raiseMill_kept | apply State.endRunning_kept | apply State.stopMill_kept
      | apply State.recordSched_kept)
    | split)

theorem State.timeFault_kept {r₀ : State} (s : State) (m : Nat) (e : Eng) (f : EngFault) (h : r₀.Keeps s) :
    r₀.Keeps (State.timeFault s m e f) := by
  unfold State.timeFault
  split
  · exact h
  · exact State.engineFault_kept _ _ _ _ h

theorem State.reportRing_kept {r₀ : State} (s : State) (q : Nat) (h : r₀.Keeps s) :
    r₀.Keeps (State.reportRing s q) := by
  unfold State.reportRing
  repeat' (first
    | with_reducible (first
      | assumption | apply State.report_kept))

theorem State.landCart_kept {r₀ : State} (s : State) (q : Nat) (c : List Byte) (h : r₀.Keeps s) :
    r₀.Keeps (State.landCart s q c).2 := by
  unfold State.landCart
  try dsimp only
  repeat' (first
    | with_reducible (first
      | assumption | apply State.streamWrite_kept | apply State.modQueue_kept | apply State.queueFault_kept
      | apply State.checkCounts_kept | apply State.reportRing_kept)
    | split
    | with_reducible (first
      | apply State.Keeps.snd (by assumption) | fail))

theorem State.takeCart_kept {r₀ : State} (s : State) (q : Nat) (h : r₀.Keeps s) :
    r₀.Keeps (State.takeCart s q).2 := by
  unfold State.takeCart
  try dsimp only
  repeat' (first
    | with_reducible (first
      | assumption | apply State.streamRead_kept | apply State.modQueue_kept | apply State.queueFault_kept
      | apply State.checkCounts_kept | apply State.reportRing_kept)
    | split
    | with_reducible (first
      | apply State.Keeps.snd (by assumption) | fail))

theorem State.postRing_kept {r₀ : State} (s : State) (q : Nat) (h : r₀.Keeps s) :
    r₀.Keeps (State.postRing s q) := by
  unfold State.postRing
  try dsimp only
  repeat' (first
    | with_reducible (first
      | assumption | apply State.modEng_kept | apply State.timeFault_kept | apply State.takeCart_kept)
    | split
    | with_reducible (first
      | apply State.Keeps.snd (by assumption) | fail))

/-! ### Routers.lean -/

theorem State.setRouter_kept {r₀ : State} (s : State) (k : Nat) (r : Router) (h : r₀.Keeps s) :
    r₀.Keeps (State.setRouter s k r) := by
  unfold State.setRouter
  repeat' (first
    | with_reducible (first
      | assumption)
    | with_reducible (first
      | apply State.Keeps.with))

theorem State.giveCredit_kept {r₀ : State} (s : State) (k : Nat) (w : Waiting) (h : r₀.Keeps s) :
    r₀.Keeps (State.giveCredit s k w) := by
  unfold State.giveCredit
  repeat' (first
    | with_reducible (first
      | assumption | apply State.setRouter_kept)
    | split)

theorem State.grant_kept {r₀ : State} (s : State) (k lane : Nat) (w : Waiting) (h : r₀.Keeps s) :
    r₀.Keeps (State.grant s k lane w) := by
  unfold State.grant
  repeat' (first
    | with_reducible (first
      | assumption | apply State.send_kept | apply State.setRouter_kept | apply State.giveCredit_kept)
    | split)

theorem State.serveLane_kept {r₀ : State} (s : State) (k out lane : Nat) (h : r₀.Keeps s) :
    r₀.Keeps (State.serveLane s k out lane) := by
  unfold State.serveLane
  repeat' (first
    | with_reducible (first
      | assumption | apply State.grant_kept)
    | split
    | with_reducible (first
      | apply State.Keeps.with))

theorem State.countP0_kept {r₀ : State} (s : State) (k out : Nat) (before : List Waiting) (forced : Bool) (h : r₀.Keeps s) :
    r₀.Keeps (State.countP0 s k out before forced) := by
  unfold State.countP0
  repeat' (first
    | with_reducible (first
      | assumption | apply State.tally__kept | apply State.setRouter_kept)
    | split
    | with_reducible (first
      | apply State.Keeps.with))

theorem State.serveOut_kept {r₀ : State} (s : State) (k out : Nat) (h : r₀.Keeps s) :
    r₀.Keeps (State.serveOut s k out) := by
  unfold State.serveOut
  repeat' (first
    | with_reducible (first
      | assumption | apply State.serveLane_kept | apply State.countP0_kept)
    | split
    | with_reducible (first
      | apply State.Keeps.with))

theorem State.serveRouter_kept {r₀ : State} (s : State) (k : Nat) (h : r₀.Keeps s) :
    r₀.Keeps (State.serveRouter s k) := by
  unfold State.serveRouter
  repeat' (first
    | with_reducible (first
      | assumption | apply State.Keeps.foldl | apply State.setRouter_kept | apply State.serveOut_kept)
    | intro _ | split
    | with_reducible (first
      | apply State.Keeps.snd (by assumption) | apply State.Keeps.with))

theorem State.drainRouters_kept {r₀ : State} (s : State) (h : r₀.Keeps s) :
    r₀.Keeps (State.drainRouters s) := by
  unfold State.drainRouters
  repeat' (first
    | with_reducible (first
      | assumption | apply State.Keeps.foldl | apply State.serveRouter_kept)
    | intro _ | split
    | with_reducible (first
      | apply State.Keeps.snd (by assumption) | apply State.Keeps.with))

theorem State.inject_kept {r₀ : State} (s : State) (inp : Nat) (h : PktHdr) (n : Nat) (b : List Byte) (hK : r₀.Keeps s) :
    r₀.Keeps (State.inject s inp h n b) := by
  unfold State.inject
  repeat' (first
    | with_reducible (first
      | assumption | apply State.Keeps.foldl | apply State.send_kept)
    | intro _ | split
    | with_reducible (first
      | apply State.Keeps.snd (by assumption) | apply State.Keeps.with))

theorem State.crossDies_kept {r₀ : State} (s : State) (p out : Nat) (booked : Bool) (b : List Byte) (h : r₀.Keeps s) :
    r₀.Keeps (State.crossDies s p out booked b) := by
  unfold State.crossDies
  repeat' (first
    | with_reducible (first
      | assumption | apply State.inject_kept)
    | split)

/-! ### Cells.lean -/

theorem State.userRead_kept {r₀ : State} (s : State) (p b w : Nat) (asp : BitVec 2) (h : r₀.Keeps s) :
    r₀.Keeps (State.userRead s p b w asp).2.2 := by
  unfold State.userRead
  dsimp only
  split
  · exact State.badRead_kept (h := h) ..
  · exact State.countSoft_kept (h := h) ..

theorem State.userWrite_kept {r₀ : State} (s : State) (p b w : Nat) (asp : BitVec 2) (v : Nat) (h : r₀.Keeps s) :
    r₀.Keeps (State.userWrite s p b w asp v) := by
  unfold State.userWrite
  dsimp only
  split
  · exact State.badRead_kept (h := h) ..
  · exact State.setBytes_kept (h := h) ..

theorem State.portRead_kept {r₀ : State} (s : State) (p : Nat) (nets out : Table (BitVec 16)) (pt : BramPort) (h : r₀.Keeps s) :
    r₀.Keeps (State.portRead s p nets out pt).2 := by
  unfold State.portRead
  dsimp only
  split
  · exact h
  · have hr := State.userRead_kept s p pt.mem (pt.word (Table.get {} (s.plot p).brams pt.mem) nets)
      (Table.get {} (s.plot p).brams pt.mem).aspect h
    generalize s.userRead p pt.mem (pt.word (Table.get {} (s.plot p).brams pt.mem) nets)
      (Table.get {} (s.plot p).brams pt.mem).aspect = q at hr ⊢
    obtain ⟨v, bad, s1⟩ := q
    exact State.modPlot_kept (h := hr) ..

theorem State.portWrite_kept {r₀ : State} (s : State) (p : Nat) (nets : Table (BitVec 16)) (pt : BramPort) (h : r₀.Keeps s) :
    r₀.Keeps (State.portWrite s p nets pt) := by
  unfold State.portWrite
  dsimp only
  split
  · exact State.userWrite_kept (h := h) ..
  · exact h

theorem State.portReads_kept {r₀ : State} (l : List BramPort) : ∀ (s : State) (p : Nat) (nets out : Table (BitVec 16)), r₀.Keeps s →
    r₀.Keeps (State.portReads s p nets out l).2 := by
  induction l with
  | nil => intro s p nets out h; exact h
  | cons pt t ih =>
    intro s p nets out h
    unfold State.portReads
    have hr := State.portRead_kept s p nets out pt h
    generalize s.portRead p nets out pt = q at hr ⊢
    exact ih _ _ _ _ hr

theorem State.bramCycle_kept {r₀ : State} (s : State) (p : Nat) (h : r₀.Keeps s) : r₀.Keeps (State.bramCycle s p) := by
  unfold State.bramCycle
  dsimp only
  have hr := State.portReads_kept (s.plot p).image.ports s p (s.plot p).nets (s.plot p).nets h
  generalize s.portReads p (s.plot p).nets (s.plot p).nets (s.plot p).image.ports = q at hr ⊢
  obtain ⟨out, s1⟩ := q
  apply State.modPlot_kept
  split
  · exact State.Keeps.foldl (h := hr) (fun s pt h => State.portWrite_kept _ _ _ _ h)
  · exact hr

theorem State.latchPlot_kept {r₀ : State} (s : State) (p : Nat) (h : r₀.Keeps s) : r₀.Keeps (State.latchPlot s p) := by
  unfold State.latchPlot
  exact State.modPlot_kept (h := h) ..

theorem State.plotCycle_kept {r₀ : State} (s : State) (p : Nat) (h : r₀.Keeps s) : r₀.Keeps (State.plotCycle s p) := by
  unfold State.plotCycle
  split
  · exact h
  · exact State.bramCycle_kept _ _ (State.latchPlot_kept _ _ h)

theorem State.fabricCycle_kept {r₀ : State} (s : State) (d : Die) (h : r₀.Keeps s) :
    r₀.Keeps (State.fabricCycle s d) := by
  unfold State.fabricCycle
  repeat' (first
    | with_reducible (first
      | assumption | apply State.Keeps.foldl | apply State.plotCycle_kept))

theorem State.fabricStep_kept {r₀ : State} (s : State) (h : r₀.Keeps s) :
    r₀.Keeps (State.fabricStep s) := by
  unfold State.fabricStep
  repeat' (first
    | with_reducible (first
      | assumption | apply State.Keeps.foldl | apply State.fabricCycle_kept)
    | intro _ | split
    | with_reducible (first
      | apply State.Keeps.snd (by assumption) | apply State.Keeps.with))

/-! ### Clocks.lean -/

theorem State.modBell_kept {r₀ : State} (s : State) (f : Bell → Bell) (h : r₀.Keeps s) :
    r₀.Keeps (State.modBell s f) := by
  unfold State.modBell
  repeat' (first
    | with_reducible (first
      | assumption)
    | with_reducible (first
      | apply State.Keeps.with))

theorem State.modBellPort_kept {r₀ : State} (s : State) (p : Nat) (f : BellPort → BellPort) (h : r₀.Keeps s) :
    r₀.Keeps (State.modBellPort s p f) := by
  unfold State.modBellPort
  repeat' (first
    | with_reducible (first
      | assumption | apply State.modBell_kept))

theorem State.releaseItems_kept {r₀ : State} (s : State) (h : r₀.Keeps s) :
    r₀.Keeps (State.releaseItems s) := by
  unfold State.releaseItems
  repeat' (first
    | with_reducible (first
      | assumption | apply State.Keeps.foldl | apply State.send_kept | apply State.modBell_kept)
    | intro _ | split
    | with_reducible (first
      | apply State.Keeps.snd (by assumption) | apply State.Keeps.with))

theorem State.launchBell_kept {r₀ : State} (s : State) (p : Nat) (h : r₀.Keeps s) :
    r₀.Keeps (State.launchBell s p) := by
  unfold State.launchBell
  try dsimp only
  repeat' (first
    | with_reducible (first
      | assumption | apply State.send_kept | apply State.hold_kept | apply State.modBell_kept
      | apply State.modBellPort_kept)
    | split)

theorem State.epochMills_kept {r₀ : State} (s : State) (h : r₀.Keeps s) :
    r₀.Keeps (State.epochMills s) := by
  unfold State.epochMills
  repeat' (first
    | with_reducible (first
      | assumption)
    | split
    | with_reducible (first
      | apply State.Keeps.with))

theorem State.tickStart_kept {r₀ : State} (s : State) (k : Clock) (e : k = { s.clock with tick := s.clock.tick + 1, cyc := 0 })
    (h : r₀.Keeps { s with clock := k, pwr := { s.pwr with fresh := [] } }) : r₀.Keeps (State.tickStart s) := by
  subst e
  unfold State.tickStart
  repeat' (first
    | with_reducible (first
      | assumption | apply State.Keeps.foldl | apply State.tally__kept | apply State.tallyPort_kept | apply State.modBell_kept
      | apply State.launchBell_kept | apply State.epochMills_kept)
    | intro _ | split)

/-- A clock that has gone on is brought back within its tick. -/
theorem State.tickOver_kept {r₀ s : State} (t : State) (n : Nat) (hc : t.clock = s.clock.pass n) (hp : t.pending = s.pending)
    (hm : t.mem = s.mem) (hs : t.sec = s.sec) (hi : t.ident = s.ident) (h : r₀.Keeps s) : r₀.Keeps t.tickOver := by
  have e : s.clock.now ≤ t.clock.now := by rw [hc]; exact Nat.le_add_right _ _
  unfold State.tickOver
  split
  · exact State.Keeps.updClock hp hm hs hi (fun _ => by omega) e h
  · exact State.tickStart_kept t _ rfl (State.Keeps.updClock hp hm hs hi (fun _ => Nat.zero_le _) e h)

end Sys2Proof.Machine
end

