-- ==== Sys2Proof/Laws/KeepsMill.lean ====
section
/-! SUPPORT. What every command keeps (Laws/Keeps.lean), for the operations of mill, engines, streams and time. -/

namespace Sys2Proof.Machine

open Sys2Proof

/-! ### MillTime.lean -/

theorem State.groupWaits_kept {r₀ : State} (s : State) (m : Nat) (y : YokeFlight) (f : EngFault) (hazard : Bool) (h : r₀.Keeps s) :
    r₀.Keeps (State.groupWaits s m y f hazard).2 := by
  unfold State.groupWaits
  try dsimp only
  repeat' (first
    | with_reducible (first
      | assumption | apply State.Keeps.foldl | apply State.Keeps.foldlPair | apply State.setMill_kept
      | apply State.modMill_kept | apply State.tallyMill_kept | apply State.recordSched_kept
      | apply State.timeFault_kept)
    | intro _ | split
    | with_reducible (first
      | apply State.Keeps.snd3 (by assumption) | apply State.Keeps.snd (by assumption)
      | apply State.OPKeeps.get (by assumption) | apply State.Keeps.with))

theorem State.groupRows_kept {r₀ : State} (s : State) (m c : Nat) (y : YokeFlight) (base : Nat) (h : r₀.Keeps s) :
    r₀.Keeps (State.groupRows s m c y base).2 := by
  unfold State.groupRows
  try dsimp only
  repeat' (first
    | with_reducible (first
      | assumption | apply State.Keeps.foldl | apply State.Keeps.foldlPair | apply State.setArith_kept
      | apply State.tallyMill_kept | apply State.countSoft_kept | apply State.timeFault_kept)
    | intro _ | split
    | with_reducible (first
      | apply State.Keeps.snd3 (by assumption) | apply State.Keeps.snd (by assumption)
      | apply State.OPKeeps.get (by assumption) | apply State.Keeps.with))

theorem State.enterGroup_kept {r₀ : State} (s : State) (m c : Nat) (y : YokeFlight) (h : r₀.Keeps s) :
    r₀.Keeps (State.enterGroup s m c y).2 := by
  unfold State.enterGroup
  try dsimp only
  repeat' (first
    | with_reducible (first
      | assumption | apply State.Keeps.foldl | apply State.Keeps.foldlPair | apply State.setMill_kept
      | apply State.timeFault_kept | apply State.groupWaits_kept | apply State.groupRows_kept)
    | intro _ | split
    | with_reducible (first
      | apply State.Keeps.snd3 (by assumption) | apply State.Keeps.snd (by assumption)
      | apply State.OPKeeps.get (by assumption) | apply State.Keeps.with))

theorem State.loadRow_kept {r₀ : State} (s : State) (m c : Nat) (l : LoadFlight) (h : r₀.Keeps s) :
    r₀.Keeps (State.loadRow s m c l).2 := by
  unfold State.loadRow
  try dsimp only
  repeat' (first
    | with_reducible (first
      | assumption | apply State.Keeps.foldl | apply State.Keeps.foldlPair | apply State.modMill_kept
      | apply State.countSoft_kept | apply State.timeFault_kept)
    | intro _ | split
    | with_reducible (first
      | apply State.Keeps.snd3 (by assumption) | apply State.Keeps.snd (by assumption)
      | apply State.OPKeeps.get (by assumption) | apply State.Keeps.with))

theorem State.loadsStep_kept {r₀ : State} (s : State) (m c : Nat) (h : r₀.Keeps s) :
    r₀.Keeps (State.loadsStep s m c) := by
  unfold State.loadsStep
  try dsimp only
  repeat' (first
    | with_reducible (first
      | assumption | apply State.Keeps.foldl | apply State.Keeps.foldlPair | apply State.modMill_kept
      | apply State.loadRow_kept)
    | intro _ | split
    | with_reducible (first
      | apply State.Keeps.snd3 (by assumption) | apply State.Keeps.snd (by assumption)
      | apply State.OPKeeps.get (by assumption) | apply State.Keeps.with))

theorem State.writeRow_kept {r₀ : State} (s : State) (m : Nat) (y : YokeFlight) (row : Nat) (codes : List Nat × List Nat) (h : r₀.Keeps s) :
    r₀.Keeps (State.writeRow s m y row codes) := by
  unfold State.writeRow
  repeat' (first
    | with_reducible (first
      | assumption | apply State.Keeps.foldl | apply State.setBytes_kept | apply State.modMill_kept
      | apply State.setArith_kept | apply State.tallyMill_kept)
    | intro _ | split
    | with_reducible (first
      | apply State.Keeps.snd (by assumption) | apply State.Keeps.with))

theorem State.leaveGroup_kept {r₀ : State} (s : State) (m c : Nat) (y : YokeFlight) (h : r₀.Keeps s) :
    r₀.Keeps (State.leaveGroup s m c y).2 := by
  unfold State.leaveGroup
  repeat' (first
    | with_reducible (first
      | assumption | apply State.Keeps.foldl | apply State.Keeps.foldlPair | apply State.writeRow_kept)
    | intro _ | split)

theorem State.flightIncs_kept {r₀ : State} (s : State) (m c : Nat) (y : YokeFlight) (wroteLast : Bool) (h : r₀.Keeps s) :
    r₀.Keeps (State.flightIncs s m c y wroteLast).2 := by
  unfold State.flightIncs
  try dsimp only
  repeat' (first
    | with_reducible (first
      | assumption | apply State.modMill_kept)
    | split)

theorem State.flightStep_kept {r₀ : State} (s : State) (m c : Nat) (y : YokeFlight) (h : r₀.Keeps s) :
    r₀.Keeps (State.flightStep s m c y).2 := by
  unfold State.flightStep
  repeat' (first
    | with_reducible (first
      | assumption | apply State.Keeps.foldlPair | apply State.enterGroup_kept | apply State.leaveGroup_kept
      | apply State.flightIncs_kept)
    | split
    | with_reducible (first
      | apply State.Keeps.snd (by assumption) | fail))

theorem State.foldFlights_kept {r₀ : State} (s : State) (m : Nat) (f : State → YokeFlight → Option YokeFlight × State)
    (hf : ∀ s y, r₀.Keeps s → r₀.Keeps (f s y).2) (h : r₀.Keeps s) : r₀.Keeps (State.foldFlights s m f) := by
  unfold State.foldFlights
  refine State.modMill_kept (h := State.Keeps.foldlPair h fun p y hp => ?_) ..
  have k := hf p.2 y hp
  split
  · next e => rw [e] at k; exact k
  · next e => rw [e] at k; exact k

theorem State.yokeReads_kept {r₀ : State} (s : State) (m c : Nat) (h : r₀.Keeps s) :
    r₀.Keeps (State.yokeReads s m c) := by
  unfold State.yokeReads
  repeat' (first
    | with_reducible (first
      | assumption | apply State.Keeps.foldl | apply State.modMill_kept | apply State.tallyMill_kept
      | apply State.enterGroup_kept | apply State.loadsStep_kept | apply State.foldFlights_kept)
    | intro _ | split
    | with_reducible (first
      | apply State.Keeps.snd (by assumption) | apply State.Keeps.with))

theorem State.yokeWrites_kept {r₀ : State} (s : State) (m c : Nat) (h : r₀.Keeps s) :
    r₀.Keeps (State.yokeWrites s m c) := by
  unfold State.yokeWrites
  repeat' (first
    | with_reducible (first
      | assumption | apply State.Keeps.foldl | apply State.flightStep_kept | apply State.foldFlights_kept)
    | intro _ | split
    | with_reducible (first
      | apply State.Keeps.snd (by assumption) | apply State.Keeps.with))

theorem State.setSlot_kept {r₀ : State} (s : State) (m k : Nat) (sl : Option Slot) (h : r₀.Keeps s) :
    r₀.Keeps (State.setSlot s m k sl) := by
  unfold State.setSlot
  repeat' (first
    | with_reducible (first
      | assumption | apply State.modMill_kept))

theorem State.clearMove_kept {r₀ : State} (s : State) (m c k : Nat) (a : MovArgs) (h : r₀.Keeps s) :
    r₀.Keeps (State.clearMove s m c k a) := by
  unfold State.clearMove
  repeat' (first
    | with_reducible (first
      | assumption | apply State.modMill_kept | apply State.setSlot_kept)
    | split)

theorem State.moveBytes_kept {r₀ : State} (s : State) (m c : Nat) (cr : Carter) (k : Nat) (sl : Slot) (a : MovArgs) (n : Nat) (h : r₀.Keeps s) :
    r₀.Keeps (State.moveBytes s m c cr k sl a n) := by
  unfold State.moveBytes
  try dsimp only
  repeat' (first
    | with_reducible (first
      | assumption | apply State.Keeps.foldl | apply State.Keeps.foldlPair | apply State.modMill_kept
      | apply State.tallyMill_kept | apply State.countSoft_kept | apply State.setSlot_kept
      | apply State.clearMove_kept)
    | intro _ | split
    | with_reducible (first
      | apply State.Keeps.snd3 (by assumption) | apply State.Keeps.snd (by assumption)
      | apply State.OPKeeps.get (by assumption) | apply State.Keeps.with))

theorem State.carterStep_kept {r₀ : State} (s : State) (m c : Nat) (cr : Carter) (h : r₀.Keeps s) :
    r₀.Keeps (State.carterStep s m c cr) := by
  unfold State.carterStep
  repeat' (first
    | with_reducible (first
      | assumption | apply State.Keeps.foldl | apply State.modMill_kept | apply State.tallyMill_kept
      | apply State.timeFault_kept | apply State.clearMove_kept | apply State.moveBytes_kept)
    | intro _ | split
    | with_reducible (first
      | apply State.Keeps.snd (by assumption) | apply State.Keeps.with))

theorem State.cartersStep_kept {r₀ : State} (s : State) (m c : Nat) (h : r₀.Keeps s) :
    r₀.Keeps (State.cartersStep s m c) := by
  unfold State.cartersStep
  repeat' (first
    | with_reducible (first
      | assumption | apply State.carterStep_kept)
    | split)

theorem State.land_kept {r₀ : State} (s : State) (m c : Nat) (l : Land) (h : r₀.Keeps s) :
    r₀.Keeps (State.land s m c l) := by
  unfold State.land
  repeat' (first
    | with_reducible (first
      | assumption | apply State.setBytes_kept | apply State.modMill_kept | apply State.evBits_kept
      | apply State.tallyMill_kept)
    | split)

theorem State.landTurn_kept {r₀ : State} (s : State) (m c : Nat) (l : Land) (h : r₀.Keeps s) :
    r₀.Keeps (State.landTurn s m c l) := by
  unfold State.landTurn
  repeat' (first
    | with_reducible (first
      | assumption | apply State.modMill_kept | apply State.tallyMill_kept | apply State.land_kept)
    | split)

theorem State.landDue_kept {r₀ : State} (s : State) (m c : Nat) (stores : Bool) (h : r₀.Keeps s) :
    r₀.Keeps (State.landDue s m c stores) := by
  unfold State.landDue
  repeat' (first
    | with_reducible (first
      | assumption | apply State.Keeps.foldl | apply State.modMill_kept | apply State.landTurn_kept)
    | intro _ | split
    | with_reducible (first
      | apply State.Keeps.snd (by assumption) | apply State.Keeps.with))

theorem State.millStep_kept {r₀ : State} (s : State) (m c : Nat) (h : r₀.Keeps s) :
    r₀.Keeps (State.millStep s m c) := by
  unfold State.millStep
  repeat' (first
    | with_reducible (first
      | assumption | apply State.modMill_kept | apply State.yokeReads_kept | apply State.yokeWrites_kept
      | apply State.cartersStep_kept | apply State.landDue_kept)
    | split)

theorem State.landFlight_kept {r₀ : State} (s : State) (f : CartFlight) (h : r₀.Keeps s) :
    r₀.Keeps (State.landFlight s f) := by
  unfold State.landFlight
  repeat' (first
    | with_reducible (first
      | assumption | apply State.modMill_kept | apply State.landCart_kept | apply State.postRing_kept)
    | split
    | with_reducible (first
      | apply State.Keeps.snd (by assumption) | fail))

theorem State.landCarts_kept {r₀ : State} (s : State) (h : r₀.Keeps s) :
    r₀.Keeps (State.landCarts s) := by
  unfold State.landCarts
  repeat' (first
    | with_reducible (first
      | assumption | apply State.Keeps.foldl | apply State.landFlight_kept)
    | split
    | with_reducible (first
      | apply State.Keeps.with))

theorem State.countCycles_kept {r₀ : State} (s : State) (n : Nat) (h : r₀.Keeps s) :
    r₀.Keeps (State.countCycles s n) := by
  unfold State.countCycles
  repeat' (first
    | with_reducible (first
      | assumption)
    | split
    | with_reducible (first
      | apply State.Keeps.with))

theorem State.agenFaults_kept {r₀ : State} (s : State) (h : r₀.Keeps s) : r₀.Keeps s.agenFaults := by
  unfold State.agenFaults
  refine State.Keeps.foldl h fun s m h => State.Keeps.foldl h fun s f h => ?_
  split
  · exact State.timeFault_kept _ _ _ _ h
  · exact h

theorem State.countCycles_clock (s : State) (n : Nat) : (s.countCycles n).clock = s.clock := by
  unfold State.countCycles; split <;> rfl

theorem State.cycle_kept {r₀ : State} (s : State) (h : r₀.Keeps s) : r₀.Keeps (s.cycle) := by
  unfold State.cycle
  have a : ∀ (l : List Nat) (c : Nat) (s : State), r₀.Keeps s → r₀.Keeps (l.foldl (fun s m => s.millStep m c) s) :=
    fun l c s h => State.Keeps.foldl h (fun s m h => State.millStep_kept (h := h) ..)
  apply State.releaseItems_kept
  apply State.drainRouters_kept
  apply State.landCarts_kept
  apply State.agenFaults_kept
  exact State.tickOver_kept (n := 1) _ rfl rfl rfl rfl rfl (State.fabricStep_kept (h := State.countCycles_kept (h := a _ _ _ h) ..) ..)

theorem State.leap_kept {r₀ : State} (s : State) (n : Nat) (h : r₀.Keeps s) : r₀.Keeps (State.leap s n) :=
  State.tickOver_kept (s := s.countCycles n) (n := n) _ (by rw [State.countCycles_clock]) rfl rfl rfl rfl
    (State.countCycles_kept (h := h) ..)

theorem State.passFor_kept {r₀ : State} (fuel : Nat) : ∀ (n : Nat) (s : State), r₀.Keeps s → r₀.Keeps (s.passFor fuel n) := by
  induction fuel with
  | zero => intro _ s h; exact h
  | succ k ih =>
    intro n s h
    unfold State.passFor
    split
    · exact h
    · split
      · exact ih _ _ (State.leap_kept (h := h) ..)
      · exact ih _ _ (State.cycle_kept (h := h) ..)

theorem State.pass_kept {r₀ : State} (s : State) (n : Nat) (h : r₀.Keeps s) : r₀.Keeps (s.pass n) := State.passFor_kept n n s h

theorem State.advanceTo_kept {r₀ : State} (s : State) (t : Nat) (h : r₀.Keeps s) :
    r₀.Keeps (State.advanceTo s t) := by
  unfold State.advanceTo
  repeat' (first
    | with_reducible (first
      | assumption | apply State.pass_kept))

/-! ### Engines.lean -/

theorem State.hold_kept {r₀ : State} (s : State) (m : Nat) (e : Eng) (op : EngOp) (f : EngFault) (h : r₀.Keeps s) :
    r₀.Keeps (State.hold s m e op f) := by
  unfold State.hold
  repeat' (first
    | with_reducible (first
      | assumption | apply State.modEng_kept)
    | split)

theorem State.shut_kept {r₀ : State} (s : State) (m : Nat) (e : Eng) (op : EngOp) (f : EngFault) (hazard : Bool) (h : r₀.Keeps s) :
    r₀.Keeps (State.shut s m e op f hazard) := by
  unfold State.shut
  repeat' (first
    | with_reducible (first
      | assumption | apply State.Keeps.foldl | apply State.modEng_kept | apply State.tallyMill_kept
      | apply State.recordSched_kept | apply State.engineFault_kept | apply State.hold_kept)
    | intro _ | split
    | with_reducible (first
      | apply State.Keeps.snd (by assumption) | apply State.Keeps.with))

theorem State.ready_kept {r₀ : State} (s : State) (m : Nat) (e : Eng) (op : EngOp) (h : r₀.Keeps s) :
    r₀.Keeps (State.ready s m e op).2 := by
  unfold State.ready
  try dsimp only
  repeat' (first
    | with_reducible (first
      | assumption | apply State.tallyMill_kept | apply State.advanceTo_kept | apply State.engineFault_kept)
    | split)

theorem State.issued_kept {r₀ : State} (s : State) (m : Nat) (e : Eng) (h : r₀.Keeps s) :
    r₀.Keeps (State.issued s m e) := by
  unfold State.issued
  repeat' (first
    | with_reducible (first
      | assumption | apply State.modEng_kept | apply State.tallyMill_kept))

theorem State.jump_kept {r₀ : State} (s : State) (m : Nat) (e : Eng) (target : Word) (t : Nat) (h : r₀.Keeps s) :
    r₀.Keeps (State.jump s m e target t) := by
  unfold State.jump
  repeat' (first
    | with_reducible (first
      | assumption | apply State.modEng_kept))

theorem State.doAlu_kept {r₀ : State} (s : State) (m : Nat) (op : AluOp) (h : r₀.Keeps s) :
    r₀.Keeps (State.doAlu s m op) := by
  unfold State.doAlu
  try dsimp only
  repeat' (first
    | with_reducible (first
      | assumption | apply State.draw_kept | apply State.modEng_kept)
    | split)

theorem State.doMul_kept {r₀ : State} (s : State) (m : Nat) (sgn : Bool) (rd : BitVec 5) (a b : Src) (h : r₀.Keeps s) :
    r₀.Keeps (State.doMul s m sgn rd a b) := by
  unfold State.doMul
  repeat' (first
    | with_reducible (first
      | assumption | apply State.modEng_kept))

theorem State.doLdl_kept {r₀ : State} (s : State) (m : Nat) (rd : BitVec 5) (a : Nat) (wide : Bool) (h : r₀.Keeps s) :
    r₀.Keeps (State.doLdl s m rd a wide) := by
  unfold State.doLdl
  repeat' (first
    | with_reducible (first
      | assumption | apply State.modEng_kept | apply State.countSoft_kept))

theorem State.doStl_kept {r₀ : State} (s : State) (m : Nat) (rs : BitVec 5) (a : Nat) (wide : Bool) (h : r₀.Keeps s) :
    r₀.Keeps (State.doStl s m rs a wide) := by
  unfold State.doStl
  repeat' (first
    | with_reducible (first
      | assumption | apply State.modMill_kept))

theorem State.portRetry_kept {r₀ : State} : ∀ (x0 : Nat), ∀ (s : State) (m : Nat) (e : Eng) (keys : List Nat), r₀.Keeps s →
    r₀.Keeps (State.portRetry s m e keys x0) := by
  intro x0
  induction x0 with
  | zero =>
    intros
    unfold State.portRetry
    repeat' (first
      | with_reducible (first
        | assumption | apply State.Keeps.foldl | apply State.tallyMill_kept | apply State.advanceTo_kept)
      | intro _ | split
      | with_reducible (first
        | apply State.Keeps.snd (by assumption) | apply State.Keeps.with))
  | succ n ih =>
    intros
    unfold State.portRetry
    repeat' (first
      | with_reducible (first
        | assumption | apply ih | apply State.Keeps.foldl | apply State.tallyMill_kept | apply State.advanceTo_kept)
      | intro _ | split
      | with_reducible (first
        | apply State.Keeps.snd (by assumption) | apply State.Keeps.with))

theorem State.takePorts_kept {r₀ : State} (s : State) (m : Nat) (e : Eng) (keys : List Nat) (h : r₀.Keeps s) :
    r₀.Keeps (State.takePorts s m e keys) := by
  unfold State.takePorts
  repeat' (first
    | with_reducible (first
      | assumption | apply State.modMill_kept | apply State.portRetry_kept)
    | split)

theorem State.waitTurn_kept {r₀ : State} (s : State) (m : Nat) (e : Eng) (c : Nat) (h : r₀.Keeps s) :
    r₀.Keeps (State.waitTurn s m e c) := by
  unfold State.waitTurn
  repeat' (first
    | with_reducible (first
      | assumption | apply State.advanceTo_kept)
    | split)

theorem State.postWaiting_kept {r₀ : State} (s : State) (m : Nat) (e : Eng) (h : r₀.Keeps s) :
    r₀.Keeps (State.postWaiting s m e) := by
  unfold State.postWaiting
  repeat' (first
    | with_reducible (first
      | assumption | apply State.Keeps.foldl | apply State.postRing_kept))

theorem State.doEnd_kept {r₀ : State} (s : State) (m : Nat) (e : Eng) (h : r₀.Keeps s) :
    r₀.Keeps (State.doEnd s m e) := by
  unfold State.doEnd
  repeat' (first
    | with_reducible (first
      | assumption | apply State.Keeps.foldl | apply State.modEng_kept | apply State.endRunning_kept
      | apply State.engineFault_kept | apply State.postWaiting_kept)
    | intro _ | split
    | with_reducible (first
      | apply State.Keeps.snd (by assumption) | apply State.Keeps.with))

theorem State.doDone_kept {r₀ : State} (s : State) (m : Nat) (v : Word) (h : r₀.Keeps s) :
    r₀.Keeps (State.doDone s m v) := by
  unfold State.doDone
  repeat' (first
    | with_reducible (first
      | assumption | apply State.modEng_kept | apply State.tallyMill_kept)
    | split)

theorem State.stewardEffect_kept {r₀ : State} (s : State) (m : Nat) (e : Eng) (op : EngOp) (h : r₀.Keeps s) :
    r₀.Keeps (State.stewardEffect s m e op) := by
  unfold State.stewardEffect
  cases op
  all_goals try dsimp only
  all_goals
    repeat' (first
      | with_reducible (first
        | assumption | apply State.modMill_kept | apply State.modEng_kept | apply State.issued_kept
        | apply State.jump_kept | apply State.doAlu_kept | apply State.doMul_kept | apply State.doLdl_kept
        | apply State.doStl_kept | apply State.doEnd_kept | apply State.doDone_kept)
      | split)

theorem State.stewardIssue_kept {r₀ : State} (s : State) (m : Nat) (e : Eng) (op : EngOp) (h : r₀.Keeps s) :
    r₀.Keeps (State.stewardIssue s m e op) := by
  unfold State.stewardIssue
  repeat' (first
    | with_reducible (first
      | assumption | apply State.Keeps.foldl | apply State.engineFault_kept | apply State.shut_kept
      | apply State.takePorts_kept | apply State.waitTurn_kept | apply State.stewardEffect_kept)
    | intro _ | split
    | with_reducible (first
      | apply State.Keeps.snd (by assumption) | apply State.Keeps.with))

/-! ### Yoke.lean -/

theorem State.doLds_kept {r₀ : State} (s : State) (m : Nat) (a : LdsArgs) (h : r₀.Keeps s) :
    r₀.Keeps (State.doLds s m a) := by
  unfold State.doLds
  repeat' (first
    | with_reducible (first
      | assumption | apply State.modMill_kept | apply State.drain_kept | apply State.issued_kept))

theorem State.doMm_kept {r₀ : State} (s : State) (m : Nat) (col : Bool) (a : MmArgs) (h : r₀.Keeps s) :
    r₀.Keeps (State.doMm s m col a) := by
  unfold State.doMm
  repeat' (first
    | with_reducible (first
      | assumption | apply State.modMill_kept | apply State.drain_kept | apply State.issued_kept))

theorem State.mxIssue_kept {r₀ : State} (s : State) (m : Nat) (op : EngOp) (h : r₀.Keeps s) :
    r₀.Keeps (State.mxIssue s m op) := by
  unfold State.mxIssue
  try dsimp only
  repeat' (first
    | with_reducible (first
      | assumption | apply State.Keeps.foldl | apply State.Keeps.foldlPair | apply State.modMill_kept
      | apply State.engineFault_kept | apply State.shut_kept | apply State.issued_kept | apply State.waitTurn_kept
      | apply State.stewardEffect_kept | apply State.doLds_kept | apply State.doMm_kept)
    | intro _ | split
    | with_reducible (first
      | apply State.Keeps.snd3 (by assumption) | apply State.Keeps.snd (by assumption)
      | apply State.OPKeeps.get (by assumption) | apply State.Keeps.with))

theorem State.reshapeNow_kept {r₀ : State} (s : State) (m : Nat) (h : r₀.Keeps s) :
    r₀.Keeps (State.reshapeNow s m) := by
  unfold State.reshapeNow
  try dsimp only
  repeat' (first
    | with_reducible (first
      | assumption | apply State.setMill_kept)
    | split)

theorem State.failRow_kept {r₀ : State} (s : State) (m : Nat) (q row : Nat) (h : r₀.Keeps s) :
    r₀.Keeps (State.failRow s m q row) := by
  unfold State.failRow
  try dsimp only
  repeat' (first
    | with_reducible (first
      | assumption | apply State.OKeeps.some | exact State.OKeeps.none | exact State.OPKeeps.none
      | apply State.OPKeeps.some | exact State.DKeeps.none | apply State.DKeeps.some | apply State.EKeeps.ok
      | exact State.EKeeps.error | apply State.Keeps.foldl | apply State.Keeps.foldlPair3
      | apply State.Keeps.foldlPair | apply State.OKeeps.getD | apply State.OKeeps.map | apply State.setMill_kept
      | apply State.setArith_kept | apply State.tallyMill_kept | apply State.alert_kept)
    | intro _ | split
    | with_reducible (first
      | apply State.Keeps.snd3 (by assumption) | apply State.Keeps.snd (by assumption)
      | apply State.OKeeps.get (by assumption) | apply State.OPKeeps.get (by assumption)
      | apply State.EKeeps.get (by assumption) | apply State.DKeeps.get (by assumption) | apply State.Keeps.with
      | refine State.Keeps.withIdent (h := ?_) (a := rfl) (b := rfl) ..
      | refine State.Keeps.withSec (h := ?_) (a := rfl) (b := rfl) (c := rfl) ..)
    | exact fun _ => rfl | exact rfl | omega)

theorem State.foundRow_kept {r₀ : State} (s : State) (m q row : Nat) (h : r₀.Keeps s) :
    r₀.Keeps (State.foundRow s m q row) := by
  unfold State.foundRow
  try dsimp only
  repeat' (first
    | with_reducible (first
      | assumption | apply State.OKeeps.some | exact State.OKeeps.none | exact State.OPKeeps.none
      | apply State.OPKeeps.some | exact State.DKeeps.none | apply State.DKeeps.some | apply State.EKeeps.ok
      | exact State.EKeeps.error | apply State.Keeps.foldl | apply State.Keeps.foldlPair3
      | apply State.Keeps.foldlPair | apply State.OKeeps.getD | apply State.OKeeps.map | apply State.failRow_kept)
    | intro _ | split
    | with_reducible (first
      | apply State.Keeps.snd3 (by assumption) | apply State.Keeps.snd (by assumption)
      | apply State.OKeeps.get (by assumption) | apply State.OPKeeps.get (by assumption)
      | apply State.EKeeps.get (by assumption) | apply State.DKeeps.get (by assumption) | apply State.Keeps.with
      | refine State.Keeps.withIdent (h := ?_) (a := rfl) (b := rfl) ..
      | refine State.Keeps.withSec (h := ?_) (a := rfl) (b := rfl) (c := rfl) ..)
    | exact fun _ => rfl | exact rfl | omega)

/-! ### Sieve.lean -/

theorem State.acceptStop_kept {r₀ : State} (s : State) (m : Nat) (r : StopReq) (h : r₀.Keeps s) :
    r₀.Keeps (State.acceptStop s m r) := by
  unfold State.acceptStop
  repeat' (first
    | with_reducible (first
      | assumption | apply State.modMill_kept | apply State.modEng_kept | apply State.endRunning_kept)
    | split)

theorem State.bundleGo_kept {r₀ : State} (s : State) (m : Nat) (b : Bundle) (h : r₀.Keeps s) :
    r₀.Keeps (State.bundleGo s m b) := by
  unfold State.bundleGo
  repeat' (first
    | with_reducible (first
      | assumption | apply State.modMill_kept | apply State.modEng_kept | apply State.issued_kept
      | apply State.doEnd_kept)
    | split)

theorem State.bundleSoft_kept {r₀ : State} (s : State) (m : Nat) (accs : List SvAcc) (h : r₀.Keeps s) :
    r₀.Keeps (State.bundleSoft s m accs) := by
  unfold State.bundleSoft
  repeat' (first
    | with_reducible (first
      | assumption | apply State.Keeps.foldl | apply State.countSoft_kept)
    | intro _ | split)

theorem State.svIssue_kept {r₀ : State} (s : State) (m : Nat) (b : Bundle) (h : r₀.Keeps s) :
    r₀.Keeps (State.svIssue s m b) := by
  unfold State.svIssue
  repeat' (first
    | with_reducible (first
      | assumption | apply State.Keeps.foldl | apply State.engineFault_kept | apply State.shut_kept
      | apply State.takePorts_kept | apply State.waitTurn_kept | apply State.acceptStop_kept
      | apply State.bundleGo_kept | apply State.bundleSoft_kept)
    | intro _ | split
    | with_reducible (first
      | apply State.Keeps.snd (by assumption) | apply State.Keeps.with))

/-! ### Streams.lean -/

theorem State.modSsr_kept {r₀ : State} (s : State) (m k : Nat) (f : Ssr → Ssr) (h : r₀.Keeps s) :
    r₀.Keeps (State.modSsr s m k f) := by
  unfold State.modSsr
  repeat' (first
    | with_reducible (first
      | assumption | apply State.modMill_kept))

theorem State.putSlot_kept {r₀ : State} (s : State) (m k : Nat) (sl : Slot) (state flags addr : Nat) (h : r₀.Keeps s) :
    r₀.Keeps (State.putSlot s m k sl state flags addr) := by
  unfold State.putSlot
  repeat' (first
    | with_reducible (first
      | assumption | apply State.setSlot_kept | apply State.modSsr_kept))

theorem State.cartPacket_kept {r₀ : State} (s : State) (m q tag : Nat) (c : List Byte) (h : r₀.Keeps s) :
    r₀.Keeps (State.cartPacket s m q tag c) := by
  unfold State.cartPacket
  have hr := State.resolve_kept s (.queue (queueDie q)) (s.queue q).base 16 true h
  dsimp only
  split
  · exact hr
  · exact State.inject_kept _ _ _ _ _ hr

theorem State.putCart_kept {r₀ : State} (s : State) (m q : Nat) (c : List Byte) (e : Option Eng) (k : Option Nat) (h : r₀.Keeps s) :
    r₀.Keeps (State.putCart s m q c e k) := by
  unfold State.putCart
  dsimp only
  apply State.Keeps.with
  split
  · exact h
  · exact State.cartPacket_kept _ _ _ _ _ h

theorem State.putOrDrop_kept {r₀ : State} (s : State) (m q : Nat) (c : List Byte) (h : r₀.Keeps s) :
    r₀.Keeps (State.putOrDrop s m q c) := by
  unfold State.putOrDrop
  repeat' (first
    | with_reducible (first
      | assumption | apply State.reportRing_kept | apply State.putCart_kept)
    | split)

theorem State.postTransfer_kept {r₀ : State} (s : State) (m k : Nat) (d : DescBytes) (st : Status) (bytes : Nat) (h : r₀.Keeps
    s) :
    r₀.Keeps (State.postTransfer s m k d st bytes) := by
  unfold State.postTransfer
  repeat' (first
    | with_reducible (first
      | assumption | apply State.completeIf_kept))

theorem State.unmarkTransfer_kept {r₀ : State} (s : State) (m : Nat) (sl : Slot) (h : r₀.Keeps s) :
    r₀.Keeps (State.unmarkTransfer s m sl) := by
  unfold State.unmarkTransfer
  repeat' (first
    | with_reducible (first
      | assumption | apply State.modMill_kept)
    | split)

theorem State.dropCarts_kept {r₀ : State} (s : State) (m : Nat) (sl : Slot) (d : DescBytes) (st : Status) (h : r₀.Keeps s) :
    r₀.Keeps (State.dropCarts s m sl d st) := by
  unfold State.dropCarts
  repeat' (first
    | with_reducible (first
      | assumption | apply State.putOrDrop_kept)
    | split)

theorem State.readBurst_kept {r₀ : State} (s : State) (m list i : Nat) (h : r₀.Keeps s) :
    r₀.Keeps (State.readBurst s m list i).2 := by
  unfold State.readBurst
  repeat' (first
    | with_reducible (first
      | assumption | apply State.streamRead_kept)
    | split
    | with_reducible (first
      | apply State.Keeps.snd (by assumption) | fail))

theorem State.refuseRearm_kept {r₀ : State} (s : State) (m k : Nat) (d : Option DescBytes) (h : r₀.Keeps s) :
    r₀.Keeps (State.refuseRearm s m k d) := by
  unfold State.refuseRearm
  repeat' (first
    | with_reducible (first
      | assumption | apply State.tallyMill_kept | apply State.postTransfer_kept)
    | split)

theorem State.decideRearm_kept {r₀ : State} (s : State) (m k : Nat) (sl : Slot) (ds : List DescBytes) (h : r₀.Keeps s) :
    r₀.Keeps (State.decideRearm s m k sl ds).2 := by
  unfold State.decideRearm
  repeat' (first
    | with_reducible (first
      | assumption | apply State.refuseRearm_kept)
    | split)

theorem State.decideRearms_kept {r₀ : State} (s : State) (m k : Nat) (sl : Slot) (h : r₀.Keeps s) :
    r₀.Keeps (State.decideRearms s m k sl).2.2 := by
  unfold State.decideRearms
  try dsimp only
  repeat' (first
    | with_reducible (first
      | assumption | apply State.Keeps.foldl | apply State.Keeps.foldlPair | apply State.readBurst_kept
      | apply State.refuseRearm_kept | apply State.decideRearm_kept)
    | intro _ | split
    | with_reducible (first
      | apply State.Keeps.snd3 (by assumption) | apply State.Keeps.snd (by assumption)
      | apply State.OPKeeps.get (by assumption) | apply State.Keeps.with))

theorem State.dropReads_kept {r₀ : State} (s : State) (m k : Nat) (all : Bool) (h : r₀.Keeps s) :
    r₀.Keeps (State.dropReads s m k all) := by
  unfold State.dropReads
  repeat' (first
    | with_reducible (first
      | assumption)
    | with_reducible (first
      | apply State.Keeps.with))

theorem State.startShadow_kept {r₀ : State} (s : State) (m k : Nat) (sl : Slot) (h : r₀.Keeps s) :
    r₀.Keeps (State.startShadow s m k sl) := by
  unfold State.startShadow
  repeat' (first
    | with_reducible (first
      | assumption | apply State.setSlot_kept | apply State.putSlot_kept)
    | split)

theorem State.freeSlot_kept {r₀ : State} (s : State) (m k : Nat) (sl : Slot) (h : r₀.Keeps s) :
    r₀.Keeps (State.freeSlot s m k sl) := by
  unfold State.freeSlot
  try dsimp only
  repeat' (first
    | with_reducible (first
      | assumption | apply State.Keeps.foldl | apply State.Keeps.foldlPair | apply State.setSlot_kept
      | apply State.decideRearms_kept | apply State.dropReads_kept | apply State.startShadow_kept)
    | intro _ | split
    | with_reducible (first
      | apply State.Keeps.snd3 (by assumption) | apply State.Keeps.snd (by assumption)
      | apply State.OPKeeps.get (by assumption) | apply State.Keeps.with))

theorem State.cancelRest_kept {r₀ : State} (s : State) (m k : Nat) (ds : List DescBytes) (h : r₀.Keeps s) :
    r₀.Keeps (State.cancelRest s m k ds) := by
  unfold State.cancelRest
  repeat' (first
    | with_reducible (first
      | assumption | apply State.Keeps.foldl | apply State.postTransfer_kept)
    | intro _)

theorem State.failTransfer_kept {r₀ : State} (s : State) (m k : Nat) (sl : Slot) (st : Status) (flags addr : Nat) (stop : Bool)
    (h : r₀.Keeps s) :
    r₀.Keeps (State.failTransfer s m k sl st flags addr stop) := by
  unfold State.failTransfer
  repeat' (first
    | with_reducible (first
      | assumption | apply State.report_kept | apply State.engineFault_kept | apply State.putSlot_kept
      | apply State.postTransfer_kept | apply State.unmarkTransfer_kept | apply State.dropCarts_kept
      | apply State.freeSlot_kept | apply State.cancelRest_kept)
    | split)

theorem State.finishTransfer_kept {r₀ : State} (s : State) (m k : Nat) (sl : Slot) (h : r₀.Keeps s) :
    r₀.Keeps (State.finishTransfer s m k sl) := by
  unfold State.finishTransfer
  repeat' (first
    | with_reducible (first
      | assumption | apply State.modMill_kept | apply State.modSsr_kept | apply State.putSlot_kept
      | apply State.postTransfer_kept | apply State.unmarkTransfer_kept | apply State.freeSlot_kept)
    | split)

theorem State.epochDrop_kept {r₀ : State} (s : State) (a : Nat) (st : Status) (h : r₀.Keeps s) :
    r₀.Keeps (State.epochDrop s a st) := by
  unfold State.epochDrop
  try dsimp only
  repeat' (first
    | with_reducible (first
      | assumption | apply State.tally__kept | apply State.raiseHalt_kept | apply State.raiseMill_kept)
    | split)

theorem State.streamPackets_kept {r₀ : State} (s : State) (m k a n : Nat) (acc : Acc) (b : Option (List Byte)) (h : r₀.Keeps s) :
    r₀.Keeps (State.streamPackets s m k a n acc b) := by
  unfold State.streamPackets
  repeat' (first
    | with_reducible (first
      | assumption | apply State.inject_kept)
    | split)

theorem State.packetWrite_kept {r₀ : State} (s : State) (m k a : Nat) (b : List Byte) (h : r₀.Keeps s) :
    r₀.Keeps (State.packetWrite s m k a b).2 := by
  unfold State.packetWrite
  try dsimp only
  repeat' (first
    | with_reducible (first
      | assumption | apply State.Keeps.foldl | apply State.Keeps.foldlPair | apply State.modMill_kept
      | apply State.resolve_kept | apply State.badRead_kept | apply State.accWrite_kept | apply State.takePorts_kept
      | apply State.epochDrop_kept | apply State.streamPackets_kept)
    | intro _ | split
    | with_reducible (first
      | apply State.Keeps.snd3 (by assumption) | apply State.Keeps.snd (by assumption)
      | apply State.OPKeeps.get (by assumption) | apply State.Keeps.with))

theorem State.srcRead_kept {r₀ : State} (s : State) (m k a n flags : Nat) (h : r₀.Keeps s) :
    r₀.Keeps (State.srcRead s m k a n flags).2 := by
  unfold State.srcRead
  repeat' (first
    | with_reducible (first
      | assumption | apply State.Keeps.foldl | apply State.askHost_kept | apply State.resolve_kept
      | apply State.accRead_kept | apply State.takePorts_kept | apply State.streamPackets_kept)
    | intro _ | split
    | with_reducible (first
      | apply State.Keeps.snd (by assumption) | apply State.Keeps.with))

theorem State.slotHazard_kept {r₀ : State} (s : State) (m k : Nat) (sl : Slot) (h : Hazard) (hK : r₀.Keeps s) :
    r₀.Keeps (State.slotHazard s m k sl h).2.2 := by
  unfold State.slotHazard
  try dsimp only
  repeat' (first
    | with_reducible (first
      | assumption | apply State.Keeps.foldl | apply State.Keeps.foldlPair | apply State.tallyMill_kept
      | apply State.recordSched_kept)
    | intro _ | split
    | with_reducible (first
      | apply State.Keeps.snd3 (by assumption) | apply State.Keeps.snd (by assumption)
      | apply State.OPKeeps.get (by assumption) | apply State.Keeps.with))

theorem State.markIn_kept {r₀ : State} (s : State) (m k : Nat) (sl : Slot) (h : HeldCart) (hK : r₀.Keeps s) :
    r₀.Keeps (State.markIn s m k sl h).2.2 := by
  unfold State.markIn
  try dsimp only
  repeat' (first
    | with_reducible (first
      | assumption | apply State.Keeps.foldl | apply State.Keeps.foldlPair | apply State.modMill_kept
      | apply State.slotHazard_kept)
    | intro _ | split
    | with_reducible (first
      | apply State.Keeps.snd3 (by assumption) | apply State.Keeps.snd (by assumption)
      | apply State.OPKeeps.get (by assumption) | apply State.Keeps.with))

theorem State.markOut_kept {r₀ : State} (s : State) (m k : Nat) (sl : Slot) (h : HeldCart) (hK : r₀.Keeps s) :
    r₀.Keeps (State.markOut s m k sl h).2.2 := by
  unfold State.markOut
  try dsimp only
  repeat' (first
    | with_reducible (first
      | assumption | apply State.Keeps.foldl | apply State.Keeps.foldlPair | apply State.modMill_kept
      | apply State.slotHazard_kept)
    | intro _ | split
    | with_reducible (first
      | apply State.Keeps.snd3 (by assumption) | apply State.Keeps.snd (by assumption)
      | apply State.OPKeeps.get (by assumption) | apply State.Keeps.with))

theorem State.popRow_kept {r₀ : State} (s : State) (m k : Nat) (h : r₀.Keeps s) :
    r₀.Keeps (State.popRow s m k).2 := by
  unfold State.popRow
  try dsimp only
  repeat' (first
    | with_reducible (first
      | assumption | apply State.Keeps.foldl | apply State.Keeps.foldlPair | apply State.modMill_kept)
    | intro _ | split
    | with_reducible (first
      | apply State.Keeps.snd3 (by assumption) | apply State.Keeps.snd (by assumption)
      | apply State.OPKeeps.get (by assumption) | apply State.Keeps.with))

theorem State.rowStart_kept {r₀ : State} (s : State) (m k : Nat) (sl : Slot) (d : DescBytes) (a : Nat) (h : r₀.Keeps s) :
    r₀.Keeps (State.rowStart s m k sl d a).2.2 := by
  unfold State.rowStart
  dsimp only
  split
  · exact State.slotHazard_kept _ _ _ _ _ h
  · exact State.modMill_kept s m (fun x => x.markReading (spanRes m a (descRow d))) h

theorem State.rowWord_kept {r₀ : State} (s : State) (m k : Nat) (sl : Slot) (h : r₀.Keeps s) :
    r₀.Keeps (State.rowWord s m k sl).2.2 := by
  unfold State.rowWord
  split
  · exact h
  · have hp := State.popRow_kept s m k h
    generalize s.popRow m k = p at hp ⊢
    obtain ⟨_ | _, s1⟩ := p <;> exact hp

theorem State.srcPiece_kept {r₀ : State} (s : State) (m k : Nat) (sl : Slot) (d : DescBytes) (h : r₀.Keeps s) :
    r₀.Keeps (State.srcPiece s m k sl d).2.2 := by
  unfold State.srcPiece
  split
  · split
    · exact State.markIn_kept _ _ _ _ _ h
    · split
      · exact h
      · exact State.reportRing_kept _ _ h
      · exact State.reportRing_kept _ _ h
      · have hc := State.takeCart_kept s (descRing d) h
        generalize s.takeCart (descRing d) = p at hc ⊢
        obtain ⟨_ | c, s1⟩ := p
        · exact hc
        · dsimp only
          split
          · exact State.markIn_kept _ _ _ _ _ hc
          · exact State.reportRing_kept _ _ (State.tallyMill_kept _ _ _ _ hc)
  · split
    · split
      · exact h
      · split
        · have hw := State.rowWord_kept s m k sl h
          generalize s.rowWord m k sl = p at hw ⊢
          obtain ⟨_ | w, sl1, s1⟩ := p
          · exact hw
          · dsimp only
            split
            · exact State.rowStart_kept _ _ _ _ _ _ hw
            · exact hw
        · split
          · exact h
          · rename_i ia _
            have hw := State.srcRead_kept s m k ia 4 5 h
            generalize s.srcRead m k ia 4 5 = p at hw ⊢
            obtain ⟨_ | w, s1⟩ := p
            · exact hw
            · dsimp only
              split
              · exact State.rowStart_kept _ _ _ _ _ _ hw
              · exact hw
    · split <;> exact h

theorem State.dstPiece_kept {r₀ : State} (s : State) (m k : Nat) (sl : Slot) (d : DescBytes) (h : r₀.Keeps s) :
    r₀.Keeps (State.dstPiece s m k sl d).2.2 := by
  unfold State.dstPiece
  try dsimp only
  repeat' (first
    | with_reducible (first
      | assumption | apply State.Keeps.foldl | apply State.Keeps.foldlPair | apply State.tallyMill_kept
      | apply State.reportRing_kept | apply State.takeCart_kept | apply State.markOut_kept)
    | intro _ | split
    | with_reducible (first
      | apply State.Keeps.snd3 (by assumption) | apply State.Keeps.snd (by assumption)
      | apply State.OPKeeps.get (by assumption) | apply State.Keeps.with))

theorem State.putFull_kept {r₀ : State} (s : State) (m k : Nat) (sl : Slot) (d : DescBytes) (last : Bool) (h : r₀.Keeps s) :
    r₀.Keeps (State.putFull s m k sl d last).2 := by
  unfold State.putFull
  repeat' (first
    | with_reducible (first
      | assumption | apply State.modMill_kept | apply State.putCart_kept)
    | split)

theorem State.advanceSrc_kept {r₀ : State} (s : State) (m : Nat) (sl : Slot) (d : DescBytes) (n : Nat) (h : r₀.Keeps s) :
    r₀.Keeps (State.advanceSrc s m sl d n).2.2 := by
  unfold State.advanceSrc
  try dsimp only
  repeat' (first
    | with_reducible (first
      | assumption | apply State.modMill_kept | apply State.putOrDrop_kept)
    | split)

theorem State.plainPiece_kept {r₀ : State} (s : State) (m k : Nat) (sl : Slot) (d : DescBytes) (h : r₀.Keeps s) :
    r₀.Keeps (State.plainPiece s m k sl d).2.2 := by
  unfold State.plainPiece
  have h1 := State.srcPiece_kept s m k sl d h
  generalize s.srcPiece m k sl d = p1 at h1 ⊢
  obtain ⟨_ | ⟨a, na⟩, sl1, s1⟩ := p1
  · exact h1
  have h2 := State.dstPiece_kept s1 m k sl1 d h1
  dsimp only
  generalize s1.dstPiece m k sl1 d = p2 at h2 ⊢
  obtain ⟨_ | ⟨b, nb⟩, sl2, s2⟩ := p2
  · exact h2
  dsimp only
  generalize min (min na nb) (min (ioRoom a) (ioRoom b)) = n
  split
  · exact h2
  have h3 := State.srcRead_kept s2 m k a n 1 h2
  split
  · exact h2
  · next heq => rw [heq] at h3; exact h3
  next heq =>
  rw [heq] at h3
  have h4 : ∀ (s3 : State) (by_ : List Byte), r₀.Keeps s3 →
      r₀.Keeps (if n = 0 then (some Status.ok, s3) else s3.packetWrite m k b by_).2 := by
    intro s3 by_ h3
    split
    · exact h3
    · exact State.packetWrite_kept (h := h3) ..
  have h5 := h4 _ ‹List Byte› h3
  split
  · next e => rw [e] at h5; exact h5
  · next e =>
    rw [e] at h5
    dsimp only
    have h7 := State.tallyMill_kept _ (if slotCarter k = .ca then .caBytes else .cbBytes) m n h5
    have h8 := fun sl => State.advanceSrc_kept _ m sl d n h7
    split
    · exact State.putFull_kept (h := h8 _) ..
    · exact h8 _
  · next e => rw [e] at h5; exact h5
  · next e => rw [e] at h5; exact h5

theorem State.srcSpan_kept {r₀ : State} : ∀ (x0 : Nat), ∀ (s : State) (m k a n : Nat), r₀.Keeps s →
    r₀.Keeps (State.srcSpan s m k a n x0).2 := by
  intro x0
  induction x0 with
  | zero =>
    intros
    unfold State.srcSpan
    try dsimp only
    repeat' (first
      | with_reducible (first
        | assumption | apply State.srcRead_kept)
      | split
      | with_reducible (first
        | apply State.Keeps.snd (by assumption) | fail))
  | succ n ih =>
    intros
    unfold State.srcSpan
    try dsimp only
    repeat' (first
      | with_reducible (first
        | assumption | apply ih | apply State.srcRead_kept)
      | split
      | with_reducible (first
        | apply State.Keeps.snd (by assumption) | fail))

theorem State.popRows_kept {r₀ : State} : ∀ (x0 : Nat), ∀ (s : State) (m k : Nat) (sl : Slot), r₀.Keeps s →
    r₀.Keeps (State.popRows s m k sl x0).2.2 := by
  intro x0
  induction x0 with
  | zero =>
    intros
    unfold State.popRows
    repeat' (first
      | with_reducible (first
        | assumption | apply State.Keeps.foldl | apply State.popRow_kept)
      | intro _ | split
      | with_reducible (first
        | apply State.Keeps.snd (by assumption) | apply State.Keeps.with))
  | succ n ih =>
    intros
    unfold State.popRows
    repeat' (first
      | with_reducible (first
        | assumption | apply ih | apply State.Keeps.foldl | apply State.popRow_kept)
      | intro _ | split
      | with_reducible (first
        | apply State.Keeps.snd (by assumption) | apply State.Keeps.with))

theorem State.readBlock_kept {r₀ : State} : ∀ (x0 : Nat), ∀ (s : State) (m k : Nat) (d : DescBytes) (row : Nat → Option Nat), r₀.Keeps s →
    r₀.Keeps (State.readBlock s m k d row x0).2 := by
  intro x0
  induction x0 with
  | zero =>
    intros
    unfold State.readBlock
    repeat' (first
      | with_reducible (first
        | assumption | apply State.Keeps.foldl | apply State.srcSpan_kept)
      | intro _ | split
      | with_reducible (first
        | apply State.Keeps.snd (by assumption) | apply State.Keeps.with))
  | succ n ih =>
    intros
    unfold State.readBlock
    repeat' (first
      | with_reducible (first
        | assumption | apply ih | apply State.Keeps.foldl | apply State.srcSpan_kept)
      | intro _ | split
      | with_reducible (first
        | apply State.Keeps.snd (by assumption) | apply State.Keeps.with))

theorem State.writeBlock_kept {r₀ : State} : ∀ (x0 : Nat), ∀ (s : State) (m k : Nat) (sl : Slot) (d : DescBytes) (blk : Nat) (fin : Bool) (x1 : Nat) (x2 : List Byte), r₀.Keeps s →
    r₀.Keeps (State.writeBlock s m k sl d blk fin x0 x1 x2).2.2 := by
  intro x0
  induction x0 with
  | zero =>
    intros
    unfold State.writeBlock
    try dsimp only
    repeat' (first
      | with_reducible (first
        | assumption | apply State.Keeps.foldl | apply State.Keeps.foldlPair | apply State.packetWrite_kept
        | apply State.dstPiece_kept | apply State.putFull_kept)
      | intro _ | split
      | with_reducible (first
        | apply State.Keeps.snd3 (by assumption) | apply State.Keeps.snd (by assumption)
        | apply State.OPKeeps.get (by assumption) | apply State.Keeps.with))
  | succ n ih =>
    intros
    unfold State.writeBlock
    try dsimp only
    repeat' (first
      | with_reducible (first
        | assumption | apply ih | apply State.Keeps.foldl | apply State.Keeps.foldlPair | apply State.packetWrite_kept
        | apply State.dstPiece_kept | apply State.putFull_kept)
      | intro _ | split
      | with_reducible (first
        | apply State.Keeps.snd3 (by assumption) | apply State.Keeps.snd (by assumption)
        | apply State.OPKeeps.get (by assumption) | apply State.Keeps.with))

theorem State.blockBytes_kept {r₀ : State} (s : State) (m k : Nat) (sl : Slot) (d : DescBytes) (p : Pos) (h : r₀.Keeps s) :
    r₀.Keeps (State.blockBytes s m k sl d p).2 := by
  unfold State.blockBytes
  split
  · exact h
  · have hr := State.readBlock_kept (descN1 d) s m k d (blockRow sl d p) h
    generalize s.readBlock m k d (blockRow sl d p) (descN1 d) = q at hr ⊢
    obtain ⟨_ | _, s1⟩ := q <;> exact hr

theorem State.blockWords_kept {r₀ : State} (s : State) (m k : Nat) (sl : Slot) (d : DescBytes) (h : r₀.Keeps s) :
    r₀.Keeps (State.blockWords s m k sl d).2.2 := by
  unfold State.blockWords
  split
  · exact State.popRows_kept _ _ _ _ _ h
  · exact h

theorem State.blockPiece_kept {r₀ : State} (s : State) (m k : Nat) (sl : Slot) (d : DescBytes) (h : r₀.Keeps s) :
    r₀.Keeps (State.blockPiece s m k sl d).2.2 := by
  unfold State.blockPiece
  dsimp only
  have hw := State.blockWords_kept s m k { sl with pos := { sl.pos with c1 := 0, off := 0 } } d h
  generalize s.blockWords m k { sl with pos := { sl.pos with c1 := 0, off := 0 } } d = q at hw ⊢
  obtain ⟨_ | _, sl1, s1⟩ := q
  · dsimp only
    split
    · exact State.slotHazard_kept _ _ _ _ _ hw
    · have hb := State.blockBytes_kept s1 m k sl1 d { sl.pos with c1 := 0, off := 0 } hw
      generalize s1.blockBytes m k sl1 d { sl.pos with c1 := 0, off := 0 } = q at hb ⊢
      obtain ⟨_ | ⟨o, b⟩, s2⟩ := q
      · exact hb
      · dsimp only
        generalize hq : s2.writeBlock _ _ _ _ _ _ _ _ _ = q
        have hx : r₀.Keeps q.2.2 := by rw [← hq]; exact State.writeBlock_kept _ _ _ _ _ _ _ _ _ _ hb
        obtain ⟨r, sl3, s3⟩ := q
        cases r <;> dsimp only <;> first
          | exact hx
          | (split <;> exact State.tallyMill_kept _ _ _ _ hx)
  · exact hw

theorem State.piece_kept {r₀ : State} (s : State) (m k : Nat) (sl : Slot) (d : DescBytes) (h : r₀.Keeps s) :
    r₀.Keeps (State.piece s m k sl d).2.2 := by
  unfold State.piece
  try dsimp only
  repeat' (first
    | with_reducible (first
      | assumption | apply State.Keeps.foldl | apply State.Keeps.foldlPair | apply State.modMill_kept
      | apply State.advanceTo_kept | apply State.dropReads_kept | apply State.plainPiece_kept
      | apply State.blockPiece_kept)
    | intro _ | split
    | with_reducible (first
      | apply State.Keeps.snd3 (by assumption) | apply State.Keeps.snd (by assumption)
      | apply State.OPKeeps.get (by assumption) | apply State.Keeps.with))

theorem State.pieces_kept {r₀ : State} : ∀ (x0 : Nat), ∀ (s : State) (m k : Nat) (sl : Slot) (d : DescBytes), r₀.Keeps s →
    r₀.Keeps (State.pieces s m k sl d x0).2.2 := by
  intro x0
  induction x0 with
  | zero =>
    intros
    unfold State.pieces
    repeat' (first
      | with_reducible (first
        | assumption | apply State.piece_kept)
      | split
      | with_reducible (first
        | apply State.Keeps.snd3 (by assumption) | fail))
  | succ n ih =>
    intros
    unfold State.pieces
    repeat' (first
      | with_reducible (first
        | assumption | apply ih | apply State.piece_kept)
      | split
      | with_reducible (first
        | apply State.Keeps.snd3 (by assumption) | fail))

theorem State.haltSlot_kept {r₀ : State} (s : State) (m k : Nat) (sl : Slot) (addr flags : Nat) (h : r₀.Keeps s) :
    r₀.Keeps (State.haltSlot s m k sl addr flags) := by
  unfold State.haltSlot
  repeat' (first
    | with_reducible (first
      | assumption | apply State.reportPage_kept | apply State.raiseMill_kept | apply State.putSlot_kept
      | apply State.postTransfer_kept)
    | split)

theorem State.settle_kept {r₀ : State} (s : State) (m k : Nat) (sl : Slot) (x0 : Piece) (h : r₀.Keeps s) :
    r₀.Keeps (State.settle s m k sl x0) := by
  unfold State.settle
  repeat' (first
    | with_reducible (first
      | assumption | apply State.engineFault_kept | apply State.putSlot_kept | apply State.failTransfer_kept
      | apply State.haltSlot_kept)
    | split)

theorem State.finishMove_kept {r₀ : State} (s : State) (m k : Nat) (sl : Slot) (h : r₀.Keeps s) :
    r₀.Keeps (State.finishMove s m k sl) := by
  unfold State.finishMove
  repeat' (first
    | with_reducible (first
      | assumption | apply State.Keeps.foldl | apply State.advanceTo_kept)
    | intro _ | split
    | with_reducible (first
      | apply State.Keeps.snd (by assumption) | apply State.Keeps.with))

theorem State.stopSlot_kept {r₀ : State} (s : State) (m k : Nat) (h : r₀.Keeps s) :
    r₀.Keeps (State.stopSlot s m k) := by
  unfold State.stopSlot
  split
  · exact h
  · split
    · exact State.clearMove_kept _ _ _ _ _ h
    · exact State.cancelRest_kept _ _ _ _ (State.failTransfer_kept _ _ _ _ _ _ _ _ h)

theorem State.slotBad_kept {r₀ : State} (s : State) (m k : Nat) (sl : Slot) (h : r₀.Keeps s) :
    r₀.Keeps (State.slotBad s m k sl) := by
  unfold State.slotBad
  repeat' (first
    | with_reducible (first
      | assumption | apply State.modMill_kept | apply State.engineFault_kept | apply State.clearMove_kept
      | apply State.failTransfer_kept)
    | split)

theorem State.rearm_kept {r₀ : State} (s : State) (m k list : Nat) (inc : Option (Nat × Nat)) (h : r₀.Keeps s) :
    r₀.Keeps (State.rearm s m k list inc) := by
  unfold State.rearm
  repeat' (first
    | with_reducible (first
      | assumption | apply State.setSlot_kept | apply State.readBurst_kept | apply State.refuseRearm_kept)
    | split
    | with_reducible (first
      | apply State.Keeps.snd (by assumption) | fail))

theorem State.startStream_kept {r₀ : State} (s : State) (m k list : Nat) (inc : Option (Nat × Nat)) (h : r₀.Keeps s) :
    r₀.Keeps (State.startStream s m k list inc) := by
  unfold State.startStream
  repeat' (first
    | with_reducible (first
      | assumption | apply State.modMill_kept | apply State.modSsr_kept | apply State.putSlot_kept))

theorem State.doStrm_kept {r₀ : State} (s : State) (m : Nat) (e : Eng) (op : EngOp) (list : Nat) (inc : Option Inc) (h :
    r₀.Keeps s) :
    r₀.Keeps (State.doStrm s m e op list inc) := by
  unfold State.doStrm
  try dsimp only
  repeat' (first
    | with_reducible (first
      | assumption | apply State.engineFault_kept | apply State.shut_kept | apply State.issued_kept
      | apply State.freeSlot_kept | apply State.rearm_kept | apply State.startStream_kept)
    | split)

theorem State.movStart_kept {r₀ : State} (s : State) (m : Nat) (e : Eng) (op : EngOp) (a : MovArgs) (y : Fifo) (booked : Bool) (h : r₀.Keeps s) :
    r₀.Keeps (State.movStart s m e op a y booked) := by
  unfold State.movStart
  repeat' (first
    | with_reducible (first
      | assumption | apply State.Keeps.foldl | apply State.modMill_kept | apply State.engineFault_kept
      | apply State.setSlot_kept | apply State.shut_kept | apply State.issued_kept | apply State.freeSlot_kept)
    | intro _ | split
    | with_reducible (first
      | apply State.Keeps.snd (by assumption) | apply State.Keeps.with))

theorem State.doMov_kept {r₀ : State} (s : State) (m : Nat) (e : Eng) (op : EngOp) (a : MovArgs) (booked : Bool) (h : r₀.Keeps s) :
    r₀.Keeps (State.doMov s m e op a booked) := by
  unfold State.doMov
  repeat' (first
    | with_reducible (first
      | assumption | apply State.Keeps.foldl | apply State.engineFault_kept | apply State.shut_kept
      | apply State.movStart_kept)
    | intro _ | split
    | with_reducible (first
      | apply State.Keeps.snd (by assumption) | apply State.Keeps.with))

theorem State.doCtake_kept {r₀ : State} (s : State) (m : Nat) (e : Eng) (op : EngOp) (q : Nat) (rd : BitVec 5) (h : r₀.Keeps s)
    :
    r₀.Keeps (State.doCtake s m e op q rd) := by
  unfold State.doCtake
  repeat' (first
    | with_reducible (first
      | assumption | apply State.modMill_kept | apply State.modEng_kept | apply State.takeCart_kept
      | apply State.engineFault_kept | apply State.reportRing_kept | apply State.shut_kept | apply State.issued_kept)
    | split
    | with_reducible (first
      | apply State.Keeps.snd (by assumption) | fail))

theorem State.doCput_kept {r₀ : State} (s : State) (m : Nat) (e : Eng) (op : EngOp) (q : Nat) (rs : BitVec 5) (h : r₀.Keeps s) :
    r₀.Keeps (State.doCput s m e op q rs) := by
  unfold State.doCput
  repeat' (first
    | with_reducible (first
      | assumption | apply State.engineFault_kept | apply State.reportRing_kept | apply State.shut_kept | apply State.issued_kept
      | apply State.putCart_kept)
    | split)

theorem State.carterIssue_kept {r₀ : State} (s : State) (m : Nat) (e : Eng) (op : EngOp) (h : r₀.Keeps s) :
    r₀.Keeps (State.carterIssue s m e op) := by
  unfold State.carterIssue
  repeat' (first
    | with_reducible (first
      | assumption | apply State.stewardIssue_kept | apply State.doStrm_kept | apply State.doMov_kept
      | apply State.doCtake_kept | apply State.doCput_kept)
    | split)

/-! ### Issue.lean -/

theorem State.issueGo_kept {r₀ : State} (s : State) (m : Nat) (e : Eng) (op : EngOp) (h : r₀.Keeps s) :
    r₀.Keeps (State.issueGo s m e op) := by
  unfold State.issueGo
  repeat' (first
    | with_reducible (first
      | assumption | apply State.engineFault_kept | apply State.mxIssue_kept | apply State.svIssue_kept
      | apply State.carterIssue_kept)
    | split)

theorem State.issueOp_kept {r₀ : State} (s : State) (m : Nat) (e : Eng) (op : EngOp) (h : r₀.Keeps s) :
    r₀.Keeps (State.issueOp s m e op) := by
  unfold State.issueOp
  repeat' (first
    | with_reducible (first
      | assumption | apply State.engineFault_kept | apply State.ready_kept | apply State.issueGo_kept)
    | split
    | with_reducible (first
      | apply State.Keeps.snd (by assumption) | fail))

theorem State.tryHeld_kept {r₀ : State} : ∀ (x0 : Nat), ∀ (s : State) (m : Nat) (e : Eng) (op : EngOp), r₀.Keeps s →
    r₀.Keeps (State.tryHeld s m e op x0) := by
  intro x0
  induction x0 with
  | zero =>
    intros
    unfold State.tryHeld
    repeat' (first
      | with_reducible (first
        | assumption | apply State.Keeps.foldl | apply State.modEng_kept | apply State.engineFault_kept
        | apply State.advanceTo_kept | apply State.acceptStop_kept | apply State.issueGo_kept)
      | intro _ | split
      | with_reducible (first
        | apply State.Keeps.snd (by assumption) | apply State.Keeps.with))
  | succ n ih =>
    intros
    unfold State.tryHeld
    repeat' (first
      | with_reducible (first
        | assumption | apply ih | apply State.Keeps.foldl | apply State.modEng_kept | apply State.engineFault_kept
        | apply State.advanceTo_kept | apply State.acceptStop_kept | apply State.issueGo_kept)
      | intro _ | split
      | with_reducible (first
        | apply State.Keeps.snd (by assumption) | apply State.Keeps.with))

theorem State.countHold_kept {r₀ : State} (s : State) (m : Nat) (op : EngOp) (since : Nat) (sync : Bool) (h : r₀.Keeps s) :
    r₀.Keeps (State.countHold s m op since sync) := by
  unfold State.countHold
  repeat' (first
    | with_reducible (first
      | assumption | apply State.tallyMill_kept)
    | split)

theorem State.retry_kept {r₀ : State} (s : State) (m : Nat) (e : Eng) (ok : EngOp → Bool) (h : r₀.Keeps s) :
    r₀.Keeps (State.retry s m e ok) := by
  unfold State.retry
  try dsimp only
  repeat' (first
    | with_reducible (first
      | assumption | apply State.modEng_kept | apply State.acceptStop_kept | apply State.tryHeld_kept
      | apply State.countHold_kept)
    | split)

theorem State.invocationStart_kept {r₀ : State} (s : State) (m : Nat) (e : Eng) (h : r₀.Keeps s) :
    r₀.Keeps (State.invocationStart s m e) := by
  unfold State.invocationStart
  repeat' (first
    | with_reducible (first
      | assumption | apply State.Keeps.foldl | apply State.modMill_kept | apply State.modEng_kept
      | apply State.engineFault_kept | apply State.advanceTo_kept | apply State.postWaiting_kept)
    | intro _ | split
    | with_reducible (first
      | apply State.Keeps.snd (by assumption) | apply State.Keeps.with))

/-! ### StewardOps.lean -/

theorem execStAlu_kept {r₀ : State} (m : MillIx) (op : AluOp) (s : State) (h : r₀.Keeps s) :
    r₀.RKeeps (execStAlu m op s) := by
  unfold execStAlu
  repeat' (first
    | with_reducible (first
      | assumption | apply State.RKeeps.next | apply State.issueOp_kept))

theorem execStMul_kept {r₀ : State} (m : MillIx) (sgn : Bool) (rd : BitVec 5) (a b : Src) (s : State) (h : r₀.Keeps s) :
    r₀.RKeeps (execStMul m sgn rd a b s) := by
  unfold execStMul
  repeat' (first
    | with_reducible (first
      | assumption | apply State.RKeeps.next | apply State.issueOp_kept))

theorem execStBranch_kept {r₀ : State} (m : MillIx) (t : Option (Cond × Src × Src)) (target : Word) (s : State) (h : r₀.Keeps
    s) :
    r₀.RKeeps (execStBranch m t target s) := by
  unfold execStBranch
  repeat' (first
    | with_reducible (first
      | assumption | apply State.RKeeps.next | apply State.issueOp_kept))

theorem execStCall_kept {r₀ : State} (m : MillIx) (target : Word) (s : State) (h : r₀.Keeps s) :
    r₀.RKeeps (execStCall m target s) := by
  unfold execStCall
  repeat' (first
    | with_reducible (first
      | assumption | apply State.RKeeps.next | apply State.issueOp_kept))

theorem execStRet_kept {r₀ : State} (m : MillIx) (s : State) (h : r₀.Keeps s) :
    r₀.RKeeps (execStRet m s) := by
  unfold execStRet
  repeat' (first
    | with_reducible (first
      | assumption | apply State.RKeeps.next | apply State.issueOp_kept))

theorem execLdl_kept {r₀ : State} (m : MillIx) (rd : BitVec 5) (base : Src) (off : Word) (wide : Bool) (s : State) (h :
    r₀.Keeps s) :
    r₀.RKeeps (execLdl m rd base off wide s) := by
  unfold execLdl
  repeat' (first
    | with_reducible (first
      | assumption | apply State.RKeeps.next | apply State.issueOp_kept))

theorem execStl_kept {r₀ : State} (m : MillIx) (rs : BitVec 5) (base : Src) (off : Word) (wide : Bool) (s : State) (h :
    r₀.Keeps s) :
    r₀.RKeeps (execStl m rs base off wide s) := by
  unfold execStl
  repeat' (first
    | with_reducible (first
      | assumption | apply State.RKeeps.next | apply State.issueOp_kept))

theorem execRbell_kept {r₀ : State} (m : MillIx) (rd rc : BitVec 5) (s : State) (h : r₀.Keeps s) :
    r₀.RKeeps (execRbell m rd rc s) := by
  unfold execRbell
  repeat' (first
    | with_reducible (first
      | assumption | apply State.RKeeps.next | apply State.issueOp_kept))

theorem execAwr_kept {r₀ : State} (m : MillIx) (f : Af) (v : Src) (s : State) (h : r₀.Keeps s) :
    r₀.RKeeps (execAwr m f v s) := by
  unfold execAwr
  repeat' (first
    | with_reducible (first
      | assumption | apply State.RKeeps.next | apply State.issueOp_kept))

theorem execAgen_kept {r₀ : State} (m : MillIx) (f : Af) (a : AgenArgs) (s : State) (h : r₀.Keeps s) :
    r₀.RKeeps (execAgen m f a s) := by
  unfold execAgen
  repeat' (first
    | with_reducible (first
      | assumption | apply State.RKeeps.next | apply State.issueOp_kept))

theorem execPost_kept {r₀ : State} (m : MillIx) (d : Eng) (entry : Src) (args : List Src) (s : State) (h : r₀.Keeps s) :
    r₀.RKeeps (execPost m d entry args s) := by
  unfold execPost
  repeat' (first
    | with_reducible (first
      | assumption | apply State.RKeeps.next | apply State.issueOp_kept))

theorem execDone_kept {r₀ : State} (m : MillIx) (v : Src) (s : State) (h : r₀.Keeps s) :
    r₀.RKeeps (execDone m v s) := by
  unfold execDone
  repeat' (first
    | with_reducible (first
      | assumption | apply State.RKeeps.next | apply State.issueOp_kept))

theorem execSinc_kept {r₀ : State} (m : MillIx) (e : Eng) (c : BitVec 4) (amount : Src) (s : State) (h : r₀.Keeps s) :
    r₀.RKeeps (execSinc m e c amount s) := by
  unfold execSinc
  repeat' (first
    | with_reducible (first
      | assumption | apply State.RKeeps.next | apply State.issueOp_kept)
    | split)

theorem execSwait_kept {r₀ : State} (m : MillIx) (e : Eng) (c : BitVec 4) (v : Src) (s : State) (h : r₀.Keeps s) :
    r₀.RKeeps (execSwait m e c v s) := by
  unfold execSwait
  repeat' (first
    | with_reducible (first
      | assumption | apply State.RKeeps.next | apply State.issueOp_kept)
    | split)

theorem execSwaitSatisfied_kept {r₀ : State} (m : MillIx) (e : Eng) (s : State) (h : r₀.Keeps s) :
    r₀.RKeeps (execSwaitSatisfied m e s) := by
  unfold execSwaitSatisfied
  repeat' (first
    | with_reducible (first
      | assumption | apply State.RKeeps.next | apply State.retry_kept))

theorem execEndInv_kept {r₀ : State} (m : MillIx) (e : Eng) (s : State) (h : r₀.Keeps s) :
    r₀.RKeeps (execEndInv m e s) := by
  unfold execEndInv
  repeat' (first
    | with_reducible (first
      | assumption | apply State.RKeeps.next | apply State.issueOp_kept | apply State.retry_kept))

theorem execInvocationStart_kept {r₀ : State} (m : MillIx) (e : Eng) (s : State) (h : r₀.Keeps s) :
    r₀.RKeeps (execInvocationStart m e s) := by
  unfold execInvocationStart
  repeat' (first
    | with_reducible (first
      | assumption | apply State.RKeeps.next | apply State.invocationStart_kept))

theorem execAddressFifoWaitEnds_kept {r₀ : State} (m : MillIx) (e : Eng) (s : State) (h : r₀.Keeps s) :
    r₀.RKeeps (execAddressFifoWaitEnds m e s) := by
  unfold execAddressFifoWaitEnds
  repeat' (first
    | with_reducible (first
      | assumption | apply State.RKeeps.next | apply State.retry_kept))

theorem execHazardInterlockIssue_kept {r₀ : State} (m : MillIx) (e : Eng) (s : State) (h : r₀.Keeps s) :
    r₀.RKeeps (execHazardInterlockIssue m e s) := by
  unfold execHazardInterlockIssue
  repeat' (first
    | with_reducible (first
      | assumption | apply State.RKeeps.next | apply State.retry_kept))

theorem execLds_kept {r₀ : State} (m : MillIx) (a : LdsArgs) (s : State) (h : r₀.Keeps s) :
    r₀.RKeeps (execLds m a s) := by
  unfold execLds
  repeat' (first
    | with_reducible (first
      | assumption | apply State.RKeeps.next | apply State.issueOp_kept))

theorem execMmr_kept {r₀ : State} (m : MillIx) (a : MmArgs) (s : State) (h : r₀.Keeps s) :
    r₀.RKeeps (execMmr m a s) := by
  unfold execMmr
  repeat' (first
    | with_reducible (first
      | assumption | apply State.RKeeps.next | apply State.issueOp_kept))

theorem execMmc_kept {r₀ : State} (m : MillIx) (a : MmArgs) (s : State) (h : r₀.Keeps s) :
    r₀.RKeeps (execMmc m a s) := by
  unfold execMmc
  repeat' (first
    | with_reducible (first
      | assumption | apply State.RKeeps.next | apply State.issueOp_kept))

theorem execYokeReadPoint_kept {r₀ : State} (m : MillIx) (y : Yoke) (s : State) (h : r₀.Keeps s) :
    r₀.RKeeps (execYokeReadPoint m y s) := by
  unfold execYokeReadPoint
  repeat' (first
    | with_reducible (first
      | assumption | apply State.RKeeps.next | apply State.advanceTo_kept)
    | split)

theorem execYokeWritePoint_kept {r₀ : State} (m : MillIx) (y : Yoke) (s : State) (h : r₀.Keeps s) :
    r₀.RKeeps (execYokeWritePoint m y s) := by
  unfold execYokeWritePoint
  repeat' (first
    | with_reducible (first
      | assumption | apply State.RKeeps.next | apply State.advanceTo_kept)
    | split)

theorem execRshp_kept {r₀ : State} (m : MillIx) (p : Partition) (s : State) (h : r₀.Keeps s) :
    r₀.RKeeps (execRshp m p s) := by
  unfold execRshp
  repeat' (first
    | with_reducible (first
      | assumption | apply State.RKeeps.next | apply State.issueOp_kept))

theorem execReshapeTakesEffect_kept {r₀ : State} (m : MillIx) (s : State) (h : r₀.Keeps s) :
    r₀.RKeeps (execReshapeTakesEffect m s) := by
  unfold execReshapeTakesEffect
  repeat' (first
    | with_reducible (first
      | assumption | apply State.RKeeps.next | apply State.reshapeNow_kept)
    | split)

theorem execQuernSelfTest_kept {r₀ : State} (m : MillIx) (failing : List (BitVec 5 × BitVec 3)) (s : State) (h : r₀.Keeps s) :
    r₀.RKeeps (execQuernSelfTest m failing s) := by
  unfold execQuernSelfTest
  try dsimp only
  repeat' (first
    | with_reducible (first
      | assumption | apply State.RKeeps.next | apply State.Keeps.foldl | apply State.Keeps.foldlPair
      | apply State.foundRow_kept)
    | intro _ | split
    | with_reducible (first
      | apply State.Keeps.snd3 (by assumption) | apply State.Keeps.snd (by assumption)
      | apply State.OPKeeps.get (by assumption) | apply State.Keeps.with))

theorem execSvBundle_kept {r₀ : State} (m : MillIx) (b : Bundle) (s : State) (h : r₀.Keeps s) :
    r₀.RKeeps (execSvBundle m b s) := by
  unfold execSvBundle
  repeat' (first
    | with_reducible (first
      | assumption | apply State.RKeeps.next | apply State.issueOp_kept))

theorem execOutputFifoHoldEnds_kept {r₀ : State} (m : MillIx) (s : State) (h : r₀.Keeps s) :
    r₀.RKeeps (execOutputFifoHoldEnds m s) := by
  unfold execOutputFifoHoldEnds
  repeat' (first
    | with_reducible (first
      | assumption | apply State.RKeeps.next | apply State.retry_kept))

theorem execStopRequestAccepted_kept {r₀ : State} (m : MillIx) (s : State) (h : r₀.Keeps s) :
    r₀.RKeeps (execStopRequestAccepted m s) := by
  unfold execStopRequestAccepted
  try dsimp only
  repeat' (first
    | with_reducible (first
      | assumption | apply State.RKeeps.next | apply State.Keeps.foldl | apply State.Keeps.foldlPair
      | apply State.advanceTo_kept | apply State.acceptStop_kept)
    | intro _ | split
    | with_reducible (first
      | apply State.Keeps.snd3 (by assumption) | apply State.Keeps.snd (by assumption)
      | apply State.OPKeeps.get (by assumption) | apply State.Keeps.with))

theorem execStrm_kept {r₀ : State} (m : MillIx) (c : Carter) (list : StreamAddr) (inc : Option Inc) (s : State) (h : r₀.Keeps
    s) :
    r₀.RKeeps (execStrm m c list inc s) := by
  unfold execStrm
  repeat' (first
    | with_reducible (first
      | assumption | apply State.RKeeps.next | apply State.issueOp_kept))

theorem execMov_kept {r₀ : State} (m : MillIx) (c : Carter) (a : MovArgs) (s : State) (h : r₀.Keeps s) :
    r₀.RKeeps (execMov m c a s) := by
  unfold execMov
  repeat' (first
    | with_reducible (first
      | assumption | apply State.RKeeps.next | apply State.issueOp_kept))

theorem execCarterSlotFree_kept {r₀ : State} (m : MillIx) (c : Carter) (s : State) (h : r₀.Keeps s) :
    r₀.RKeeps (execCarterSlotFree m c s) := by
  unfold execCarterSlotFree
  repeat' (first
    | with_reducible (first
      | assumption | apply State.RKeeps.next | apply State.retry_kept))

theorem execCtake_kept {r₀ : State} (m : MillIx) (e : Eng) (ring : QueueIx) (rd : BitVec 5) (s : State) (h : r₀.Keeps s) :
    r₀.RKeeps (execCtake m e ring rd s) := by
  unfold execCtake
  repeat' (first
    | with_reducible (first
      | assumption | apply State.RKeeps.next | apply State.issueOp_kept)
    | split)

theorem execCput_kept {r₀ : State} (m : MillIx) (e : Eng) (ring : QueueIx) (rs : BitVec 5) (s : State) (h : r₀.Keeps s) :
    r₀.RKeeps (execCput m e ring rs s) := by
  unfold execCput
  repeat' (first
    | with_reducible (first
      | assumption | apply State.RKeeps.next | apply State.issueOp_kept)
    | split)

theorem execCartRingWaitEnds_kept {r₀ : State} (m : MillIx) (e : Eng) (s : State) (h : r₀.Keeps s) :
    r₀.RKeeps (execCartRingWaitEnds m e s) := by
  unfold execCartRingWaitEnds
  repeat' (first
    | with_reducible (first
      | assumption | apply State.RKeeps.next | apply State.retry_kept))

end Sys2Proof.Machine
end

