-- ==== Sys2Proof/Laws/KeepsField.lean ====
section
/-! SUPPORT. What every command keeps (Laws/Keeps.lean), for the operations and commands of bell, lanes, torus, streams and
    groups. -/

namespace Sys2Proof.Machine

open Sys2Proof

/-! ### Bell.lean -/

theorem State.cwFail_kept {r₀ : State} (s : State) (w : Writer) (off kind : Nat) (h : r₀.Keeps s) :
    r₀.Keeps (State.cwFail s w off kind) := by
  unfold State.cwFail
  repeat' (first
    | with_reducible (first
      | assumption | apply State.evBits_kept | apply State.tallyW_kept)
    | split
    | with_reducible (first
      | apply State.Keeps.with))

theorem State.commit_kept {r₀ : State} (s : State) (w : Writer) (off : Nat) (r : Option State) (hr : r₀.OKeeps r) (h : r₀.Keeps
    s) :
    r₀.Keeps (State.commit s w off r) := by
  unfold State.commit
  cases r with
  | some t => exact hr.all t rfl
  | none => exact State.cwFail_kept (h := h) ..

theorem State.raisePort_kept {r₀ : State} (s : State) (p cause : Nat) (h : r₀.Keeps s) :
    r₀.Keeps (State.raisePort s p cause) := by
  unfold State.raisePort
  repeat' (first
    | with_reducible (first
      | assumption | apply State.Keeps.foldl | apply State.raiseHalt_kept)
    | intro _ | split)

theorem State.bellSlip_kept {r₀ : State} (s : State) (kind port expected observed mtick : Nat) (h : r₀.Keeps s) :
    r₀.Keeps (State.bellSlip s kind port expected observed mtick) := by
  unfold State.bellSlip
  repeat' (first
    | with_reducible (first
      | assumption | apply State.Keeps.foldl | apply State.evBits_kept | apply State.report_kept
      | apply State.raiseHalt_kept | apply State.alert_kept | apply State.modBell_kept)
    | intro _ | split
    | with_reducible (first
      | apply State.Keeps.snd (by assumption) | apply State.Keeps.with))

theorem State.crossFault_kept {r₀ : State} (s : State) (tick : BitVec 64) (xid typ release arrival : Nat) (g : Option Nat) (h : r₀.Keeps s) :
    r₀.Keeps (State.crossFault s tick xid typ release arrival g) := by
  unfold State.crossFault
  repeat' (first
    | with_reducible (first
      | assumption | apply State.evBits_kept | apply State.reportRecord_kept | apply State.raiseHalt_kept
      | apply State.modBell_kept)
    | split
    | with_reducible (first
      | apply State.Keeps.with))

theorem State.echo_kept {r₀ : State} (s : State) (p seq hold : Nat) (h : r₀.Keeps s) :
    r₀.Keeps (State.echo s p seq hold) := by
  unfold State.echo
  try dsimp only
  repeat' (first
    | with_reducible (first
      | assumption | apply State.hold_kept | apply State.modBell_kept | apply State.modBellPort_kept
      | apply State.bellSlip_kept)
    | split)

theorem State.bellJump_kept {r₀ : State} (s : State) (t c : Nat) (hc : c ≤ 1247) (h : r₀.Keeps s) : r₀.Keeps (s.bellJump t c)
    := by
  unfold State.bellJump
  exact State.Keeps.withClock (s := s) (h := h) (a := fun _ => hc) (b := Nat.le_refl _) ..

theorem State.marker_kept {r₀ : State} (s : State) (p n d : Nat) (h : r₀.Keeps s) :
    r₀.Keeps (State.marker s p n d) := by
  unfold State.marker
  try dsimp only
  repeat' (first
    | with_reducible (first
      | assumption | apply State.modBell_kept | apply State.bellSlip_kept | apply State.bellJump_kept)
    | split
    | omega)

theorem execBellFrameReceive_kept {r₀ : State} (p : PortIx) (frame : List Byte) (s : State) (h : r₀.Keeps s) :
    r₀.RKeeps (execBellFrameReceive p frame s) := by
  unfold execBellFrameReceive
  dsimp only
  split
  · exact State.RKeeps.next h
  split
  · exact State.RKeeps.next (State.tallyPort_kept (h := h) ..)
  have h1 : r₀.Keeps (if leAt (padTo 64 frame) 20 4 ≠ 0 then s.modBellPort p.toNat (fun y => { y with answer := some (leAt
      (padTo 64 frame) 20 4, s.clock.now) }) else s) := by
    split
    · exact State.modBellPort_kept (h := h) ..
    · exact h
  generalize (if leAt (padTo 64 frame) 20 4 ≠ 0 then s.modBellPort p.toNat (fun y => { y with answer := some (leAt (padTo 64
      frame) 20 4, s.clock.now) }) else s) = s1 at h1 ⊢
  have h2 : r₀.Keeps (if leAt (padTo 64 frame) 24 4 ≠ 0 then s1.echo p.toNat (leAt (padTo 64 frame) 24 4) (leAt (padTo 64
      frame) 28 4) else s1) := by
    split
    · exact State.echo_kept (h := h1) ..
    · exact h1
  generalize (if leAt (padTo 64 frame) 24 4 ≠ 0 then s1.echo p.toNat (leAt (padTo 64 frame) 24 4) (leAt (padTo 64 frame) 28 4)
      else s1) = s2 at h2 ⊢
  split
  · exact State.RKeeps.next (State.marker_kept (h := h2) ..)
  · exact State.RKeeps.next h2

theorem execMarkerTimeout_kept {r₀ : State} (s : State) (h : r₀.Keeps s) :
    r₀.RKeeps (execMarkerTimeout s) := by
  unfold execMarkerTimeout
  repeat' (first
    | with_reducible (first
      | assumption | apply State.RKeeps.next | apply State.modBell_kept | apply State.bellSlip_kept)
    | split)

theorem State.nextTick_kept {r₀ : State} (s : State) (h : r₀.Keeps s) : r₀.Keeps s.nextTick := State.pass_kept (h := h) ..

theorem execBellTick_kept {r₀ : State} (s : State) (h : r₀.Keeps s) :
    r₀.RKeeps (execBellTick s) := by
  unfold execBellTick
  repeat' (first
    | with_reducible (first
      | assumption | apply State.RKeeps.next | apply State.nextTick_kept))

theorem execBellLocked_kept {r₀ : State} (s : State) (h : r₀.Keeps s) :
    r₀.RKeeps (execBellLocked s) := by
  unfold execBellLocked
  repeat' (first
    | with_reducible (first
      | assumption | apply State.RKeeps.next | apply State.modBell_kept | apply State.nextTick_kept)
    | split)

theorem State.bellCtl_kept {r₀ : State} (s : State) (v : Word) (h : r₀.Keeps s) :
    r₀.OKeeps (State.bellCtl s v) := by
  unfold State.bellCtl
  try dsimp only
  repeat' (first
    | with_reducible (first
      | assumption | apply State.OKeeps.some | exact State.OKeeps.none | apply State.modBell_kept)
    | split)

theorem State.refuseRelock_kept {r₀ : State} (s : State) (h : r₀.Keeps s) :
    r₀.Keeps (State.refuseRelock s) := by
  unfold State.refuseRelock
  repeat' (first
    | with_reducible (first
      | assumption | apply State.evBits_kept | apply State.modBell_kept)
    | split)

theorem State.bellRelock_kept {r₀ : State} (s : State) (h : r₀.Keeps s) :
    r₀.Keeps (State.bellRelock s) := by
  unfold State.bellRelock
  repeat' (first
    | with_reducible (first
      | assumption | apply State.modBell_kept | apply State.refuseRelock_kept)
    | split
    | with_reducible (first
      | apply State.Keeps.with))

theorem execRelock_kept {r₀ : State} (w : Writer) (v : Word) (s : State) (h : r₀.Keeps s) :
    r₀.RKeeps (execRelock w v s) := by
  unfold execRelock
  repeat' (first
    | with_reducible (first
      | assumption | apply State.RKeeps.next | apply State.OKeeps.map | apply State.commit_kept
      | apply State.bellCtl_kept | apply State.bellRelock_kept)
    | split)

theorem execBellRoleSet_kept {r₀ : State} (w : Writer) (v : Word) (s : State) (h : r₀.Keeps s) :
    r₀.RKeeps (execBellRoleSet w v s) := by
  unfold execBellRoleSet
  repeat' (first
    | with_reducible (first
      | assumption | apply State.RKeeps.next | apply State.OKeeps.map | apply State.commit_kept
      | apply State.bellCtl_kept | apply State.bellRelock_kept)
    | intro _ | split)

theorem execBellNowCapture_kept {r₀ : State} (s : State) (h : r₀.Keeps s) :
    r₀.RKeeps (execBellNowCapture s) := by
  unfold execBellNowCapture
  repeat' (first
    | with_reducible (first
      | assumption | apply State.RKeeps.next | apply State.modBell_kept)
    | split)

theorem execRefclkLost_kept {r₀ : State} (s : State) (h : r₀.Keeps s) :
    r₀.RKeeps (execRefclkLost s) := by
  unfold execRefclkLost
  repeat' (first
    | with_reducible (first
      | assumption | apply State.RKeeps.next | apply State.evBits_kept | apply State.modBell_kept
      | apply State.bellSlip_kept)
    | split)

theorem execRefclkReturn_kept {r₀ : State} (s : State) (h : r₀.Keeps s) :
    r₀.RKeeps (execRefclkReturn s) := by
  unfold execRefclkReturn
  repeat' (first
    | with_reducible (first
      | assumption | apply State.RKeeps.next | apply State.modBell_kept))

theorem execCrossingRelease_kept {r₀ : State} (xid : BitVec 16) (c : BitVec 13) (item : List Byte) (s : State) (h : r₀.Keeps s) :
    r₀.RKeeps (execCrossingRelease xid c item s) := by
  unfold execCrossingRelease
  repeat' (first
    | with_reducible (first
      | assumption | apply State.RKeeps.next | apply State.send_kept | apply State.modBell_kept
      | apply State.releaseItems_kept | apply State.cycle_kept | apply State.crossFault_kept)
    | split)

theorem execCrossingFault_kept {r₀ : State} (xid : BitVec 16) (c arrival : BitVec 13) (item : List Byte) (s : State) (h : r₀.Keeps s) :
    r₀.RKeeps (execCrossingFault xid c arrival item s) := by
  unfold execCrossingFault
  repeat' (first
    | with_reducible (first
      | assumption | apply State.RKeeps.next | apply State.send_kept | apply State.cycle_kept
      | apply State.advanceTo_kept | apply State.crossFault_kept)
    | split)

theorem State.crossLoss_kept {r₀ : State} (s : State) (lost : CrossLoss) (h : r₀.Keeps s) :
    r₀.Keeps (State.crossLoss s lost) := by
  unfold State.crossLoss
  repeat' (first
    | with_reducible (first
      | assumption | apply State.send_kept | apply State.modMill_kept | apply State.report_kept
      | apply State.completeIf_kept)
    | split)

theorem execCrossingResend_kept {r₀ : State} (d : Die) (fails : Nat) (lost : CrossLoss) (s : State) (h : r₀.Keeps s) :
    r₀.RKeeps (execCrossingResend d fails lost s) := by
  unfold execCrossingResend
  repeat' (first
    | with_reducible (first
      | assumption | apply State.RKeeps.next | apply State.tally__kept | apply State.crossLoss_kept)
    | split)

/-! ### Lanes.lean -/

theorem State.putFar_kept {r₀ : State} (s : State) (q : Nat) (c : List Byte) (epoch : Option Nat) (h : r₀.Keeps s) :
    r₀.Keeps (State.putFar s q c epoch) := by
  unfold State.putFar
  repeat' (first
    | with_reducible (first
      | assumption | apply State.reportRing_kept)
    | split
    | with_reducible (first
      | apply State.Keeps.with))

theorem State.returnCarts_kept {r₀ : State} (s : State) (p : Nat) (h : r₀.Keeps s) :
    r₀.Keeps (State.returnCarts s p) := by
  unfold State.returnCarts
  repeat' (first
    | with_reducible (first
      | assumption | apply State.Keeps.foldl | apply State.putFar_kept)
    | intro _)

theorem State.enterLadder_kept {r₀ : State} (s : State) (p rate : Nat) (h : r₀.Keeps s) :
    r₀.Keeps (State.enterLadder s p rate) := by
  unfold State.enterLadder
  repeat' (first
    | with_reducible (first
      | assumption | apply State.draw_kept | apply State.modPort_kept))

theorem State.portLost_kept {r₀ : State} (s : State) (p : Nat) (h : r₀.Keeps s) :
    r₀.Keeps (State.portLost s p) := by
  unfold State.portLost
  repeat' (first
    | with_reducible (first
      | assumption | apply State.evBits_kept | apply State.report_kept | apply State.modPort_kept
      | apply State.alert_kept | apply State.modBellPort_kept | apply State.raisePort_kept
      | apply State.returnCarts_kept | apply State.enterLadder_kept)
    | split)

theorem State.laneFail_kept {r₀ : State} (s : State) (p n : Nat) (h : r₀.Keeps s) :
    r₀.Keeps (State.laneFail s p n) := by
  unfold State.laneFail
  try dsimp only
  repeat' (first
    | with_reducible (first
      | assumption | apply State.tallyPort_kept | apply State.setPort_kept | apply State.control_kept
      | apply State.portLost_kept)
    | split)

theorem State.laneDown_kept {r₀ : State} (s : State) (p l align : Nat) (h : r₀.Keeps s) :
    r₀.Keeps (State.laneDown s p l align) := by
  unfold State.laneDown
  try dsimp only
  repeat' (first
    | with_reducible (first
      | assumption | apply State.setPort_kept | apply State.laneFail_kept)
    | split)

theorem execLaneSignalDetect_kept {r₀ : State} (p : PortIx) (l : BitVec 4) (s : State) (h : r₀.Keeps s) :
    r₀.RKeeps (execLaneSignalDetect p l s) := by
  unfold execLaneSignalDetect
  repeat' (first
    | with_reducible (first
      | assumption | apply State.RKeeps.next | apply State.modPort_kept)
    | split)

theorem execCommaDetect_kept {r₀ : State} (p : PortIx) (l : BitVec 4) (s : State) (h : r₀.Keeps s) :
    r₀.RKeeps (execCommaDetect p l s) := by
  unfold execCommaDetect
  repeat' (first
    | with_reducible (first
      | assumption | apply State.RKeeps.next | apply State.modPort_kept)
    | split)

theorem State.dataFrame_kept {r₀ : State} (s : State) (p n : Nat) (msg : Option (List Byte)) (h : r₀.Keeps s) :
    r₀.Keeps (State.dataFrame s p n msg) := by
  unfold State.dataFrame
  try dsimp only
  repeat' (first
    | with_reducible (first
      | assumption | apply State.setPort_kept)
    | split)

theorem State.decoded_kept {r₀ : State} (s : State) (p : Nat) (syms : List (Option Byte)) (h : r₀.Keeps s) :
    r₀.Keeps (State.decoded s p syms).2 := by
  unfold State.decoded
  repeat' (first
    | with_reducible (first
      | assumption | apply State.tallyPort_kept)
    | split)

theorem State.countFrame_kept {r₀ : State} (s : State) (p n : Nat) (bad : Bool) (h : r₀.Keeps s) :
    r₀.Keeps (State.countFrame s p n bad).2 := by
  unfold State.countFrame
  try dsimp only
  repeat' (first
    | with_reducible (first
      | assumption | apply State.Keeps.foldl | apply State.Keeps.foldlPair | apply State.modPort_kept
      | apply State.laneFail_kept)
    | intro _ | split
    | with_reducible (first
      | apply State.Keeps.snd3 (by assumption) | apply State.Keeps.snd (by assumption)
      | apply State.OPKeeps.get (by assumption) | apply State.Keeps.with))

theorem State.delivered_kept {r₀ : State} (s : State) (p l : Nat) (hdr : LaneHdr) (syms : List (Option Byte)) (h : r₀.Keeps s) :
    r₀.Keeps (State.delivered s p l hdr syms) := by
  unfold State.delivered
  repeat' (first
    | with_reducible (first
      | assumption | apply State.Keeps.foldl | apply State.tallyPort_kept | apply State.setPort_kept
      | apply State.control_kept | apply State.dataFrame_kept | apply State.decoded_kept | apply State.countFrame_kept)
    | intro _ | split
    | with_reducible (first
      | apply State.Keeps.snd (by assumption) | apply State.Keeps.with))

theorem State.decodeFrame_kept {r₀ : State} (s : State) (p l : Nat) (gs : List (BitVec 10)) (h : r₀.Keeps s) :
    r₀.Keeps (State.decodeFrame s p l gs).2.2 := by
  unfold State.decodeFrame
  repeat' (first
    | with_reducible (first
      | assumption | apply State.modPort_kept)
    | split)

theorem State.lockStep_kept {r₀ : State} (s : State) (p l : Nat) (ok : Bool) (h : r₀.Keeps s) :
    r₀.Keeps (State.lockStep s p l ok).2 := by
  unfold State.lockStep
  try dsimp only
  repeat' (first
    | with_reducible (first
      | assumption | apply State.Keeps.foldl | apply State.Keeps.foldlPair | apply State.modPort_kept
      | apply State.laneDown_kept)
    | intro _ | split
    | with_reducible (first
      | apply State.Keeps.snd3 (by assumption) | apply State.Keeps.snd (by assumption)
      | apply State.OPKeeps.get (by assumption) | apply State.Keeps.with))

theorem execFrameReceive_kept {r₀ : State} (p : PortIx) (l : BitVec 4) (header : BitVec 10) (groups : List (BitVec 10)) (s : State) (h : r₀.Keeps s) :
    r₀.RKeeps (execFrameReceive p l header groups s) := by
  unfold execFrameReceive
  try dsimp only
  repeat' (first
    | with_reducible (first
      | assumption | apply State.RKeeps.next | apply State.Keeps.foldl | apply State.Keeps.foldlPair
      | apply State.modPort_kept | apply State.laneDown_kept | apply State.delivered_kept
      | apply State.decodeFrame_kept | apply State.lockStep_kept)
    | intro _ | split
    | with_reducible (first
      | apply State.Keeps.snd3 (by assumption) | apply State.Keeps.snd (by assumption)
      | apply State.OPKeeps.get (by assumption) | apply State.Keeps.with))

theorem State.laneCtl_kept {r₀ : State} (s : State) (p : Nat) (v : Word) (h : r₀.Keeps s) :
    r₀.OKeeps (State.laneCtl s p v) := by
  unfold State.laneCtl
  try dsimp only
  repeat' (first
    | with_reducible (first
      | assumption | apply State.OKeeps.some | exact State.OKeeps.none | apply State.setPort_kept
      | apply State.modPort_kept | apply State.modBellPort_kept | apply State.returnCarts_kept
      | apply State.enterLadder_kept)
    | split)

theorem execPortEnable_kept {r₀ : State} (w : Writer) (p : PortIx) (v : Word) (s : State) (h : r₀.Keeps s) :
    r₀.RKeeps (execPortEnable w p v s) := by
  unfold execPortEnable
  repeat' (first
    | with_reducible (first
      | assumption | apply State.RKeeps.next | apply State.commit_kept | apply State.laneCtl_kept)
    | split)

theorem execPortDisable_kept {r₀ : State} (w : Writer) (p : PortIx) (v : Word) (s : State) (h : r₀.Keeps s) :
    r₀.RKeeps (execPortDisable w p v s) := by
  unfold execPortDisable
  repeat' (first
    | with_reducible (first
      | assumption | apply State.RKeeps.next | apply State.commit_kept | apply State.laneCtl_kept)
    | split)

theorem State.sendCapability_kept {r₀ : State} (s : State) (p : Nat) (h : r₀.Keeps s) :
    r₀.Keeps (State.sendCapability s p) := by
  unfold State.sendCapability
  repeat' (first
    | with_reducible (first
      | assumption | apply State.Keeps.foldl | apply State.controlOn_kept)
    | intro _)

theorem State.stepFrames_kept {r₀ : State} (s : State) (p rate : Nat) (h : r₀.Keeps s) :
    r₀.Keeps (State.stepFrames s p rate) := by
  unfold State.stepFrames
  repeat' (first
    | with_reducible (first
      | assumption | apply State.Keeps.foldl | apply State.control_kept)
    | intro _)

theorem State.ladderSpare_kept {r₀ : State} (s : State) (p : Nat) (h : r₀.Keeps s) :
    r₀.Keeps (State.ladderSpare s p) := by
  unfold State.ladderSpare
  try dsimp only
  repeat' (first
    | with_reducible (first
      | assumption | apply State.tallyPort_kept | apply State.setPort_kept | apply State.alert_kept)
    | split)

theorem execCapabilityReceive_kept {r₀ : State} (p : PortIx) (payload : List Byte) (far : BitVec 10) (s : State) (h : r₀.Keeps
    s) :
    r₀.RKeeps (execCapabilityReceive p payload far s) := by
  unfold execCapabilityReceive
  try dsimp only
  repeat' (first
    | with_reducible (first
      | assumption | apply State.RKeeps.next | apply State.draw_kept | apply State.modPort_kept
      | apply State.pumpPort_kept | apply State.sendCapability_kept | apply State.stepFrames_kept
      | apply State.ladderSpare_kept)
    | split)

theorem execStepFrameReceive_kept {r₀ : State} (p : PortIx) (rate countdown : Byte) (s : State) (h : r₀.Keeps s) :
    r₀.RKeeps (execStepFrameReceive p rate countdown s) := by
  unfold execStepFrameReceive
  try dsimp only
  repeat' (first
    | with_reducible (first
      | assumption | apply State.RKeeps.next | apply State.modPort_kept | apply State.control_kept
      | apply State.enterLadder_kept)
    | split)

theorem execLadderStepTimeout_kept {r₀ : State} (p : PortIx) (s : State) (h : r₀.Keeps s) :
    r₀.RKeeps (execLadderStepTimeout p s) := by
  unfold execLadderStepTimeout
  try dsimp only
  repeat' (first
    | with_reducible (first
      | assumption | apply State.RKeeps.next | apply State.Keeps.foldl | apply State.Keeps.foldlPair
      | apply State.evBits_kept | apply State.modPort_kept | apply State.alert_kept | apply State.advanceTo_kept
      | apply State.enterLadder_kept)
    | intro _ | split
    | with_reducible (first
      | apply State.Keeps.snd3 (by assumption) | apply State.Keeps.snd (by assumption)
      | apply State.OPKeeps.get (by assumption) | apply State.Keeps.with))

theorem execLadderRetry_kept {r₀ : State} (p : PortIx) (s : State) (h : r₀.Keeps s) :
    r₀.RKeeps (execLadderRetry p s) := by
  unfold execLadderRetry
  try dsimp only
  repeat' (first
    | with_reducible (first
      | assumption | apply State.RKeeps.next | apply State.advanceTo_kept | apply State.enterLadder_kept)
    | split)

theorem State.eqPeak_kept {r₀ : State} (s : State) (p l : Nat) (v : Word) (h : r₀.Keeps s) :
    r₀.Keeps (State.eqPeak s p l v) := by
  unfold State.eqPeak
  repeat' (first
    | with_reducible (first
      | assumption | apply State.modPort_kept))

theorem execEqPeakWrite_kept {r₀ : State} (w : Writer) (p : PortIx) (l : BitVec 4) (v : Word) (s : State) (h : r₀.Keeps s) :
    r₀.RKeeps (execEqPeakWrite w p l v s) := by
  unfold execEqPeakWrite
  repeat' (first
    | with_reducible (first
      | assumption | apply State.RKeeps.next | apply State.eqPeak_kept)
    | split)

theorem State.resendLane_kept {r₀ : State} (s : State) (p n : Nat) (h : r₀.Keeps s) :
    r₀.Keeps (State.resendLane s p n) := by
  unfold State.resendLane
  try dsimp only
  repeat' (first
    | with_reducible (first
      | assumption | apply State.Keeps.foldl | apply State.Keeps.foldlPair | apply State.send_kept
      | apply State.tally__kept | apply State.modPort_kept | apply State.takeSlot_kept)
    | intro _ | split
    | with_reducible (first
      | apply State.Keeps.snd3 (by assumption) | apply State.Keeps.snd (by assumption)
      | apply State.OPKeeps.get (by assumption) | apply State.Keeps.with))

theorem State.ackLane_kept {r₀ : State} (s : State) (p n byte : Nat) (h : r₀.Keeps s) :
    r₀.Keeps (State.ackLane s p n byte) := by
  unfold State.ackLane
  repeat' (first
    | with_reducible (first
      | assumption | apply State.setPort_kept | apply State.resendLane_kept)
    | split)

theorem execAckReceive_kept {r₀ : State} (p : PortIx) (payload : List Byte) (s : State) (h : r₀.Keeps s) :
    r₀.RKeeps (execAckReceive p payload s) := by
  unfold execAckReceive
  try dsimp only
  repeat' (first
    | with_reducible (first
      | assumption | apply State.RKeeps.next | apply State.Keeps.foldl | apply State.modPort_kept
      | apply State.pumpPort_kept | apply State.ackLane_kept)
    | intro _ | split)

theorem execAckSend_kept {r₀ : State} (p : PortIx) (s : State) (h : r₀.Keeps s) :
    r₀.RKeeps (execAckSend p s) := by
  unfold execAckSend
  try dsimp only
  repeat' (first
    | with_reducible (first
      | assumption | apply State.RKeeps.next | apply State.Keeps.foldl | apply State.setPort_kept
      | apply State.modPort_kept | apply State.advanceTo_kept | apply State.control_kept | apply State.laneFail_kept)
    | intro _ | split)

theorem execReplayTimeout_kept {r₀ : State} (p : PortIx) (s : State) (h : r₀.Keeps s) :
    r₀.RKeeps (execReplayTimeout p s) := by
  unfold execReplayTimeout
  try dsimp only
  repeat' (first
    | with_reducible (first
      | assumption | apply State.RKeeps.next | apply State.advanceTo_kept | apply State.resendLane_kept)
    | split)

theorem execBlockEnd_kept {r₀ : State} (p : PortIx) (s : State) (h : r₀.Keeps s) :
    r₀.RKeeps (execBlockEnd p s) := by
  unfold execBlockEnd
  try dsimp only
  repeat' (first
    | with_reducible (first
      | assumption | apply State.RKeeps.next | apply State.Keeps.foldl | apply State.send_kept
      | apply State.modPort_kept)
    | intro _ | split)

theorem execSpareRequestReceive_kept {r₀ : State} (p : PortIx) (n : BitVec 3) (s : State) (h : r₀.Keeps s) :
    r₀.RKeeps (execSpareRequestReceive p n s) := by
  unfold execSpareRequestReceive
  try dsimp only
  repeat' (first
    | with_reducible (first
      | assumption | apply State.RKeeps.next | apply State.setPort_kept)
    | split)

theorem execSpareSwitch_kept {r₀ : State} (p : PortIx) (s : State) (h : r₀.Keeps s) :
    r₀.RKeeps (execSpareSwitch p s) := by
  unfold execSpareSwitch
  try dsimp only
  repeat' (first
    | with_reducible (first
      | assumption | apply State.RKeeps.next | apply State.tallyPort_kept | apply State.setPort_kept
      | apply State.alert_kept | apply State.control_kept)
    | split)

theorem execSpareDoneReceive_kept {r₀ : State} (p : PortIx) (n : BitVec 3) (s : State) (h : r₀.Keeps s) :
    r₀.RKeeps (execSpareDoneReceive p n s) := by
  unfold execSpareDoneReceive
  try dsimp only
  repeat' (first
    | with_reducible (first
      | assumption | apply State.RKeeps.next | apply State.setPort_kept)
    | split)

theorem execLaneRestoredAsSpare_kept {r₀ : State} (p : PortIx) (l : BitVec 4) (s : State) (h : r₀.Keeps s) :
    r₀.RKeeps (execLaneRestoredAsSpare p l s) := by
  unfold execLaneRestoredAsSpare
  try dsimp only
  repeat' (first
    | with_reducible (first
      | assumption | apply State.RKeeps.next | apply State.setPort_kept)
    | split)

/-! ### Torus.lean -/

theorem State.torError_kept {r₀ : State} (s : State) (d : Die) (x y inp kind src dst : Nat) (group : Bool) (h : r₀.Keeps s) :
    r₀.Keeps (State.torError s d x y inp kind src dst group) := by
  unfold State.torError
  repeat' (first
    | with_reducible (first
      | assumption | apply State.evBits_kept | apply State.reportRecord_kept)
    | split
    | with_reducible (first
      | apply State.Keeps.with))

theorem State.failSlot_kept {r₀ : State} (s : State) (sl : Option (Nat × Nat)) (st : Status) (flags addr : Nat) (h : r₀.Keeps s) :
    r₀.Keeps (State.failSlot s sl st flags addr) := by
  unfold State.failSlot
  repeat' (first
    | with_reducible (first
      | assumption | apply State.failTransfer_kept)
    | split)

theorem State.failOwner_kept {r₀ : State} (s : State) (p : PktHdr) (st : Status) (h : r₀.Keeps s) :
    r₀.Keeps (State.failOwner s p st) := by
  unfold State.failOwner
  repeat' (first
    | with_reducible (first
      | assumption | apply State.Keeps.foldl | apply State.send_kept | apply State.modPlot_kept
      | apply State.failSlot_kept)
    | intro _ | split
    | with_reducible (first
      | apply State.Keeps.snd (by assumption) | apply State.Keeps.with))

theorem State.enterRouter_kept {r₀ : State} (s : State) (d : Die) (x y inp : Nat) (p : PktHdr) (lost : Nat) (data : List Byte) (h : r₀.Keeps s) :
    r₀.Keeps (State.enterRouter s d x y inp p lost data) := by
  unfold State.enterRouter
  repeat' (first
    | with_reducible (first
      | assumption | apply State.setRouter_kept | apply State.ready_kept | apply State.crossFault_kept)
    | split)

theorem execRouterPacketReceive_kept {r₀ : State} (d : Die) (x y : BitVec 5) (inp : BitVec 3) (hdr data : List Byte) (soft : Nat) (badHdr : Bool) (owner : Option (MillIx × BitVec 3)) (badFlits : List (BitVec 2)) (s : State) (h : r₀.Keeps s) :
    r₀.RKeeps (execRouterPacketReceive d x y inp hdr data soft badHdr owner badFlits s) := by
  unfold execRouterPacketReceive
  try dsimp only
  repeat' (first
    | with_reducible (first
      | assumption | apply State.RKeeps.next | apply State.Keeps.foldl | apply State.Keeps.foldlPair
      | apply State.tally__kept | apply State.raiseHalt_kept | apply State.torError_kept | apply State.failSlot_kept
      | apply State.failOwner_kept | apply State.enterRouter_kept)
    | intro _ | split
    | with_reducible (first
      | apply State.Keeps.snd3 (by assumption) | apply State.Keeps.snd (by assumption)
      | apply State.OPKeeps.get (by assumption) | apply State.Keeps.with))

theorem State.untilForced_kept {r₀ : State} : ∀ (x0 : Nat), ∀ (s : State) (k out : Nat), r₀.Keeps s →
    r₀.Keeps (State.untilForced s k out x0) := by
  intro x0
  induction x0 with
  | zero =>
    intros
    unfold State.untilForced
    repeat' (first
      | with_reducible (first
        | assumption | apply State.cycle_kept)
      | split)
  | succ n ih =>
    intros
    unfold State.untilForced
    repeat' (first
      | with_reducible (first
        | assumption | apply ih | apply State.cycle_kept)
      | split)

theorem execP0ForceGrant_kept {r₀ : State} (d : Die) (x y : BitVec 5) (out : BitVec 3) (s : State) (h : r₀.Keeps s) :
    r₀.RKeeps (execP0ForceGrant d x y out s) := by
  unfold execP0ForceGrant
  repeat' (first
    | with_reducible (first
      | assumption | apply State.RKeeps.next | apply State.untilForced_kept)
    | split)

theorem State.writeGranules_kept {r₀ : State} : ∀ (x0 : Nat), ∀ (s : State) (a mask : Nat) (data : List Byte), r₀.Keeps s →
    r₀.Keeps (State.writeGranules s a mask data x0) := by
  intro x0
  induction x0 with
  | zero =>
    intros
    unfold State.writeGranules
    repeat' (first
      | with_reducible (first
        | assumption | apply State.setBytes_kept)
      | split)
  | succ n ih =>
    intros
    unfold State.writeGranules
    repeat' (first
      | with_reducible (first
        | assumption | apply ih | apply State.setBytes_kept)
      | split)

theorem State.controlMessage_kept {r₀ : State} (s : State) (p : PktHdr) (st : Status) (h : r₀.Keeps s) :
    r₀.Keeps (State.controlMessage s p st) := by
  unfold State.controlMessage
  repeat' (first
    | with_reducible (first
      | assumption | apply State.send_kept))

theorem execWritePacketArrive_kept {r₀ : State} (hdr data : List Byte) (s : State) (h : r₀.Keeps s) :
    r₀.RKeeps (execWritePacketArrive hdr data s) := by
  unfold execWritePacketArrive
  try dsimp only
  repeat' (first
    | with_reducible (first
      | assumption | apply State.RKeeps.next | apply State.Keeps.foldl | apply State.Keeps.foldlPair
      | apply State.epochDrop_kept | apply State.failOwner_kept | apply State.send_kept | apply State.writeGranules_kept
      | apply State.controlMessage_kept)
    | intro _ | split
    | with_reducible (first
      | apply State.Keeps.snd3 (by assumption) | apply State.Keeps.snd (by assumption)
      | apply State.OPKeeps.get (by assumption) | apply State.Keeps.with))

theorem execReadRequestArrive_kept {r₀ : State} (hdr : List Byte) (s : State) (h : r₀.Keeps s) :
    r₀.RKeeps (execReadRequestArrive hdr s) := by
  unfold execReadRequestArrive
  try dsimp only
  repeat' (first
    | with_reducible (first
      | assumption | apply State.RKeeps.next | apply State.send_kept | apply State.countSoft_kept
      | apply State.badRead_kept | apply State.controlMessage_kept)
    | split)

theorem execSyncIncrementArrive_kept {r₀ : State} (m : MillIx) (c : BitVec 4) (amount : Byte) (s : State) (h : r₀.Keeps s) :
    r₀.RKeeps (execSyncIncrementArrive m c amount s) := by
  unfold execSyncIncrementArrive
  repeat' (first
    | with_reducible (first
      | assumption | apply State.RKeeps.next | apply State.modMill_kept)
    | split)

theorem execControlMessageArrive_kept {r₀ : State} (m : MillIx) (k : BitVec 3) (absent : Bool) (s : State) (h : r₀.Keeps s) :
    r₀.RKeeps (execControlMessageArrive m k absent s) := by
  unfold execControlMessageArrive
  repeat' (first
    | with_reducible (first
      | assumption | apply State.RKeeps.next | apply State.failSlot_kept)
    | split)

theorem State.landFar_kept {r₀ : State} (s : State) (f : CartFlight) (h : r₀.Keeps s) : r₀.Keeps (State.landFar s f) := by
  unfold State.landFar
  have hc := State.landCart_kept s f.ring f.cart h
  generalize s.landCart f.ring f.cart = p at hc ⊢
  obtain ⟨b, s1⟩ := p
  dsimp only
  split
  · exact State.postRing_kept _ _ hc
  · split
    · exact State.modMill_kept s1 _ _ hc
    · exact State.failSlot_kept _ _ _ _ _ hc

theorem execCartDeliveryArrive_kept {r₀ : State} (ring : QueueIx) (s : State) (h : r₀.Keeps s) :
    r₀.RKeeps (execCartDeliveryArrive ring s) := by
  unfold execCartDeliveryArrive
  try dsimp only
  repeat' (first
    | with_reducible (first
      | assumption | apply State.RKeeps.next | apply State.Keeps.foldl | apply State.Keeps.foldlPair
      | apply State.tally__kept | apply State.raiseHalt_kept | apply State.landFar_kept
      | apply State.advanceTo_kept | apply State.failSlot_kept)
    | intro _ | split
    | with_reducible (first
      | apply State.Keeps.snd3 (by assumption) | apply State.Keeps.snd (by assumption)
      | apply State.OPKeeps.get (by assumption) | apply State.Keeps.with))

/-! ### StreamOps.lean -/

theorem execDescriptorBurstArrive_kept {r₀ : State} (m : MillIx) (k : BitVec 3) (s : State) (h : r₀.Keeps s) :
    r₀.RKeeps (execDescriptorBurstArrive m k s) := by
  unfold execDescriptorBurstArrive
  try dsimp only
  repeat' (first
    | with_reducible (first
      | assumption | apply State.RKeeps.next | apply State.Keeps.foldl | apply State.Keeps.foldlPair
      | apply State.setSlot_kept | apply State.advanceTo_kept | apply State.putSlot_kept | apply State.readBurst_kept
      | apply State.decideRearms_kept | apply State.startShadow_kept | apply State.failTransfer_kept
      | apply State.haltSlot_kept | apply State.slotBad_kept)
    | intro _ | split
    | with_reducible (first
      | apply State.Keeps.snd3 (by assumption) | apply State.Keeps.snd (by assumption)
      | apply State.OPKeeps.get (by assumption) | apply State.Keeps.with))

theorem execTransferStart_kept {r₀ : State} (m : MillIx) (k : BitVec 3) (s : State) (h : r₀.Keeps s) :
    r₀.RKeeps (execTransferStart m k s) := by
  unfold execTransferStart
  try dsimp only
  repeat' (first
    | with_reducible (first
      | assumption | apply State.RKeeps.next | apply State.Keeps.foldl | apply State.Keeps.foldlPair
      | apply State.modMill_kept | apply State.engineFault_kept | apply State.setSlot_kept
      | apply State.advanceTo_kept | apply State.putSlot_kept | apply State.failTransfer_kept
      | apply State.slotHazard_kept | apply State.slotBad_kept)
    | intro _ | split
    | with_reducible (first
      | apply State.Keeps.snd3 (by assumption) | apply State.Keeps.snd (by assumption)
      | apply State.OPKeeps.get (by assumption) | apply State.Keeps.with))

theorem execReadResponseArrive_kept {r₀ : State} (m : MillIx) (k : BitVec 3) (s : State) (h : r₀.Keeps s) :
    r₀.RKeeps (execReadResponseArrive m k s) := by
  unfold execReadResponseArrive
  repeat' (first
    | with_reducible (first
      | assumption | apply State.RKeeps.next | apply State.piece_kept | apply State.settle_kept
      | apply State.slotBad_kept)
    | split)

theorem execStreamPageFault_kept {r₀ : State} (m : MillIx) (k : BitVec 3) (s : State) (h : r₀.Keeps s) :
    r₀.RKeeps (execStreamPageFault m k s) := by
  unfold execStreamPageFault
  try dsimp only
  repeat' (first
    | with_reducible (first
      | assumption | apply State.RKeeps.next | apply State.Keeps.foldl | apply State.Keeps.foldlPair
      | apply State.pieces_kept | apply State.haltSlot_kept | apply State.slotBad_kept)
    | intro _ | split
    | with_reducible (first
      | apply State.Keeps.snd3 (by assumption) | apply State.Keeps.snd (by assumption)
      | apply State.OPKeeps.get (by assumption) | apply State.Keeps.with))

theorem execTransferComplete_kept {r₀ : State} (m : MillIx) (k : BitVec 3) (s : State) (h : r₀.Keeps s) :
    r₀.RKeeps (execTransferComplete m k s) := by
  unfold execTransferComplete
  try dsimp only
  repeat' (first
    | with_reducible (first
      | assumption | apply State.RKeeps.next | apply State.Keeps.foldl | apply State.Keeps.foldlPair
      | apply State.finishTransfer_kept | apply State.pieces_kept | apply State.settle_kept
      | apply State.finishMove_kept | apply State.slotBad_kept)
    | intro _ | split
    | with_reducible (first
      | apply State.Keeps.snd3 (by assumption) | apply State.Keeps.snd (by assumption)
      | apply State.OPKeeps.get (by assumption) | apply State.Keeps.with))

theorem State.resumeSlot_kept {r₀ : State} (s : State) (m k : Nat) (h : r₀.Keeps s) :
    r₀.Keeps (State.resumeSlot s m k) := by
  unfold State.resumeSlot
  repeat' (first
    | with_reducible (first
      | assumption | apply State.putSlot_kept)
    | split)

theorem State.abandonSlot_kept {r₀ : State} (s : State) (m k : Nat) (h : r₀.Keeps s) :
    r₀.Keeps (State.abandonSlot s m k) := by
  unfold State.abandonSlot
  repeat' (first
    | with_reducible (first
      | assumption | apply State.failTransfer_kept)
    | split)

theorem State.streamResume_kept {r₀ : State} (s : State) (m : Nat) (v : Word) (h : r₀.Keeps s) :
    r₀.OKeeps (State.streamResume s m v) := by
  unfold State.streamResume
  repeat' (first
    | with_reducible (first
      | assumption | apply State.OKeeps.some | exact State.OKeeps.none | apply State.Keeps.foldl
      | apply State.resumeSlot_kept | apply State.abandonSlot_kept)
    | intro _ | split)

theorem execStreamResume_kept {r₀ : State} (w : Writer) (m : MillIx) (v : Word) (s : State) (h : r₀.Keeps s) :
    r₀.RKeeps (execStreamResume w m v s) := by
  unfold execStreamResume
  repeat' (first
    | with_reducible (first
      | assumption | apply State.RKeeps.next | apply State.Keeps.foldl | apply State.commit_kept
      | apply State.streamResume_kept)
    | split)

theorem execStreamAbandon_kept {r₀ : State} (w : Writer) (m : MillIx) (slots : Byte) (s : State) (h : r₀.Keeps s) :
    r₀.RKeeps (execStreamAbandon w m slots s) := by
  unfold execStreamAbandon
  repeat' (first
    | with_reducible (first
      | assumption | apply State.RKeeps.next | apply State.Keeps.foldl | apply State.commit_kept
      | apply State.streamResume_kept)
    | split)

theorem State.forward_kept {r₀ : State} (s : State) (p : Nat) (x : Parcel) (h : r₀.Keeps s) :
    r₀.Keeps (State.forward s p x) := by
  unfold State.forward
  repeat' (first
    | with_reducible (first
      | assumption | apply State.tallyPort_kept | apply State.modPort_kept | apply State.sendParcel_kept
      | apply State.crossDies_kept)
    | split
    | with_reducible (first
      | apply State.Keeps.with))

theorem execParcelForward_kept {r₀ : State} (p : PortIx) (s : State) (h : r₀.Keeps s) :
    r₀.RKeeps (execParcelForward p s) := by
  unfold execParcelForward
  try dsimp only
  repeat' (first
    | with_reducible (first
      | assumption | apply State.RKeeps.next | apply State.tally__kept | apply State.tallyPort_kept
      | apply State.setPort_kept | apply State.forward_kept)
    | split)

theorem State.replyTo_kept {r₀ : State} (s : State) (p : Nat) (x : Parcel) (st : Status) (h : r₀.Keeps s) :
    r₀.Keeps (State.replyTo s p x st) := by
  unfold State.replyTo
  repeat' (first
    | with_reducible (first
      | assumption | apply State.send_kept))

theorem State.bookParcel_kept {r₀ : State} (s : State) (p : Nat) (src : FrameSrc) (hdr data : List Byte) (h : r₀.Keeps s) :
    r₀.Keeps (State.bookParcel s p src hdr data) := by
  unfold State.bookParcel
  repeat' (first
    | with_reducible (first
      | assumption | apply State.setPort_kept)
    | split)

theorem State.sendCart_kept {r₀ : State} : ∀ (x0 : Nat), ∀ (s : State) (p : Nat) (q : QueueIx) (r : Route) (x : Queue) (group : Nat) (c data : List Byte) (x1 : Nat), r₀.Keeps s →
    r₀.Keeps (State.sendCart s p q r x group c data x0 x1) := by
  intro x0
  induction x0 with
  | zero =>
    intros
    unfold State.sendCart
    repeat' (first
      | with_reducible (first
        | assumption | apply State.sendParcel_kept | apply State.bookParcel_kept)
      | split
      | with_reducible (first
        | apply State.Keeps.with))
  | succ n ih =>
    intros
    unfold State.sendCart
    repeat' (first
      | with_reducible (first
        | assumption | apply ih | apply State.sendParcel_kept | apply State.bookParcel_kept)
      | split
      | with_reducible (first
        | apply State.Keeps.with))

theorem execFieldPortCartSend_kept {r₀ : State} (port : PortIx) (ring : QueueIx) (s : State) (h : r₀.Keeps s) :
    r₀.RKeeps (execFieldPortCartSend port ring s) := by
  unfold execFieldPortCartSend
  try dsimp only
  repeat' (first
    | with_reducible (first
      | assumption | apply State.RKeeps.next | apply State.Keeps.foldl | apply State.Keeps.foldlPair
      | apply State.tallyPort_kept | apply State.report_kept | apply State.modPort_kept | apply State.streamRead_kept
      | apply State.takeCart_kept | apply State.putFar_kept | apply State.sendCart_kept)
    | intro _ | split
    | with_reducible (first
      | apply State.Keeps.snd3 (by assumption) | apply State.Keeps.snd (by assumption)
      | apply State.OPKeeps.get (by assumption) | apply State.Keeps.with))

theorem execFieldPortCartReturn_kept {r₀ : State} (p : PortIx) (s : State) (h : r₀.Keeps s) :
    r₀.RKeeps (execFieldPortCartReturn p s) := by
  unfold execFieldPortCartReturn
  try dsimp only
  repeat' (first
    | with_reducible (first
      | assumption | apply State.RKeeps.next | apply State.setPort_kept | apply State.putFar_kept)
    | split)

theorem State.breakIngress_kept {r₀ : State} (s : State) (p q : Nat) (x : Parcel) (i : Ingress) (h : r₀.Keeps s) :
    r₀.Keeps (State.breakIngress s p q x i) := by
  unfold State.breakIngress
  repeat' (first
    | with_reducible (first
      | assumption | apply State.modPort_kept | apply State.putFar_kept | apply State.replyTo_kept))

theorem State.fillIngress_kept {r₀ : State} (s : State) (p q : Nat) (x : Parcel) (i : Ingress) (h : r₀.Keeps s) :
    r₀.Keeps (State.fillIngress s p q x i) := by
  unfold State.fillIngress
  try dsimp only
  repeat' (first
    | with_reducible (first
      | assumption | apply State.modPort_kept | apply State.streamWrite_kept | apply State.putFar_kept
      | apply State.breakIngress_kept)
    | split
    | with_reducible (first
      | apply State.Keeps.snd (by assumption) | fail))

theorem State.deliver0_kept {r₀ : State} (s : State) (p : Nat) (x : Parcel) (h : r₀.Keeps s) :
    r₀.Keeps (State.deliver0 s p x) := by
  unfold State.deliver0
  try dsimp only
  repeat' (first
    | with_reducible (first
      | assumption | apply State.tally__kept | apply State.tallyPort_kept | apply State.modPort_kept
      | apply State.reportRing_kept | apply State.takeCart_kept | apply State.replyTo_kept
      | apply State.fillIngress_kept)
    | split
    | with_reducible (first
      | apply State.Keeps.snd (by assumption) | fail))

theorem State.takeArrived_kept {r₀ : State} (s : State) (p cls : Nat) (h : r₀.Keeps s) :
    r₀.OPKeeps (State.takeArrived s p cls) := by
  unfold State.takeArrived
  repeat' (first
    | with_reducible (first
      | assumption | exact State.OPKeeps.none | apply State.OPKeeps.some | apply State.modPort_kept)
    | split)

theorem execClass0ParcelDeliver_kept {r₀ : State} (p : PortIx) (s : State) (h : r₀.Keeps s) :
    r₀.RKeeps (execClass0ParcelDeliver p s) := by
  unfold execClass0ParcelDeliver
  repeat' (first
    | with_reducible (first
      | assumption | apply State.RKeeps.next | apply State.deliver0_kept | apply State.takeArrived_kept)
    | split
    | with_reducible (first
      | apply State.OPKeeps.get (by assumption) | fail))

theorem execDeniedReplyReceive_kept {r₀ : State} (p : PortIx) (ring : BitVec 16) (st : Status) (s : State) (h : r₀.Keeps s) :
    r₀.RKeeps (execDeniedReplyReceive p ring st s) := by
  unfold execDeniedReplyReceive
  repeat' (first
    | with_reducible (first
      | assumption | apply State.RKeeps.next | apply State.Keeps.foldl | apply State.modPort_kept
      | apply State.putFar_kept | apply State.failSlot_kept)
    | intro _ | split
    | with_reducible (first
      | apply State.Keeps.snd (by assumption) | apply State.Keeps.with))

theorem execIngressWaitEnd_kept {r₀ : State} (p : PortIx) (s : State) (h : r₀.Keeps s) :
    r₀.RKeeps (execIngressWaitEnd p s) := by
  unfold execIngressWaitEnd
  try dsimp only
  repeat' (first
    | with_reducible (first
      | assumption | apply State.RKeeps.next | apply State.modPort_kept | apply State.deliver0_kept)
    | split)

theorem execIngressWaitTimeout_kept {r₀ : State} (p : PortIx) (s : State) (h : r₀.Keeps s) :
    r₀.RKeeps (execIngressWaitTimeout p s) := by
  unfold execIngressWaitTimeout
  try dsimp only
  repeat' (first
    | with_reducible (first
      | assumption | apply State.RKeeps.next | apply State.modPort_kept | apply State.advanceTo_kept
      | apply State.replyTo_kept)
    | split)

/-! ### Tilled.lean -/

theorem State.acceptSeat_kept {r₀ : State} (s : State) (g : Nat) (epoch mark : Nat) (h : r₀.Keeps s) :
    r₀.Keeps (State.acceptSeat s g epoch mark) := by
  unfold State.acceptSeat
  repeat' (first
    | with_reducible (first
      | assumption | apply State.Keeps.foldl | apply State.modMill_kept | apply State.modGroup_kept)
    | intro _)

theorem State.seatWrite_kept {r₀ : State} (s : State) (g : Nat) (v : Word) (h : r₀.Keeps s) :
    r₀.Keeps (State.seatWrite s g v) := by
  unfold State.seatWrite
  repeat' (first
    | with_reducible (first
      | assumption | apply State.cwHold_kept | apply State.modGroup_kept | apply State.raiseHalt_kept
      | apply State.acceptSeat_kept)
    | split
    | with_reducible (first
      | apply State.Keeps.with))

theorem execGroupSeat_kept {r₀ : State} (w : Writer) (g : SlotIx) (epoch : BitVec 16) (mark : BitVec 4) (s : State) (h :
    r₀.Keeps s) :
    r₀.RKeeps (execGroupSeat w g epoch mark s) := by
  unfold execGroupSeat
  repeat' (first
    | with_reducible (first
      | assumption | apply State.RKeeps.next | apply State.seatWrite_kept)
    | split)

theorem execGroupUnseat_kept {r₀ : State} (w : Writer) (g : SlotIx) (s : State) (h : r₀.Keeps s) :
    r₀.RKeeps (execGroupUnseat w g s) := by
  unfold execGroupUnseat
  repeat' (first
    | with_reducible (first
      | assumption | apply State.RKeeps.next | apply State.seatWrite_kept)
    | split)

theorem execHostHalt_kept {r₀ : State} (w : Writer) (g : SlotIx) (s : State) (h : r₀.Keeps s) :
    r₀.RKeeps (execHostHalt w g s) := by
  unfold execHostHalt
  repeat' (first
    | with_reducible (first
      | assumption | apply State.RKeeps.next | apply State.seatWrite_kept)
    | split)

theorem execUnseatBoundary_kept {r₀ : State} (g : SlotIx) (s : State) (h : r₀.Keeps s) :
    r₀.RKeeps (execUnseatBoundary g s) := by
  unfold execUnseatBoundary
  try dsimp only
  repeat' (first
    | with_reducible (first
      | assumption | apply State.RKeeps.next | apply State.modGroup_kept)
    | split)

theorem State.setSync_kept {r₀ : State} (s : State) (m : Nat) (mark : Option MarkDef) (h : r₀.Keeps s) :
    r₀.Keeps (State.setSync s m mark) := by
  unfold State.setSync
  repeat' (first
    | with_reducible (first
      | assumption | apply State.modMill_kept))

theorem State.setEpochs_kept {r₀ : State} (s : State) (a : Almanac) (h : r₀.Keeps s) :
    r₀.Keeps (State.setEpochs s a) := by
  unfold State.setEpochs
  repeat' (first
    | with_reducible (first
      | assumption | apply State.Keeps.foldl | apply State.modMill_kept | apply State.modPlot_kept
      | apply State.modQueue_kept)
    | intro _ | split)

theorem State.clearCaches_kept {r₀ : State} (s : State) (g : Group) (h : r₀.Keeps s) :
    r₀.Keeps (State.clearCaches s g) := by
  unfold State.clearCaches
  repeat' (first
    | with_reducible (first
      | assumption | apply State.Keeps.foldl)
    | intro _
    | with_reducible (first
      | apply State.Keeps.with))

theorem State.bookedPost_kept {r₀ : State} (s : State) (m : Nat) (e : Eng) (entry : Word) (args : List Word) (h : r₀.Keeps s) :
    r₀.Keeps (State.bookedPost s m e entry args) := by
  unfold State.bookedPost
  repeat' (first
    | with_reducible (first
      | assumption | apply State.modEng_kept | apply State.engineFault_kept)
    | split)

theorem execSeatBoundary_kept {r₀ : State} (g : SlotIx) (s : State) (h : r₀.Keeps s) :
    r₀.RKeeps (execSeatBoundary g s) := by
  unfold execSeatBoundary
  try dsimp only
  repeat' (first
    | with_reducible (first
      | assumption | apply State.RKeeps.next | apply State.Keeps.foldl | apply State.modGroup_kept
      | apply State.modPlot_kept | apply State.setSync_kept | apply State.setEpochs_kept
      | apply State.clearCaches_kept)
    | intro _ | split)

theorem execGroupResume_kept {r₀ : State} (g : SlotIx) (s : State) (h : r₀.Keeps s) :
    r₀.RKeeps (execGroupResume g s) := by
  unfold execGroupResume
  try dsimp only
  repeat' (first
    | with_reducible (first
      | assumption | apply State.RKeeps.next | apply State.Keeps.foldl | apply State.modGroup_kept
      | apply State.bookedPost_kept)
    | intro _ | split)

theorem execCheckpointMarkCommit_kept {r₀ : State} (g : SlotIx) (mark : BitVec 3) (s : State) (h : r₀.Keeps s) :
    r₀.RKeeps (execCheckpointMarkCommit g mark s) := by
  unfold execCheckpointMarkCommit
  try dsimp only
  repeat' (first
    | with_reducible (first
      | assumption | apply State.RKeeps.next | apply State.modGroup_kept)
    | split)

theorem State.bookedSlot_kept {r₀ : State} (s : State) (m : Nat) (c : Carter) (start : State → Nat → State)
    (hs : ∀ s k, r₀.Keeps s → r₀.Keeps (start s k)) (h : r₀.Keeps s) : r₀.Keeps (s.bookedSlot m c start) := by
  unfold State.bookedSlot
  split
  · exact hs _ _ (State.modMill_kept (h := h) ..)
  · exact State.engineFault_kept (h := h) ..

theorem State.sendBooked_kept {r₀ : State} (s : State) (p : Nat) (f : FrameSlot) (src : FrameSrc) (h : r₀.Keeps s) :
    r₀.Keeps (State.sendBooked s p f src) := by
  unfold State.sendBooked
  repeat' (first
    | with_reducible (first
      | assumption | apply State.send_kept | apply State.setPort_kept | apply State.cycle_kept)
    | split
    | with_reducible (first
      | apply State.Keeps.with))

theorem State.act_kept {r₀ : State} (s : State) (a : Action) (h : r₀.Keeps s) :
    r₀.Keeps (State.act s a) := by
  unfold State.act
  repeat' (first
    | with_reducible (first
      | assumption | apply State.Keeps.foldl | apply State.send_kept | apply State.modMill_kept
      | apply State.modGranary_kept | apply State.modPlot_kept | apply State.engineFault_kept
      | apply State.takeCart_kept | apply State.rearm_kept | apply State.startStream_kept | apply State.doMov_kept
      | apply State.putFar_kept | apply State.bookedPost_kept | apply State.bookedSlot_kept
      | apply State.sendBooked_kept)
    | intro _ | split
    | with_reducible (first
      | apply State.Keeps.snd (by assumption) | apply State.Keeps.with))

theorem State.useBooking_kept {r₀ : State} (s : State) (g i : Nat) (a : Action) (h : r₀.Keeps s) :
    r₀.Keeps (State.useBooking s g i a) := by
  unfold State.useBooking
  repeat' (first
    | with_reducible (first
      | assumption | apply State.report_kept | apply State.raiseHalt_kept | apply State.act_kept)
    | split)

theorem execBookingTakesEffect_kept {r₀ : State} (g : SlotIx) (i : Nat) (s : State) (h : r₀.Keeps s) :
    r₀.RKeeps (execBookingTakesEffect g i s) := by
  unfold execBookingTakesEffect
  try dsimp only
  repeat' (first
    | with_reducible (first
      | assumption | apply State.RKeeps.next | apply State.Keeps.foldl | apply State.Keeps.foldlPair
      | apply State.cycle_kept | apply State.pass_kept | apply State.act_kept | apply State.useBooking_kept)
    | intro _ | split
    | with_reducible (first
      | apply State.Keeps.snd3 (by assumption) | apply State.Keeps.snd (by assumption)
      | apply State.OPKeeps.get (by assumption) | apply State.Keeps.with))

theorem State.notice_kept {r₀ : State} (s : State) (p : Nat) (b : List Byte) (h : r₀.Keeps s) :
    r₀.Keeps (State.notice s p b) := by
  unfold State.notice
  repeat' (first
    | with_reducible (first
      | assumption | apply State.send_kept | apply State.cycle_kept)
    | split)

theorem execGroupHalt_kept {r₀ : State} (g : SlotIx) (s : State) (h : r₀.Keeps s) :
    r₀.RKeeps (execGroupHalt g s) := by
  unfold execGroupHalt
  try dsimp only
  repeat' (first
    | with_reducible (first
      | assumption | apply State.RKeeps.next | apply State.Keeps.foldl | apply State.Keeps.foldlPair
      | apply State.modMill_kept | apply State.modGroup_kept | apply State.modPort_kept | apply State.alert_kept
      | apply State.modPlot_kept | apply State.nextTick_kept | apply State.notice_kept)
    | intro _ | split
    | with_reducible (first
      | apply State.Keeps.snd3 (by assumption) | apply State.Keeps.snd (by assumption)
      | apply State.OPKeeps.get (by assumption) | apply State.Keeps.with))

theorem execHaltNoticeReceive_kept {r₀ : State} (p : PortIx) (payload : List Byte) (s : State) (h : r₀.Keeps s) :
    r₀.RKeeps (execHaltNoticeReceive p payload s) := by
  unfold execHaltNoticeReceive
  try dsimp only
  repeat' (first
    | with_reducible (first
      | assumption | apply State.RKeeps.next | apply State.tallyPort_kept | apply State.modGroup_kept)
    | split)

theorem State.bookedTransit_kept {r₀ : State} (s : State) (k : Nat) (p out : PortIx) (first : Bool) (b : List Byte) (h : r₀.Keeps s) :
    r₀.Keeps (State.bookedTransit s k p out first b) := by
  unfold State.bookedTransit
  repeat' (first
    | with_reducible (first
      | assumption | apply State.send_kept | apply State.tallyPort_kept | apply State.raiseHalt_kept
      | apply State.modPort_kept | apply State.crossDies_kept)
    | split)

theorem State.bookedDeliver_kept {r₀ : State} (s : State) (p g : Nat) (x : Parcel) (h : r₀.Keeps s) :
    r₀.Keeps (State.bookedDeliver s p g x) := by
  unfold State.bookedDeliver
  try dsimp only
  repeat' (first
    | with_reducible (first
      | assumption | apply State.tallyPort_kept | apply State.raiseHalt_kept | apply State.deliver0_kept)
    | split)

theorem State.bookedPut_kept {r₀ : State} (s : State) (p k : Nat) (x : BookedRx) (h : r₀.Keeps s) :
    r₀.Keeps (State.bookedPut s p k x) := by
  unfold State.bookedPut
  repeat' (first
    | with_reducible (first
      | assumption | apply State.modPort_kept | apply State.bookedDeliver_kept)
    | split)

theorem State.bookedTake_kept {r₀ : State} (s : State) (k p q : Nat) (first : Bool) (b : List Byte) (h : r₀.Keeps s) :
    r₀.Keeps (State.bookedTake s k p q first b) := by
  unfold State.bookedTake
  repeat' (first
    | with_reducible (first
      | assumption | apply State.tallyPort_kept | apply State.raiseHalt_kept | apply State.bookedPut_kept)
    | split
    | with_reducible (first
      | apply State.Keeps.with))

theorem State.bookedArrive_kept {r₀ : State} (s : State) (p : PortIx) (f : FrameSlot) (r : Option (List Byte × Nat)) (h : r₀.Keeps s) :
    r₀.Keeps (State.bookedArrive s p f r) := by
  unfold State.bookedArrive
  repeat' (first
    | with_reducible (first
      | assumption | apply State.tallyPort_kept | apply State.raiseHalt_kept | apply State.bookedTransit_kept
      | apply State.bookedTake_kept)
    | split
    | with_reducible (first
      | apply State.Keeps.with))

theorem State.bookedMissing_kept {r₀ : State} (s : State) (p : PortIx) (f : FrameSlot) (h : r₀.Keeps s) :
    r₀.Keeps (State.bookedMissing s p f) := by
  unfold State.bookedMissing
  repeat' (first
    | with_reducible (first
      | assumption | apply State.raiseHalt_kept)
    | split)

theorem execBookedFrameReceive_kept {r₀ : State} (p : PortIx) (at_ : FrameSlot) (groups : List (BitVec 10)) (s : State) (h : r₀.Keeps s) :
    r₀.RKeeps (execBookedFrameReceive p at_ groups s) := by
  unfold execBookedFrameReceive
  try dsimp only
  repeat' (first
    | with_reducible (first
      | assumption | apply State.RKeeps.next | apply State.Keeps.foldl | apply State.Keeps.foldlPair
      | apply State.decoded_kept | apply State.countFrame_kept | apply State.decodeFrame_kept
      | apply State.lockStep_kept | apply State.bookedArrive_kept | apply State.bookedMissing_kept)
    | intro _ | split
    | with_reducible (first
      | apply State.Keeps.snd3 (by assumption) | apply State.Keeps.snd (by assumption)
      | apply State.OPKeeps.get (by assumption) | apply State.Keeps.with))

theorem execBookedFrameMissing_kept {r₀ : State} (at_ : PortSlot) (s : State) (h : r₀.Keeps s) :
    r₀.RKeeps (execBookedFrameMissing at_ s) := by
  unfold execBookedFrameMissing
  repeat' (first
    | with_reducible (first
      | assumption | apply State.RKeeps.next | apply State.bookedMissing_kept)
    | split)

end Sys2Proof.Machine
end

