-- ==== Sys2Proof/Laws/KeepsQueues.lean ====
section
/-! SUPPORT. What every command keeps (Laws/Keeps.lean), for the operations and commands of queues, granaries, ledger and
    fabric. -/

namespace Sys2Proof.Machine

open Sys2Proof

/-! ### Queues.lean -/

theorem State.qsErr_kept {r₀ : State} (s : State) (unpriv : Bool) (kind q : Nat) (h : r₀.Keeps s) :
    r₀.Keeps (State.qsErr s unpriv kind q) := by
  unfold State.qsErr
  repeat' (first
    | with_reducible (first
      | assumption | apply State.evBits_kept)
    | split
    | with_reducible (first
      | apply State.Keeps.with))

theorem State.discardDoorbell_kept {r₀ : State} (s : State) (unpriv : Bool) (kind q : Nat) (h : r₀.Keeps s) :
    r₀.Keeps (State.discardDoorbell s unpriv kind q) := by
  unfold State.discardDoorbell
  repeat' (first
    | with_reducible (first
      | assumption | apply State.tally__kept | apply State.qsErr_kept))

theorem State.postRings_kept {r₀ : State} : ∀ (x0 : Nat), ∀ (s : State) (q : Nat), r₀.Keeps s →
    r₀.Keeps (State.postRings s q x0) := by
  intro x0
  induction x0 with
  | zero =>
    intros
    unfold State.postRings
    repeat' (first
      | with_reducible (first
        | assumption | apply State.postRing_kept))
  | succ n ih =>
    intros
    unfold State.postRings
    repeat' (first
      | with_reducible (first
        | assumption | apply ih | apply State.postRing_kept))

theorem State.moveCount_kept {r₀ : State} (s : State) (q : Nat) (tail : Bool) (v : BitVec 17) (h : r₀.Keeps s) :
    r₀.Keeps (State.moveCount s q tail v) := by
  unfold State.moveCount
  try dsimp only
  repeat' (first
    | with_reducible (first
      | assumption | apply State.modQueue_kept | apply State.postRings_kept)
    | split)

theorem State.ring_kept {r₀ : State} (s : State) (unpriv mgmt : Bool) (q : Nat) (v : BitVec 17) (h : r₀.Keeps s) :
    r₀.Keeps (State.ring s unpriv mgmt q v) := by
  unfold State.ring
  try dsimp only
  repeat' (first
    | with_reducible (first
      | assumption | apply State.checkCounts_kept | apply State.discardDoorbell_kept | apply State.moveCount_kept)
    | split
    | with_reducible (first
      | apply State.Keeps.snd (by assumption) | fail))

theorem State.doorbellFail_kept {r₀ : State} (s : State) (unpriv : Bool) (q : Nat) (h : r₀.Keeps s) :
    r₀.Keeps (State.doorbellFail s unpriv q) := by
  unfold State.doorbellFail
  repeat' (first
    | with_reducible (first
      | assumption | apply State.discardDoorbell_kept))

theorem execDoorbell_kept {r₀ : State} (w : Writer) (q : QueueIx) (count : BitVec 17) (s : State) (h : r₀.Keeps s) :
    r₀.RKeeps (execDoorbell w q count s) := by
  unfold execDoorbell
  repeat' (first
    | with_reducible (first
      | assumption | apply State.RKeeps.next | apply State.ring_kept)
    | split)

theorem execReeveDoorbell_kept {r₀ : State} (q : QueueIx) (count : BitVec 17) (s : State) (h : r₀.Keeps s) :
    r₀.RKeeps (execReeveDoorbell q count s) := by
  unfold execReeveDoorbell
  repeat' (first
    | with_reducible (first
      | assumption | apply State.RKeeps.next | apply State.ring_kept))

theorem execSqBurstArrive_kept {r₀ : State} (q : QueueIx) (s : State) (h : r₀.Keeps s) :
    r₀.RKeeps (execSqBurstArrive q s) := by
  unfold execSqBurstArrive
  try dsimp only
  repeat' (first
    | with_reducible (first
      | assumption | apply State.RKeeps.next | apply State.report_kept | apply State.streamRead_kept
      | apply State.modQueue_kept | apply State.checkCounts_kept)
    | split
    | with_reducible (first
      | apply State.Keeps.snd (by assumption) | fail))

theorem State.completeEntry_kept {r₀ : State} (s : State) (q : Nat) (idx : BitVec 17) (e : List Byte) (st : Status) (detail :
    Nat) (h : r₀.Keeps s) :
    r₀.Keeps (State.completeEntry s q idx e st detail) := by
  unfold State.completeEntry
  repeat' (first
    | with_reducible (first
      | assumption | apply State.completeIf_kept))

theorem State.completeMalformed_kept {r₀ : State} (s : State) (q : Nat) (idx : BitVec 17) (e : List Byte) (h : r₀.Keeps s) :
    r₀.Keeps (State.completeMalformed s q idx e) := by
  unfold State.completeMalformed
  try dsimp only
  repeat' (first
    | with_reducible (first
      | assumption | apply State.complete_kept)
    | split)

theorem State.takeEntry_kept {r₀ : State} (s : State) (q : Nat) (h : r₀.Keeps s) :
    r₀.Keeps (State.takeEntry s q) := by
  unfold State.takeEntry
  repeat' (first
    | with_reducible (first
      | assumption | apply State.modQueue_kept))

theorem State.setDsp_kept {r₀ : State} (s : State) (d : Die) (x : Dispatcher) (h : r₀.Keeps s) :
    r₀.Keeps (State.setDsp s d x) := by
  unfold State.setDsp
  repeat' (first
    | with_reducible (first
      | assumption)
    | split
    | with_reducible (first
      | apply State.Keeps.with))

theorem State.markWaiting_kept {r₀ : State} (s : State) (q : Nat) (h : r₀.Keeps s) :
    r₀.Keeps (State.markWaiting s q) := by
  unfold State.markWaiting
  repeat' (first
    | with_reducible (first
      | assumption | apply State.modQueue_kept))

theorem State.countWait_kept {r₀ : State} (s : State) (q : Nat) (h : r₀.Keeps s) :
    r₀.Keeps (State.countWait s q) := by
  unfold State.countWait
  repeat' (first
    | with_reducible (first
      | assumption | apply State.tally__kept)
    | split)

theorem State.place_kept {r₀ : State} (s : State) (q : Nat) (e : List Byte) (m : Nat) (h : r₀.Keeps s) :
    r₀.Keeps (State.place s q e m) := by
  unfold State.place
  repeat' (first
    | with_reducible (first
      | assumption | apply State.modEng_kept | apply State.tally__kept | apply State.takeEntry_kept))

theorem State.serveRun_kept {r₀ : State} (s : State) (q : Nat) (e : List Byte) (h : r₀.Keeps s) :
    r₀.Keeps (State.serveRun s q e).2 := by
  unfold State.serveRun
  try dsimp only
  repeat' (first
    | with_reducible (first
      | assumption | apply State.completeEntry_kept | apply State.takeEntry_kept | apply State.setDsp_kept
      | apply State.markWaiting_kept | apply State.countWait_kept | apply State.place_kept)
    | split)

theorem State.endCommand_kept {r₀ : State} (s : State) (c : CmdRef) (st : Status) (detail : Nat) (h : r₀.Keeps s) :
    r₀.Keeps (State.endCommand s c st detail) := by
  unfold State.endCommand
  repeat' (first
    | with_reducible (first
      | assumption | apply State.completeIf_kept))

theorem State.fence_kept {r₀ : State} (s : State) (c : CmdRef) (first n : Nat) (h : r₀.Keeps s) :
    r₀.Keeps (State.fence s c first n) := by
  unfold State.fence
  repeat' (first
    | with_reducible (first
      | assumption | apply State.endCommand_kept)
    | split
    | with_reducible (first
      | apply State.Keeps.with))

theorem State.dropItems_kept {r₀ : State} (s : State) (m q : Nat) (h : r₀.Keeps s) :
    r₀.Keeps (State.dropItems s m q).2 := by
  unfold State.dropItems
  repeat' (first
    | with_reducible (first
      | assumption | apply State.modEng_kept | apply State.cancelAll_kept)
    | with_reducible (first
      | apply State.Keeps.with))

theorem State.readEntry_kept {r₀ : State} (s : State) (q : Nat) (i : Nat) (h : r₀.Keeps s) :
    r₀.Keeps (State.readEntry s q i).2 := by
  unfold State.readEntry
  try dsimp only
  repeat' (first
    | with_reducible (first
      | assumption | apply State.streamRead_kept)
    | split
    | with_reducible (first
      | apply State.Keeps.snd (by assumption) | fail))

theorem State.cancelEntries_kept {r₀ : State} : ∀ (x0 : Nat), ∀ (s : State) (q : Nat) (x1 : Nat), r₀.Keeps s →
    r₀.Keeps (State.cancelEntries s q x0 x1).2 := by
  intro x0
  induction x0 with
  | zero =>
    intros
    unfold State.cancelEntries
    try dsimp only
    repeat' (first
      | with_reducible (first
        | assumption | apply State.modQueue_kept | apply State.completeEntry_kept | apply State.completeMalformed_kept
        | apply State.readEntry_kept)
      | split)
  | succ n ih =>
    intros
    unfold State.cancelEntries
    try dsimp only
    repeat' (first
      | with_reducible (first
        | assumption | apply ih | apply State.modQueue_kept | apply State.completeEntry_kept
        | apply State.completeMalformed_kept | apply State.readEntry_kept)
      | split)

theorem State.withdrawSq_kept {r₀ : State} (s : State) (c : CmdRef) (q : Nat) (force : Bool) (limit : Nat) (h : r₀.Keeps s) :
    r₀.Keeps (State.withdrawSq s c q force limit) := by
  unfold State.withdrawSq
  repeat' (first
    | with_reducible (first
      | assumption | apply State.Keeps.foldlPair | apply State.modQueue_kept | apply State.countWait_kept
      | apply State.dropItems_kept | apply State.cancelEntries_kept)
    | intro _
    | with_reducible (first
      | apply State.Keeps.with))

theorem State.withdrawSlot_kept {r₀ : State} (s : State) (m k : Nat) (h : r₀.Keeps s) :
    r₀.Keeps (State.withdrawSlot s m k) := by
  unfold State.withdrawSlot
  repeat' (first
    | with_reducible (first
      | assumption | apply State.setSlot_kept | apply State.cancelRest_kept | apply State.stopSlot_kept)
    | split)

theorem State.withdrawStreams_kept {r₀ : State} (s : State) (m : Nat) (h : r₀.Keeps s) :
    r₀.Keeps (State.withdrawStreams s m).2 := by
  unfold State.withdrawStreams
  repeat' (first
    | with_reducible (first
      | assumption | apply State.Keeps.foldlPair | apply State.withdrawSlot_kept)
    | intro _)

theorem State.withdrawMill_kept {r₀ : State} (s : State) (c : CmdRef) (m : Nat) (force : Bool) (limit : Nat) (h : r₀.Keeps s) :
    r₀.Keeps (State.withdrawMill s c m force limit) := by
  unfold State.withdrawMill
  repeat' (first
    | with_reducible (first
      | assumption | apply State.Keeps.foldl | apply State.cancelQueue_kept | apply State.withdrawStreams_kept)
    | intro _
    | with_reducible (first
      | apply State.Keeps.with))

theorem State.withdraw_kept {r₀ : State} (s : State) (c : CmdRef) (e : List Byte) (h : r₀.Keeps s) :
    r₀.Keeps (State.withdraw s c e) := by
  unfold State.withdraw
  try dsimp only
  repeat' (first
    | with_reducible (first
      | assumption | apply State.endCommand_kept | apply State.withdrawSq_kept | apply State.withdrawMill_kept)
    | split)

theorem State.migrate_kept {r₀ : State} (s : State) (c : CmdRef) (sel target was : Nat) (h : r₀.Keeps s) :
    r₀.Keeps (State.migrate s c sel target was) := by
  unfold State.migrate
  try dsimp only
  repeat' (first
    | with_reducible (first
      | assumption | apply State.modMill_kept | apply State.modPlot_kept | apply State.modQueue_kept
      | apply State.endCommand_kept)
    | split)

theorem State.setRing_kept {r₀ : State} (s : State) (q : Nat) (r : BitVec 192) (h : r₀.Keeps s) :
    r₀.Keeps (State.setRing s q r) := by
  unfold State.setRing
  repeat' (first
    | with_reducible (first
      | assumption | apply State.setQueue_kept))

theorem State.ringSetup_kept {r₀ : State} (s : State) (c : CmdRef) (ring : Nat) (rec : BitVec 192) (h : r₀.Keeps s) :
    r₀.Keeps (State.ringSetup s c ring rec) := by
  unfold State.ringSetup
  try dsimp only
  repeat' (first
    | with_reducible (first
      | assumption | apply State.ring_kept | apply State.endCommand_kept | apply State.setRing_kept)
    | split)

theorem State.resumeCommand_kept {r₀ : State} (s : State) (c : CmdRef) (m : Nat) (v : Word) (h : r₀.Keeps s) :
    r₀.Keeps (State.resumeCommand s c m v) := by
  unfold State.resumeCommand
  repeat' (first
    | with_reducible (first
      | assumption | apply State.streamResume_kept | apply State.endCommand_kept)
    | split
    | with_reducible (first
      | apply State.OKeeps.get (by assumption) | fail))

theorem State.serveCommand_kept {r₀ : State} (s : State) (q : Nat) (idx : BitVec 17) (e : List Byte) (h : r₀.Keeps s) :
    r₀.Keeps (State.serveCommand s q idx e) := by
  unfold State.serveCommand
  try dsimp only
  repeat' (first
    | with_reducible (first
      | assumption | apply State.endCommand_kept | apply State.fence_kept | apply State.withdraw_kept
      | apply State.migrate_kept | apply State.ringSetup_kept | apply State.resumeCommand_kept)
    | split)

theorem State.serve_kept {r₀ : State} (s : State) (q : Nat) (e : List Byte) (h : r₀.Keeps s) :
    r₀.Keeps (State.serve s q e).2 := by
  unfold State.serve
  repeat' (first
    | with_reducible (first
      | assumption | apply State.checkCounts_kept | apply State.completeMalformed_kept | apply State.takeEntry_kept
      | apply State.serveRun_kept | apply State.serveCommand_kept)
    | split
    | with_reducible (first
      | apply State.Keeps.snd (by assumption) | fail))

theorem State.serveFirst_kept {r₀ : State} : ∀ (x0 : List (Nat × List Byte)), ∀ (s : State), r₀.Keeps s →
    r₀.Keeps (State.serveFirst s x0).2 := by
  intro x0
  induction x0 with
  | nil =>
    intros
    unfold State.serveFirst
    repeat' (first
      | with_reducible (first
        | assumption | apply State.serve_kept)
      | split
      | with_reducible (first
        | apply State.Keeps.snd (by assumption) | fail))
  | cons a l ih =>
    intros
    unfold State.serveFirst
    repeat' (first
      | with_reducible (first
        | assumption | apply ih | apply State.serve_kept)
      | split
      | with_reducible (first
        | apply State.Keeps.snd (by assumption) | fail))

theorem State.dispatch_kept {r₀ : State} (s : State) (d : Die) (ok : Nat → Bool) (h : r₀.Keeps s) :
    r₀.Keeps (State.dispatch s d ok) := by
  unfold State.dispatch
  try dsimp only
  repeat' (first
    | with_reducible (first
      | assumption | apply State.advanceTo_kept | apply State.setDsp_kept | apply State.serveFirst_kept)
    | split
    | with_reducible (first
      | apply State.Keeps.snd (by assumption) | fail))

theorem execDispatchPlace_kept {r₀ : State} (d : Die) (s : State) (h : r₀.Keeps s) :
    r₀.RKeeps (execDispatchPlace d s) := by
  unfold execDispatchPlace
  repeat' (first
    | with_reducible (first
      | assumption | apply State.RKeeps.next | apply State.dispatch_kept))

theorem execPendingCompletionPost_kept {r₀ : State} (d : Die) (s : State) (h : r₀.Keeps s) :
    r₀.RKeeps (execPendingCompletionPost d s) := by
  unfold execPendingCompletionPost
  repeat' (first
    | with_reducible (first
      | assumption | apply State.RKeeps.next | apply State.postPendingFrom_kept))

theorem execFence_kept {r₀ : State} (d : Die) (s : State) (h : r₀.Keeps s) :
    r₀.RKeeps (execFence d s) := by
  unfold execFence
  repeat' (first
    | with_reducible (first
      | assumption | apply State.RKeeps.next | apply State.dispatch_kept))

theorem execFenceComplete_kept {r₀ : State} (q : QueueIx) (s : State) (h : r₀.Keeps s) :
    r₀.RKeeps (execFenceComplete q s) := by
  unfold execFenceComplete
  repeat' (first
    | with_reducible (first
      | assumption | apply State.RKeeps.next | apply State.endCommand_kept)
    | split
    | with_reducible (first
      | apply State.Keeps.with))

theorem execWithdraw_kept {r₀ : State} (d : Die) (s : State) (h : r₀.Keeps s) :
    r₀.RKeeps (execWithdraw d s) := by
  unfold execWithdraw
  repeat' (first
    | with_reducible (first
      | assumption | apply State.RKeeps.next | apply State.dispatch_kept))

theorem State.abortItem_kept {r₀ : State} (s : State) (m q : Nat) (h : r₀.Keeps s) :
    r₀.Keeps (State.abortItem s m q).2 := by
  unfold State.abortItem
  repeat' (first
    | with_reducible (first
      | assumption | apply State.Keeps.foldl | apply State.modEng_kept | apply State.stopMill_kept
      | apply State.stopSlot_kept)
    | intro _ | split)

theorem State.abortMill_kept {r₀ : State} (s : State) (m : Nat) (h : r₀.Keeps s) : r₀.Keeps (s.abortMill m).2.2 := by
  unfold State.abortMill
  apply State.Keeps.foldlPair3
  · apply State.Keeps.foldl
    · have h := State.Keeps.foldl (l := Eng.all) (f := fun s e => s.cancelQueue m e) h (fun s e h => State.cancelQueue_kept (h := h) ..)
      split
      · exact State.modMill_kept (h := h) ..
      · exact State.endRunning_kept (h := h) ..
    · intro s e h
      exact State.endRunning_kept (h := h) ..
  · intro p k h
    split
    · exact h
    · split
      · exact h
      · split
        · exact State.stopSlot_kept (h := h) ..
        · exact State.stopSlot_kept (h := h) ..

theorem execWithdrawLimitExpiry_kept {r₀ : State} (q : QueueIx) (s : State) (h : r₀.Keeps s) :
    r₀.RKeeps (execWithdrawLimitExpiry q s) := by
  unfold execWithdrawLimitExpiry
  try dsimp only
  repeat' (first
    | with_reducible (first
      | assumption | apply State.RKeeps.next | apply State.Keeps.foldl | apply State.Keeps.foldlPair
      | apply State.advanceTo_kept | apply State.abortItem_kept | apply State.abortMill_kept)
    | intro _ | split
    | with_reducible (first
      | apply State.Keeps.with))

theorem execWithdrawComplete_kept {r₀ : State} (q : QueueIx) (s : State) (h : r₀.Keeps s) :
    r₀.RKeeps (execWithdrawComplete q s) := by
  unfold execWithdrawComplete
  repeat' (first
    | with_reducible (first
      | assumption | apply State.RKeeps.next | apply State.modQueue_kept | apply State.endCommand_kept)
    | split
    | with_reducible (first
      | apply State.Keeps.with))

theorem execMigrate_kept {r₀ : State} (d : Die) (s : State) (h : r₀.Keeps s) :
    r₀.RKeeps (execMigrate d s) := by
  unfold execMigrate
  repeat' (first
    | with_reducible (first
      | assumption | apply State.RKeeps.next | apply State.dispatch_kept))

theorem execRingSetup_kept {r₀ : State} (d : Die) (s : State) (h : r₀.Keeps s) :
    r₀.RKeeps (execRingSetup d s) := by
  unfold execRingSetup
  repeat' (first
    | with_reducible (first
      | assumption | apply State.RKeeps.next | apply State.dispatch_kept))

theorem execStreamResumeCommand_kept {r₀ : State} (d : Die) (s : State) (h : r₀.Keeps s) :
    r₀.RKeeps (execStreamResumeCommand d s) := by
  unfold execStreamResumeCommand
  repeat' (first
    | with_reducible (first
      | assumption | apply State.RKeeps.next | apply State.dispatch_kept))

theorem State.qctl_kept {r₀ : State} (s : State) (v : Word) (h : r₀.Keeps s) :
    r₀.OKeeps (State.qctl s v) := by
  unfold State.qctl
  try dsimp only
  repeat' (first
    | with_reducible (first
      | assumption | apply State.OKeeps.some | exact State.OKeeps.none | exact State.OPKeeps.none
      | apply State.OPKeeps.some | exact State.DKeeps.none | apply State.DKeeps.some | apply State.EKeeps.ok
      | exact State.EKeeps.error | apply State.Keeps.foldl | apply State.Keeps.foldlPair3
      | apply State.Keeps.foldlPair | apply State.OKeeps.getD | apply State.OKeeps.map | apply State.cwHold_kept
      | apply State.setQueue_kept)
    | intro _ | split
    | with_reducible (first
      | apply State.Keeps.snd3 (by assumption) | apply State.Keeps.snd (by assumption)
      | apply State.OKeeps.get (by assumption) | apply State.OPKeeps.get (by assumption)
      | apply State.EKeeps.get (by assumption) | apply State.DKeeps.get (by assumption) | apply State.Keeps.with
      | refine State.Keeps.withIdent (h := ?_) (a := rfl) (b := rfl) ..
      | refine State.Keeps.withSec (h := ?_) (a := rfl) (b := rfl) (c := rfl) ..)
    | exact fun _ => rfl | exact rfl | omega)

theorem State.qctlWrite_kept {r₀ : State} (s : State) (w : Writer) (v : Nat) (h : r₀.Keeps s) :
    r₀.Keeps (State.qctlWrite s w v) := by
  unfold State.qctlWrite
  repeat' (first
    | with_reducible (first
      | assumption | apply State.commit_kept | apply State.qctl_kept)
    | split)

theorem execQueueEnable_kept {r₀ : State} (w : Writer) (q : QueueIx) (clr : Bool) (s : State) (h : r₀.Keeps s) :
    r₀.RKeeps (execQueueEnable w q clr s) := by
  unfold execQueueEnable
  repeat' (first
    | with_reducible (first
      | assumption | apply State.RKeeps.next | apply State.qctlWrite_kept))

theorem execQueueDisable_kept {r₀ : State} (w : Writer) (q : QueueIx) (s : State) (h : r₀.Keeps s) :
    r₀.RKeeps (execQueueDisable w q s) := by
  unfold execQueueDisable
  repeat' (first
    | with_reducible (first
      | assumption | apply State.RKeeps.next | apply State.qctlWrite_kept))

theorem execOvfClr_kept {r₀ : State} (w : Writer) (q : QueueIx) (en : Bool) (s : State) (h : r₀.Keeps s) :
    r₀.RKeeps (execOvfClr w q en s) := by
  unfold execOvfClr
  repeat' (first
    | with_reducible (first
      | assumption | apply State.RKeeps.next | apply State.qctlWrite_kept))

theorem State.recordWrite_kept {r₀ : State} (s : State) (q i : Nat) (v : Word) (h : r₀.Keeps s) :
    r₀.Keeps (State.recordWrite s q i v) := by
  unfold State.recordWrite
  repeat' (first
    | with_reducible (first
      | assumption | apply State.modQueue_kept | apply State.qsErr_kept)
    | split)

theorem execQueueRecordWrite_kept {r₀ : State} (w : Writer) (q : BitVec 13) (i : BitVec 3) (v : Word) (s : State) (h : r₀.Keeps
    s) :
    r₀.RKeeps (execQueueRecordWrite w q i v s) := by
  unfold execQueueRecordWrite
  repeat' (first
    | with_reducible (first
      | assumption | apply State.RKeeps.next | apply State.recordWrite_kept)
    | split)

/-! ### GranaryOps.lean -/

theorem State.grnControl_kept {r₀ : State} (s : State) (site : Nat) (r : GrnReq) (st : Status) (h : r₀.Keeps s) :
    r₀.Keeps (State.grnControl s site r st) := by
  unfold State.grnControl
  repeat' (first
    | with_reducible (first
      | assumption | apply State.send_kept))

theorem State.grnCommand_kept {r₀ : State} (s : State) (site addr code : Nat) (data : List Byte) (h : r₀.Keeps s) :
    r₀.Keeps (State.grnCommand s site addr code data) := by
  unfold State.grnCommand
  repeat' (first
    | with_reducible (first
      | assumption | apply State.send_kept))

theorem State.grnHalt_kept {r₀ : State} (s : State) (r : GrnReq) (h : r₀.Keeps s) :
    r₀.Keeps (State.grnHalt s r) := by
  unfold State.grnHalt
  repeat' (first
    | with_reducible (first
      | assumption | apply State.raiseMill_kept)
    | split)

theorem execGranaryRequestArrive_kept {r₀ : State} (site : SiteIx) (addr : BitVec 36) (src : BitVec 16) (tag : Byte) (write :
    Bool) (mask : BitVec 64) (data : List Byte) (s : State) (h : r₀.Keeps s) :
    r₀.RKeeps (execGranaryRequestArrive site addr src tag write mask data s) := by
  unfold execGranaryRequestArrive
  try dsimp only
  repeat' (first
    | with_reducible (first
      | assumption | apply State.RKeeps.next | apply State.modGranary_kept | apply State.grnControl_kept)
    | split)

theorem State.openRow_kept {r₀ : State} (s : State) (site off : Nat) (h : r₀.Keeps s) : r₀.Keeps (State.openRow s site off) := by
  unfold State.openRow
  exact State.modGranary_kept (h := h) ..

theorem State.closeRow_kept {r₀ : State} (s : State) (site off : Nat) (h : r₀.Keeps s) : r₀.Keeps (State.closeRow s site off) := by
  unfold State.closeRow
  dsimp only
  split
  · exact State.modGranary_kept (h := State.send_kept (h := h) ..) ..
  · exact h

theorem State.ackWrite_kept {r₀ : State} (s : State) (src addr tag : Nat) (h : r₀.Keeps s) :
    r₀.Keeps (State.ackWrite s src addr tag) := by
  unfold State.ackWrite
  split
  · exact h
  · exact State.send_kept (h := h) ..

theorem State.grnWrite_kept {r₀ : State} (s : State) (site : Nat) (r : GrnReq) (h : r₀.Keeps s) :
    r₀.Keeps (State.grnWrite s site r) := by
  unfold State.grnWrite
  try dsimp only
  repeat' (first
    | with_reducible (first
      | assumption | apply State.setBytes_kept | apply State.countSoft_kept | apply State.grnError_kept
      | apply State.grnControl_kept | apply State.grnCommand_kept | apply State.grnHalt_kept | apply State.ackWrite_kept)
    | split)

theorem State.grnRead_kept {r₀ : State} (s : State) (site p : Nat) (r : GrnReq) (due : Nat) (h : r₀.Keeps s) :
    r₀.Keeps (State.grnRead s site p r due) := by
  unfold State.grnRead
  repeat' (first
    | with_reducible (first
      | assumption | apply State.modGranary_kept | apply State.countSoft_kept | apply State.grnCommand_kept))

theorem execGranaryCommandIssue_kept {r₀ : State} (site : SiteIx) (pc : BitVec 6) (write : Bool) (i : BitVec 6) (s : State) (h
    : r₀.Keeps s) :
    r₀.RKeeps (execGranaryCommandIssue site pc write i s) := by
  unfold execGranaryCommandIssue
  try dsimp only
  repeat' (first
    | with_reducible (first
      | assumption | apply State.RKeeps.next | apply State.modGranary_kept | apply State.grnWrite_kept
      | apply State.grnRead_kept | apply State.openRow_kept)
    | split)

theorem execGranaryReadReturn_kept {r₀ : State} (site : SiteIx) (pc : BitVec 6) (s : State) (h : r₀.Keeps s) :
    r₀.RKeeps (execGranaryReadReturn site pc s) := by
  unfold execGranaryReadReturn
  try dsimp only
  repeat' (first
    | with_reducible (first
      | assumption | apply State.RKeeps.next | apply State.send_kept | apply State.modGranary_kept
      | apply State.grnError_kept | apply State.grnControl_kept | apply State.grnHalt_kept | apply State.advanceTo_kept)
    | split)

theorem execBookedGranaryCommand_kept {r₀ : State} (site : SiteIx) (late : Option (BitVec 16 × BitVec 13 × BitVec 13)) (s :
    State) (h : r₀.Keeps s) :
    r₀.RKeeps (execBookedGranaryCommand site late s) := by
  unfold execBookedGranaryCommand
  try dsimp only
  repeat' (first
    | with_reducible (first
      | assumption | apply State.RKeeps.next | apply State.modGranary_kept | apply State.crossFault_kept
      | apply State.grnWrite_kept | apply State.grnRead_kept | apply State.closeRow_kept)
    | split)

theorem State.openWindows_kept {r₀ : State} (s : State) (n : Nat) (slot : Bool) (h : r₀.Keeps s) :
    r₀.Keeps (State.openWindows s n slot) := by
  unfold State.openWindows
  repeat' (first
    | with_reducible (first
      | assumption | apply State.Keeps.foldl | apply State.modGranary_kept | apply State.grnCommand_kept)
    | intro _)

theorem execRefreshWindow_kept {r₀ : State} (s : State) (h : r₀.Keeps s) :
    r₀.RKeeps (execRefreshWindow s) := by
  unfold execRefreshWindow
  repeat' (first
    | with_reducible (first
      | assumption | apply State.RKeeps.next | apply State.openWindows_kept)
    | split)

theorem execTrainingSlot_kept {r₀ : State} (s : State) (h : r₀.Keeps s) :
    r₀.RKeeps (execTrainingSlot s) := by
  unfold execTrainingSlot
  repeat' (first
    | with_reducible (first
      | assumption | apply State.RKeeps.next | apply State.openWindows_kept)
    | split)

theorem execRefreshWindowEnd_kept {r₀ : State} (s : State) (h : r₀.Keeps s) :
    r₀.RKeeps (execRefreshWindowEnd s) := by
  unfold execRefreshWindowEnd
  repeat' (first
    | with_reducible (first
      | assumption | apply State.RKeeps.next | apply State.Keeps.foldl | apply State.modGranary_kept
      | apply State.advanceTo_kept)
    | intro _ | split)

theorem execTemperatureReading_kept {r₀ : State} (site : SiteIx) (temp : Byte) (s : State) (h : r₀.Keeps s) :
    r₀.RKeeps (execTemperatureReading site temp s) := by
  unfold execTemperatureReading
  try dsimp only
  repeat' (first
    | with_reducible (first
      | assumption | apply State.RKeeps.next | apply State.Keeps.foldl | apply State.Keeps.foldlPair
      | apply State.evBits_kept | apply State.report_kept | apply State.raiseHalt_kept | apply State.alert_kept
      | apply State.modGranary_kept)
    | intro _ | split
    | with_reducible (first
      | apply State.Keeps.snd3 (by assumption) | apply State.Keeps.snd (by assumption)
      | apply State.OPKeeps.get (by assumption) | apply State.Keeps.with))

theorem execCadenceChange_kept {r₀ : State} (s : State) (h : r₀.Keeps s) :
    r₀.RKeeps (execCadenceChange s) := by
  unfold execCadenceChange
  repeat' (first
    | with_reducible (first
      | assumption | apply State.RKeeps.next)
    | split
    | with_reducible (first
      | apply State.Keeps.with))

theorem State.cadWrite_kept {r₀ : State} (s : State) (v : Word) (h : r₀.Keeps s) :
    r₀.Keeps (State.cadWrite s v) := by
  unfold State.cadWrite
  repeat' (first
    | with_reducible (first
      | assumption | apply State.evBits_kept)
    | split
    | with_reducible (first
      | apply State.Keeps.with))

theorem execGrnCadWrite_kept {r₀ : State} (w : Writer) (hot : Bool) (s : State) (h : r₀.Keeps s) :
    r₀.RKeeps (execGrnCadWrite w hot s) := by
  unfold execGrnCadWrite
  repeat' (first
    | with_reducible (first
      | assumption | apply State.RKeeps.next | apply State.cadWrite_kept)
    | split)

theorem State.grnCtl_kept {r₀ : State} (s : State) (site : Nat) (v : Word) (h : r₀.Keeps s) :
    r₀.OKeeps (State.grnCtl s site v) := by
  unfold State.grnCtl
  repeat' (first
    | with_reducible (first
      | assumption | apply State.OKeeps.some | exact State.OKeeps.none | apply State.modGranary_kept)
    | split)

theorem execGrnOpen_kept {r₀ : State} (w : Writer) (site : SiteIx) (s : State) (h : r₀.Keeps s) :
    r₀.RKeeps (execGrnOpen w site s) := by
  unfold execGrnOpen
  repeat' (first
    | with_reducible (first
      | assumption | apply State.RKeeps.next | apply State.commit_kept | apply State.grnCtl_kept)
    | split)

theorem State.hashWrite_kept {r₀ : State} (s : State) (site h : Nat) (high : Bool) (v : Word) (hK : r₀.Keeps s) :
    r₀.OKeeps (State.hashWrite s site h high v) := by
  unfold State.hashWrite
  try dsimp only
  repeat' (first
    | with_reducible (first
      | assumption | apply State.OKeeps.some | exact State.OKeeps.none | apply State.modGranary_kept)
    | split)

theorem State.dropStaged_kept {r₀ : State} (s : State) (site h : Nat) (hK : r₀.Keeps s) :
    r₀.Keeps (State.dropStaged s site h) := by
  unfold State.dropStaged
  repeat' (first
    | with_reducible (first
      | assumption | apply State.modGranary_kept))

theorem State.hashCommit_kept {r₀ : State} (s : State) (w : Writer) (site h : Nat) (high : Bool) (v : Word) (hK : r₀.Keeps s) :
    r₀.Keeps (State.hashCommit s w site h high v) := by
  unfold State.hashCommit
  repeat' (first
    | with_reducible (first
      | assumption | apply State.cwFail_kept | apply State.hashWrite_kept | apply State.dropStaged_kept)
    | split
    | with_reducible (first
      | apply State.OKeeps.get (by assumption) | fail))

theorem execGrnHashWrite_kept {r₀ : State} (w : Writer) (site : SiteIx) (h : BitVec 4) (high : Bool) (v : Word) (s : State) (hK
    : r₀.Keeps s) :
    r₀.RKeeps (execGrnHashWrite w site h high v s) := by
  unfold execGrnHashWrite
  repeat' (first
    | with_reducible (first
      | assumption | apply State.RKeeps.next | apply State.hashCommit_kept)
    | split)

theorem execTrainingRunStart_kept {r₀ : State} (site : SiteIx) (lg : BitVec 5) (pattern : BitVec 2) (dir pc : Bool) (ch :
    BitVec 5) (s : State) (h : r₀.Keeps s) :
    r₀.RKeeps (execTrainingRunStart site lg pattern dir pc ch s) := by
  unfold execTrainingRunStart
  try dsimp only
  repeat' (first
    | with_reducible (first
      | assumption | apply State.RKeeps.next | apply State.modGranary_kept)
    | split)

theorem execTrainingRunDone_kept {r₀ : State} (site : SiteIx) (errs : List (BitVec 16)) (s : State) (h : r₀.Keeps s) :
    r₀.RKeeps (execTrainingRunDone site errs s) := by
  unfold execTrainingRunDone
  try dsimp only
  repeat' (first
    | with_reducible (first
      | assumption | apply State.RKeeps.next | apply State.modGranary_kept)
    | split)

theorem execTrainingDelayWrite_kept {r₀ : State} (site : SiteIx) (lane : BitVec 6) (wr rd : BitVec 7) (s : State) (h : r₀.Keeps
    s) :
    r₀.RKeeps (execTrainingDelayWrite site lane wr rd s) := by
  unfold execTrainingDelayWrite
  try dsimp only
  repeat' (first
    | with_reducible (first
      | assumption | apply State.RKeeps.next | apply State.modGranary_kept)
    | split)

theorem execGranaryTrainingComplete_kept {r₀ : State} (site : SiteIx) (passed : Bool) (latencies : List (BitVec 16)) (s :
    State) (h : r₀.Keeps s) :
    r₀.RKeeps (execGranaryTrainingComplete site passed latencies s) := by
  unfold execGranaryTrainingComplete
  try dsimp only
  repeat' (first
    | with_reducible (first
      | assumption | apply State.RKeeps.next | apply State.modGranary_kept)
    | split)

theorem execSoftRowRepair_kept {r₀ : State} (site : SiteIx) (addr : BitVec 36) (s : State) (h : r₀.Keeps s) :
    r₀.RKeeps (execSoftRowRepair site addr s) := by
  unfold execSoftRowRepair
  try dsimp only
  repeat' (first
    | with_reducible (first
      | assumption | apply State.RKeeps.next | apply State.modGranary_kept)
    | split)

/-! ### LedgerOps.lean -/

theorem State.oldEntry_kept {r₀ : State} (s : State) (page : Nat) (h : r₀.Keeps s) :
    r₀.Keeps (State.oldEntry s page).2 := by
  unfold State.oldEntry
  try dsimp only
  repeat' (first
    | with_reducible (first
      | assumption | apply State.ledgerRead_kept)
    | split)

theorem State.zeroRange_kept {r₀ s : State} (a n : Nat) (h : r₀.Keeps s) : r₀.Keeps (s.zeroRange a n) := by
  unfold State.zeroRange
  exact State.Keeps.withMem (s := s) (h := h) (a := fun w => Memory.wf_filter _ _ w) ..

theorem State.writeEntry_kept {r₀ : State} (s : State) (page : Nat) (e : LedgerEntry) (zero : List Nat) (h : r₀.Keeps s) :
    r₀.Keeps (State.writeEntry s page e zero) := by
  unfold State.writeEntry
  repeat' (first
    | with_reducible (first
      | assumption | apply State.Keeps.foldl | apply State.zeroRange_kept)
    | intro _
    | with_reducible (first
      | apply State.Keeps.with))

theorem State.applyUpdate_kept {r₀ : State} (s : State) (page : Nat) (ctl frame : Word) (term : Option Word) (h : r₀.Keeps s) :
    r₀.Keeps (State.applyUpdate s page ctl frame term).2 := by
  unfold State.applyUpdate
  try dsimp only
  repeat' (first
    | with_reducible (first
      | assumption | apply State.Keeps.foldl | apply State.oldEntry_kept | apply State.writeEntry_kept)
    | split)

theorem State.updateStatus_kept {r₀ : State} (s : State) (reeve : Bool) (page : Nat) (st : Status) (h : r₀.Keeps s) :
    r₀.Keeps (State.updateStatus s reeve page st) := by
  unfold State.updateStatus
  repeat' (first
    | with_reducible (first
      | assumption | apply State.send_kept)
    | split
    | with_reducible (first
      | apply State.Keeps.with))

theorem State.hostUpdate_kept {r₀ : State} (s : State) (page : Nat) (h : r₀.Keeps s) :
    r₀.OKeeps (State.hostUpdate s page) := by
  unfold State.hostUpdate
  try dsimp only
  repeat' (first
    | with_reducible (first
      | assumption | apply State.OKeeps.some | exact State.OKeeps.none | apply State.applyUpdate_kept
      | apply State.updateStatus_kept)
    | split
    | with_reducible (first
      | apply State.Keeps.snd (by assumption) | apply State.Keeps.with))

theorem State.reeveUpdate_kept {r₀ : State} (s : State) (page : Nat) (term ctl frame : Word) (h : r₀.Keeps s) :
    r₀.Keeps (State.reeveUpdate s page term ctl frame) := by
  unfold State.reeveUpdate
  repeat' (first
    | with_reducible (first
      | assumption | apply State.tallyW_kept | apply State.applyUpdate_kept | apply State.updateStatus_kept)
    | split
    | with_reducible (first
      | apply State.Keeps.snd (by assumption) | apply State.Keeps.with))

theorem execLedgerUpdate_kept {r₀ : State} (path : LedgerPath) (page : BitVec 19) (s : State) (h : r₀.Keeps s) :
    r₀.RKeeps (execLedgerUpdate path page s) := by
  unfold execLedgerUpdate
  repeat' (first
    | with_reducible (first
      | assumption | apply State.RKeeps.next | apply State.commit_kept | apply State.hostUpdate_kept
      | apply State.reeveUpdate_kept)
    | split
    | with_reducible (first
      | apply State.Keeps.snd (by assumption) | fail))

theorem State.finishUpdate_kept {r₀ : State} (s : State) (reeve : Bool) (u : LedgerUpdate) (h : r₀.Keeps s) :
    r₀.Keeps (State.finishUpdate s reeve u) := by
  unfold State.finishUpdate
  repeat' (first
    | with_reducible (first
      | assumption | apply State.updateStatus_kept)
    | with_reducible (first
      | apply State.Keeps.with))

/-! ### FabricOps.lean -/

theorem State.endTapCart_kept {r₀ : State} (s : State) (p : Nat) (c : TapCart) (h : r₀.Keeps s) :
    r₀.Keeps (State.endTapCart s p c) := by
  unfold State.endTapCart
  repeat' (first
    | with_reducible (first
      | assumption | apply State.putFar_kept | apply State.ring_kept)
    | split)

theorem State.endTapStream_kept {r₀ : State} (s : State) (p : Nat) (st : Status) (t : TapStream) (h : r₀.Keeps s) :
    r₀.Keeps (State.endTapStream s p st t) := by
  unfold State.endTapStream
  repeat' (first
    | with_reducible (first
      | assumption | apply State.send_kept))

theorem State.endTapStages_kept {r₀ : State} (s : State) (p : Nat) (h : r₀.Keeps s) :
    r₀.Keeps (State.endTapStages s p) := by
  unfold State.endTapStages
  repeat' (first
    | with_reducible (first
      | assumption | apply State.Keeps.foldl | apply State.modPlot_kept | apply State.endTapCart_kept
      | apply State.endTapStream_kept)
    | intro _)

theorem State.holdHedges_kept {r₀ : State} (s : State) (p : Nat) (h : r₀.Keeps s) : r₀.Keeps (State.holdHedges s p) := by
  unfold State.holdHedges
  repeat' (first
    | with_reducible (first
      | assumption | apply State.Keeps.foldl | apply State.modPlot_kept)
    | intro _)

theorem State.closePlot_kept {r₀ : State} (s : State) (p : Nat) (st : PlotState) (h : r₀.Keeps s) :
    r₀.Keeps (State.closePlot s p st) := by
  unfold State.closePlot
  repeat' (first
    | with_reducible (first
      | assumption | apply State.modPlot_kept | apply State.endTapStages_kept | apply State.holdHedges_kept))

theorem State.askClose_kept {r₀ : State} (s : State) (p : Nat) (st : PlotState) (h : r₀.Keeps s) :
    r₀.Keeps (State.askClose s p st) := by
  unfold State.askClose
  repeat' (first
    | with_reducible (first
      | assumption | apply State.modPlot_kept))

theorem execPlotClose_kept {r₀ : State} (p : PlotIx) (s : State) (h : r₀.Keeps s) :
    r₀.RKeeps (execPlotClose p s) := by
  unfold execPlotClose
  try dsimp only
  repeat' (first
    | with_reducible (first
      | assumption | apply State.RKeeps.next | apply State.closePlot_kept)
    | split)

theorem execPlotRelease_kept {r₀ : State} (p : PlotIx) (s : State) (h : r₀.Keeps s) :
    r₀.RKeeps (execPlotRelease p s) := by
  unfold execPlotRelease
  try dsimp only
  repeat' (first
    | with_reducible (first
      | assumption | apply State.RKeeps.next | apply State.modPlot_kept)
    | split)

theorem execPlotReleaseStage_kept {r₀ : State} (p : PlotIx) (s : State) (h : r₀.Keeps s) :
    r₀.RKeeps (execPlotReleaseStage p s) := by
  unfold execPlotReleaseStage
  try dsimp only
  repeat' (first
    | with_reducible (first
      | assumption | apply State.RKeeps.next | apply State.modPlot_kept | apply State.advanceTo_kept)
    | split)

theorem State.tapBram_kept {r₀ : State} (s : State) (k : Nat) (p : PktHdr) (data : List Byte) (h : r₀.Keeps s) :
    r₀.Keeps (State.tapBram s k p data) := by
  unfold State.tapBram
  repeat' (first
    | with_reducible (first
      | assumption | apply State.send_kept | apply State.tally__kept | apply State.raiseHalt_kept
      | apply State.countSoft_kept | apply State.badRead_kept | apply State.failOwner_kept
      | apply State.writeGranules_kept | apply State.controlMessage_kept)
    | split
    | with_reducible (first
      | apply State.Keeps.with))

theorem execTapPacketArrive_kept {r₀ : State} (d : Die) (t : BitVec 6) (space3 : Bool) (hdr data : List Byte) (s : State) (h : r₀.Keeps s) :
    r₀.RKeeps (execTapPacketArrive d t space3 hdr data s) := by
  unfold execTapPacketArrive
  try dsimp only
  repeat' (first
    | with_reducible (first
      | assumption | apply State.RKeeps.next | apply State.Keeps.foldl | apply State.Keeps.foldlPair
      | apply State.send_kept | apply State.tally__kept | apply State.failOwner_kept | apply State.controlMessage_kept
      | apply State.tapBram_kept)
    | intro _ | split
    | with_reducible (first
      | apply State.Keeps.snd3 (by assumption) | apply State.Keeps.snd (by assumption)
      | apply State.OPKeeps.get (by assumption) | apply State.Keeps.with))

theorem State.tellUser_kept {r₀ : State} (s : State) (p addr : Nat) (st : Status) (data : List Byte) (h : r₀.Keeps s) :
    r₀.Keeps (State.tellUser s p addr st data) := by
  unfold State.tellUser
  repeat' (first
    | with_reducible (first
      | assumption | apply State.send_kept))

theorem State.tapRead_kept {r₀ : State} (s : State) (d : Die) (va n : Nat) (h : r₀.Keeps s) :
    r₀.Keeps (State.tapRead s d va n).2 := by
  unfold State.tapRead
  try dsimp only
  repeat' (first
    | with_reducible (first
      | assumption | apply State.streamRead_kept)
    | split
    | with_reducible (first
      | apply State.Keeps.snd (by assumption) | fail))

theorem State.tapWrite_kept {r₀ : State} (s : State) (d : Die) (va : Nat) (b : List Byte) (h : r₀.Keeps s) :
    r₀.Keeps (State.tapWrite s d va b).2 := by
  unfold State.tapWrite
  try dsimp only
  repeat' (first
    | with_reducible (first
      | assumption | apply State.streamWrite_kept)
    | split
    | with_reducible (first
      | apply State.Keeps.snd (by assumption) | fail))

theorem execTapVirtualAccess_kept {r₀ : State} (p : PlotIx) (va : BitVec 40) (len : BitVec 12) (data : Option (List Byte)) (s :
    State) (h : r₀.Keeps s) :
    r₀.RKeeps (execTapVirtualAccess p va len data s) := by
  unfold execTapVirtualAccess
  try dsimp only
  repeat' (first
    | with_reducible (first
      | assumption | apply State.RKeeps.next | apply State.tellUser_kept | apply State.tapRead_kept
      | apply State.tapWrite_kept)
    | split
    | with_reducible (first
      | apply State.Keeps.snd (by assumption) | fail))

theorem execTapUserPacketSend_kept {r₀ : State} (d : Die) (t : BitVec 6) (hdr data : List Byte) (s : State) (h : r₀.Keeps s) :
    r₀.RKeeps (execTapUserPacketSend d t hdr data s) := by
  unfold execTapUserPacketSend
  try dsimp only
  repeat' (first
    | with_reducible (first
      | assumption | apply State.RKeeps.next | apply State.Keeps.foldl | apply State.Keeps.foldlPair
      | apply State.send_kept | apply State.torError_kept | apply State.tellUser_kept)
    | intro _ | split
    | with_reducible (first
      | apply State.Keeps.snd3 (by assumption) | apply State.Keeps.snd (by assumption)
      | apply State.OPKeeps.get (by assumption) | apply State.Keeps.with))

theorem State.tapTake_kept {r₀ : State} (s : State) (p q : Nat) (reading : Bool) (h : r₀.Keeps s) :
    r₀.Keeps (State.tapTake s p q reading) := by
  unfold State.tapTake
  repeat' (first
    | with_reducible (first
      | assumption | apply State.tally__kept | apply State.modPlot_kept | apply State.reportRing_kept
      | apply State.takeCart_kept | apply State.ring_kept | apply State.tellUser_kept)
    | split
    | with_reducible (first
      | apply State.Keeps.snd (by assumption) | fail))

theorem State.tapPut_kept {r₀ : State} (s : State) (p i : Nat) (h : r₀.Keeps s) :
    r₀.Keeps (State.tapPut s p i) := by
  unfold State.tapPut
  try dsimp only
  repeat' (first
    | with_reducible (first
      | assumption | apply State.modPlot_kept | apply State.reportRing_kept | apply State.putFar_kept
      | apply State.ring_kept | apply State.tellUser_kept)
    | split)

theorem State.tapStage_kept {r₀ : State} (s : State) (p : Nat) (op : TapOp) (h : r₀.Keeps s) :
    r₀.Keeps (State.tapStage s p op) := by
  unfold State.tapStage
  try dsimp only
  repeat' (first
    | with_reducible (first
      | assumption | apply State.Keeps.foldl | apply State.modPlot_kept | apply State.streamRead_kept
      | apply State.streamWrite_kept | apply State.ring_kept | apply State.endTapStream_kept
      | apply State.tellUser_kept | apply State.tapWrite_kept | apply State.tapTake_kept | apply State.tapPut_kept)
    | intro _ | split
    | with_reducible (first
      | apply State.Keeps.snd (by assumption) | fail))

theorem execTapCartStage_kept {r₀ : State} (p : PlotIx) (op : TapOp) (s : State) (h : r₀.Keeps s) :
    r₀.RKeeps (execTapCartStage p op s) := by
  unfold execTapCartStage
  repeat' (first
    | with_reducible (first
      | assumption | apply State.RKeeps.next | apply State.Keeps.foldl | apply State.tapStage_kept)
    | split)

theorem State.afterFab_kept {r₀ : State} (n : Nat) : ∀ (s : State) (d : Die), r₀.Keeps s → r₀.Keeps (State.afterFab s d n) := by
  induction n with
  | zero => intro s d h; exact h
  | succ n ih =>
    intro s d h
    unfold State.afterFab
    exact ih _ _ (State.advanceTo_kept (h := h) ..)

theorem execBlockMemoryUserPortRead_kept {r₀ : State} (p : PlotIx) (b : Byte) (portB : Bool) (w : BitVec 12) (s : State) (h :
    r₀.Keeps s) :
    r₀.RKeeps (execBlockMemoryUserPortRead p b portB w s) := by
  unfold execBlockMemoryUserPortRead
  try dsimp only
  repeat' (first
    | with_reducible (first
      | assumption | apply State.RKeeps.next | apply State.modPlot_kept | apply State.userRead_kept
      | apply State.afterFab_kept)
    | split)

theorem execProbePinUpdate_kept {r₀ : State} (s : State) (h : r₀.Keeps s) :
    r₀.RKeeps (execProbePinUpdate s) := by
  unfold execProbePinUpdate
  try dsimp only
  repeat' (first
    | with_reducible (first
      | assumption | apply State.RKeeps.next | apply State.Keeps.foldl | apply State.Keeps.foldlPair
      | apply State.send_kept | apply State.advanceTo_kept)
    | intro _ | split
    | with_reducible (first
      | apply State.Keeps.snd3 (by assumption) | apply State.Keeps.snd (by assumption)
      | apply State.OPKeeps.get (by assumption) | apply State.Keeps.with))

end Sys2Proof.Machine
end

