-- ==== Sys2Proof/Laws/KeepsHost.lean ====
section
/-! SUPPORT. What every command keeps (Laws/Keeps.lean), for the operations and commands of host port, reeves, loader, power,
    resets and security. -/

namespace Sys2Proof.Machine

open Sys2Proof

/-! ### HostPort.lean -/

theorem State.modHp_kept {r₀ : State} (s : State) (f : HostPort → HostPort) (h : r₀.Keeps s) :
    r₀.Keeps (State.modHp s f) := by
  unfold State.modHp
  repeat' (first
    | with_reducible (first
      | assumption)
    | with_reducible (first
      | apply State.Keeps.with))

theorem State.failDevRead_kept {r₀ : State} (s : State) (r : DevRead) (st : Status) (h : r₀.Keeps s) :
    r₀.Keeps (State.failDevRead s r st) := by
  unfold State.failDevRead
  repeat' (first
    | with_reducible (first
      | assumption | apply State.report_kept | apply State.failSlot_kept | apply State.modHp_kept))

theorem State.linkFail_kept {r₀ : State} (s : State) (cause : Nat) (h : r₀.Keeps s) :
    r₀.Keeps (State.linkFail s cause) := by
  unfold State.linkFail
  repeat' (first
    | with_reducible (first
      | assumption | apply State.Keeps.foldl | apply State.modHp_kept | apply State.failDevRead_kept)
    | intro _)

theorem State.hostControl_kept {r₀ : State} (s : State) (b : List Byte) (h : r₀.Keeps s) :
    r₀.Keeps (State.hostControl s b) := by
  unfold State.hostControl
  repeat' (first
    | with_reducible (first
      | assumption | apply State.send_kept))

theorem execLinkInitReceive_kept {r₀ : State} (rate : BitVec 3) (payload : List Byte) (s : State) (h : r₀.Keeps s) :
    r₀.RKeeps (execLinkInitReceive rate payload s) := by
  unfold execLinkInitReceive
  repeat' (first
    | with_reducible (first
      | assumption | apply State.RKeeps.next | apply State.pumpHost_kept | apply State.modHp_kept
      | apply State.hostControl_kept)
    | split)

theorem State.resendHost_kept {r₀ : State} (s : State) (h : r₀.Keeps s) :
    r₀.Keeps (State.resendHost s) := by
  unfold State.resendHost
  repeat' (first
    | with_reducible (first
      | assumption | apply State.Keeps.foldl | apply State.send_kept | apply State.tallyW_kept
      | apply State.modHp_kept | apply State.linkFail_kept)
    | intro _ | split)

theorem execHpAckReceive_kept {r₀ : State} (payload : List Byte) (s : State) (h : r₀.Keeps s) :
    r₀.RKeeps (execHpAckReceive payload s) := by
  unfold execHpAckReceive
  repeat' (first
    | with_reducible (first
      | assumption | apply State.RKeeps.next | apply State.Keeps.foldl | apply State.pumpHost_kept
      | apply State.modHp_kept | apply State.resendHost_kept)
    | split)

theorem execHpAckSend_kept {r₀ : State} (s : State) (h : r₀.Keeps s) :
    r₀.RKeeps (execHpAckSend s) := by
  unfold execHpAckSend
  try dsimp only
  repeat' (first
    | with_reducible (first
      | assumption | apply State.RKeeps.next | apply State.advanceTo_kept | apply State.modHp_kept
      | apply State.hostControl_kept)
    | split)

theorem execHpReplayTimeout_kept {r₀ : State} (s : State) (h : r₀.Keeps s) :
    r₀.RKeeps (execHpReplayTimeout s) := by
  unfold execHpReplayTimeout
  repeat' (first
    | with_reducible (first
      | assumption | apply State.RKeeps.next | apply State.Keeps.foldl | apply State.advanceTo_kept
      | apply State.resendHost_kept)
    | split)

theorem State.hpCtl_kept {r₀ : State} (s : State) (v : Word) (h : r₀.Keeps s) :
    r₀.OKeeps (State.hpCtl s v) := by
  unfold State.hpCtl
  try dsimp only
  repeat' (first
    | with_reducible (first
      | assumption | apply State.OKeeps.some | exact State.OKeeps.none | apply State.modHp_kept
      | apply State.linkFail_kept)
    | split)

theorem execRetrain_kept {r₀ : State} (w : Writer) (v : Word) (s : State) (h : r₀.Keeps s) :
    r₀.RKeeps (execRetrain w v s) := by
  unfold execRetrain
  repeat' (first
    | with_reducible (first
      | assumption | apply State.RKeeps.next | apply State.commit_kept | apply State.hpCtl_kept)
    | split)

theorem execLaneSignalLoss_kept {r₀ : State} (p : Option PortIx) (l : BitVec 4) (s : State) (h : r₀.Keeps s) :
    r₀.RKeeps (execLaneSignalLoss p l s) := by
  unfold execLaneSignalLoss
  repeat' (first
    | with_reducible (first
      | assumption | apply State.RKeeps.next | apply State.laneDown_kept | apply State.linkFail_kept)
    | split)

theorem State.hostErr_kept {r₀ : State} (s : State) (reason kind node addr : Nat) (h : r₀.Keeps s) :
    r₀.Keeps (State.hostErr s reason kind node addr) := by
  unfold State.hostErr
  repeat' (first
    | with_reducible (first
      | assumption | apply State.evBits_kept | apply State.modHp_kept)
    | split)

theorem State.completeHost_kept {r₀ : State} (s : State) (via : Option Via) (tag : Nat) (st : Status) (data : List Byte) (h :
    r₀.Keeps s) :
    r₀.Keeps (State.completeHost s via tag st data) := by
  unfold State.completeHost
  repeat' (first
    | with_reducible (first
      | assumption | apply State.sendHome_kept | apply State.sendTrans_kept)
    | split)

theorem State.windowPlace_kept {r₀ : State} (s : State) (va : Nat) (wr : Bool) (h : r₀.Keeps s) :
    r₀.Keeps (State.windowPlace s va wr).2 := by
  unfold State.windowPlace
  repeat' (first
    | with_reducible (first
      | assumption | apply State.lookup_kept)
    | split
    | with_reducible (first
      | apply State.Keeps.snd (by assumption) | fail))

theorem State.windowRead_kept {r₀ : State} (s : State) (r : HostRead) (h : r₀.Keeps s) :
    r₀.OKeeps (State.windowRead s r) := by
  unfold State.windowRead
  repeat' (first
    | with_reducible (first
      | assumption | apply State.OKeeps.some | exact State.OKeeps.none | apply State.accRead_kept
      | apply State.completeHost_kept | apply State.windowPlace_kept)
    | split
    | with_reducible (first
      | apply State.Keeps.snd (by assumption) | fail))

theorem State.postedErr_kept {r₀ : State} (s : State) (p : Posted) (reason : Nat) (h : r₀.Keeps s) :
    r₀.Keeps (State.postedErr s p reason) := by
  unfold State.postedErr
  repeat' (first
    | with_reducible (first
      | assumption | apply State.hostErr_kept))

theorem State.dropWindowWrite_kept {r₀ : State} (s : State) (p : Posted) (reason : Option Nat) (h : r₀.Keeps s) :
    r₀.Keeps (State.dropWindowWrite s p reason) := by
  unfold State.dropWindowWrite
  repeat' (first
    | with_reducible (first
      | assumption | apply State.tallyW_kept | apply State.postedErr_kept)
    | split)

theorem State.windowWrite_kept {r₀ : State} (s : State) (p : Posted) (h : r₀.Keeps s) :
    r₀.OKeeps (State.windowWrite s p) := by
  unfold State.windowWrite
  repeat' (first
    | with_reducible (first
      | assumption | apply State.OKeeps.some | exact State.OKeeps.none | apply State.accWrite_kept
      | apply State.windowPlace_kept | apply State.dropWindowWrite_kept)
    | split
    | with_reducible (first
      | apply State.Keeps.snd (by assumption) | fail))

theorem State.takeRead_kept {r₀ : State} (s : State) (r : HostRead) (h : r₀.Keeps s) :
    r₀.Keeps (State.takeRead s r) := by
  unfold State.takeRead
  repeat' (first
    | with_reducible (first
      | assumption | apply State.OKeeps.getD | apply State.hold_kept | apply State.modHp_kept
      | apply State.windowRead_kept)
    | split)

theorem State.startRead_kept {r₀ : State} (s : State) (via : Option Via) (tag addr len : Nat) (h : r₀.Keeps s) :
    r₀.Keeps (State.startRead s via tag addr len) := by
  unfold State.startRead
  repeat' (first
    | with_reducible (first
      | assumption | apply State.OKeeps.getD | apply State.takeRead_kept))

theorem State.refuseHost_kept {r₀ : State} (s : State) (via : Option Via) (t : Trans) (reason : Nat) (h : r₀.Keeps s) :
    r₀.Keeps (State.refuseHost s via t reason) := by
  unfold State.refuseHost
  repeat' (first
    | with_reducible (first
      | assumption | apply State.hostErr_kept | apply State.completeHost_kept)
    | split)

theorem execWindowRead_kept {r₀ : State} (tag : BitVec 16) (addr : BitVec 64) (len : BitVec 16) (s : State) (h : r₀.Keeps s) :
    r₀.RKeeps (execWindowRead tag addr len s) := by
  unfold execWindowRead
  try dsimp only
  repeat' (first
    | with_reducible (first
      | assumption | apply State.RKeeps.next | apply State.startRead_kept | apply State.refuseHost_kept)
    | split)

theorem State.postWindow_kept {r₀ : State} (s : State) (p : Posted) (h : r₀.Keeps s) :
    r₀.Keeps (State.postWindow s p) := by
  unfold State.postWindow
  repeat' (first
    | with_reducible (first
      | assumption | apply State.OKeeps.getD | apply State.hold_kept | apply State.modHp_kept
      | apply State.windowWrite_kept)
    | split)

theorem execWindowWrite_kept {r₀ : State} (addr : BitVec 64) (data : List Byte) (s : State) (h : r₀.Keeps s) :
    r₀.RKeeps (execWindowWrite addr data s) := by
  unfold execWindowWrite
  try dsimp only
  repeat' (first
    | with_reducible (first
      | assumption | apply State.RKeeps.next | apply State.OKeeps.getD | apply State.postedErr_kept
      | apply State.postWindow_kept)
    | split)

theorem execWindowReadTimeout_kept {r₀ : State} (tag : BitVec 16) (s : State) (h : r₀.Keeps s) :
    r₀.RKeeps (execWindowReadTimeout tag s) := by
  unfold execWindowReadTimeout
  repeat' (first
    | with_reducible (first
      | assumption | apply State.RKeeps.next | apply State.advanceTo_kept | apply State.modHp_kept
      | apply State.completeHost_kept)
    | split)

theorem execHpFlushRead_kept {r₀ : State} (tag : BitVec 16) (s : State) (h : r₀.Keeps s) :
    r₀.RKeeps (execHpFlushRead tag s) := by
  unfold execHpFlushRead
  repeat' (first
    | with_reducible (first
      | assumption | apply State.RKeeps.next | apply State.completeHost_kept))

theorem State.moveOn_kept {r₀ : State} (s : State) (m k : Nat) (h : r₀.Keeps s) :
    r₀.Keeps (State.moveOn s m k) := by
  unfold State.moveOn
  repeat' (first
    | with_reducible (first
      | assumption | apply State.piece_kept | apply State.settle_kept)
    | split)

theorem State.devCompletion_kept {r₀ : State} (s : State) (tag status : Nat) (data : List Byte) (h : r₀.Keeps s) :
    r₀.Keeps (State.devCompletion s tag status data) := by
  unfold State.devCompletion
  repeat' (first
    | with_reducible (first
      | assumption | apply State.modHp_kept | apply State.failDevRead_kept | apply State.moveOn_kept)
    | split
    | with_reducible (first
      | apply State.Keeps.with))

theorem execDeviceReadCompletion_kept {r₀ : State} (tag : BitVec 16) (status : Byte) (data : List Byte) (s : State) (h :
    r₀.Keeps s) :
    r₀.RKeeps (execDeviceReadCompletion tag status data s) := by
  unfold execDeviceReadCompletion
  repeat' (first
    | with_reducible (first
      | assumption | apply State.RKeeps.next | apply State.devCompletion_kept))

theorem execDeviceReadDeadline_kept {r₀ : State} (s : State) (h : r₀.Keeps s) :
    r₀.RKeeps (execDeviceReadDeadline s) := by
  unfold execDeviceReadDeadline
  repeat' (first
    | with_reducible (first
      | assumption | apply State.RKeeps.next | apply State.advanceTo_kept | apply State.linkFail_kept)
    | split)

theorem State.sendMessage_kept {r₀ : State} (s : State) (box : Nat) (data : List Byte) (h : r₀.Keeps s) :
    r₀.Keeps (State.sendMessage s box data) := by
  unfold State.sendMessage
  repeat' (first
    | with_reducible (first
      | assumption | apply State.sendTrans_kept | apply State.modHp_kept))

theorem execAlertAcknowledged_kept {r₀ : State} (s : State) (h : r₀.Keeps s) :
    r₀.RKeeps (execAlertAcknowledged s) := by
  unfold execAlertAcknowledged
  repeat' (first
    | with_reducible (first
      | assumption | apply State.RKeeps.next | apply State.pumpHost_kept | apply State.modHp_kept)
    | split)

theorem execHostAlertPinUpdate_kept {r₀ : State} (s : State) (h : r₀.Keeps s) :
    r₀.RKeeps (execHostAlertPinUpdate s) := by
  unfold execHostAlertPinUpdate
  repeat' (first
    | with_reducible (first
      | assumption | apply State.RKeeps.next | apply State.advanceTo_kept | apply State.modHp_kept)
    | split)

theorem State.relay_kept {r₀ : State} (s : State) (t : Trans) (bytes : List Byte) (h : r₀.Keeps s) :
    r₀.Keeps (State.relay s t bytes) := by
  unfold State.relay
  try dsimp only
  repeat' (first
    | with_reducible (first
      | assumption | apply State.launchParcel_kept | apply State.modHp_kept | apply State.hostErr_kept
      | apply State.completeHost_kept)
    | split)

theorem execRelayRequest_kept {r₀ : State} (req : List Byte) (s : State) (h : r₀.Keeps s) :
    r₀.RKeeps (execRelayRequest req s) := by
  unfold execRelayRequest
  try dsimp only
  repeat' (first
    | with_reducible (first
      | assumption | apply State.RKeeps.next | apply State.relay_kept)
    | split)

theorem State.takeRelayed_kept {r₀ : State} (s : State) (p : Nat) (f : Nat → Bool) (h : r₀.Keeps s) :
    r₀.OPKeeps (State.takeRelayed s p f) := by
  unfold State.takeRelayed
  repeat' (first
    | with_reducible (first
      | assumption | exact State.OPKeeps.none | apply State.OPKeeps.some | apply State.modPort_kept)
    | split)

theorem execRelayCompletionReceive_kept {r₀ : State} (p : PortIx) (s : State) (h : r₀.Keeps s) :
    r₀.RKeeps (execRelayCompletionReceive p s) := by
  unfold execRelayCompletionReceive
  try dsimp only
  repeat' (first
    | with_reducible (first
      | assumption | apply State.RKeeps.next | apply State.tallyW_kept | apply State.sendTrans_kept
      | apply State.modHp_kept | apply State.takeRelayed_kept)
    | split
    | with_reducible (first
      | apply State.OPKeeps.get (by assumption) | fail))

theorem execRelayTimeout_kept {r₀ : State} (tag : BitVec 16) (s : State) (h : r₀.Keeps s) :
    r₀.RKeeps (execRelayTimeout tag s) := by
  unfold execRelayTimeout
  repeat' (first
    | with_reducible (first
      | assumption | apply State.RKeeps.next | apply State.advanceTo_kept | apply State.modHp_kept
      | apply State.completeHost_kept)
    | split)

theorem execRelayFallback_kept {r₀ : State} (s : State) (h : r₀.Keeps s) : r₀.RKeeps (execRelayFallback s) := by
  unfold execRelayFallback
  split
  · exact State.RKeeps.next h
  · apply State.RKeeps.next
    apply State.Keeps.foldl
    · exact State.modHp_kept (h := State.advanceTo_kept (h := h) ..) ..
    · intro s p h
      exact State.OKeeps.getD (State.laneCtl_kept (h := h) ..) h

/-! ### Secure.lean -/

theorem State.modSec_kept {r₀ s : State} (f : Sec → Sec) (h : r₀.Keeps s) (a : (f s.sec).killed = s.sec.killed)
    (b : (f s.sec).frarel0 = s.sec.frarel0) (c : (f s.sec).slots = s.sec.slots) : r₀.Keeps (s.modSec f) := by
  unfold State.modSec
  exact State.Keeps.withSec (s := s) (h := h) (a := a) (b := b) (c := c) ..

theorem State.logEntry_kept {r₀ : State} (s : State) (kind arg sheaf : Nat) (digest : List Byte) (ver : Nat) (h : r₀.Keeps s) :
    r₀.Keeps (State.logEntry s kind arg sheaf digest ver) := by
  unfold State.logEntry
  repeat' (first
    | with_reducible (first
      | assumption | apply State.modSec_kept)
    | exact rfl)

theorem State.relock_kept {r₀ : State} (s : State) (h : r₀.Keeps s) :
    r₀.Keeps (State.relock s) := by
  unfold State.relock
  repeat' (first
    | with_reducible (first
      | assumption)
    | with_reducible (first
      | apply State.Keeps.with))

theorem State.setLevel_kept {r₀ : State} (s : State) (l : BitVec 2) (h : r₀.Keeps s) :
    r₀.Keeps (State.setLevel s l) := by
  unfold State.setLevel
  repeat' (first
    | with_reducible (first
      | assumption | apply State.logEntry_kept | apply State.relock_kept)
    | split
    | with_reducible (first
      | refine State.Keeps.withSec (h := ?_) (a := rfl) (b := rfl) (c := rfl) ..))

/-! ### Reeves.lean -/

theorem State.modReeve_kept {r₀ : State} (s : State) (d : Die) (f : Reeve → Reeve) (h : r₀.Keeps s) :
    r₀.Keeps (State.modReeve s d f) := by
  unfold State.modReeve
  repeat' (first
    | with_reducible (first
      | assumption)
    | split
    | with_reducible (first
      | apply State.Keeps.with))

theorem State.modBw_kept {r₀ : State} (s : State) (f : Bellwether → Bellwether) (h : r₀.Keeps s) :
    r₀.Keeps (State.modBw s f) := by
  unfold State.modBw
  repeat' (first
    | with_reducible (first
      | assumption)
    | with_reducible (first
      | apply State.Keeps.with))

theorem State.reeveAlert_kept {r₀ : State} (s : State) (event : Nat) (d : Die) (column : Nat) (h : r₀.Keeps s) :
    r₀.Keeps (State.reeveAlert s event d column) := by
  unfold State.reeveAlert
  repeat' (first
    | with_reducible (first
      | assumption | apply State.alert_kept))

theorem State.bootReeve_kept {r₀ : State} (s : State) (d : Die) (h : r₀.Keeps s) :
    r₀.Keeps (State.bootReeve s d) := by
  unfold State.bootReeve
  repeat' (first
    | with_reducible (first
      | assumption | apply State.modReeve_kept))

theorem State.bootBegin_kept {r₀ : State} (s : State) (d : Die) (seq total : Nat) (h : r₀.Keeps s) :
    r₀.Keeps (State.bootBegin s d seq total).2 := by
  unfold State.bootBegin
  repeat' (first
    | with_reducible (first
      | assumption | apply State.modReeve_kept)
    | split)

theorem State.bootData_kept {r₀ : State} (s : State) (d : Die) (seq off : Nat) (data : List Byte) (h : r₀.Keeps s) :
    r₀.Keeps (State.bootData s d seq off data).2 := by
  unfold State.bootData
  repeat' (first
    | with_reducible (first
      | assumption | apply State.setBytes_kept | apply State.modReeve_kept)
    | split)

theorem State.bootEnd_kept {r₀ : State} (s : State) (d : Die) (seq off : Nat) (h : r₀.Keeps s) :
    r₀.Keeps (State.bootEnd s d seq off).2 := by
  unfold State.bootEnd
  repeat' (first
    | with_reducible (first
      | assumption | apply State.modReeve_kept)
    | split)

theorem State.bootMessage_kept {r₀ : State} (s : State) (d : Die) (b : List Byte) (h : r₀.Keeps s) :
    r₀.Keeps (State.bootMessage s d b).2 := by
  unfold State.bootMessage
  repeat' (first
    | with_reducible (first
      | assumption | apply State.bootBegin_kept | apply State.bootData_kept | apply State.bootEnd_kept)
    | split)

theorem execBootBegin_kept {r₀ : State} (d : Die) (tag : BitVec 16) (seq : Word) (total : BitVec 64) (s : State) (h : r₀.Keeps
    s) :
    r₀.RKeeps (execBootBegin d tag seq total s) := by
  unfold execBootBegin
  repeat' (first
    | with_reducible (first
      | assumption | apply State.RKeeps.next | apply State.completeHost_kept | apply State.bootBegin_kept))

theorem execBootData_kept {r₀ : State} (d : Die) (tag : BitVec 16) (seq : Word) (off : BitVec 64) (data : List Byte) (s :
    State) (h : r₀.Keeps s) :
    r₀.RKeeps (execBootData d tag seq off data s) := by
  unfold execBootData
  repeat' (first
    | with_reducible (first
      | assumption | apply State.RKeeps.next | apply State.completeHost_kept | apply State.bootData_kept))

theorem execBootEnd_kept {r₀ : State} (d : Die) (tag : BitVec 16) (seq : Word) (off : BitVec 64) (s : State) (h : r₀.Keeps s) :
    r₀.RKeeps (execBootEnd d tag seq off s) := by
  unfold execBootEnd
  repeat' (first
    | with_reducible (first
      | assumption | apply State.RKeeps.next | apply State.completeHost_kept | apply State.bootEnd_kept))

theorem State.takeMessage_kept {r₀ : State} (s : State) (box : Nat) (m : Msg) (h : r₀.Keeps s) :
    r₀.Keeps (State.takeMessage s box m) := by
  unfold State.takeMessage
  repeat' (first
    | with_reducible (first
      | assumption | apply State.modHp_kept | apply State.completeHost_kept | apply State.bootMessage_kept)
    | split)

theorem execManagementMessage_kept {r₀ : State} (tag : BitVec 16) (box : BitVec 64) (data : List Byte) (s : State) (h :
    r₀.Keeps s) :
    r₀.RKeeps (execManagementMessage tag box data s) := by
  unfold execManagementMessage
  try dsimp only
  repeat' (first
    | with_reducible (first
      | assumption | apply State.RKeeps.next | apply State.refuseHost_kept | apply State.takeMessage_kept)
    | split)

theorem execMailboxTimeout_kept {r₀ : State} (s : State) (h : r₀.Keeps s) :
    r₀.RKeeps (execMailboxTimeout s) := by
  unfold execMailboxTimeout
  repeat' (first
    | with_reducible (first
      | assumption | apply State.RKeeps.next | apply State.advanceTo_kept | apply State.modHp_kept
      | apply State.completeHost_kept)
    | split)

theorem State.readMailbox_kept {r₀ : State} (s : State) (box : Nat) (h : r₀.Keeps s) :
    r₀.OPKeeps (State.readMailbox s box) := by
  unfold State.readMailbox
  try dsimp only
  repeat' (first
    | with_reducible (first
      | assumption | exact State.OPKeeps.none | apply State.OPKeeps.some | apply State.modHp_kept
      | apply State.takeMessage_kept)
    | split)

theorem execImageVerifyDone_kept {r₀ : State} (d : Die) (s : State) (h : r₀.Keeps s) :
    r₀.RKeeps (execImageVerifyDone d s) := by
  unfold execImageVerifyDone
  try dsimp only
  repeat' (first
    | with_reducible (first
      | assumption | apply State.RKeeps.next | apply State.Keeps.foldl | apply State.Keeps.foldlPair
      | apply State.evBits_kept | apply State.logEntry_kept | apply State.modReeve_kept | apply State.reeveAlert_kept)
    | intro _ | split
    | with_reducible (first
      | apply State.Keeps.snd3 (by assumption) | apply State.Keeps.snd (by assumption)
      | apply State.OPKeeps.get (by assumption) | apply State.Keeps.with))

theorem State.demote_kept {r₀ : State} (s : State) (d : Die) (h : r₀.Keeps s) :
    r₀.Keeps (State.demote s d) := by
  unfold State.demote
  repeat' (first
    | with_reducible (first
      | assumption | apply State.modReeve_kept)
    | split)

theorem State.swapDone_kept {r₀ : State} (s : State) (d : Die) (h : r₀.Keeps s) :
    r₀.Keeps (State.swapDone s d) := by
  unfold State.swapDone
  repeat' (first
    | with_reducible (first
      | assumption | apply State.modReeve_kept | apply State.modBw_kept | apply State.reeveAlert_kept
      | apply State.demote_kept))

theorem State.swap_kept {r₀ : State} (s : State) (d : Die) (expected : Word) (h : r₀.Keeps s) :
    r₀.Keeps (State.swap s d expected) := by
  unfold State.swap
  repeat' (first
    | with_reducible (first
      | assumption | apply State.modReeve_kept | apply State.swapDone_kept)
    | split)

theorem execSwap_kept {r₀ : State} (d : Die) (expected : Word) (s : State) (h : r₀.Keeps s) :
    r₀.RKeeps (execSwap d expected s) := by
  unfold execSwap
  repeat' (first
    | with_reducible (first
      | assumption | apply State.RKeeps.next | apply State.hold_kept | apply State.swap_kept)
    | split)

theorem execReeveSelfTestDone_kept {r₀ : State} (d : Die) (passed : Bool) (s : State) (h : r₀.Keeps s) :
    r₀.RKeeps (execReeveSelfTestDone d passed s) := by
  unfold execReeveSelfTestDone
  try dsimp only
  repeat' (first
    | with_reducible (first
      | assumption | apply State.RKeeps.next | apply State.modReeve_kept | apply State.reeveAlert_kept
      | apply State.swap_kept)
    | split)

theorem execLeaseRenewal_kept {r₀ : State} (d : Die) (s : State) (h : r₀.Keeps s) :
    r₀.RKeeps (execLeaseRenewal d s) := by
  unfold execLeaseRenewal
  try dsimp only
  repeat' (first
    | with_reducible (first
      | assumption | apply State.RKeeps.next | apply State.advanceTo_kept | apply State.modReeve_kept
      | apply State.modBw_kept | apply State.demote_kept)
    | split)

theorem execLeaseExpiry_kept {r₀ : State} (s : State) (h : r₀.Keeps s) :
    r₀.RKeeps (execLeaseExpiry s) := by
  unfold execLeaseExpiry
  repeat' (first
    | with_reducible (first
      | assumption | apply State.RKeeps.next | apply State.advanceTo_kept | apply State.modBw_kept)
    | split)

theorem execLeaderHoldTimeout_kept {r₀ : State} (d : Die) (s : State) (h : r₀.Keeps s) :
    r₀.RKeeps (execLeaderHoldTimeout d s) := by
  unfold execLeaderHoldTimeout
  repeat' (first
    | with_reducible (first
      | assumption | apply State.RKeeps.next | apply State.advanceTo_kept | apply State.hold_kept
      | apply State.modReeve_kept | apply State.reeveAlert_kept)
    | split)

theorem execHeartbeat_kept {r₀ : State} (d : Die) (s : State) (h : r₀.Keeps s) :
    r₀.RKeeps (execHeartbeat d s) := by
  unfold execHeartbeat
  repeat' (first
    | with_reducible (first
      | assumption | apply State.RKeeps.next | apply State.advanceTo_kept | apply State.modReeve_kept
      | apply State.modBw_kept)
    | split)

theorem execPeerLost_kept {r₀ : State} (d : Die) (s : State) (h : r₀.Keeps s) :
    r₀.RKeeps (execPeerLost d s) := by
  unfold execPeerLost
  repeat' (first
    | with_reducible (first
      | assumption | apply State.RKeeps.next | apply State.advanceTo_kept | apply State.modReeve_kept
      | apply State.reeveAlert_kept)
    | split)

theorem execFollowerSwapRetry_kept {r₀ : State} (d : Die) (s : State) (h : r₀.Keeps s) :
    r₀.RKeeps (execFollowerSwapRetry d s) := by
  unfold execFollowerSwapRetry
  repeat' (first
    | with_reducible (first
      | assumption | apply State.RKeeps.next | apply State.advanceTo_kept | apply State.swap_kept)
    | split)

theorem execFollowerHoldTimeout_kept {r₀ : State} (d : Die) (s : State) (h : r₀.Keeps s) :
    r₀.RKeeps (execFollowerHoldTimeout d s) := by
  unfold execFollowerHoldTimeout
  repeat' (first
    | with_reducible (first
      | assumption | apply State.RKeeps.next | apply State.advanceTo_kept | apply State.hold_kept
      | apply State.modReeve_kept | apply State.reeveAlert_kept)
    | split)

theorem execHoldAnswer_kept {r₀ : State} (d : Die) (s : State) (h : r₀.Keeps s) :
    r₀.RKeeps (execHoldAnswer d s) := by
  unfold execHoldAnswer
  try dsimp only
  repeat' (first
    | with_reducible (first
      | assumption | apply State.RKeeps.next | apply State.hold_kept | apply State.modReeve_kept
      | apply State.modBw_kept | apply State.reeveAlert_kept)
    | split)

theorem execNoLiveReeve_kept {r₀ : State} (s : State) (h : r₀.Keeps s) :
    r₀.RKeeps (execNoLiveReeve s) := by
  unfold execNoLiveReeve
  repeat' (first
    | with_reducible (first
      | assumption | apply State.RKeeps.next | apply State.alert_kept | apply State.advanceTo_kept
      | apply State.modBw_kept)
    | split)

theorem execLeaderYield_kept {r₀ : State} (d : Die) (s : State) (h : r₀.Keeps s) :
    r₀.RKeeps (execLeaderYield d s) := by
  unfold execLeaderYield
  repeat' (first
    | with_reducible (first
      | assumption | apply State.RKeeps.next | apply State.modBw_kept | apply State.bootReeve_kept)
    | split)

theorem State.reeveCtl_kept {r₀ : State} (s : State) (v : Word) (h : r₀.Keeps s) :
    r₀.OKeeps (State.reeveCtl s v) := by
  unfold State.reeveCtl
  repeat' (first
    | with_reducible (first
      | assumption | apply State.OKeeps.some | exact State.OKeeps.none | apply State.bootReeve_kept)
    | split)

theorem execReeveRestart_kept {r₀ : State} (w : Writer) (v : Word) (s : State) (h : r₀.Keeps s) :
    r₀.RKeeps (execReeveRestart w v s) := by
  unfold execReeveRestart
  repeat' (first
    | with_reducible (first
      | assumption | apply State.RKeeps.next | apply State.commit_kept | apply State.reeveCtl_kept)
    | split)

theorem execReeveMemoryUncorrectable_kept {r₀ : State} (d : Die) (s : State) (h : r₀.Keeps s) :
    r₀.RKeeps (execReeveMemoryUncorrectable d s) := by
  unfold execReeveMemoryUncorrectable
  repeat' (first
    | with_reducible (first
      | assumption | apply State.RKeeps.next | apply State.report_kept | apply State.bootReeve_kept))

/-! ### Loader.lean -/

theorem State.endMill_kept {r₀ : State} (s : State) (m : Nat) (h : r₀.Keeps s) :
    r₀.Keeps (State.endMill s m) := by
  unfold State.endMill
  repeat' (first
    | with_reducible (first
      | assumption | apply State.Keeps.foldl | apply State.cancelQueue_kept | apply State.endRunning_kept
      | apply State.stopSlot_kept)
    | intro _)

theorem State.zeroImem_kept {r₀ : State} (s : State) (m : Nat) (h : r₀.Keeps s) :
    r₀.Keeps (State.zeroImem s m) := by
  unfold State.zeroImem
  repeat' (first
    | with_reducible (first
      | assumption | apply State.zeroRange_kept))

theorem State.zeroImems_kept {r₀ : State} (s : State) (m n : Nat) (h : r₀.Keeps s) :
    r₀.Keeps (State.zeroImems s m n) := by
  unfold State.zeroImems
  repeat' (first
    | with_reducible (first
      | assumption | apply State.zeroRange_kept)
    | split)

theorem State.zeroSealedMill_kept {r₀ : State} (s : State) (m : Nat) (h : r₀.Keeps s) :
    r₀.Keeps (State.zeroSealedMill s m) := by
  unfold State.zeroSealedMill
  repeat' (first
    | with_reducible (first
      | assumption | apply State.modMill_kept | apply State.zeroRange_kept)
    | split)

theorem State.zeroSealedPlot_kept {r₀ : State} (s : State) (p : Nat) (h : r₀.Keeps s) :
    r₀.Keeps (State.zeroSealedPlot s p) := by
  unfold State.zeroSealedPlot
  repeat' (first
    | with_reducible (first
      | assumption | apply State.modPlot_kept | apply State.zeroRange_kept)
    | split)

theorem State.blankPlot_kept {r₀ : State} (s : State) (p : Nat) (h : r₀.Keeps s) :
    r₀.Keeps (State.blankPlot s p) := by
  unfold State.blankPlot
  repeat' (first
    | with_reducible (first
      | assumption | apply State.modPlot_kept | apply State.hold_kept))

theorem State.emptySlot_kept {r₀ : State} (s : State) (g : Nat) (h : r₀.Keeps s) :
    r₀.Keeps (State.emptySlot s g) := by
  unfold State.emptySlot
  repeat' (first
    | with_reducible (first
      | assumption)
    | with_reducible (first
      | apply State.Keeps.with))

theorem State.modCfg_kept {r₀ : State} (s : State) (f : Cfg → Cfg) (h : r₀.Keeps s) :
    r₀.Keeps (State.modCfg s f) := by
  unfold State.modCfg
  repeat' (first
    | with_reducible (first
      | assumption)
    | with_reducible (first
      | apply State.Keeps.with))

theorem State.modRun_kept {r₀ : State} (s : State) (f : LoadRun → LoadRun) (h : r₀.Keeps s) :
    r₀.Keeps (State.modRun s f) := by
  unfold State.modRun
  repeat' (first
    | with_reducible (first
      | assumption | apply State.modCfg_kept))

theorem State.chainFrame_kept {r₀ : State} (s : State) (b : List Byte) (h : r₀.Keeps s) :
    r₀.Keeps (State.chainFrame s b) := by
  unfold State.chainFrame
  repeat' (first
    | with_reducible (first
      | assumption | apply State.send_kept))

theorem State.chainAbort_kept {r₀ : State} (s : State) (hop reason : Nat) (h : r₀.Keeps s) :
    r₀.Keeps (State.chainAbort s hop reason) := by
  unfold State.chainAbort
  repeat' (first
    | with_reducible (first
      | assumption | apply State.chainFrame_kept))

theorem State.dropFrames_kept {r₀ : State} (s : State) (f : Nat → Bool) (h : r₀.Keeps s) :
    r₀.Keeps (State.dropFrames s f) := by
  unfold State.dropFrames
  repeat' (first
    | with_reducible (first
      | assumption | apply State.modCfg_kept))

theorem State.undoLoad_kept {r₀ : State} (s : State) (b : List Byte) (h : r₀.Keeps s) :
    r₀.Keeps (State.undoLoad s b) := by
  unfold State.undoLoad
  repeat' (first
    | with_reducible (first
      | assumption | apply State.Keeps.foldl | apply State.modMill_kept | apply State.zeroImem_kept
      | apply State.blankPlot_kept | apply State.emptySlot_kept | apply State.modCfg_kept
      | apply State.dropFrames_kept)
    | intro _ | split
    | with_reducible (first
      | apply State.Keeps.with))

theorem State.loadFail_kept {r₀ : State} (s : State) (reason sect faddr : Nat) (h : r₀.Keeps s) :
    r₀.Keeps (State.loadFail s reason sect faddr) := by
  unfold State.loadFail
  repeat' (first
    | with_reducible (first
      | assumption | apply State.evBits_kept | apply State.alert_kept | apply State.modCfg_kept
      | apply State.chainAbort_kept | apply State.undoLoad_kept)
    | split
    | with_reducible (first
      | apply State.Keeps.with))

theorem State.cfgLoad_kept {r₀ : State} (s : State) (v : Word) (h : r₀.Keeps s) :
    r₀.OKeeps (State.cfgLoad s v) := by
  unfold State.cfgLoad
  try dsimp only
  repeat' (first
    | with_reducible (first
      | assumption | apply State.OKeeps.some | exact State.OKeeps.none | apply State.modCfg_kept
      | apply State.loadFail_kept)
    | split)

theorem State.commitLoad_kept {r₀ : State} (s : State) (w : Writer) (v : Word) (h : r₀.Keeps s) :
    r₀.Keeps (State.commitLoad s w v) := by
  unfold State.commitLoad
  try dsimp only
  repeat' (first
    | with_reducible (first
      | assumption | apply State.OKeeps.some | exact State.OKeeps.none | exact State.OPKeeps.none
      | apply State.OPKeeps.some | exact State.DKeeps.none | apply State.DKeeps.some | apply State.EKeeps.ok
      | exact State.EKeeps.error | apply State.Keeps.foldl | apply State.Keeps.foldlPair3
      | apply State.Keeps.foldlPair | apply State.OKeeps.getD | apply State.OKeeps.map | apply State.cwHold_kept
      | apply State.commit_kept | apply State.modCfg_kept | apply State.cfgLoad_kept)
    | intro _ | split
    | with_reducible (first
      | apply State.Keeps.snd3 (by assumption) | apply State.Keeps.snd (by assumption)
      | apply State.OKeeps.get (by assumption) | apply State.OPKeeps.get (by assumption)
      | apply State.EKeeps.get (by assumption) | apply State.DKeeps.get (by assumption) | apply State.Keeps.with
      | refine State.Keeps.withIdent (h := ?_) (a := rfl) (b := rfl) ..
      | refine State.Keeps.withSec (h := ?_) (a := rfl) (b := rfl) (c := rfl) ..)
    | exact fun _ => rfl | exact rfl | omega)

theorem execLoadStart_kept {r₀ : State} (w : Writer) (s : State) (h : r₀.Keeps s) :
    r₀.RKeeps (execLoadStart w s) := by
  unfold execLoadStart
  repeat' (first
    | with_reducible (first
      | assumption | apply State.RKeeps.next | apply State.commitLoad_kept)
    | split)

theorem execChainArm_kept {r₀ : State} (w : Writer) (s : State) (h : r₀.Keeps s) :
    r₀.RKeeps (execChainArm w s) := by
  unfold execChainArm
  repeat' (first
    | with_reducible (first
      | assumption | apply State.RKeeps.next | apply State.commitLoad_kept)
    | split)

theorem execLoadAbort_kept {r₀ : State} (w : Writer) (s : State) (h : r₀.Keeps s) :
    r₀.RKeeps (execLoadAbort w s) := by
  unfold execLoadAbort
  repeat' (first
    | with_reducible (first
      | assumption | apply State.RKeeps.next | apply State.commitLoad_kept)
    | split)

theorem State.writeFrames_kept {r₀ : State} (s : State) (enc : Bool) (rs : List (List Byte)) (h : r₀.Keeps s) :
    r₀.Keeps (State.writeFrames s enc rs) := by
  unfold State.writeFrames
  repeat' (first
    | with_reducible (first
      | assumption | apply State.Keeps.foldl | apply State.modCfg_kept)
    | intro _)

theorem State.takeBody_kept {r₀ : State} (s : State) (r : LoadRun) (i : Nat) (h : r₀.Keeps s) :
    r₀.EKeeps (State.takeBody s r i) := by
  unfold State.takeBody
  try dsimp only
  repeat' (first
    | with_reducible (first
      | assumption | apply State.EKeeps.ok | exact State.EKeeps.error | apply State.Keeps.foldl
      | apply State.setBytes_kept | apply State.modPlot_kept | apply State.modRun_kept | apply State.writeFrames_kept)
    | intro _ | split)

theorem State.takeBodies_kept {r₀ : State} : ∀ (x0 : Nat), ∀ (s : State), r₀.Keeps s →
    r₀.Keeps (State.takeBodies s x0) := by
  intro x0
  induction x0 with
  | zero =>
    intros
    unfold State.takeBodies
    try dsimp only
    repeat' (first
      | with_reducible (first
        | assumption | apply State.Keeps.foldl | apply State.modCfg_kept | apply State.modRun_kept
        | apply State.loadFail_kept | apply State.takeBody_kept)
      | split
      | with_reducible (first
        | apply State.EKeeps.get (by assumption) | fail))
  | succ n ih =>
    intros
    unfold State.takeBodies
    try dsimp only
    repeat' (first
      | with_reducible (first
        | assumption | apply ih | apply State.Keeps.foldl | apply State.modCfg_kept | apply State.modRun_kept
        | apply State.loadFail_kept | apply State.takeBody_kept)
      | split
      | with_reducible (first
        | apply State.EKeeps.get (by assumption) | fail))

theorem State.pumpLoad_kept {r₀ : State} (s : State) (h : r₀.Keeps s) :
    r₀.Keeps (State.pumpLoad s) := by
  unfold State.pumpLoad
  repeat' (first
    | with_reducible (first
      | assumption | apply State.takeBodies_kept)
    | split)

theorem State.sendChain_kept {r₀ : State} : ∀ (x0 : Nat), ∀ (s : State) (flush : Bool), r₀.Keeps s →
    r₀.Keeps (State.sendChain s flush x0) := by
  intro x0
  induction x0 with
  | zero =>
    intros
    unfold State.sendChain
    repeat' (first
      | with_reducible (first
        | assumption | apply State.send_kept | apply State.modCfg_kept | apply State.chainFrame_kept)
      | split)
  | succ n ih =>
    intros
    unfold State.sendChain
    repeat' (first
      | with_reducible (first
        | assumption | apply ih | apply State.send_kept | apply State.modCfg_kept | apply State.chainFrame_kept)
      | split)

theorem State.finishChain_kept {r₀ : State} (s : State) (h : r₀.Keeps s) :
    r₀.Keeps (State.finishChain s) := by
  unfold State.finishChain
  repeat' (first
    | with_reducible (first
      | assumption | apply State.modCfg_kept | apply State.chainFrame_kept | apply State.sendChain_kept)
    | split)

theorem State.forwardBytes_kept {r₀ : State} (s : State) (k : ChainRun) (b : List Byte) (h : r₀.Keeps s) :
    r₀.Keeps (State.forwardBytes s k b) := by
  unfold State.forwardBytes
  repeat' (first
    | with_reducible (first
      | assumption | apply State.draw_kept | apply State.modCfg_kept | apply State.chainFrame_kept
      | apply State.sendChain_kept)
    | split)

theorem State.feed_kept {r₀ : State} (s : State) (b : List Byte) (h : r₀.Keeps s) :
    r₀.Keeps (State.feed s b) := by
  unfold State.feed
  try dsimp only
  repeat' (first
    | with_reducible (first
      | assumption | apply State.modCfg_kept | apply State.modRun_kept | apply State.pumpLoad_kept
      | apply State.forwardBytes_kept)
    | split)

theorem State.stream_kept {r₀ : State} (s : State) (b : List Byte) (h : r₀.Keeps s) :
    r₀.Keeps (State.stream s b) := by
  unfold State.stream
  try dsimp only
  repeat' (first
    | with_reducible (first
      | assumption | apply State.finishChain_kept | apply State.feed_kept)
    | split)

theorem State.sheafWrite_kept {r₀ : State} (s : State) (off : Nat) (data : List Byte) (h : r₀.Keeps s) :
    r₀.Keeps (State.sheafWrite s off data) := by
  unfold State.sheafWrite
  repeat' (first
    | with_reducible (first
      | assumption | apply State.loadFail_kept | apply State.stream_kept)
    | split)

theorem execSheafWindowWrite_kept {r₀ : State} (off : BitVec 20) (data : List Byte) (s : State) (h : r₀.Keeps s) :
    r₀.RKeeps (execSheafWindowWrite off data s) := by
  unfold execSheafWindowWrite
  repeat' (first
    | with_reducible (first
      | assumption | apply State.RKeeps.next | apply State.sheafWrite_kept))

theorem execChainStartReceive_kept {r₀ : State} (payload : List Byte) (s : State) (h : r₀.Keeps s) :
    r₀.RKeeps (execChainStartReceive payload s) := by
  unfold execChainStartReceive
  try dsimp only
  repeat' (first
    | with_reducible (first
      | assumption | apply State.RKeeps.next | apply State.tallyW_kept | apply State.modCfg_kept
      | apply State.modRun_kept)
    | split)

theorem execChainDataReceive_kept {r₀ : State} (data : List Byte) (s : State) (h : r₀.Keeps s) :
    r₀.RKeeps (execChainDataReceive data s) := by
  unfold execChainDataReceive
  repeat' (first
    | with_reducible (first
      | assumption | apply State.RKeeps.next | apply State.tallyW_kept | apply State.feed_kept)
    | split)

theorem execChainEndReceive_kept {r₀ : State} (s : State) (h : r₀.Keeps s) :
    r₀.RKeeps (execChainEndReceive s) := by
  unfold execChainEndReceive
  repeat' (first
    | with_reducible (first
      | assumption | apply State.RKeeps.next | apply State.finishChain_kept)
    | split)

theorem execChainAbortReceive_kept {r₀ : State} (payload : List Byte) (s : State) (h : r₀.Keeps s) :
    r₀.RKeeps (execChainAbortReceive payload s) := by
  unfold execChainAbortReceive
  repeat' (first
    | with_reducible (first
      | assumption | apply State.RKeeps.next | apply State.modCfg_kept | apply State.chainAbort_kept
      | apply State.loadFail_kept)
    | split)

theorem execLoadSequenceTimeout_kept {r₀ : State} (s : State) (h : r₀.Keeps s) :
    r₀.RKeeps (execLoadSequenceTimeout s) := by
  unfold execLoadSequenceTimeout
  try dsimp only
  repeat' (first
    | with_reducible (first
      | assumption | apply State.RKeeps.next | apply State.advanceTo_kept | apply State.loadFail_kept)
    | split)

theorem State.forceMills_kept {r₀ : State} (s : State) (ms : List Nat) (h : r₀.Keeps s) :
    r₀.Keeps (State.forceMills s ms) := by
  unfold State.forceMills
  repeat' (first
    | with_reducible (first
      | assumption | apply State.Keeps.foldl | apply State.advanceTo_kept | apply State.cancelQueue_kept
      | apply State.endMill_kept)
    | intro _ | split)

theorem State.closeAtTick_kept {r₀ : State} (s : State) (ps : List Nat) (h : r₀.Keeps s) :
    r₀.Keeps (State.closeAtTick s ps) := by
  unfold State.closeAtTick
  try dsimp only
  repeat' (first
    | with_reducible (first
      | assumption | apply State.Keeps.foldl | apply State.nextTick_kept | apply State.closePlot_kept)
    | intro _ | split)

theorem State.clearPlot_kept {r₀ : State} (s : State) (p : Nat) (h : r₀.Keeps s) :
    r₀.Keeps (State.clearPlot s p) := by
  unfold State.clearPlot
  repeat' (first
    | with_reducible (first
      | assumption | apply State.zeroSealedPlot_kept | apply State.blankPlot_kept))

theorem State.clearMill_kept {r₀ : State} (s : State) (named : Bool) (m : Nat) (h : r₀.Keeps s) :
    r₀.Keeps (State.clearMill s named m) := by
  unfold State.clearMill
  repeat' (first
    | with_reducible (first
      | assumption | apply State.modMill_kept | apply State.zeroImem_kept | apply State.zeroSealedMill_kept)
    | split)

theorem State.loadClear_kept {r₀ : State} (s : State) (b : List Byte) (h : r₀.Keeps s) :
    r₀.Keeps (State.loadClear s b) := by
  unfold State.loadClear
  repeat' (first
    | with_reducible (first
      | assumption | apply State.Keeps.foldl | apply State.nextTick_kept | apply State.closePlot_kept
      | apply State.zeroImems_kept | apply State.blankPlot_kept | apply State.emptySlot_kept | apply State.modCfg_kept
      | apply State.dropFrames_kept | apply State.forceMills_kept | apply State.closeAtTick_kept
      | apply State.clearPlot_kept | apply State.clearMill_kept)
    | intro _ | split
    | with_reducible (first
      | apply State.Keeps.snd (by assumption) | apply State.Keeps.with))

theorem execStageADone_kept {r₀ : State} (s : State) (h : r₀.Keeps s) :
    r₀.RKeeps (execStageADone s) := by
  unfold execStageADone
  repeat' (first
    | with_reducible (first
      | assumption | apply State.RKeeps.next | apply State.modCfg_kept | apply State.modRun_kept
      | apply State.loadFail_kept | apply State.pumpLoad_kept | apply State.loadClear_kept)
    | split)

theorem State.loaderUpdate_kept {r₀ : State} (s : State) (u : Nat × Word × Word) (h : r₀.Keeps s) :
    r₀.Keeps (State.loaderUpdate s u) := by
  unfold State.loaderUpdate
  repeat' (first
    | with_reducible (first
      | assumption | apply State.applyUpdate_kept)
    | split
    | with_reducible (first
      | apply State.Keeps.snd (by assumption) | apply State.Keeps.with))

theorem State.ledgerSection_kept {r₀ : State} (s : State) (r : LoadRun) (h : r₀.Keeps s) :
    r₀.Keeps (State.ledgerSection s r) := by
  unfold State.ledgerSection
  repeat' (first
    | with_reducible (first
      | assumption | apply State.Keeps.foldl | apply State.loaderUpdate_kept)
    | intro _)

theorem State.loadStep5_kept {r₀ : State} (s : State) (r : LoadRun) (h : r₀.Keeps s) :
    r₀.Keeps (State.loadStep5 s r) := by
  unfold State.loadStep5
  repeat' (first
    | with_reducible (first
      | assumption | apply State.Keeps.foldl | apply State.setRing_kept | apply State.ledgerSection_kept)
    | intro _ | split
    | with_reducible (first
      | apply State.Keeps.with))

theorem State.armMill_kept {r₀ : State} (s : State) (r : LoadRun) (m : Nat) (h : r₀.Keeps s) :
    r₀.Keeps (State.armMill s r m) := by
  unfold State.armMill
  try dsimp only
  repeat' (first
    | with_reducible (first
      | assumption | apply State.modMill_kept)
    | split)

theorem State.armPlot_kept {r₀ : State} (s : State) (r : LoadRun) (p : Nat) (h : r₀.Keeps s) : r₀.Keeps (s.armPlot r p) := by
  unfold State.armPlot
  refine State.modPlot_kept (h := ?_) ..
  exact State.Keeps.withMem (s := s) (h := h) (a := fun w => Memory.wf_foldl _ (fun a => bramCell p 0 0 + a) _ w) ..

theorem State.armDies_kept {r₀ : State} (s : State) (r : LoadRun) (h : r₀.Keeps s) :
    r₀.Keeps (State.armDies s r) := by
  unfold State.armDies
  repeat' (first
    | with_reducible (first
      | assumption)
    | with_reducible (first
      | apply State.Keeps.with))

theorem State.askRelease_kept {r₀ : State} (s : State) (p : Nat) (h : r₀.Keeps s) :
    r₀.Keeps (State.askRelease s p) := by
  unfold State.askRelease
  repeat' (first
    | with_reducible (first
      | assumption | apply State.modPlot_kept))

theorem State.loadDone_kept {r₀ : State} (s : State) (r : LoadRun) (h : r₀.Keeps s) :
    r₀.Keeps (State.loadDone s r) := by
  unfold State.loadDone
  repeat' (first
    | with_reducible (first
      | assumption | apply State.Keeps.foldl | apply State.modSec_kept | apply State.logEntry_kept
      | apply State.modCfg_kept | apply State.loadStep5_kept | apply State.armMill_kept | apply State.armPlot_kept
      | apply State.armDies_kept | apply State.askRelease_kept)
    | intro _ | split
    | with_reducible (first
      | apply State.Keeps.with)
    | exact rfl)

theorem execLoadCommit_kept {r₀ : State} (s : State) (h : r₀.Keeps s) :
    r₀.RKeeps (execLoadCommit s) := by
  unfold execLoadCommit
  repeat' (first
    | with_reducible (first
      | assumption | apply State.RKeeps.next | apply State.Keeps.foldl | apply State.loadFail_kept
      | apply State.loadDone_kept)
    | split)

theorem execConfErrRelease_kept {r₀ : State} (w : Writer) (s : State) (h : r₀.Keeps s) :
    r₀.RKeeps (execConfErrRelease w s) := by
  unfold execConfErrRelease
  repeat' (first
    | with_reducible (first
      | assumption | apply State.RKeeps.next | apply State.modCfg_kept)
    | split)

theorem State.cfgRel_kept {r₀ : State} (s : State) (v : Word) (h : r₀.Keeps s) :
    r₀.Keeps (State.cfgRel s v) := by
  unfold State.cfgRel
  repeat' (first
    | with_reducible (first
      | assumption | apply State.Keeps.foldl | apply State.askRelease_kept)
    | intro _ | split)

theorem execCfgRel_kept {r₀ : State} (w : Writer) (v : Word) (s : State) (h : r₀.Keeps s) :
    r₀.RKeeps (execCfgRel w v s) := by
  unfold execCfgRel
  repeat' (first
    | with_reducible (first
      | assumption | apply State.RKeeps.next | apply State.cfgRel_kept)
    | split)

theorem State.readback_kept {r₀ : State} (s : State) (fa : Word) (h : r₀.Keeps s) :
    r₀.Keeps (State.readback s fa) := by
  unfold State.readback
  repeat' (first
    | with_reducible (first
      | assumption | apply State.modCfg_kept))

theorem execFrameReadback_kept {r₀ : State} (w : Writer) (fa : Word) (s : State) (h : r₀.Keeps s) :
    r₀.RKeeps (execFrameReadback w fa s) := by
  unfold execFrameReadback
  repeat' (first
    | with_reducible (first
      | assumption | apply State.RKeeps.next | apply State.readback_kept)
    | split)

/-! ### Sexton.lean -/

theorem State.modSxt_kept {r₀ : State} (s : State) (f : Sexton → Sexton) (h : r₀.Keeps s) :
    r₀.Keeps (State.modSxt s f) := by
  unfold State.modSxt
  repeat' (first
    | with_reducible (first
      | assumption | apply State.modCfg_kept))

theorem execSextonPassStart_kept {r₀ : State} (s : State) (h : r₀.Keeps s) :
    r₀.RKeeps (execSextonPassStart s) := by
  unfold execSextonPassStart
  try dsimp only
  repeat' (first
    | with_reducible (first
      | assumption | apply State.RKeeps.next | apply State.modSxt_kept)
    | split)

theorem State.countFixed_kept {r₀ : State} (s : State) (h : r₀.Keeps s) :
    r₀.Keeps (State.countFixed s) := by
  unfold State.countFixed
  repeat' (first
    | with_reducible (first
      | assumption | apply State.tallyW_kept | apply State.modSxt_kept))

theorem State.frameBad_kept {r₀ : State} (s : State) (fa : Nat) (both : Bool) (h : r₀.Keeps s) :
    r₀.Keeps (State.frameBad s fa both) := by
  unfold State.frameBad
  repeat' (first
    | with_reducible (first
      | assumption | apply State.evBits_kept | apply State.report_kept | apply State.alert_kept
      | apply State.modSxt_kept)
    | split)

theorem State.frameEffect_kept {r₀ : State} (s : State) (fa : Nat) (h : r₀.Keeps s) :
    r₀.Keeps (State.frameEffect s fa) := by
  unfold State.frameEffect
  try dsimp only
  repeat' (first
    | with_reducible (first
      | assumption | apply State.raiseHalt_kept | apply State.raiseMill_kept | apply State.endRunning_kept
      | apply State.stopMill_kept | apply State.askClose_kept)
    | split)

theorem State.putFrame_kept {r₀ : State} (s : State) (second : Bool) (fa : Nat) (f : FrameRec) (h : r₀.Keeps s) :
    r₀.Keeps (State.putFrame s second fa f) := by
  unfold State.putFrame
  repeat' (first
    | with_reducible (first
      | assumption | apply State.modCfg_kept))

theorem State.checkCopy_kept {r₀ : State} (s : State) (second : Bool) (fa : Nat) (f : FrameRec) (h : r₀.Keeps s) :
    r₀.Keeps (State.checkCopy s second fa f).2 := by
  unfold State.checkCopy
  repeat' (first
    | with_reducible (first
      | assumption | apply State.countFixed_kept | apply State.putFrame_kept)
    | split)

theorem State.checkFrame_kept {r₀ : State} (s : State) (fa : Nat) (h : r₀.Keeps s) :
    r₀.Keeps (State.checkFrame s fa) := by
  unfold State.checkFrame
  try dsimp only
  repeat' (first
    | with_reducible (first
      | assumption | apply State.report_kept | apply State.frameBad_kept | apply State.frameEffect_kept
      | apply State.putFrame_kept | apply State.checkCopy_kept)
    | split)

theorem execSextonFrameCheck_kept {r₀ : State} (upsets : List (BitVec 12)) (second : Bool) (s : State) (h : r₀.Keeps s) :
    r₀.RKeeps (execSextonFrameCheck upsets second s) := by
  unfold execSextonFrameCheck
  repeat' (first
    | with_reducible (first
      | assumption | apply State.RKeeps.next | apply State.advanceTo_kept | apply State.modCfg_kept
      | apply State.modSxt_kept | apply State.checkFrame_kept)
    | split)

theorem execSextonLatchRepair_kept {r₀ : State} (restart : Bool) (s : State) (h : r₀.Keeps s) :
    r₀.RKeeps (execSextonLatchRepair restart s) := by
  unfold execSextonLatchRepair
  repeat' (first
    | with_reducible (first
      | assumption | apply State.RKeeps.next | apply State.modSxt_kept)
    | split)

/-! ### PowerOps.lean -/

theorem State.cancelQueued_kept {r₀ : State} (s : State) (i : Nat) (h : r₀.Keeps s) :
    r₀.Keeps (State.cancelQueued s i) := by
  unfold State.cancelQueued
  repeat' (first
    | with_reducible (first
      | assumption | apply State.Keeps.foldl | apply State.cancelQueue_kept)
    | intro _ | split)

theorem State.forceDomain_kept {r₀ : State} (s : State) (i : Nat) (h : r₀.Keeps s) :
    r₀.Keeps (State.forceDomain s i) := by
  unfold State.forceDomain
  repeat' (first
    | with_reducible (first
      | assumption | apply State.Keeps.foldl | apply State.modGranary_kept | apply State.grnControl_kept
      | apply State.endTapStages_kept | apply State.endMill_kept)
    | intro _ | split)

theorem State.powerPlot_kept {r₀ : State} (s : State) (p : Nat) (t : BitVec 2) (h : r₀.Keeps s) :
    r₀.Keeps (State.powerPlot s p t) := by
  unfold State.powerPlot
  repeat' (first
    | with_reducible (first
      | assumption | apply State.modPlot_kept | apply State.nextTick_kept | apply State.zeroRange_kept
      | apply State.closePlot_kept | apply State.blankPlot_kept | apply State.dropFrames_kept)
    | split)

theorem State.powerMill_kept {r₀ : State} (s : State) (m : Nat) (t : BitVec 2) (h : r₀.Keeps s) :
    r₀.Keeps (State.powerMill s m t) := by
  unfold State.powerMill
  repeat' (first
    | with_reducible (first
      | assumption | apply State.modMill_kept | apply State.zeroRange_kept | apply State.zeroImem_kept
      | apply State.dropFrames_kept)
    | split)

theorem State.powerGranary_kept {r₀ : State} (s : State) (k : Nat) (t : BitVec 2) (h : r₀.Keeps s) :
    r₀.Keeps (State.powerGranary s k t) := by
  unfold State.powerGranary
  repeat' (first
    | with_reducible (first
      | assumption | apply State.modGranary_kept | apply State.zeroRange_kept)
    | split)

theorem State.enterDomain_kept {r₀ : State} (s : State) (i : Nat) (t : BitVec 2) (h : r₀.Keeps s) :
    r₀.Keeps (State.enterDomain s i t) := by
  unfold State.enterDomain
  repeat' (first
    | with_reducible (first
      | assumption | apply State.Keeps.foldl | apply State.modPort_kept | apply State.portLost_kept
      | apply State.zeroRange_kept | apply State.powerPlot_kept | apply State.powerMill_kept
      | apply State.powerGranary_kept)
    | intro _ | split
    | with_reducible (first
      | apply State.Keeps.with))

theorem State.powerEnd_kept {r₀ : State} (s : State) (result block : Nat) (h : r₀.Keeps s) :
    r₀.Keeps (State.powerEnd s result block) := by
  unfold State.powerEnd
  repeat' (first
    | with_reducible (first
      | assumption)
    | with_reducible (first
      | apply State.Keeps.with))

theorem State.powerEnter_kept {r₀ : State} (s : State) (h : r₀.Keeps s) :
    r₀.Keeps (State.powerEnter s) := by
  unfold State.powerEnter
  repeat' (first
    | with_reducible (first
      | assumption | apply State.Keeps.foldl | apply State.enterDomain_kept | apply State.powerEnd_kept))

theorem State.wakeDomain_kept {r₀ : State} (s : State) (i : Nat) (h : r₀.Keeps s) :
    r₀.Keeps (State.wakeDomain s i) := by
  unfold State.wakeDomain
  repeat' (first
    | with_reducible (first
      | assumption | apply State.modPlot_kept)
    | split
    | with_reducible (first
      | apply State.Keeps.with))

theorem State.startReturn_kept {r₀ : State} (s : State) (h : r₀.Keeps s) :
    r₀.Keeps (State.startReturn s) := by
  unfold State.startReturn
  repeat' (first
    | with_reducible (first
      | assumption | apply State.ready_kept)
    | with_reducible (first
      | apply State.Keeps.with))

theorem State.powerRun_kept {r₀ : State} (s : State) (h : r₀.Keeps s) :
    r₀.Keeps (State.powerRun s) := by
  unfold State.powerRun
  repeat' (first
    | with_reducible (first
      | assumption | apply State.cancelQueued_kept | apply State.powerEnd_kept | apply State.powerEnter_kept
      | apply State.wakeDomain_kept | apply State.startReturn_kept)
    | split
    | with_reducible (first
      | apply State.Keeps.with))

theorem State.powerTake_kept {r₀ : State} (s : State) (v : Word) (h : r₀.Keeps s) :
    r₀.Keeps (State.powerTake s v) := by
  unfold State.powerTake
  repeat' (first
    | with_reducible (first
      | assumption | apply State.powerEnd_kept | apply State.powerRun_kept)
    | split
    | with_reducible (first
      | apply State.Keeps.with))

theorem State.pwrReq_kept {r₀ : State} (s : State) (v : Word) (h : r₀.Keeps s) :
    r₀.OKeeps (State.pwrReq s v) := by
  unfold State.pwrReq
  try dsimp only
  repeat' (first
    | with_reducible (first
      | assumption | apply State.OKeeps.some | exact State.OKeeps.none | exact State.OPKeeps.none
      | apply State.OPKeeps.some | exact State.DKeeps.none | apply State.DKeeps.some | apply State.EKeeps.ok
      | exact State.EKeeps.error | apply State.Keeps.foldl | apply State.Keeps.foldlPair3
      | apply State.Keeps.foldlPair | apply State.OKeeps.getD | apply State.OKeeps.map | apply State.cwHold_kept
      | apply State.powerTake_kept)
    | intro _ | split
    | with_reducible (first
      | apply State.Keeps.snd3 (by assumption) | apply State.Keeps.snd (by assumption)
      | apply State.OKeeps.get (by assumption) | apply State.OPKeeps.get (by assumption)
      | apply State.EKeeps.get (by assumption) | apply State.DKeeps.get (by assumption) | apply State.Keeps.with
      | refine State.Keeps.withIdent (h := ?_) (a := rfl) (b := rfl) ..
      | refine State.Keeps.withSec (h := ?_) (a := rfl) (b := rfl) (c := rfl) ..)
    | exact fun _ => rfl | exact rfl | omega)

theorem State.termDenied_kept {r₀ : State} (s : State) (h : r₀.Keeps s) :
    r₀.Keeps (State.termDenied s) := by
  unfold State.termDenied
  repeat' (first
    | with_reducible (first
      | assumption | apply State.send_kept | apply State.tallyW_kept))

theorem execPowerRequest_kept {r₀ : State} (path : ReqPath) (v : Word) (s : State) (h : r₀.Keeps s) :
    r₀.RKeeps (execPowerRequest path v s) := by
  unfold execPowerRequest
  repeat' (first
    | with_reducible (first
      | assumption | apply State.RKeeps.next | apply State.OKeeps.getD | apply State.commit_kept
      | apply State.pwrReq_kept | apply State.termDenied_kept)
    | split)

theorem execPowerDelayExpiry_kept {r₀ : State} (s : State) (h : r₀.Keeps s) :
    r₀.RKeeps (execPowerDelayExpiry s) := by
  unfold execPowerDelayExpiry
  try dsimp only
  repeat' (first
    | with_reducible (first
      | assumption | apply State.RKeeps.next | apply State.Keeps.foldl | apply State.advanceTo_kept
      | apply State.forceDomain_kept | apply State.powerEnd_kept | apply State.powerEnter_kept)
    | split)

theorem execPowerBoundary_kept {r₀ : State} (s : State) (h : r₀.Keeps s) :
    r₀.RKeeps (execPowerBoundary s) := by
  unfold execPowerBoundary
  try dsimp only
  repeat' (first
    | with_reducible (first
      | assumption | apply State.RKeeps.next | apply State.Keeps.foldl | apply State.Keeps.foldlPair
      | apply State.powerRun_kept)
    | intro _ | split
    | with_reducible (first
      | apply State.Keeps.snd3 (by assumption) | apply State.Keeps.snd (by assumption)
      | apply State.OPKeeps.get (by assumption) | apply State.Keeps.with))

theorem State.returned_kept {r₀ : State} (s : State) (i : Nat) (t : BitVec 2) (h : r₀.Keeps s) :
    r₀.Keeps (State.returned s i t) := by
  unfold State.returned
  repeat' (first
    | with_reducible (first
      | assumption | apply State.Keeps.foldl | apply State.modPort_kept | apply State.modGranary_kept
      | apply State.modPlot_kept)
    | intro _ | split
    | with_reducible (first
      | apply State.Keeps.with))

theorem execPowerReturnStep_kept {r₀ : State} (s : State) (h : r₀.Keeps s) :
    r₀.RKeeps (execPowerReturnStep s) := by
  unfold execPowerReturnStep
  try dsimp only
  repeat' (first
    | with_reducible (first
      | assumption | apply State.RKeeps.next | apply State.Keeps.foldl | apply State.ready_kept
      | apply State.nextTick_kept | apply State.powerEnd_kept | apply State.returned_kept)
    | split
    | with_reducible (first
      | apply State.Keeps.with))

theorem execPowerReturnTimeout_kept {r₀ : State} (s : State) (h : r₀.Keeps s) :
    r₀.RKeeps (execPowerReturnTimeout s) := by
  unfold execPowerReturnTimeout
  try dsimp only
  repeat' (first
    | with_reducible (first
      | assumption | apply State.RKeeps.next | apply State.Keeps.foldl | apply State.report_kept
      | apply State.advanceTo_kept | apply State.enterDomain_kept | apply State.powerEnd_kept)
    | split)

theorem execIdleWake_kept {r₀ : State} (i : BitVec 7) (s : State) (h : r₀.Keeps s) :
    r₀.RKeeps (execIdleWake i s) := by
  unfold execIdleWake
  repeat' (first
    | with_reducible (first
      | assumption | apply State.RKeeps.next | apply State.wakeDomain_kept)
    | split)

/-! ### Resets.lean -/

theorem State.resetMill_kept {r₀ : State} (s : State) (m : Nat) (h : r₀.Keeps s) :
    r₀.Keeps (State.resetMill s m) := by
  unfold State.resetMill
  repeat' (first
    | with_reducible (first
      | assumption | apply State.modMill_kept | apply State.zeroImem_kept | apply State.zeroSealedMill_kept
      | apply State.dropFrames_kept))

theorem State.resetPlot_kept {r₀ : State} (s : State) (p : Nat) (h : r₀.Keeps s) :
    r₀.Keeps (State.resetPlot s p) := by
  unfold State.resetPlot
  repeat' (first
    | with_reducible (first
      | assumption | apply State.modPlot_kept | apply State.endTapStages_kept | apply State.zeroSealedPlot_kept
      | apply State.blankPlot_kept | apply State.dropFrames_kept))

theorem State.emptyLoaded_kept {r₀ : State} (s : State) (f : Group → Bool) (h : r₀.Keeps s) :
    r₀.Keeps (State.emptyLoaded s f) := by
  unfold State.emptyLoaded
  repeat' (first
    | with_reducible (first
      | assumption | apply State.Keeps.foldl | apply State.emptySlot_kept)
    | intro _)

theorem State.warmReset_kept {r₀ : State} (s : State) (h : r₀.Keeps s) :
    r₀.Keeps (State.warmReset s) := by
  unfold State.warmReset
  try dsimp only
  repeat' (first
    | with_reducible (first
      | assumption | apply State.OKeeps.some | exact State.OKeeps.none | exact State.OPKeeps.none
      | apply State.OPKeeps.some | exact State.DKeeps.none | apply State.DKeeps.some | apply State.EKeeps.ok
      | exact State.EKeeps.error | apply State.Keeps.foldl | apply State.Keeps.foldlPair3
      | apply State.Keeps.foldlPair | apply State.OKeeps.getD | apply State.OKeeps.map | apply State.modMill_kept
      | apply State.setLevel_kept | apply State.modReeve_kept | apply State.bootReeve_kept
      | apply State.zeroImems_kept | apply State.chainAbort_kept | apply State.resetMill_kept
      | apply State.resetPlot_kept)
    | intro _ | split
    | with_reducible (first
      | apply State.Keeps.snd3 (by assumption) | apply State.Keeps.snd (by assumption)
      | apply State.OKeeps.get (by assumption) | apply State.OPKeeps.get (by assumption)
      | apply State.EKeeps.get (by assumption) | apply State.DKeeps.get (by assumption) | apply State.Keeps.with
      | refine State.Keeps.withIdent (h := ?_) (a := rfl) (b := rfl) ..
      | refine State.Keeps.withSec (h := ?_) (a := rfl) (b := rfl) (c := rfl) ..)
    | exact fun _ => rfl | exact rfl | omega)

theorem State.cold_kept {r₀ : State} (s : State) (h : r₀.Keeps s) : r₀.Keeps s.cold :=
  h.trans ⟨rfl, fun _ => rfl, fun _ => Nat.zero_le _, Nat.le_refl _, id, id, fun _ o h => ⟨o, h, rfl, id⟩, rfl, rfl⟩

theorem execColdReset_kept {r₀ : State} (s : State) (h : r₀.Keeps s) :
    r₀.RKeeps (execColdReset s) := by
  unfold execColdReset
  repeat' (first
    | with_reducible (first
      | assumption | apply State.RKeeps.next | apply State.cold_kept)
    | split)

theorem execPorstRelease_kept {r₀ : State} (tj : Byte) (s : State) (h : r₀.Keeps s) : r₀.RKeeps (execPorstRelease tj s) := by
  unfold execPorstRelease
  dsimp only
  split
  · exact State.RKeeps.next h
  · refine State.RKeeps.next (State.Keeps.foldl ?_ fun s f h => State.failRow_kept (h := h) ..)
    exact (State.Keeps.withClock (s := s) (h := h) (a := fun _ => Nat.zero_le _) (b := Nat.le_add_right _ _) ..)

theorem execWarmReset_kept {r₀ : State} (s : State) (h : r₀.Keeps s) :
    r₀.RKeeps (execWarmReset s) := by
  unfold execWarmReset
  repeat' (first
    | with_reducible (first
      | assumption | apply State.RKeeps.next | apply State.warmReset_kept)
    | split
    | with_reducible (first
      | apply State.Keeps.with))

theorem execWarmResetRelease_kept {r₀ : State} (s : State) (h : r₀.Keeps s) :
    r₀.RKeeps (execWarmResetRelease s) := by
  unfold execWarmResetRelease
  repeat' (first
    | with_reducible (first
      | assumption | apply State.RKeeps.next)
    | with_reducible (first
      | apply State.Keeps.with))

theorem State.dieReset_kept {r₀ : State} (s : State) (d : Nat) (h : r₀.Keeps s) :
    r₀.Keeps (State.dieReset s d) := by
  unfold State.dieReset
  repeat' (first
    | with_reducible (first
      | assumption | apply State.Keeps.foldl | apply State.endMill_kept | apply State.zeroImems_kept
      | apply State.dropFrames_kept | apply State.closeAtTick_kept | apply State.resetMill_kept
      | apply State.resetPlot_kept | apply State.emptyLoaded_kept)
    | intro _ | split
    | with_reducible (first
      | apply State.Keeps.snd (by assumption) | apply State.Keeps.with))

theorem State.plotReset_kept {r₀ : State} (s : State) (p : Nat) (h : r₀.Keeps s) :
    r₀.Keeps (State.plotReset s p) := by
  unfold State.plotReset
  repeat' (first
    | with_reducible (first
      | assumption | apply State.closeAtTick_kept | apply State.resetPlot_kept | apply State.emptyLoaded_kept))

theorem State.millReset_kept {r₀ : State} (s : State) (m : Nat) (h : r₀.Keeps s) :
    r₀.Keeps (State.millReset s m) := by
  unfold State.millReset
  repeat' (first
    | with_reducible (first
      | assumption | apply State.Keeps.foldl | apply State.postWaiting_kept | apply State.endMill_kept
      | apply State.resetMill_kept | apply State.emptyLoaded_kept)
    | intro _ | split
    | with_reducible (first
      | apply State.Keeps.snd (by assumption) | apply State.Keeps.with))

theorem State.streamReset_kept {r₀ : State} (s : State) (m k : Nat) (h : r₀.Keeps s) :
    r₀.Keeps (State.streamReset s m k) := by
  unfold State.streamReset
  repeat' (first
    | with_reducible (first
      | assumption | apply State.modMill_kept | apply State.stopSlot_kept)
    | split)

theorem State.runReset_kept {r₀ : State} (s : State) (r : RstReq) (h : r₀.Keeps s) :
    r₀.Keeps (State.runReset s r) := by
  unfold State.runReset
  repeat' (first
    | with_reducible (first
      | assumption | apply State.warmReset_kept | apply State.dieReset_kept | apply State.plotReset_kept
      | apply State.millReset_kept | apply State.streamReset_kept)
    | split
    | with_reducible (first
      | apply State.Keeps.with))

theorem State.takeReset_kept {r₀ : State} (s : State) (r : RstReq) (h : r₀.Keeps s) :
    r₀.OKeeps (State.takeReset s r) := by
  unfold State.takeReset
  try dsimp only
  repeat' (first
    | with_reducible (first
      | assumption | apply State.OKeeps.some | exact State.OKeeps.none | exact State.OPKeeps.none
      | apply State.OPKeeps.some | exact State.DKeeps.none | apply State.DKeeps.some | apply State.EKeeps.ok
      | exact State.EKeeps.error | apply State.Keeps.foldl | apply State.Keeps.foldlPair3
      | apply State.Keeps.foldlPair | apply State.OKeeps.getD | apply State.OKeeps.map | apply State.cwHold_kept
      | apply State.runReset_kept)
    | intro _ | split
    | with_reducible (first
      | apply State.Keeps.snd3 (by assumption) | apply State.Keeps.snd (by assumption)
      | apply State.OKeeps.get (by assumption) | apply State.OPKeeps.get (by assumption)
      | apply State.EKeeps.get (by assumption) | apply State.DKeeps.get (by assumption) | apply State.Keeps.with
      | refine State.Keeps.withIdent (h := ?_) (a := rfl) (b := rfl) ..
      | refine State.Keeps.withSec (h := ?_) (a := rfl) (b := rfl) (c := rfl) ..)
    | exact fun _ => rfl | exact rfl | omega)

theorem State.askReset_kept {r₀ : State} (s : State) (path : ReqPath) (r : RstReq) (h : r₀.Keeps s) :
    r₀.Keeps (State.askReset s path r) := by
  unfold State.askReset
  try dsimp only
  repeat' (first
    | with_reducible (first
      | assumption | apply State.OKeeps.some | exact State.OKeeps.none | exact State.OPKeeps.none
      | apply State.OPKeeps.some | exact State.DKeeps.none | apply State.DKeeps.some | apply State.EKeeps.ok
      | exact State.EKeeps.error | apply State.Keeps.foldl | apply State.Keeps.foldlPair3
      | apply State.Keeps.foldlPair | apply State.OKeeps.getD | apply State.OKeeps.map | apply State.commit_kept
      | apply State.termDenied_kept | apply State.takeReset_kept)
    | intro _ | split
    | with_reducible (first
      | apply State.Keeps.snd3 (by assumption) | apply State.Keeps.snd (by assumption)
      | apply State.OKeeps.get (by assumption) | apply State.OPKeeps.get (by assumption)
      | apply State.EKeeps.get (by assumption) | apply State.DKeeps.get (by assumption) | apply State.Keeps.with
      | refine State.Keeps.withIdent (h := ?_) (a := rfl) (b := rfl) ..
      | refine State.Keeps.withSec (h := ?_) (a := rfl) (b := rfl) (c := rfl) ..)
    | exact fun _ => rfl | exact rfl | omega)

theorem execPwrRstWarm_kept {r₀ : State} (path : ReqPath) (s : State) (h : r₀.Keeps s) :
    r₀.RKeeps (execPwrRstWarm path s) := by
  unfold execPwrRstWarm
  repeat' (first
    | with_reducible (first
      | assumption | apply State.RKeeps.next | apply State.OKeeps.getD | apply State.askReset_kept))

theorem execPwrRstDie_kept {r₀ : State} (path : ReqPath) (target : BitVec 11) (s : State) (h : r₀.Keeps s) :
    r₀.RKeeps (execPwrRstDie path target s) := by
  unfold execPwrRstDie
  repeat' (first
    | with_reducible (first
      | assumption | apply State.RKeeps.next | apply State.OKeeps.getD | apply State.askReset_kept))

theorem execPwrRstPlot_kept {r₀ : State} (path : ReqPath) (target : BitVec 11) (s : State) (h : r₀.Keeps s) :
    r₀.RKeeps (execPwrRstPlot path target s) := by
  unfold execPwrRstPlot
  repeat' (first
    | with_reducible (first
      | assumption | apply State.RKeeps.next | apply State.OKeeps.getD | apply State.askReset_kept))

theorem execPwrRstMill_kept {r₀ : State} (path : ReqPath) (target : BitVec 11) (s : State) (h : r₀.Keeps s) :
    r₀.RKeeps (execPwrRstMill path target s) := by
  unfold execPwrRstMill
  repeat' (first
    | with_reducible (first
      | assumption | apply State.RKeeps.next | apply State.OKeeps.getD | apply State.askReset_kept))

theorem execPwrRstStream_kept {r₀ : State} (path : ReqPath) (target : BitVec 11) (slot : BitVec 3) (s : State) (h : r₀.Keeps s)
    :
    r₀.RKeeps (execPwrRstStream path target slot s) := by
  unfold execPwrRstStream
  repeat' (first
    | with_reducible (first
      | assumption | apply State.RKeeps.next | apply State.OKeeps.getD | apply State.askReset_kept))

theorem execResetWaitEnds_kept {r₀ : State} (s : State) (h : r₀.Keeps s) :
    r₀.RKeeps (execResetWaitEnds s) := by
  unfold execResetWaitEnds
  repeat' (first
    | with_reducible (first
      | assumption | apply State.RKeeps.next | apply State.runReset_kept)
    | split
    | with_reducible (first
      | apply State.Keeps.with))

theorem State.copyRange_kept {r₀ : State} (s : State) (src dst n : Nat) (h : r₀.Keeps s) : r₀.Keeps (s.copyRange src dst n) :=
    by
  unfold State.copyRange
  have h1 : r₀.Keeps (s.zeroRange dst n) := State.zeroRange_kept (h := h) ..
  exact State.Keeps.withMem (s := s.zeroRange dst n) (h := h1) (a := fun w => Memory.wf_foldl _ (fun a => dst + (a - src)) _ w)
      ..

theorem State.restoreMill_kept {r₀ : State} (s : State) (m : Nat) (h : r₀.Keeps s) :
    r₀.Keeps (State.restoreMill s m) := by
  unfold State.restoreMill
  repeat' (first
    | with_reducible (first
      | assumption | apply State.modMill_kept | apply State.zeroRange_kept | apply State.zeroImem_kept
      | apply State.copyRange_kept)
    | split)

theorem State.substitute_kept {r₀ : State} (s : State) (d : Die) (x : Nat) (h : r₀.Keeps s) :
    r₀.Keeps (State.substitute s d x) := by
  unfold State.substitute
  repeat' (first
    | with_reducible (first
      | assumption | apply State.Keeps.foldl | apply State.modMill_kept | apply State.restoreMill_kept)
    | intro _ | split
    | with_reducible (first
      | refine State.Keeps.withIdent (h := ?_) (a := rfl) (b := rfl) ..))

theorem execSpareColumnSubstitution_kept {r₀ : State} (term : Word) (d : Die) (x : BitVec 5) (s : State) (h : r₀.Keeps s) :
    r₀.RKeeps (execSpareColumnSubstitution term d x s) := by
  unfold execSpareColumnSubstitution
  repeat' (first
    | with_reducible (first
      | assumption | apply State.RKeeps.next | apply State.reeveAlert_kept | apply State.termDenied_kept
      | apply State.substitute_kept)
    | split)

/-! ### SecurityOps.lean -/

theorem State.secCmd_kept {r₀ : State} (s : State) (v : Word) (h : r₀.Keeps s) :
    r₀.OKeeps (State.secCmd s v) := by
  unfold State.secCmd
  try dsimp only
  repeat' (first
    | with_reducible (first
      | assumption | apply State.OKeeps.some | exact State.OKeeps.none | exact State.OPKeeps.none
      | apply State.OPKeeps.some | exact State.DKeeps.none | apply State.DKeeps.some | apply State.EKeeps.ok
      | exact State.EKeeps.error | apply State.Keeps.foldl | apply State.Keeps.foldlPair3
      | apply State.Keeps.foldlPair | apply State.OKeeps.getD | apply State.OKeeps.map | apply State.cwHold_kept
      | apply State.modSec_kept)
    | intro _ | split
    | with_reducible (first
      | apply State.Keeps.snd3 (by assumption) | apply State.Keeps.snd (by assumption)
      | apply State.OKeeps.get (by assumption) | apply State.OPKeeps.get (by assumption)
      | apply State.EKeeps.get (by assumption) | apply State.DKeeps.get (by assumption) | apply State.Keeps.with
      | refine State.Keeps.withIdent (h := ?_) (a := rfl) (b := rfl) ..
      | refine State.Keeps.withSec (h := ?_) (a := rfl) (b := rfl) (c := rfl) ..)
    | exact fun _ => rfl | exact rfl | omega)

theorem State.secEnd_kept {r₀ : State} (s : State) (st : Status) (reason : Nat) (h : r₀.Keeps s) :
    r₀.Keeps (State.secEnd s st reason) := by
  unfold State.secEnd
  repeat' (first
    | with_reducible (first
      | assumption | apply State.modSec_kept)
    | exact rfl)

theorem State.secRun_kept {r₀ : State} (s : State) (w : Writer) (v : Word) (effect : State → State)
    (he : ∀ t, r₀.Keeps t → r₀.Keeps (effect t)) (h : r₀.Keeps s) : r₀.Keeps (s.secRun w v effect) := by
  unfold State.secRun
  split
  · exact h
  split
  · split
    · exact he _ h
    · exact State.cwFail_kept (h := h) ..
  · split
    · next e => exact he _ (State.OKeeps.get e (State.secCmd_kept (h := h) ..))
    · exact State.cwFail_kept (h := h) ..

theorem execChallenge_kept {r₀ : State} (w : Writer) (s : State) (h : r₀.Keeps s) :
    r₀.RKeeps (execChallenge w s) := by
  unfold execChallenge
  repeat' (first
    | with_reducible (first
      | assumption | apply State.RKeeps.next | apply State.draw_kept | apply State.modSec_kept
      | apply State.secEnd_kept | apply State.secRun_kept)
    | intro _
    | exact rfl)

theorem State.signed_kept {r₀ : State} (s : State) (effect : List Byte → State → State)
    (he : ∀ b t, r₀.Keeps t → r₀.Keeps (effect b t)) (h : r₀.Keeps s) : r₀.Keeps (s.signed effect) := by
  unfold State.signed
  dsimp only
  split
  · exact State.secEnd_kept (h := h) ..
  · exact State.secEnd_kept (h := he _ _ h) ..

theorem State.signedRun_kept {r₀ : State} (s : State) (w : Writer) (k : Nat) (effect : List Byte → State → State)
    (he : ∀ b t, r₀.Keeps t → r₀.Keeps (effect b t)) (h : r₀.Keeps s) : r₀.Keeps (s.signedRun w k effect) := by
  unfold State.signedRun
  split
  · exact State.secRun_kept _ _ _ _ (fun t ht => State.signed_kept _ _ he ht) h
  · exact h

theorem execSignedDebugLevel2_kept {r₀ : State} (w : Writer) (s : State) (h : r₀.Keeps s) :
    r₀.RKeeps (execSignedDebugLevel2 w s) := by
  unfold execSignedDebugLevel2
  repeat' (first
    | with_reducible (first
      | assumption | apply State.RKeeps.next | apply State.setLevel_kept | apply State.signedRun_kept)
    | intro _)

theorem State.zeroAll_kept {r₀ s : State} (h : r₀.Keeps s) : r₀.Keeps s.zeroAll := by
  unfold State.zeroAll
  exact State.Keeps.withMem (s := s) (h := h) (a := fun w => Memory.wf_filter _ _ w) ..

theorem execSignedDebugLevel3_kept {r₀ : State} (w : Writer) (s : State) (h : r₀.Keeps s) : r₀.RKeeps (execSignedDebugLevel3 w
    s) := by
  unfold execSignedDebugLevel3
  refine State.RKeeps.next (State.signedRun_kept _ _ _ _ (fun b t ht => ?_) h)
  refine State.setLevel_kept (h := ?_) ..
  exact (State.zeroAll_kept ht).trans ⟨rfl, id, id, Nat.le_refl _, fun _ => rfl, id, fun _ o h => ⟨o, h, rfl, id⟩, rfl, rfl⟩

theorem execSignedProgramSlot_kept {r₀ : State} (w : Writer) (s : State) (h : r₀.Keeps s) : r₀.RKeeps (execSignedProgramSlot w
    s) := by
  unfold execSignedProgramSlot
  refine State.RKeeps.next (State.signedRun_kept _ _ _ _ (fun b t ht => ?_) h)
  refine State.logEntry_kept (h := ?_) ..
  refine ht.trans ⟨rfl, id, id, Nat.le_refl _, id, id, fun i o h => ⟨o, ?_, rfl, id⟩, rfl, rfl⟩
  have hi : i < t.sec.slots.length := by
    rcases Nat.lt_or_ge i t.sec.slots.length with hi | hi
    · exact hi
    · rw [List.getElem?_eq_none hi] at h; cases h
  exact (List.getElem?_append_left hi).trans h

theorem execSignedRevokeSlot_kept {r₀ : State} (w : Writer) (s : State) (h : r₀.Keeps s) : r₀.RKeeps (execSignedRevokeSlot w s)
    := by
  unfold execSignedRevokeSlot
  refine State.RKeeps.next (State.signedRun_kept _ _ _ _ (fun b t ht => ?_) h)
  refine State.logEntry_kept (h := ?_) ..
  refine ht.trans ⟨rfl, id, id, Nat.le_refl _, id, id, fun i o h => ?_, rfl, rfl⟩
  show ∃ p, (t.sec.slots.set (leAt b 6 1) _)[i]? = some p ∧ _
  rw [List.getElem?_set]
  split
  · next e =>
    subst e
    have hi : leAt b 6 1 < t.sec.slots.length := by
      rcases Nat.lt_or_ge (leAt b 6 1) t.sec.slots.length with hi | hi
      · exact hi
      · rw [List.getElem?_eq_none hi] at h; cases h
    rw [if_pos hi]
    exact ⟨_, rfl, by rw [h]; rfl, fun _ => rfl⟩
  · exact ⟨o, h, rfl, id⟩

theorem execSignedRevokeFrarelKey0_kept {r₀ : State} (w : Writer) (s : State) (h : r₀.Keeps s) : r₀.RKeeps
    (execSignedRevokeFrarelKey0 w s) := by
  unfold execSignedRevokeFrarelKey0
  refine State.RKeeps.next (State.signedRun_kept _ _ _ _ (fun b t ht => ?_) h)
  refine State.logEntry_kept (h := ?_) ..
  exact ht.trans ⟨rfl, id, id, Nat.le_refl _, id, fun _ => rfl, fun _ o h => ⟨o, h, rfl, id⟩, rfl, rfl⟩

theorem Sec.putBytes_killed (x : Sec) (o : Nat) (b : List Byte) : (x.putBytes o b).killed = x.killed := rfl

theorem Sec.putBytes_frarel0 (x : Sec) (o : Nat) (b : List Byte) : (x.putBytes o b).frarel0 = x.frarel0 := rfl

theorem Sec.putBytes_slots (x : Sec) (o : Nat) (b : List Byte) : (x.putBytes o b).slots = x.slots := rfl

theorem execAttest_kept {r₀ : State} (w : Writer) (s : State) (h : r₀.Keeps s) : r₀.RKeeps (execAttest w s) := by
  unfold execAttest
  refine State.RKeeps.next (State.secRun_kept _ _ _ _ (fun t ht => ?_) h)
  split
  · exact State.secEnd_kept (h := ht) ..
  · refine State.secEnd_kept (h := ?_) ..
    exact State.modSec_kept _ ht (Sec.putBytes_killed _ _ _) (Sec.putBytes_frarel0 _ _ _) (Sec.putBytes_slots _ _ _)

theorem execLowerLevel_kept {r₀ : State} (w : Writer) (l : BitVec 2) (s : State) (h : r₀.Keeps s) :
    r₀.RKeeps (execLowerLevel w l s) := by
  unfold execLowerLevel
  repeat' (first
    | with_reducible (first
      | assumption | apply State.RKeeps.next | apply State.setLevel_kept | apply State.secEnd_kept
      | apply State.secRun_kept)
    | intro _ | split)

theorem execClaimSlot0_kept {r₀ : State} (w : Writer) (s : State) (h : r₀.Keeps s) : r₀.RKeeps (execClaimSlot0 w s) := by
  unfold execClaimSlot0
  refine State.RKeeps.next (State.secRun_kept _ _ _ _ (fun t ht => ?_) h)
  dsimp only
  split
  · exact State.secEnd_kept (h := ht) ..
  split
  · exact State.secEnd_kept (h := ht) ..
  · next hs _ =>
    refine State.secEnd_kept (h := State.logEntry_kept (h := ?_) ..) ..
    have hs := Decidable.not_not.mp hs
    exact ht.trans ⟨rfl, id, id, Nat.le_refl _, id, id, fun i o h => (by rw [hs] at h; cases h), rfl, rfl⟩

theorem State.mbxWrite_kept {r₀ : State} (s : State) (i : Nat) (v : Word) (h : r₀.Keeps s) :
    r₀.Keeps (State.mbxWrite s i v) := by
  unfold State.mbxWrite
  repeat' (first
    | with_reducible (first
      | assumption | apply State.modSec_kept)
    | split
    | exact rfl)

theorem execSecMbxWrite_kept {r₀ : State} (w : Writer) (i : BitVec 10) (v : Word) (s : State) (h : r₀.Keeps s) :
    r₀.RKeeps (execSecMbxWrite w i v s) := by
  unfold execSecMbxWrite
  repeat' (first
    | with_reducible (first
      | assumption | apply State.RKeeps.next | apply State.mbxWrite_kept)
    | split)

theorem State.dbgCtl_kept {r₀ : State} (s : State) (v : Word) (h : r₀.Keeps s) :
    r₀.OKeeps (State.dbgCtl s v) := by
  unfold State.dbgCtl
  repeat' (first
    | with_reducible (first
      | assumption | apply State.OKeeps.some | exact State.OKeeps.none | apply State.modSec_kept
      | apply State.setLevel_kept)
    | split
    | exact rfl)

theorem execL1AllowWrite_kept {r₀ : State} (w : Writer) (allow : Bool) (s : State) (h : r₀.Keeps s) :
    r₀.RKeeps (execL1AllowWrite w allow s) := by
  unfold execL1AllowWrite
  repeat' (first
    | with_reducible (first
      | assumption | apply State.RKeeps.next | apply State.commit_kept | apply State.dbgCtl_kept)
    | split)

theorem execKeyStoreRederive_kept {r₀ : State} (loadKey : Bool) (s : State) (h : r₀.Keeps s) :
    r₀.RKeeps (execKeyStoreRederive loadKey s) := by
  unfold execKeyStoreRederive
  repeat' (first
    | with_reducible (first
      | assumption | apply State.RKeeps.next | apply State.loadFail_kept)
    | split)

end Sys2Proof.Machine
end

