-- ==== Sys2Proof/Laws/KeepsRegs.lean ====
section
/-! SUPPORT. What every command keeps (Laws/Keeps.lean), for the operations and commands of tallies, debug port and registers.
    -/

namespace Sys2Proof.Machine

open Sys2Proof

/-! ### Watch.lean -/

theorem State.untilFree_kept {r₀ : State} : ∀ (x0 : Nat), ∀ (s : State) (m key : Nat), r₀.Keeps s →
    r₀.Keeps (State.untilFree s m key x0) := by
  intro x0
  induction x0 with
  | zero =>
    intros
    unfold State.untilFree
    repeat' (first
      | with_reducible (first
        | assumption | apply State.advanceTo_kept)
      | split)
  | succ n ih =>
    intros
    unfold State.untilFree
    repeat' (first
      | with_reducible (first
        | assumption | apply ih | apply State.advanceTo_kept)
      | split)

theorem execLoftPatrol_kept {r₀ : State} (m : MillIx) (s : State) (h : r₀.Keeps s) :
    r₀.RKeeps (execLoftPatrol m s) := by
  unfold execLoftPatrol
  try dsimp only
  repeat' (first
    | with_reducible (first
      | assumption | apply State.RKeeps.next | apply State.Keeps.foldl | apply State.Keeps.foldlPair
      | apply State.modMill_kept | apply State.tallyMill_kept | apply State.report_kept | apply State.advanceTo_kept
      | apply State.untilFree_kept)
    | intro _ | split
    | with_reducible (first
      | apply State.Keeps.snd3 (by assumption) | apply State.Keeps.snd (by assumption)
      | apply State.OPKeeps.get (by assumption) | apply State.Keeps.with))

theorem State.passReport_kept {r₀ : State} (s : State) (r : Report) (h : r₀.Keeps s) :
    r₀.Keeps (State.passReport s r) := by
  unfold State.passReport
  repeat' (first
    | with_reducible (first
      | assumption | apply State.send_kept))

theorem State.alertReport_kept {r₀ : State} (s : State) (r : Report) (h : r₀.Keeps s) :
    r₀.Keeps (State.alertReport s r) := by
  unfold State.alertReport
  repeat' (first
    | with_reducible (first
      | assumption | apply State.alert_kept)
    | split)

theorem execFaultReport_kept {r₀ : State} (s : State) (h : r₀.Keeps s) :
    r₀.RKeeps (execFaultReport s) := by
  unfold execFaultReport
  try dsimp only
  repeat' (first
    | with_reducible (first
      | assumption | apply State.RKeeps.next | apply State.Keeps.foldl | apply State.tallyW_kept
      | apply State.passReport_kept | apply State.alertReport_kept)
    | split
    | with_reducible (first
      | apply State.Keeps.with))

theorem State.modCounter_kept {r₀ : State} (s : State) (c : TalCtr) (f : Counter → Counter) (h : r₀.Keeps s) :
    r₀.Keeps (State.modCounter s c f) := by
  unfold State.modCounter
  repeat' (first
    | with_reducible (first
      | assumption)
    | split
    | with_reducible (first
      | apply State.Keeps.with))

theorem State.selectTally_kept {r₀ : State} (s : State) (c : TalCtr) (v : Word) (h : r₀.Keeps s) :
    r₀.Keeps (State.selectTally s c v) := by
  unfold State.selectTally
  repeat' (first
    | with_reducible (first
      | assumption | apply State.modCounter_kept)
    | split)

theorem execTallySelectWrite_kept {r₀ : State} (w : Writer) (c : TalCtr) (v : Word) (s : State) (h : r₀.Keeps s) :
    r₀.RKeeps (execTallySelectWrite w c v s) := by
  unfold execTallySelectWrite
  repeat' (first
    | with_reducible (first
      | assumption | apply State.RKeeps.next | apply State.selectTally_kept)
    | split)

theorem State.talCtl_kept {r₀ : State} (s : State) (clr freeze : Bool) (h : r₀.Keeps s) :
    r₀.Keeps (State.talCtl s clr freeze) := by
  unfold State.talCtl
  repeat' (first
    | with_reducible (first
      | assumption)
    | with_reducible (first
      | apply State.Keeps.with))

theorem execTallyClear_kept {r₀ : State} (w : Writer) (freeze : Bool) (s : State) (h : r₀.Keeps s) :
    r₀.RKeeps (execTallyClear w freeze s) := by
  unfold execTallyClear
  repeat' (first
    | with_reducible (first
      | assumption | apply State.RKeeps.next | apply State.talCtl_kept)
    | split)

theorem State.readLo_kept {r₀ : State} (s : State) (w : Writer) (c : TalCtr) (h : r₀.Keeps s) :
    r₀.Keeps (State.readLo s w c).2 := by
  unfold State.readLo
  repeat' (first
    | with_reducible (first
      | assumption | apply State.modCounter_kept)
    | split)

theorem execTallyLoRead_kept {r₀ : State} (w : Writer) (c : TalCtr) (s : State) (h : r₀.Keeps s) :
    r₀.RKeeps (execTallyLoRead w c s) := by
  unfold execTallyLoRead
  repeat' (first
    | with_reducible (first
      | assumption | apply State.RKeeps.next | apply State.readLo_kept)
    | split)

theorem execTallyParityFail_kept {r₀ : State} (t : TalWord) (s : State) (h : r₀.Keeps s) :
    r₀.RKeeps (execTallyParityFail t s) := by
  unfold execTallyParityFail
  repeat' (first
    | with_reducible (first
      | assumption | apply State.RKeeps.next | apply State.tally__kept | apply State.tallyW_kept
      | apply State.modCounter_kept)
    | split
    | with_reducible (first
      | apply State.Keeps.with))

theorem State.sample_kept {r₀ : State} (s : State) (h : r₀.Keeps s) :
    r₀.Keeps (State.sample s) := by
  unfold State.sample
  repeat' (first
    | with_reducible (first
      | assumption | apply State.advanceTo_kept | apply State.fabricCycle_kept)
    | split
    | with_reducible (first
      | apply State.Keeps.with))

theorem execProbeBufferSample_kept {r₀ : State} (s : State) (h : r₀.Keeps s) :
    r₀.RKeeps (execProbeBufferSample s) := by
  unfold execProbeBufferSample
  repeat' (first
    | with_reducible (first
      | assumption | apply State.RKeeps.next | apply State.sample_kept)
    | split)

theorem execProbeTrigger_kept {r₀ : State} (s : State) (h : r₀.Keeps s) :
    r₀.RKeeps (execProbeTrigger s) := by
  unfold execProbeTrigger
  repeat' (first
    | with_reducible (first
      | assumption | apply State.RKeeps.next | apply State.advanceTo_kept | apply State.sample_kept)
    | split)

theorem State.pbCtl_kept {r₀ : State} (s : State) (v : Word) (h : r₀.Keeps s) :
    r₀.Keeps (State.pbCtl s v) := by
  unfold State.pbCtl
  repeat' (first
    | with_reducible (first
      | assumption | apply State.ring_kept)
    | with_reducible (first
      | apply State.Keeps.with))

theorem execProbeBufferRun_kept {r₀ : State} (w : Writer) (v : Word) (s : State) (h : r₀.Keeps s) :
    r₀.RKeeps (execProbeBufferRun w v s) := by
  unfold execProbeBufferRun
  repeat' (first
    | with_reducible (first
      | assumption | apply State.RKeeps.next | apply State.pbCtl_kept)
    | split)

/-! ### DebugOps.lean -/

theorem State.modDbg_kept {r₀ : State} (s : State) (w : DbgWho) (f : Dbg → Dbg) (h : r₀.Keeps s) :
    r₀.Keeps (State.modDbg s w f) := by
  unfold State.modDbg
  repeat' (first
    | with_reducible (first
      | assumption | apply State.modEng_kept | apply State.modReeve_kept)
    | split)

theorem State.haltEng_kept {r₀ : State} (s : State) (w : DbgWho) (why bp : Nat) (h : r₀.Keeps s) :
    r₀.Keeps (State.haltEng s w why bp) := by
  unfold State.haltEng
  try dsimp only
  repeat' (first
    | with_reducible (first
      | assumption | apply State.modMill_kept | apply State.modEng_kept | apply State.raiseMill_kept
      | apply State.modDbg_kept)
    | split)

theorem State.runOn_kept {r₀ : State} (s : State) (w : DbgWho) (step : Bool) (h : r₀.Keeps s) :
    r₀.Keeps (State.runOn s w step) := by
  unfold State.runOn
  repeat' (first
    | with_reducible (first
      | assumption | apply State.modMill_kept | apply State.modDbg_kept)
    | split)

theorem State.ectl_kept {r₀ : State} (s : State) (x : Nat) (v : Word) (h : r₀.Keeps s) :
    r₀.Keeps (State.ectl s x v).2 := by
  unfold State.ectl
  try dsimp only
  repeat' (first
    | with_reducible (first
      | assumption | apply State.haltEng_kept | apply State.runOn_kept)
    | split)

theorem execEngineHalt_kept {r₀ : State} (x : BitVec 13) (s : State) (h : r₀.Keeps s) :
    r₀.RKeeps (execEngineHalt x s) := by
  unfold execEngineHalt
  repeat' (first
    | with_reducible (first
      | assumption | apply State.RKeeps.next | apply State.ectl_kept))

theorem execEngineStep_kept {r₀ : State} (x : BitVec 13) (s : State) (h : r₀.Keeps s) :
    r₀.RKeeps (execEngineStep x s) := by
  unfold execEngineStep
  repeat' (first
    | with_reducible (first
      | assumption | apply State.RKeeps.next | apply State.ectl_kept))

theorem execEngineResume_kept {r₀ : State} (x : BitVec 13) (s : State) (h : r₀.Keeps s) :
    r₀.RKeeps (execEngineResume x s) := by
  unfold execEngineResume
  repeat' (first
    | with_reducible (first
      | assumption | apply State.RKeeps.next | apply State.ectl_kept))

theorem execBreakpointHit_kept {r₀ : State} (x : BitVec 13) (k : BitVec 2) (s : State) (h : r₀.Keeps s) :
    r₀.RKeeps (execBreakpointHit x k s) := by
  unfold execBreakpointHit
  try dsimp only
  repeat' (first
    | with_reducible (first
      | assumption | apply State.RKeeps.next | apply State.cycle_kept | apply State.advanceTo_kept
      | apply State.haltEng_kept)
    | split)

theorem State.askLevel1_kept {r₀ : State} (s : State) (h : r₀.Keeps s) :
    r₀.Keeps (State.askLevel1 s).2 := by
  unfold State.askLevel1
  repeat' (first
    | with_reducible (first
      | assumption | apply State.setLevel_kept)
    | split)

theorem execDebugLevel1Request_kept {r₀ : State} (s : State) (h : r₀.Keeps s) :
    r₀.RKeeps (execDebugLevel1Request s) := by
  unfold execDebugLevel1Request
  repeat' (first
    | with_reducible (first
      | assumption | apply State.RKeeps.next | apply State.askLevel1_kept))

theorem execTapReset_kept {r₀ : State} (s : State) (h : r₀.Keeps s) :
    r₀.RKeeps (execTapReset s) := by
  unfold execTapReset
  repeat' (first
    | with_reducible (first
      | assumption | apply State.RKeeps.next)
    | with_reducible (first
      | apply State.Keeps.with))

theorem execExtestUpdate_kept {r₀ : State} (cells : BitVec 15) (s : State) (h : r₀.Keeps s) :
    r₀.RKeeps (execExtestUpdate cells s) := by
  unfold execExtestUpdate
  repeat' (first
    | with_reducible (first
      | assumption | apply State.RKeeps.next)
    | split
    | with_reducible (first
      | apply State.Keeps.with))

theorem State.auditWrite_kept {r₀ : State} (s : State) (m : Nat) (v : Bool) (h : r₀.Keeps s) :
    r₀.Keeps (State.auditWrite s m v) := by
  unfold State.auditWrite
  repeat' (first
    | with_reducible (first
      | assumption | apply State.modMill_kept)
    | split)

theorem execAuditStallWrite_kept {r₀ : State} (w : Writer) (m : MillIx) (v : Bool) (s : State) (h : r₀.Keeps s) :
    r₀.RKeeps (execAuditStallWrite w m v s) := by
  unfold execAuditStallWrite
  repeat' (first
    | with_reducible (first
      | assumption | apply State.RKeeps.next | apply State.auditWrite_kept)
    | split)

theorem execSfrClr_kept {r₀ : State} (w : Writer) (m : MillIx) (s : State) (h : r₀.Keeps s) :
    r₀.RKeeps (execSfrClr w m s) := by
  unfold execSfrClr
  repeat' (first
    | with_reducible (first
      | assumption | apply State.RKeeps.next | apply State.modMill_kept)
    | split)

theorem State.shutDown_kept {r₀ : State} (s : State) (powered trip : Bool) (h : r₀.Keeps s) :
    r₀.Keeps (State.shutDown s powered trip) := by
  unfold State.shutDown
  repeat' (first
    | with_reducible (first
      | assumption | apply State.cold_kept)
    | with_reducible (first
      | apply State.Keeps.with))

theorem execInputPowerRise_kept {r₀ : State} (s : State) (h : r₀.Keeps s) : r₀.RKeeps (execInputPowerRise s) := by
  unfold execInputPowerRise
  split
  · exact State.RKeeps.next h
  · exact State.RKeeps.next (State.Keeps.withClock (s := s) (h := h) (a := id) (b := Nat.le_add_right _ _) ..)

theorem execInputPowerShutdown_kept {r₀ : State} (s : State) (h : r₀.Keeps s) :
    r₀.RKeeps (execInputPowerShutdown s) := by
  unfold execInputPowerShutdown
  repeat' (first
    | with_reducible (first
      | assumption | apply State.RKeeps.next | apply State.shutDown_kept))

theorem execThermalTrip_kept {r₀ : State} (s : State) (h : r₀.Keeps s) :
    r₀.RKeeps (execThermalTrip s) := by
  unfold execThermalTrip
  repeat' (first
    | with_reducible (first
      | assumption | apply State.RKeeps.next | apply State.shutDown_kept)
    | split)

theorem State.monFlag_kept {r₀ : State} (s : State) (was is_ : Bool) (h : r₀.Keeps s) :
    r₀.Keeps (State.monFlag s was is_) := by
  unfold State.monFlag
  repeat' (first
    | with_reducible (first
      | assumption | apply State.alert_kept)
    | split)

theorem execJunctionHot_kept {r₀ : State} (s : State) (h : r₀.Keeps s) :
    r₀.RKeeps (execJunctionHot s) := by
  unfold execJunctionHot
  repeat' (first
    | with_reducible (first
      | assumption | apply State.RKeeps.next | apply State.evBits_kept | apply State.monFlag_kept)
    | split
    | with_reducible (first
      | apply State.Keeps.with))

theorem execPowerMonitorUpdate_kept {r₀ : State} (vin iin : BitVec 10) (tjMax tjW tjE : Byte) (s : State) (h : r₀.Keeps s) :
    r₀.RKeeps (execPowerMonitorUpdate vin iin tjMax tjW tjE s) := by
  unfold execPowerMonitorUpdate
  repeat' (first
    | with_reducible (first
      | assumption | apply State.RKeeps.next | apply State.evBits_kept | apply State.advanceTo_kept
      | apply State.monFlag_kept)
    | split
    | with_reducible (first
      | apply State.Keeps.with))

/-! ### RegRead.lean -/

theorem State.readTal_kept {r₀ : State} (s : State) (w : Writer) (o : Nat) (h : r₀.Keeps s) :
    r₀.Keeps (State.readTal s w o).2 := by
  unfold State.readTal
  repeat' (first
    | with_reducible (first
      | assumption | apply State.readLo_kept)
    | split)

theorem State.regRead_kept {r₀ : State} (s : State) (w : Writer) (off : Nat) (h : r₀.Keeps s) :
    r₀.Keeps (State.regRead s w off).2 := by
  unfold State.regRead
  repeat' (first
    | with_reducible (first
      | assumption | apply State.modBell_kept | apply State.readTal_kept | apply State.cwValue_kept)
    | split)

/-! ### RegWrite.lean -/

theorem State.nodeWrite_kept {r₀ : State} (s : State) (v : Word) (h : r₀.Keeps s) :
    r₀.OKeeps (State.nodeWrite s v) := by
  unfold State.nodeWrite
  repeat' (first
    | with_reducible (first
      | assumption | apply State.OKeeps.some | exact State.OKeeps.none)
    | split
    | with_reducible (first
      | apply State.Keeps.with))

theorem State.cwCommit_kept {r₀ : State} (s : State) (w : Writer) (r : CwReg) (v : Word) (h : r₀.Keeps s) :
    r₀.Keeps (State.cwCommit s w r v) := by
  unfold State.cwCommit
  repeat' (first
    | with_reducible (first
      | assumption | apply State.OKeeps.map | apply State.commit_kept | apply State.modBell_kept
      | apply State.bellCtl_kept | apply State.bellRelock_kept | apply State.laneCtl_kept
      | apply State.streamResume_kept | apply State.seatWrite_kept | apply State.ring_kept | apply State.qctl_kept
      | apply State.cadWrite_kept | apply State.grnCtl_kept | apply State.hashCommit_kept
      | apply State.hostUpdate_kept | apply State.modHp_kept | apply State.hpCtl_kept | apply State.reeveCtl_kept
      | apply State.cfgLoad_kept | apply State.commitLoad_kept | apply State.cfgRel_kept | apply State.readback_kept
      | apply State.pwrReq_kept | apply State.takeReset_kept | apply State.secCmd_kept | apply State.dbgCtl_kept
      | apply State.nodeWrite_kept)
    | intro _ | split)

theorem State.complementFail_kept {r₀ : State} (s : State) (w : Writer) (off kind : Nat) (h : r₀.Keeps s) :
    r₀.Keeps (State.complementFail s w off kind) := by
  unfold State.complementFail
  repeat' (first
    | with_reducible (first
      | assumption | apply State.cwFail_kept | apply State.doorbellFail_kept)
    | split)

theorem State.clearPending_kept {r₀ : State} (s : State) (w : Writer) (off : Nat) (h : r₀.Keeps s) :
    r₀.Keeps (State.clearPending s w off) := by
  unfold State.clearPending
  repeat' (first
    | with_reducible (first
      | assumption)
    | with_reducible (first
      | apply State.Keeps.with))

theorem State.expirePending_kept {r₀ : State} (s : State) (w : Writer) (off : Nat) (h : r₀.Keeps s) :
    r₀.Keeps (State.expirePending s w off) := by
  unfold State.expirePending
  repeat' (first
    | with_reducible (first
      | assumption | apply State.complementFail_kept | apply State.clearPending_kept))

theorem State.dropStale_kept {r₀ : State} (s : State) (w : Writer) (off : Nat) (h : r₀.Keeps s) :
    r₀.Keeps (State.dropStale s w off) := by
  unfold State.dropStale
  repeat' (first
    | with_reducible (first
      | assumption | apply State.expirePending_kept)
    | split)

theorem State.cwFirst_kept {r₀ : State} (s : State) (w : Writer) (off : Nat) (v : Word) (h : r₀.Keeps s) :
    r₀.Keeps (State.cwFirst s w off v) := by
  unfold State.cwFirst
  repeat' (first
    | with_reducible (first
      | assumption | apply State.complementFail_kept | apply State.clearPending_kept | apply State.dropStale_kept)
    | split
    | with_reducible (first
      | apply State.Keeps.with))

theorem State.cwSecond_kept {r₀ : State} (s : State) (w : Writer) (off : Nat) (r : CwReg) (v : Word) (h : r₀.Keeps s) :
    r₀.Keeps (State.cwSecond s w off r v) := by
  unfold State.cwSecond
  try dsimp only
  repeat' (first
    | with_reducible (first
      | assumption | apply State.cwCommit_kept | apply State.complementFail_kept | apply State.clearPending_kept
      | apply State.dropStale_kept)
    | split)

theorem State.cwReset_kept {r₀ : State} (s : State) (r : CwReg) (h : r₀.Keeps s) :
    r₀.Keeps (State.cwReset s r) := by
  unfold State.cwReset
  try dsimp only
  repeat' (first
    | with_reducible (first
      | assumption | apply State.OKeeps.some | exact State.OKeeps.none | exact State.OPKeeps.none
      | apply State.OPKeeps.some | exact State.DKeeps.none | apply State.DKeeps.some | apply State.EKeeps.ok
      | exact State.EKeeps.error | apply State.Keeps.foldl | apply State.Keeps.foldlPair3
      | apply State.Keeps.foldlPair | apply State.OKeeps.getD | apply State.OKeeps.map | apply State.modGranary_kept
      | apply State.modBell_kept | apply State.bellCtl_kept | apply State.laneCtl_kept | apply State.qctl_kept
      | apply State.grnCtl_kept | apply State.modHp_kept | apply State.hpCtl_kept | apply State.dbgCtl_kept)
    | intro _ | split
    | with_reducible (first
      | apply State.Keeps.snd3 (by assumption) | apply State.Keeps.snd (by assumption)
      | apply State.OKeeps.get (by assumption) | apply State.OPKeeps.get (by assumption)
      | apply State.EKeeps.get (by assumption) | apply State.DKeeps.get (by assumption) | apply State.Keeps.with
      | refine State.Keeps.withIdent (h := ?_) (a := rfl) (b := rfl) ..
      | refine State.Keeps.withSec (h := ?_) (a := rfl) (b := rfl) (c := rfl) ..)
    | exact fun _ => rfl | exact rfl | omega)

theorem State.cwCheck_kept {r₀ : State} (s : State) (w : Writer) (off : Nat) (h : r₀.Keeps s) :
    r₀.Keeps (State.cwCheck s w off) := by
  unfold State.cwCheck
  repeat' (first
    | with_reducible (first
      | assumption | apply State.tallyW_kept | apply State.report_kept | apply State.cwReset_kept)
    | split
    | with_reducible (first
      | apply State.Keeps.with))

theorem State.setTor_kept {r₀ : State} (s : State) (d : Die) (r : ErrRec) (h : r₀.Keeps s) :
    r₀.Keeps (State.setTor s d r) := by
  unfold State.setTor
  repeat' (first
    | with_reducible (first
      | assumption)
    | split
    | with_reducible (first
      | apply State.Keeps.with))

theorem State.clearRecord_kept {r₀ : State} (s : State) (x0 : ErrRecId) (h : r₀.Keeps s) :
    r₀.Keeps (State.clearRecord s x0) := by
  unfold State.clearRecord
  repeat' (first
    | with_reducible (first
      | assumption | apply State.modGranary_kept | apply State.modBell_kept | apply State.modHp_kept
      | apply State.modSxt_kept | apply State.setTor_kept)
    | split
    | with_reducible (first
      | apply State.Keeps.with))

theorem State.writeLow_kept {r₀ : State} (s : State) (off : Nat) (v : Word) (h : r₀.Keeps s) :
    r₀.Keeps (State.writeLow s off v) := by
  unfold State.writeLow
  repeat' (first
    | with_reducible (first
      | assumption | apply State.modReeve_kept | apply State.mbxWrite_kept)
    | split
    | with_reducible (first
      | apply State.Keeps.with))

theorem State.writePgl_kept {r₀ : State} (s : State) (o : Nat) (v : Word) (h : r₀.Keeps s) :
    r₀.Keeps (State.writePgl s o v) := by
  unfold State.writePgl
  repeat' (first
    | with_reducible (first
      | assumption)
    | split
    | with_reducible (first
      | apply State.Keeps.with))

theorem State.writeMill_kept {r₀ : State} (s : State) (m o : Nat) (v : Word) (h : r₀.Keeps s) :
    r₀.Keeps (State.writeMill s m o v) := by
  unfold State.writeMill
  repeat' (first
    | with_reducible (first
      | assumption | apply State.modMill_kept | apply State.auditWrite_kept)
    | split)

theorem State.writeFab_kept {r₀ : State} (s : State) (o : Nat) (v : Word) (h : r₀.Keeps s) :
    r₀.Keeps (State.writeFab s o v) := by
  unfold State.writeFab
  repeat' (first
    | with_reducible (first
      | assumption | apply State.modPlot_kept)
    | split
    | with_reducible (first
      | apply State.Keeps.with))

theorem State.confErrRelease_kept {r₀ : State} (s : State) (h : r₀.Keeps s) :
    r₀.Keeps (State.confErrRelease s) := by
  unfold State.confErrRelease
  repeat' (first
    | with_reducible (first
      | assumption | apply State.modCfg_kept)
    | split)

theorem State.writeLane_kept {r₀ : State} (s : State) (p o : Nat) (v : Word) (h : r₀.Keeps s) :
    r₀.Keeps (State.writeLane s p o v) := by
  unfold State.writeLane
  repeat' (first
    | with_reducible (first
      | assumption | apply State.modPort_kept | apply State.eqPeak_kept)
    | split)

theorem State.writeHp_kept {r₀ : State} (s : State) (o : Nat) (v : Word) (h : r₀.Keeps s) :
    r₀.Keeps (State.writeHp s o v) := by
  unfold State.writeHp
  repeat' (first
    | with_reducible (first
      | assumption | apply State.modHp_kept)
    | split)

theorem State.writeTal_kept {r₀ : State} (s : State) (o : Nat) (v : Word) (h : r₀.Keeps s) :
    r₀.Keeps (State.writeTal s o v) := by
  unfold State.writeTal
  repeat' (first
    | with_reducible (first
      | assumption | apply State.selectTally_kept | apply State.talCtl_kept)
    | split)

theorem State.writeDbg_kept {r₀ : State} (s : State) (o : Nat) (v : Word) (h : r₀.Keeps s) :
    r₀.Keeps (State.writeDbg s o v) := by
  unfold State.writeDbg
  repeat' (first
    | with_reducible (first
      | assumption | apply State.pbCtl_kept)
    | split
    | with_reducible (first
      | apply State.Keeps.with))

theorem State.writePlain_kept {r₀ : State} (s : State) (off : Nat) (v : Word) (h : r₀.Keeps s) : r₀.Keeps (s.writePlain off v) := by
  unfold State.writePlain
  dsimp only
  generalize s.clearable off v = v
  split
  · split
    · exact State.clearRecord_kept (h := h) ..
    · exact h
  repeat' with_reducible (first
    | exact h | apply State.Keeps.ite | exact State.writeLow_kept (h := h) .. | exact State.recordWrite_kept (h := h) ..
    | exact State.writePgl_kept (h := h) .. | exact State.modGranary_kept (h := h) .. | exact State.writeMill_kept (h := h) ..
    | exact State.writeFab_kept (h := h) .. | exact State.confErrRelease_kept (h := h) .. | exact State.sheafWrite_kept (h := h) ..
    | exact State.writeLane_kept (h := h) .. | exact State.modPort_kept (h := h) .. | exact State.modBell_kept (h := h) ..
    | exact State.writeHp_kept (h := h) .. | exact State.writeTal_kept (h := h) .. | exact State.writeDbg_kept (h := h) ..
    | exact State.Keeps.with (s := s) (h := h) ..)

theorem State.regWrite_kept {r₀ : State} (s : State) (w : Writer) (off : Nat) (v : Word) (h : r₀.Keeps s) :
    r₀.Keeps (State.regWrite s w off v) := by
  unfold State.regWrite
  repeat' (first
    | with_reducible (first
      | assumption | apply State.cwFirst_kept | apply State.cwSecond_kept | apply State.cwCheck_kept
      | apply State.writePlain_kept)
    | split
    | with_reducible (first
      | apply State.Keeps.with))

theorem State.regBytes_kept {r₀ : State} (s : State) (w : Writer) (off : Nat) (b : List Byte) (h : r₀.Keeps s) :
    r₀.Keeps (State.regBytes s w off b) := by
  unfold State.regBytes
  repeat' (first
    | with_reducible (first
      | assumption | apply State.regWrite_kept)
    | split)

theorem State.regReadChecked_kept {r₀ : State} (s : State) (w : Writer) (off : Nat) (h : r₀.Keeps s) :
    r₀.Keeps (State.regReadChecked s w off).2 := by
  unfold State.regReadChecked
  repeat' (first
    | with_reducible (first
      | assumption | apply State.regRead_kept | apply State.cwCheck_kept)
    | split)

theorem State.regFetch_kept {r₀ : State} (s : State) (w : Writer) (off n : Nat) (h : r₀.Keeps s) :
    r₀.Keeps (State.regFetch s w off n).2 := by
  unfold State.regFetch
  repeat' (first
    | with_reducible (first
      | assumption | apply State.Keeps.foldl | apply State.regReadChecked_kept)
    | intro _ | split
    | with_reducible (first
      | apply State.Keeps.snd (by assumption) | apply State.Keeps.with))

theorem execRegisterWrite_kept {r₀ : State} (w : Writer) (off : BitVec 28) (v : Word) (s : State) (h : r₀.Keeps s) :
    r₀.RKeeps (execRegisterWrite w off v s) := by
  unfold execRegisterWrite
  repeat' (first
    | with_reducible (first
      | assumption | apply State.RKeeps.next | apply State.regWrite_kept)
    | split)

theorem execCwPendingWrite_kept {r₀ : State} (w : Writer) (off : BitVec 28) (v : Word) (s : State) (h : r₀.Keeps s) :
    r₀.RKeeps (execCwPendingWrite w off v s) := by
  unfold execCwPendingWrite
  repeat' (first
    | with_reducible (first
      | assumption | apply State.RKeeps.next | apply State.cwFirst_kept | apply State.cwCheck_kept)
    | split)

theorem execCwPendingTimeout_kept {r₀ : State} (w : Writer) (off : BitVec 28) (s : State) (h : r₀.Keeps s) :
    r₀.RKeeps (execCwPendingTimeout w off s) := by
  unfold execCwPendingTimeout
  repeat' (first
    | with_reducible (first
      | assumption | apply State.RKeeps.next | apply State.advanceTo_kept | apply State.expirePending_kept)
    | split)

theorem execErrorRecordClear_kept {r₀ : State} (w : Writer) (r : ErrRecId) (s : State) (h : r₀.Keeps s) :
    r₀.RKeeps (execErrorRecordClear w r s) := by
  unfold execErrorRecordClear
  repeat' (first
    | with_reducible (first
      | assumption | apply State.RKeeps.next | apply State.clearRecord_kept)
    | split)

/-! ### Transactions.lean -/

theorem State.takePosted_kept {r₀ : State} (s : State) (p : Posted) (h : r₀.Keeps s) :
    r₀.OKeeps (State.takePosted s p) := by
  unfold State.takePosted
  repeat' (first
    | with_reducible (first
      | assumption | apply State.OKeeps.some | exact State.OKeeps.none | apply State.windowWrite_kept
      | apply State.regWrite_kept | apply State.regBytes_kept)
    | split)

theorem State.drainPosted_kept {r₀ : State} : ∀ (x0 : Nat), ∀ (s : State), r₀.Keeps s →
    r₀.Keeps (State.drainPosted s x0) := by
  intro x0
  induction x0 with
  | zero =>
    intros
    unfold State.drainPosted
    repeat' (first
      | with_reducible (first
        | assumption | apply State.modHp_kept | apply State.takePosted_kept)
      | split
      | with_reducible (first
        | apply State.OKeeps.get (by assumption) | fail))
  | succ n ih =>
    intros
    unfold State.drainPosted
    repeat' (first
      | with_reducible (first
        | assumption | apply ih | apply State.modHp_kept | apply State.takePosted_kept)
      | split
      | with_reducible (first
        | apply State.OKeeps.get (by assumption) | fail))

theorem State.post_kept {r₀ : State} (s : State) (p : Posted) (h : r₀.Keeps s) :
    r₀.Keeps (State.post s p) := by
  unfold State.post
  repeat' (first
    | with_reducible (first
      | assumption | apply State.modHp_kept | apply State.drainPosted_kept))

theorem State.retryReads_kept {r₀ : State} (s : State) (h : r₀.Keeps s) :
    r₀.Keeps (State.retryReads s) := by
  unfold State.retryReads
  repeat' (first
    | with_reducible (first
      | assumption | apply State.Keeps.foldl | apply State.modHp_kept | apply State.takeRead_kept))

theorem State.readRegs_kept {r₀ : State} (s : State) (via : Option Via) (t : Trans) (priv : Bool) (off : Nat) (h : r₀.Keeps s) :
    r₀.Keeps (State.readRegs s via t priv off) := by
  unfold State.readRegs
  repeat' (first
    | with_reducible (first
      | assumption | apply State.completeHost_kept | apply State.regFetch_kept))

theorem State.serveHost_kept {r₀ : State} (s : State) (via : Option Via) (t : Trans) (h : r₀.Keeps s) :
    r₀.Keeps (State.serveHost s via t) := by
  unfold State.serveHost
  repeat' (first
    | with_reducible (first
      | assumption | apply State.postedErr_kept | apply State.startRead_kept | apply State.refuseHost_kept
      | apply State.devCompletion_kept | apply State.takeMessage_kept | apply State.post_kept
      | apply State.readRegs_kept)
    | split)

theorem State.receive_kept {r₀ : State} (s : State) (b : List Byte) (h : r₀.Keeps s) :
    r₀.Keeps (State.receive s b) := by
  unfold State.receive
  try dsimp only
  repeat' (first
    | with_reducible (first
      | assumption | apply State.refuseHost_kept | apply State.relay_kept | apply State.serveHost_kept)
    | split)

theorem execLinkPacketReceive_kept {r₀ : State} (bytes : List Byte) (uncorrectable : Bool) (s : State) (h : r₀.Keeps s) :
    r₀.RKeeps (execLinkPacketReceive bytes uncorrectable s) := by
  unfold execLinkPacketReceive
  try dsimp only
  repeat' (first
    | with_reducible (first
      | assumption | apply State.RKeeps.next | apply State.modHp_kept | apply State.linkFail_kept
      | apply State.receive_kept)
    | split)

theorem execRelayParcelReceive_kept {r₀ : State} (p : PortIx) (s : State) (h : r₀.Keeps s) :
    r₀.RKeeps (execRelayParcelReceive p s) := by
  unfold execRelayParcelReceive
  try dsimp only
  repeat' (first
    | with_reducible (first
      | assumption | apply State.RKeeps.next | apply State.tallyW_kept | apply State.modHp_kept
      | apply State.hostErr_kept | apply State.refuseHost_kept | apply State.takeRelayed_kept
      | apply State.serveHost_kept)
    | split
    | with_reducible (first
      | apply State.OPKeeps.get (by assumption) | fail))

/-! ### DebugAccess.lean -/

theorem State.dbgRegister_kept {r₀ : State} (s : State) (wr : Bool) (off : Nat) (v : Word) (h : r₀.Keeps s) :
    r₀.Keeps (State.dbgRegister s wr off v).2.2 := by
  unfold State.dbgRegister
  repeat' (first
    | with_reducible (first
      | assumption | apply State.regWrite_kept | apply State.regReadChecked_kept)
    | split)

theorem State.epc_kept {r₀ : State} (s : State) (w : DbgWho) (h : r₀.Keeps s) :
    r₀.Keeps (State.epc s w).2 := by
  unfold State.epc
  repeat' (first
    | with_reducible (first
      | assumption | apply State.draw_kept)
    | split)

theorem State.dbgEngine_kept {r₀ : State} (s : State) (wr : Bool) (x o : Nat) (v : Word) (h : r₀.Keeps s) :
    r₀.Keeps (State.dbgEngine s wr x o v).2.2 := by
  unfold State.dbgEngine
  try dsimp only
  repeat' (first
    | with_reducible (first
      | assumption | apply State.modDbg_kept | apply State.ectl_kept | apply State.epc_kept)
    | split)

theorem State.dbgSpace_kept {r₀ : State} (s : State) (wr : Bool) (a : Nat) (v : Word) (h : r₀.Keeps s) :
    r₀.Keeps (State.dbgSpace s wr a v).2.2 := by
  unfold State.dbgSpace
  repeat' (first
    | with_reducible (first
      | assumption | apply State.askLevel1_kept | apply State.dbgEngine_kept)
    | split)

theorem State.dbgWord_kept {r₀ : State} (s : State) (wr : Bool) (acc : Acc) (v : Word) (h : r₀.Keeps s) :
    r₀.DKeeps (State.dbgWord s wr acc v) := by
  unfold State.dbgWord
  repeat' (first
    | with_reducible (first
      | assumption | exact State.DKeeps.none | apply State.DKeeps.some | apply State.accRead_kept
      | apply State.accWrite_kept)
    | split
    | with_reducible (first
      | apply State.Keeps.snd (by assumption) | fail))

theorem State.dbgVirtual_kept {r₀ : State} (s : State) (wr : Bool) (va : Nat) (v : Word) (h : r₀.Keeps s) :
    r₀.DKeeps (State.dbgVirtual s wr va v) := by
  unfold State.dbgVirtual
  repeat' (first
    | with_reducible (first
      | assumption | exact State.DKeeps.none | apply State.DKeeps.some | apply State.lookup_kept
      | apply State.dbgWord_kept)
    | split
    | with_reducible (first
      | apply State.Keeps.snd (by assumption) | fail))

theorem State.dbgStream_kept {r₀ : State} (s : State) (wr : Bool) (sp a : Nat) (v : Word) (h : r₀.Keeps s) :
    r₀.DKeeps (s.dbgStream wr sp a v) := by
  unfold State.dbgStream
  refine State.DKeeps.ite (State.DKeeps.some h) (State.DKeeps.ite (State.DKeeps.some h) (State.DKeeps.ite (State.DKeeps.some h)
    (State.DKeeps.ite (State.DKeeps.some h) ?_)))
  have h1 := State.resolve_kept s (if sp = 2 then .mill (addrMill (sp * 2 ^ 44 + a)) else .debug) (sp * 2 ^ 44 + a) 4 wr h
  generalize s.resolve (if sp = 2 then .mill (addrMill (sp * 2 ^ 44 + a)) else .debug) (sp * 2 ^ 44 + a) 4 wr = p at h1 ⊢
  obtain ⟨acc, t⟩ := p
  exact State.dbgWord_kept (h := h1) ..

theorem State.dbgReeve_kept {r₀ : State} (s : State) (wr : Bool) (a : Nat) (v : Word) (h : r₀.Keeps s) :
    r₀.DKeeps (State.dbgReeve s wr a v) := by
  unfold State.dbgReeve
  repeat' (first
    | with_reducible (first
      | assumption | exact State.DKeeps.none | apply State.DKeeps.some | apply State.dbgWord_kept)
    | split)

theorem State.dbgImem_kept {r₀ : State} (s : State) (wr : Bool) (a : Nat) (v : Word) (h : r₀.Keeps s) :
    r₀.DKeeps (State.dbgImem s wr a v) := by
  unfold State.dbgImem
  repeat' (first
    | with_reducible (first
      | assumption | exact State.DKeeps.none | apply State.DKeeps.some | apply State.dbgWord_kept)
    | split)

theorem State.dbgRegs_kept {r₀ : State} (s : State) (wr : Bool) (a : Nat) (v : Word) (h : r₀.Keeps s) :
    r₀.Keeps (State.dbgRegs s wr a v).2.2 := by
  unfold State.dbgRegs
  try dsimp only
  repeat' (first
    | with_reducible (first
      | assumption | apply State.modMill_kept | apply State.modEng_kept)
    | split)

theorem State.dbgAccess_kept {r₀ : State} (s : State) (r : DbgRun) (h : r₀.Keeps s) :
    r₀.DKeeps (State.dbgAccess s r) := by
  unfold State.dbgAccess
  try dsimp only
  repeat' (first
    | with_reducible (first
      | assumption | exact State.DKeeps.none | apply State.DKeeps.some | apply State.dbgRegister_kept
      | apply State.dbgSpace_kept | apply State.dbgVirtual_kept | apply State.dbgStream_kept
      | apply State.dbgReeve_kept | apply State.dbgImem_kept | apply State.dbgRegs_kept)
    | split)

theorem State.dbgEnd_kept {r₀ : State} (s : State) (r : DbgRun) (st : Status) (v : Word) (h : r₀.Keeps s) :
    r₀.Keeps (State.dbgEnd s r st v) := by
  unfold State.dbgEnd
  repeat' (first
    | with_reducible (first
      | assumption)
    | with_reducible (first
      | apply State.Keeps.with))

theorem State.dbgTry_kept {r₀ : State} (s : State) (r : DbgRun) (h : r₀.Keeps s) :
    r₀.Keeps (State.dbgTry s r) := by
  unfold State.dbgTry
  repeat' (first
    | with_reducible (first
      | assumption | apply State.dbgAccess_kept | apply State.dbgEnd_kept)
    | split
    | with_reducible (first
      | apply State.DKeeps.get (by assumption) | apply State.Keeps.with))

theorem execDbgacc_kept {r₀ : State} (op space : BitVec 4) (addr : BitVec 40) (data : Word) (s : State) (h : r₀.Keeps s) :
    r₀.RKeeps (execDbgacc op space addr data s) := by
  unfold execDbgacc
  try dsimp only
  repeat' (first
    | with_reducible (first
      | assumption | apply State.RKeeps.next | apply State.dbgTry_kept)
    | split
    | with_reducible (first
      | apply State.Keeps.with))

theorem execDbgaccTimeout_kept {r₀ : State} (s : State) (h : r₀.Keeps s) :
    r₀.RKeeps (execDbgaccTimeout s) := by
  unfold execDbgaccTimeout
  repeat' (first
    | with_reducible (first
      | assumption | apply State.RKeeps.next | apply State.advanceTo_kept | apply State.dbgEnd_kept)
    | split)

theorem State.retryWaiting_kept {r₀ : State} (s : State) (h : r₀.Keeps s) :
    r₀.Keeps (State.retryWaiting s) := by
  unfold State.retryWaiting
  try dsimp only
  repeat' (first
    | with_reducible (first
      | assumption | apply State.drainPosted_kept | apply State.retryReads_kept | apply State.dbgTry_kept)
    | split)

theorem execLedgerUpdateComplete_kept {r₀ : State} (reeve : Bool) (s : State) (h : r₀.Keeps s) :
    r₀.RKeeps (execLedgerUpdateComplete reeve s) := by
  unfold execLedgerUpdateComplete
  repeat' (first
    | with_reducible (first
      | assumption | apply State.RKeeps.next | apply State.finishUpdate_kept | apply State.retryWaiting_kept)
    | split)

end Sys2Proof.Machine
end

