-- ==== Sys2Proof/Laws/Passes.lean ====
section
/-! SUPPORT. What the passing of time leaves alone, and where it leaves the clock. -/

namespace Sys2Proof.Machine

open Sys2Proof

/-- A group slot as it was but for its halt: the passing of time can raise a cause, since an operation in flight can fail. -/
def Group.ButHalt (a b : Group) : Prop := b = { a with due := b.due, dueTick := b.dueTick, halt := b.halt }

theorem Group.ButHalt.refl (a : Group) : a.ButHalt a := rfl
theorem Group.ButHalt.trans {a b c : Group} (h : a.ButHalt b) (k : b.ButHalt c) : a.ButHalt c := by
  unfold Group.ButHalt at *
  rw [k, h]

/-- What the passing of time leaves alone, but for the clock and the halts of groups. -/
structure State.Passes (s t : State) : Prop where
  pending : t.pending = s.pending
  clock : t.clock = s.clock
  ident : t.ident = s.ident
  cwPend : t.cwPend = s.cwPend
  cwf : t.cwf = s.cwf
  collector : t.collector = s.collector
  level : t.level = s.level
  cadence : t.cadence = s.cadence
  groups : ∀ k, (s.group k).ButHalt (t.group k)
  node : t.node = s.node
  bell : t.bell = s.bell
  routes : t.routes = s.routes
  torW : t.torW = s.torW
  torE : t.torE = s.torE
  cfg : t.cfg = s.cfg
  bw : t.bw = s.bw
  reeveW : t.reeveW = s.reeveW
  reeveE : t.reeveE = s.reeveE
  pwr : t.pwr = s.pwr
  rst : t.rst = s.rst
  sec : t.sec = s.sec
  board : t.board = s.board
  pb : t.pb = s.pb
  dbg : t.dbg = s.dbg
  cwUpset : t.cwUpset = s.cwUpset
  cwHeld : t.cwHeld = s.cwHeld

theorem State.Passes.refl (s : State) : s.Passes s :=
  ⟨rfl, rfl, rfl, rfl, rfl, rfl, rfl, rfl, fun _ => rfl, rfl, rfl, rfl, rfl, rfl, rfl, rfl, rfl, rfl, rfl, rfl, rfl,
    rfl, rfl, rfl, rfl, rfl⟩
theorem State.Passes.trans {s t u : State} (h : s.Passes t) (k : t.Passes u) : s.Passes u :=
  ⟨k.pending.trans h.pending, k.clock.trans h.clock, k.ident.trans h.ident, k.cwPend.trans h.cwPend, k.cwf.trans h.cwf,
    k.collector.trans h.collector, k.level.trans h.level, k.cadence.trans h.cadence, fun n => (h.groups n).trans (k.groups
    n), k.node.trans h.node, k.bell.trans h.bell, k.routes.trans h.routes, k.torW.trans h.torW, k.torE.trans h.torE,
    k.cfg.trans h.cfg, k.bw.trans h.bw, k.reeveW.trans h.reeveW, k.reeveE.trans h.reeveE, k.pwr.trans h.pwr, k.rst.trans
    h.rst, k.sec.trans h.sec, k.board.trans h.board, k.pb.trans h.pb, k.dbg.trans h.dbg, k.cwUpset.trans
    h.cwUpset, k.cwHeld.trans h.cwHeld⟩
theorem State.Passes.with {r s : State} (free_ : Nat) (outbox_ : List Out) (mem_ : List Host.Cell) (bad_ : Table Bool)
    (reports_ : List Report) (mills_ : Table Mill) (qs_ : QueueStore) (hostSeen_ : List Host.Cell) (ledger_ : Ledger) (hp_ :
    HostPort) (tally_ : Tallies) (soft_ : Table Bool) (granaries_ : Table Granary) (fab_ : Fabric) (ports_ : Table Port)
    (routers_ : Table Router) (w1c_ : Table Nat) (h : r.Passes s) : r.Passes ⟨s.pending, free_, outbox_, s.clock, s.ident, s.cwPend, s.cwf, mem_,
    bad_, reports_, s.collector, mills_, qs_, hostSeen_, ledger_, hp_, tally_, s.level, soft_, granaries_, s.cadence, fab_,
    s.groups, s.node, s.bell, ports_, s.routes, routers_, s.torW, s.torE, s.cfg, s.bw, s.reeveW, s.reeveE, s.pwr, s.rst, s.sec,
    s.board, s.pb, s.dbg, s.cwUpset, s.cwHeld, w1c_⟩ :=
  h.trans ⟨rfl, rfl, rfl, rfl, rfl, rfl, rfl, rfl, fun _ => rfl, rfl, rfl, rfl, rfl, rfl, rfl, rfl, rfl, rfl, rfl, rfl, rfl,
    rfl, rfl, rfl, rfl, rfl⟩
/-- The states of an optional state. -/
structure State.OPasses (r : State) (o : Option State) : Prop where
  all : ∀ t, o = some t → r.Passes t

theorem State.OPasses.none {r : State} : r.OPasses none := ⟨fun _ h => nomatch h⟩
theorem State.OPasses.some {r s : State} (h : r.Passes s) : r.OPasses (some s) := ⟨fun _ e => Option.some.inj e ▸ h⟩
theorem State.OPasses.get {r t : State} {o : Option State} (e : o = Option.some t) (h : r.OPasses o) : r.Passes t := h.all t e
theorem State.OPasses.map {r : State} {o : Option State} {f : State → State} (h : r.OPasses o) (hf : ∀ s, r.Passes s → r.Passes
    (f s)) :
    r.OPasses (o.map f) := by
  cases o with
  | none => exact State.OPasses.none
  | some s => exact State.OPasses.some (hf s (h.all s rfl))
theorem State.OPasses.getD {r s : State} {o : Option State} (h : r.OPasses o) (hs : r.Passes s) : r.Passes (o.getD s) := by
  cases o with
  | none => exact hs
  | some s => exact h.all s rfl

/-- The states of an optional pair. -/
structure State.OPPasses {α : Type} (r : State) (o : Option (α × State)) : Prop where
  all : ∀ t, o = some t → r.Passes t.2

theorem State.OPPasses.none {α : Type} {r : State} : r.OPPasses (none : Option (α × State)) := ⟨fun _ h => nomatch h⟩
theorem State.OPPasses.some {α : Type} {r : State} {p : α × State} (h : r.Passes p.2) : r.OPPasses (some p) := ⟨fun _ e =>
    Option.some.inj e ▸ h⟩
theorem State.OPPasses.get {α : Type} {r t : State} {x : α} {o : Option (α × State)} (e : o = Option.some (x, t)) (h :
    r.OPPasses o) : r.Passes t := h.all _ e
theorem State.OPPasses.get' {α : Type} {r : State} {x : α × State} {o : Option (α × State)} (e : o = Option.some x) (h :
    r.OPPasses o) : r.Passes x.2 := h.all _ e

/-- The states of an answer that may fail. -/
structure State.EPasses {ε : Type} (r : State) (o : Except ε State) : Prop where
  all : ∀ t, o = .ok t → r.Passes t
theorem State.EPasses.error {ε : Type} {r : State} {e : ε} : r.EPasses (.error e) := ⟨fun _ h => nomatch h⟩
theorem State.EPasses.ok {ε : Type} {r s : State} (h : r.Passes s) : r.EPasses (.ok s : Except ε State) := ⟨fun _ e =>
    Except.ok.inj e ▸ h⟩
theorem State.EPasses.get {ε : Type} {r t : State} {o : Except ε State} (e : o = .ok t) (h : r.EPasses o) : r.Passes t := h.all
    t e

theorem State.Passes.snd {α : Type} {r t : State} {p : α × State} {x : α} (e : p = (x, t)) (h : r.Passes p.2) : r.Passes t := by
  subst e; exact h
theorem State.Passes.snd3 {α β : Type} {r t : State} {p : α × β × State} {x : α} {y : β} (e : p = (x, y, t)) (h : r.Passes
    p.2.2) :
    r.Passes t := by
  subst e; exact h

theorem State.Passes.foldl {α : Type} {r s : State} {f : State → α → State} {l : List α} (h : r.Passes s)
    (hf : ∀ s a, r.Passes s → r.Passes (f s a)) : r.Passes (l.foldl f s) := by
  induction l generalizing s with
  | nil => exact h
  | cons a l ih => exact ih (hf s a h)

/-- A fold that carries a state beside another value. -/
theorem State.Passes.foldlPair {α β : Type} {r : State} {p : β × State} {f : β × State → α → β × State} {l : List α} (h :
    r.Passes p.2)
    (hf : ∀ p a, r.Passes p.2 → r.Passes (f p a).2) : r.Passes (l.foldl f p).2 := by
  induction l generalizing p with
  | nil => exact h
  | cons a l ih => exact ih (hf p a h)


/-- The states of an optional triple. -/
structure State.DPasses {α β : Type} (r : State) (o : Option (α × β × State)) : Prop where
  all : ∀ t, o = some t → r.Passes t.2.2
theorem State.DPasses.none {α β : Type} {r : State} : r.DPasses (none : Option (α × β × State)) := ⟨fun _ h => nomatch h⟩
theorem State.DPasses.some {α β : Type} {r : State} {p : α × β × State} (h : r.Passes p.2.2) : r.DPasses (some p) := ⟨fun _ e
    => Option.some.inj e ▸ h⟩
theorem State.DPasses.get {α β : Type} {r t : State} {x : α} {y : β} {o : Option (α × β × State)} (e : o = Option.some (x, y,
    t)) (h : r.DPasses o) : r.Passes t := h.all _ e
theorem State.Passes.foldlPair3 {α β γ : Type} {r : State} {p : β × γ × State} {f : β × γ × State → α → β × γ × State} {l :
    List α} (h : r.Passes p.2.2)
    (hf : ∀ p a, r.Passes p.2.2 → r.Passes (f p a).2.2) : r.Passes (l.foldl f p).2.2 := by
  induction l generalizing p with
  | nil => exact h
  | cons a l ih => exact ih (hf p a h)

theorem State.send_passes {r₀ : State} (s : State) (o : Out) (h : r₀.Passes s) :
    r₀.Passes (State.send s o) := by
  unfold State.send
  repeat' (first
    | with_reducible (first
      | assumption)
    | with_reducible (first
      | apply State.Passes.with))

theorem State.setBytes_passes {r₀ : State} (s : State) (a : Nat) (b : List Byte) (h : r₀.Passes s) :
    r₀.Passes (State.setBytes s a b) := by
  unfold State.setBytes
  repeat' (first
    | with_reducible (first
      | assumption)
    | with_reducible (first
      | apply State.Passes.with))

theorem State.setMill_passes {r₀ : State} (s : State) (m : Nat) (x : Mill) (h : r₀.Passes s) :
    r₀.Passes (State.setMill s m x) := by
  unfold State.setMill
  repeat' (first
    | with_reducible (first
      | assumption)
    | with_reducible (first
      | apply State.Passes.with))

theorem State.modMill_passes {r₀ : State} (s : State) (m : Nat) (f : Mill → Mill) (h : r₀.Passes s) :
    r₀.Passes (State.modMill s m f) := by
  unfold State.modMill
  repeat' (first
    | with_reducible (first
      | assumption | apply State.setMill_passes))

theorem State.modEng_passes {r₀ : State} (s : State) (m : Nat) (e : Eng) (f : Engine → Engine) (h : r₀.Passes s) :
    r₀.Passes (State.modEng s m e f) := by
  unfold State.modEng
  repeat' (first
    | with_reducible (first
      | assumption | apply State.modMill_passes))

theorem State.evBits_passes {r₀ : State} (s : State) (c off : Nat) (bits : List Nat) (h : r₀.Passes s) :
    r₀.Passes (State.evBits s c off bits) := by
  unfold State.evBits
  repeat' (first
    | with_reducible (first
      | assumption | apply State.Passes.foldl)
    | intro _ | split
    | with_reducible (first
      | apply State.Passes.snd (by assumption) | apply State.Passes.with))

theorem State.setArith_passes {r₀ : State} (s : State) (m : Nat) (b : BitVec 4) (h : r₀.Passes s) :
    r₀.Passes (State.setArith s m b) := by
  unfold State.setArith
  repeat' (first
    | with_reducible (first
      | assumption | apply State.modMill_passes | apply State.evBits_passes)
    | split)

theorem State.tallyMill_passes {r₀ : State} (s : State) (t : Tly) (m n : Nat) (h : r₀.Passes s) :
    r₀.Passes (State.tallyMill s t m n) := by
  unfold State.tallyMill
  repeat' (first
    | with_reducible (first
      | assumption)
    | split
    | with_reducible (first
      | apply State.Passes.with))

theorem State.tally__passes {r₀ : State} (s : State) (t : Tly) (d : Die) (unit n : Nat) (h : r₀.Passes s) :
    r₀.Passes (State.tally_ s t d unit n) := by
  unfold State.tally_
  repeat' (first
    | with_reducible (first
      | assumption)
    | split
    | with_reducible (first
      | apply State.Passes.with))

theorem State.tallyW_passes {r₀ : State} (s : State) (t : Tly) (h : r₀.Passes s) :
    r₀.Passes (State.tallyW s t) := by
  unfold State.tallyW
  repeat' (first
    | with_reducible (first
      | assumption | apply State.tally__passes))

theorem State.tallyPort_passes {r₀ : State} (s : State) (t : Tly) (p : Nat) (h : r₀.Passes s) :
    r₀.Passes (State.tallyPort s t p) := by
  unfold State.tallyPort
  repeat' (first
    | with_reducible (first
      | assumption | apply State.tally__passes))

theorem State.report_passes {r₀ : State} (s : State) (block unit : Nat) (cls : ErrClass) (st : Status) (kind addr : Nat)
    (covered : Bool) (h : r₀.Passes s) :
    r₀.Passes (State.report s block unit cls st kind addr covered) := by
  unfold State.report
  repeat' (first
    | with_reducible (first
      | assumption)
    | with_reducible (first
      | apply State.Passes.with))

theorem State.reportRow_passes {r₀ : State} (s : State) (m : Nat) (cls : ErrClass) (q row : Nat) (covered : Bool)
    (h : r₀.Passes s) : r₀.Passes (State.reportRow s m cls q row covered) := State.Passes.with (h := h) ..

theorem State.reportSched_passes {r₀ : State} (s : State) (m : Nat) (cls : ErrClass) (r : SchedRec) (covered : Bool) (h : r₀.Passes s) :
    r₀.Passes (State.reportSched s m cls r covered) := by
  unfold State.reportSched
  repeat' (first
    | with_reducible (first
      | assumption | apply State.Passes.foldl)
    | intro _ | split
    | with_reducible (first
      | apply State.Passes.snd (by assumption) | apply State.Passes.with))

theorem State.raiseHalt_passes {r₀ : State} (s : State) (g cause detail : Nat) (h : r₀.Passes s) :
    r₀.Passes (State.raiseHalt s g cause detail) := by
  have key : ∀ f : Group → Group, (∀ x : Group, x.ButHalt (f x)) → s.Passes (s.modGroup g f) := by
    intro f hf
    refine ⟨rfl, rfl, rfl, rfl, rfl, rfl, rfl, rfl, fun k => ?_, rfl, rfl, rfl, rfl, rfl, rfl, rfl, rfl, rfl, rfl, rfl, rfl, rfl,
      rfl, rfl, rfl, rfl⟩
    by_cases e : g = k
    · subst e; rw [State.group_modGroup]; exact hf _
    · rw [State.group_modGroup_ne s f e]; exact .refl _
  refine h.trans (key _ fun x => ?_)
  dsimp only
  split
  · split
    · exact .refl _
    · rfl
  · split <;> rfl
  · split <;> rfl
  · exact .refl _

theorem State.raiseMill_passes {r₀ : State} (s : State) (m cause : Nat) (h : r₀.Passes s) :
    r₀.Passes (State.raiseMill s m cause) := by
  unfold State.raiseMill
  repeat' (first
    | with_reducible (first
      | assumption | apply State.raiseHalt_passes)
    | split)

theorem State.setPort_passes {r₀ : State} (s : State) (p : Nat) (x : Port) (h : r₀.Passes s) :
    r₀.Passes (State.setPort s p x) := by
  unfold State.setPort
  repeat' (first
    | with_reducible (first
      | assumption)
    | with_reducible (first
      | apply State.Passes.with))

theorem State.modPort_passes {r₀ : State} (s : State) (p : Nat) (f : Port → Port) (h : r₀.Passes s) :
    r₀.Passes (State.modPort s p f) := by
  unfold State.modPort
  repeat' (first
    | with_reducible (first
      | assumption | apply State.setPort_passes)
    | split)

theorem State.takeSlot_passes {r₀ : State} (s : State) (p n : Nat) (h : r₀.Passes s) : r₀.OPPasses (State.takeSlot s p n) := by
  unfold State.takeSlot
  split
  · exact State.OPPasses.some h
  · split
    · exact State.OPPasses.none
    · refine State.OPPasses.some ?_
      dsimp only
      exact State.modPort_passes (h := h) ..

theorem State.pump_passes {r₀ : State} : ∀ (x0 : Nat), ∀ (s : State) (p : Nat), r₀.Passes s →
    r₀.Passes (State.pump s p x0) := by
  intro x0
  induction x0 with
  | zero =>
    intros
    unfold State.pump
    try dsimp only
    repeat' (first
      | with_reducible (first
        | assumption | apply State.Passes.foldl | apply State.Passes.foldlPair | apply State.send_passes
        | apply State.modPort_passes | apply State.takeSlot_passes)
      | intro _ | split
      | with_reducible (first
        | apply State.Passes.snd3 (by assumption) | apply State.Passes.snd (by assumption)
        | apply State.OPPasses.get (by assumption) | apply State.Passes.with))
  | succ n ih =>
    intros
    unfold State.pump
    try dsimp only
    repeat' (first
      | with_reducible (first
        | assumption | apply ih | apply State.Passes.foldl | apply State.Passes.foldlPair | apply State.send_passes
        | apply State.modPort_passes | apply State.takeSlot_passes)
      | intro _ | split
      | with_reducible (first
        | apply State.Passes.snd3 (by assumption) | apply State.Passes.snd (by assumption)
        | apply State.OPPasses.get (by assumption) | apply State.Passes.with))

theorem State.pumpPort_passes {r₀ : State} (s : State) (p : Nat) (h : r₀.Passes s) :
    r₀.Passes (State.pumpPort s p) := by
  unfold State.pumpPort
  repeat' (first
    | with_reducible (first
      | assumption | apply State.pump_passes))

theorem State.sendParcel_passes {r₀ : State} (s : State) (p : Nat) (hdr data : List Byte) (h : r₀.Passes s) :
    r₀.Passes (State.sendParcel s p hdr data) := by
  unfold State.sendParcel
  repeat' (first
    | with_reducible (first
      | assumption | apply State.setPort_passes | apply State.pumpPort_passes))

theorem State.launchParcel_passes {r₀ : State} (s : State) (hdr data : List Byte) (h : r₀.Passes s) :
    r₀.Passes (State.launchParcel s hdr data) := by
  unfold State.launchParcel
  try dsimp only
  repeat' (first
    | with_reducible (first
      | assumption | apply State.tallyPort_passes | apply State.sendParcel_passes)
    | split)

theorem State.sendPacket_passes {r₀ : State} (s : State) (pool : Nat) (t : List Byte) (h : r₀.Passes s) :
    r₀.Passes (State.sendPacket s pool t) := by
  unfold State.sendPacket
  repeat' (first
    | with_reducible (first
      | assumption | apply State.send_passes)
    | with_reducible (first
      | apply State.Passes.with))

theorem State.pumpWait_passes {r₀ : State} : ∀ (x0 : Nat), ∀ (s : State), r₀.Passes s →
    r₀.Passes (State.pumpWait s x0) := by
  intro x0
  induction x0 with
  | zero =>
    intros
    unfold State.pumpWait
    repeat' (first
      | with_reducible (first
        | assumption | apply State.sendPacket_passes)
      | split
      | with_reducible (first
        | apply State.Passes.with))
  | succ n ih =>
    intros
    unfold State.pumpWait
    repeat' (first
      | with_reducible (first
        | assumption | apply ih | apply State.sendPacket_passes)
      | split
      | with_reducible (first
        | apply State.Passes.with))

theorem State.pumpAlerts_passes {r₀ : State} : ∀ (x0 : Nat), ∀ (s : State), r₀.Passes s →
    r₀.Passes (State.pumpAlerts s x0) := by
  intro x0
  induction x0 with
  | zero =>
    intros
    unfold State.pumpAlerts
    repeat' (first
      | with_reducible (first
        | assumption | apply State.sendPacket_passes)
      | split
      | with_reducible (first
        | apply State.Passes.with))
  | succ n ih =>
    intros
    unfold State.pumpAlerts
    repeat' (first
      | with_reducible (first
        | assumption | apply ih | apply State.sendPacket_passes)
      | split
      | with_reducible (first
        | apply State.Passes.with))

theorem State.sendHome_passes {r₀ : State} (s : State) (v : Via) (t : List Byte) (h : r₀.Passes s) :
    r₀.Passes (State.sendHome s v t) := by
  unfold State.sendHome
  repeat' (first
    | with_reducible (first
      | assumption | apply State.launchParcel_passes))

theorem State.relayAlerts_passes {r₀ : State} (s : State) (v : Via) (h : r₀.Passes s) :
    r₀.Passes (State.relayAlerts s v) := by
  unfold State.relayAlerts
  repeat' (first
    | with_reducible (first
      | assumption | apply State.Passes.foldl | apply State.sendHome_passes)
    | intro _
    | with_reducible (first
      | apply State.Passes.with))

theorem State.pumpHost_passes {r₀ : State} (s : State) (h : r₀.Passes s) :
    r₀.Passes (State.pumpHost s) := by
  unfold State.pumpHost
  repeat' (first
    | with_reducible (first
      | assumption | apply State.pumpWait_passes | apply State.pumpAlerts_passes | apply State.relayAlerts_passes)
    | split)

theorem State.sendTrans_passes {r₀ : State} (s : State) (pool : Nat) (t : List Byte) (h : r₀.Passes s) :
    r₀.Passes (State.sendTrans s pool t) := by
  unfold State.sendTrans
  repeat' (first
    | with_reducible (first
      | assumption | apply State.pumpHost_passes)
    | with_reducible (first
      | apply State.Passes.with))

theorem State.writeHost_passes {r₀ : State} (s : State) (a : Nat) (b : List Byte) (h : r₀.Passes s) :
    r₀.Passes (State.writeHost s a b) := by
  unfold State.writeHost
  repeat' (first
    | with_reducible (first
      | assumption | apply State.Passes.foldl | apply State.sendTrans_passes)
    | intro _
    | with_reducible (first
      | apply State.Passes.with))

theorem State.askHost_passes {r₀ : State} (s : State) (tag a n : Nat) (h : r₀.Passes s) :
    r₀.Passes (State.askHost s tag a n) := by
  unfold State.askHost
  repeat' (first
    | with_reducible (first
      | assumption | apply State.sendTrans_passes))

theorem State.readHost_passes {r₀ : State} (s : State) (a n : Nat) (h : r₀.Passes s) :
    r₀.Passes (State.readHost s a n) := by
  unfold State.readHost
  repeat' (first
    | with_reducible (first
      | assumption | apply State.Passes.foldl | apply State.askHost_passes)
    | intro _
    | with_reducible (first
      | apply State.Passes.with))

theorem State.alert_passes {r₀ : State} (s : State) (code : Nat) (detail : List Byte) (h : r₀.Passes s) :
    r₀.Passes (State.alert s code detail) := by
  unfold State.alert
  repeat' (first
    | with_reducible (first
      | assumption | apply State.tallyW_passes | apply State.pumpHost_passes)
    | split
    | with_reducible (first
      | apply State.Passes.with))

theorem State.modGranary_passes {r₀ : State} (s : State) (site : Nat) (f : Granary → Granary) (h : r₀.Passes s) :
    r₀.Passes (State.modGranary s site f) := by
  unfold State.modGranary
  repeat' (first
    | with_reducible (first
      | assumption)
    | with_reducible (first
      | apply State.Passes.with))

theorem State.modPlot_passes {r₀ : State} (s : State) (p : Nat) (f : Plot → Plot) (h : r₀.Passes s) :
    r₀.Passes (State.modPlot s p f) := by
  unfold State.modPlot
  repeat' (first
    | with_reducible (first
      | assumption)
    | with_reducible (first
      | apply State.Passes.with))

theorem State.ledgerRead_passes {r₀ : State} (s : State) (d : Die) (page : Nat) (h : r₀.Passes s) :
    r₀.Passes (State.ledgerRead s d page).2 := by
  unfold State.ledgerRead
  try dsimp only
  repeat' (first
    | with_reducible (first
      | assumption | apply State.tally__passes | apply State.report_passes)
    | split
    | with_reducible (first
      | apply State.Passes.with))

theorem State.lookup_passes {r₀ : State} (s : State) (c : CacheId) (va : Nat) (h : r₀.Passes s) :
    r₀.Passes (State.lookup s c va).2 := by
  unfold State.lookup
  dsimp only
  split
  · exact h
  · split
    · exact State.Passes.with (h := h) ..
    · have hr := State.ledgerRead_passes s c.die va h
      generalize s.ledgerRead c.die va = q at hr ⊢
      obtain ⟨_ | e, s1⟩ := q
      · exact hr
      · exact State.Passes.with (h := hr) ..

theorem State.translate_passes {r₀ : State} (s : State) (c : CacheId) (va : Nat) (wr : Bool) (h : r₀.Passes s) :
    r₀.Passes (State.translate s c va wr).2 := by
  unfold State.translate
  repeat' (first
    | with_reducible (first
      | assumption | apply State.lookup_passes)
    | split
    | with_reducible (first
      | apply State.Passes.snd (by assumption) | fail))

theorem State.resolve_passes {r₀ : State} (s : State) (w : Who) (a n : Nat) (wr : Bool) (h : r₀.Passes s) :
    r₀.Passes (State.resolve s w a n wr).2 := by
  unfold State.resolve
  try dsimp only
  repeat' (first
    | with_reducible (first
      | assumption | apply State.tally__passes | apply State.translate_passes)
    | split)

theorem State.countSoft_passes {r₀ : State} (s : State) (a n : Nat) (h : r₀.Passes s) :
    r₀.Passes (State.countSoft s a n) := by
  unfold State.countSoft
  repeat' (first
    | with_reducible (first
      | assumption | apply State.tallyMill_passes | apply State.tally__passes)
    | split)

theorem State.grnError_passes {r₀ : State} (s : State) (phys : Nat) (wr : Bool) (h : r₀.Passes s) :
    r₀.Passes (State.grnError s phys wr) := by
  unfold State.grnError
  repeat' (first
    | with_reducible (first
      | assumption | apply State.evBits_passes | apply State.report_passes | apply State.modGranary_passes)
    | split)

theorem State.badRead_passes {r₀ : State} (s : State) (a : Nat) (h : r₀.Passes s) :
    r₀.Passes (State.badRead s a) := by
  unfold State.badRead
  repeat' (first
    | with_reducible (first
      | assumption | apply State.evBits_passes | apply State.report_passes | apply State.modPlot_passes
      | apply State.grnError_passes)
    | split)

theorem State.accRead_passes {r₀ : State} (s : State) (acc : Acc) (n : Nat) (h : r₀.Passes s) :
    r₀.Passes (State.accRead s acc n).2 := by
  unfold State.accRead
  repeat' (first
    | with_reducible (first
      | assumption | apply State.readHost_passes | apply State.countSoft_passes | apply State.badRead_passes)
    | split)

theorem State.accWrite_passes {r₀ : State} (s : State) (acc : Acc) (b : List Byte) (h : r₀.Passes s) :
    r₀.Passes (State.accWrite s acc b).2 := by
  unfold State.accWrite
  repeat' (first
    | with_reducible (first
      | assumption | apply State.setBytes_passes | apply State.writeHost_passes | apply State.grnError_passes
      | apply State.badRead_passes)
    | split)

theorem State.streamRead_passes {r₀ : State} (s : State) (w : Who) (a n : Nat) (h : r₀.Passes s) :
    r₀.Passes (State.streamRead s w a n).2 := by
  unfold State.streamRead
  repeat' (first
    | with_reducible (first
      | assumption | apply State.resolve_passes | apply State.accRead_passes))

theorem State.streamWrite_passes {r₀ : State} (s : State) (w : Who) (a : Nat) (b : List Byte) (h : r₀.Passes s) :
    r₀.Passes (State.streamWrite s w a b).2 := by
  unfold State.streamWrite
  repeat' (first
    | with_reducible (first
      | assumption | apply State.resolve_passes | apply State.accWrite_passes))

theorem State.setQueue_passes {r₀ : State} (s : State) (q : Nat) (x : Queue) (h : r₀.Passes s) :
    r₀.Passes (State.setQueue s q x) := by
  unfold State.setQueue
  repeat' (first
    | with_reducible (first
      | assumption)
    | with_reducible (first
      | apply State.Passes.with))

theorem State.modQueue_passes {r₀ : State} (s : State) (q : Nat) (f : Queue → Queue) (h : r₀.Passes s) :
    r₀.Passes (State.modQueue s q f) := by
  unfold State.modQueue
  repeat' (first
    | with_reducible (first
      | assumption | apply State.setQueue_passes))

theorem State.queueFault_passes {r₀ : State} (s : State) (q : Nat) (h : r₀.Passes s) :
    r₀.Passes (State.queueFault s q) := by
  unfold State.queueFault
  repeat' (first
    | with_reducible (first
      | assumption | apply State.tally__passes | apply State.report_passes | apply State.modQueue_passes))

theorem State.checkCounts_passes {r₀ : State} (s : State) (q : Nat) (h : r₀.Passes s) :
    r₀.Passes (State.checkCounts s q).2 := by
  unfold State.checkCounts
  repeat' (first
    | with_reducible (first
      | assumption | apply State.queueFault_passes)
    | split)

theorem State.tryPost_passes {r₀ : State} (s : State) (c : Completion) (h : r₀.Passes s) :
    r₀.Passes (State.tryPost s c).2 := by
  unfold State.tryPost
  try dsimp only
  repeat' (first
    | with_reducible (first
      | assumption | apply State.alert_passes | apply State.streamWrite_passes | apply State.modQueue_passes
      | apply State.checkCounts_passes)
    | split
    | with_reducible (first
      | apply State.Passes.snd (by assumption) | fail))

theorem State.complete_passes {r₀ : State} (s : State) (c : Completion) (h : r₀.Passes s) :
    r₀.Passes (State.complete s c) := by
  unfold State.complete
  repeat' (first
    | with_reducible (first
      | assumption | apply State.tally__passes | apply State.alert_passes | apply State.modQueue_passes
      | apply State.tryPost_passes)
    | split
    | with_reducible (first
      | apply State.Passes.with))

theorem State.completeIf_passes {r₀ : State} (s : State) (ask : Option Nat) (c : Completion) (h : r₀.Passes s) :
    r₀.Passes (State.completeIf s ask c) := by
  unfold State.completeIf
  repeat' (first
    | with_reducible (first
      | assumption | apply State.complete_passes)
    | split)

theorem State.endWork_passes {r₀ : State} (s : State) (w : Option Work) (st : Status) (mill : Nat) (detail : Word) (h : r₀.Passes
    s) :
    r₀.Passes (State.endWork s w st mill detail) := by
  unfold State.endWork
  repeat' (first
    | with_reducible (first
      | assumption | apply State.completeIf_passes)
    | split)

theorem State.cancelAll_passes {r₀ : State} (s : State) (m : Nat) (l : List Invocation) (h : r₀.Passes s) :
    r₀.Passes (State.cancelAll s m l) := by
  unfold State.cancelAll
  repeat' (first
    | with_reducible (first
      | assumption | apply State.Passes.foldl | apply State.endWork_passes)
    | intro _)

theorem State.cancelQueue_passes {r₀ : State} (s : State) (m : Nat) (e : Eng) (h : r₀.Passes s) :
    r₀.Passes (State.cancelQueue s m e) := by
  unfold State.cancelQueue
  repeat' (first
    | with_reducible (first
      | assumption | apply State.modMill_passes | apply State.modEng_passes | apply State.cancelAll_passes))

theorem State.endFlow_passes {r₀ : State} (s : State) (m : Nat) (e : Eng) (h : r₀.Passes s) :
    r₀.Passes (State.endFlow s m e) := by
  unfold State.endFlow
  repeat' (first
    | with_reducible (first
      | assumption | apply State.modMill_passes)
    | split)

theorem State.endRunning_passes {r₀ : State} (s : State) (m : Nat) (e : Eng) (st : Status) (h : r₀.Passes s) :
    r₀.Passes (State.endRunning s m e st) := by
  unfold State.endRunning
  repeat' (first
    | with_reducible (first
      | assumption | apply State.Passes.foldl | apply State.modEng_passes | apply State.endWork_passes
      | apply State.endFlow_passes)
    | intro _ | split
    | with_reducible (first
      | apply State.Passes.snd (by assumption) | apply State.Passes.with))

theorem State.stopMill_passes {r₀ : State} (s : State) (m : Nat) (st : Status) (h : r₀.Passes s) :
    r₀.Passes (State.stopMill s m st) := by
  unfold State.stopMill
  repeat' (first
    | with_reducible (first
      | assumption | apply State.Passes.foldl | apply State.modMill_passes | apply State.modEng_passes
      | apply State.cancelQueue_passes | apply State.endRunning_passes)
    | intro _)

theorem State.recordSched_passes {r₀ : State} (s : State) (m : Nat) (r : SchedRec) (h : r₀.Passes s) :
    r₀.Passes (State.recordSched s m r) := by
  unfold State.recordSched
  repeat' (first
    | with_reducible (first
      | assumption | apply State.Passes.foldl | apply State.setMill_passes | apply State.reportSched_passes)
    | intro _ | split
    | with_reducible (first
      | apply State.Passes.snd (by assumption) | apply State.Passes.with))

theorem State.engineFault_passes {r₀ : State} (s : State) (m : Nat) (e : Eng) (f : EngFault) (h : r₀.Passes s) :
    r₀.Passes (State.engineFault s m e f) := by
  unfold State.engineFault
  try dsimp only
  repeat' (first
    | with_reducible (first
      | assumption | apply State.modEng_passes | apply State.report_passes | apply State.reportRow_passes
      | apply State.raiseMill_passes | apply State.endRunning_passes | apply State.stopMill_passes
      | apply State.recordSched_passes)
    | split)

theorem State.timeFault_passes {r₀ : State} (s : State) (m : Nat) (e : Eng) (f : EngFault) (h : r₀.Passes s) :
    r₀.Passes (State.timeFault s m e f) := by
  unfold State.timeFault
  split
  · exact h
  · exact State.engineFault_passes _ _ _ _ h

theorem State.reportRing_passes {r₀ : State} (s : State) (q : Nat) (h : r₀.Passes s) :
    r₀.Passes (State.reportRing s q) := by
  unfold State.reportRing
  repeat' (first
    | with_reducible (first
      | assumption | apply State.report_passes))

theorem State.landCart_passes {r₀ : State} (s : State) (q : Nat) (c : List Byte) (h : r₀.Passes s) :
    r₀.Passes (State.landCart s q c).2 := by
  unfold State.landCart
  try dsimp only
  repeat' (first
    | with_reducible (first
      | assumption | apply State.streamWrite_passes | apply State.modQueue_passes | apply State.queueFault_passes
      | apply State.checkCounts_passes | apply State.reportRing_passes)
    | split
    | with_reducible (first
      | apply State.Passes.snd (by assumption) | fail))

theorem State.takeCart_passes {r₀ : State} (s : State) (q : Nat) (h : r₀.Passes s) :
    r₀.Passes (State.takeCart s q).2 := by
  unfold State.takeCart
  try dsimp only
  repeat' (first
    | with_reducible (first
      | assumption | apply State.streamRead_passes | apply State.modQueue_passes | apply State.queueFault_passes
      | apply State.checkCounts_passes | apply State.reportRing_passes)
    | split
    | with_reducible (first
      | apply State.Passes.snd (by assumption) | fail))

theorem State.postRing_passes {r₀ : State} (s : State) (q : Nat) (h : r₀.Passes s) :
    r₀.Passes (State.postRing s q) := by
  unfold State.postRing
  try dsimp only
  repeat' (first
    | with_reducible (first
      | assumption | apply State.modEng_passes | apply State.timeFault_passes | apply State.takeCart_passes)
    | split
    | with_reducible (first
      | apply State.Passes.snd (by assumption) | fail))

theorem State.setRouter_passes {r₀ : State} (s : State) (k : Nat) (r : Router) (h : r₀.Passes s) :
    r₀.Passes (State.setRouter s k r) := by
  unfold State.setRouter
  repeat' (first
    | with_reducible (first
      | assumption)
    | with_reducible (first
      | apply State.Passes.with))

theorem State.giveCredit_passes {r₀ : State} (s : State) (k : Nat) (w : Waiting) (h : r₀.Passes s) :
    r₀.Passes (State.giveCredit s k w) := by
  unfold State.giveCredit
  repeat' (first
    | with_reducible (first
      | assumption | apply State.setRouter_passes)
    | split)

theorem State.grant_passes {r₀ : State} (s : State) (k lane : Nat) (w : Waiting) (h : r₀.Passes s) :
    r₀.Passes (State.grant s k lane w) := by
  unfold State.grant
  repeat' (first
    | with_reducible (first
      | assumption | apply State.send_passes | apply State.setRouter_passes | apply State.giveCredit_passes)
    | split)

theorem State.serveLane_passes {r₀ : State} (s : State) (k out lane : Nat) (h : r₀.Passes s) :
    r₀.Passes (State.serveLane s k out lane) := by
  unfold State.serveLane
  repeat' (first
    | with_reducible (first
      | assumption | apply State.Passes.foldl | apply State.grant_passes)
    | intro _ | split
    | with_reducible (first
      | apply State.Passes.snd (by assumption) | apply State.Passes.with))

theorem State.countP0_passes {r₀ : State} (s : State) (k out : Nat) (before : List Waiting) (forced : Bool) (h : r₀.Passes s) :
    r₀.Passes (State.countP0 s k out before forced) := by
  unfold State.countP0
  repeat' (first
    | with_reducible (first
      | assumption | apply State.Passes.foldl | apply State.tally__passes | apply State.setRouter_passes)
    | intro _ | split
    | with_reducible (first
      | apply State.Passes.snd (by assumption) | apply State.Passes.with))

theorem State.serveOut_passes {r₀ : State} (s : State) (k out : Nat) (h : r₀.Passes s) :
    r₀.Passes (State.serveOut s k out) := by
  unfold State.serveOut
  repeat' (first
    | with_reducible (first
      | assumption | apply State.Passes.foldl | apply State.serveLane_passes | apply State.countP0_passes)
    | intro _ | split
    | with_reducible (first
      | apply State.Passes.snd (by assumption) | apply State.Passes.with))

theorem State.serveRouter_passes {r₀ : State} (s : State) (k : Nat) (h : r₀.Passes s) :
    r₀.Passes (State.serveRouter s k) := by
  unfold State.serveRouter
  repeat' (first
    | with_reducible (first
      | assumption | apply State.Passes.foldl | apply State.setRouter_passes | apply State.serveOut_passes)
    | intro _ | split
    | with_reducible (first
      | apply State.Passes.snd (by assumption) | apply State.Passes.with))

theorem State.drainRouters_passes {r₀ : State} (s : State) (h : r₀.Passes s) :
    r₀.Passes (State.drainRouters s) := by
  unfold State.drainRouters
  repeat' (first
    | with_reducible (first
      | assumption | apply State.Passes.foldl | apply State.serveRouter_passes)
    | intro _ | split
    | with_reducible (first
      | apply State.Passes.snd (by assumption) | apply State.Passes.with))

theorem State.userRead_passes {r₀ : State} (s : State) (p b w : Nat) (asp : BitVec 2) (h : r₀.Passes s) :
    r₀.Passes (State.userRead s p b w asp).2.2 := by
  unfold State.userRead
  dsimp only
  split
  · exact State.badRead_passes (h := h) ..
  · exact State.countSoft_passes (h := h) ..

theorem State.userWrite_passes {r₀ : State} (s : State) (p b w : Nat) (asp : BitVec 2) (v : Nat) (h : r₀.Passes s) :
    r₀.Passes (State.userWrite s p b w asp v) := by
  unfold State.userWrite
  dsimp only
  split
  · exact State.badRead_passes (h := h) ..
  · exact State.setBytes_passes (h := h) ..

theorem State.portRead_passes {r₀ : State} (s : State) (p : Nat) (nets out : Table (BitVec 16)) (pt : BramPort) (h : r₀.Passes s) :
    r₀.Passes (State.portRead s p nets out pt).2 := by
  unfold State.portRead
  dsimp only
  split
  · exact h
  · have hr := State.userRead_passes s p pt.mem (pt.word (Table.get {} (s.plot p).brams pt.mem) nets)
      (Table.get {} (s.plot p).brams pt.mem).aspect h
    generalize s.userRead p pt.mem (pt.word (Table.get {} (s.plot p).brams pt.mem) nets)
      (Table.get {} (s.plot p).brams pt.mem).aspect = q at hr ⊢
    obtain ⟨v, bad, s1⟩ := q
    exact State.modPlot_passes (h := hr) ..

theorem State.portWrite_passes {r₀ : State} (s : State) (p : Nat) (nets : Table (BitVec 16)) (pt : BramPort) (h : r₀.Passes s) :
    r₀.Passes (State.portWrite s p nets pt) := by
  unfold State.portWrite
  dsimp only
  split
  · exact State.userWrite_passes (h := h) ..
  · exact h

theorem State.portReads_passes {r₀ : State} (l : List BramPort) : ∀ (s : State) (p : Nat) (nets out : Table (BitVec 16)), r₀.Passes s →
    r₀.Passes (State.portReads s p nets out l).2 := by
  induction l with
  | nil => intro s p nets out h; exact h
  | cons pt t ih =>
    intro s p nets out h
    unfold State.portReads
    have hr := State.portRead_passes s p nets out pt h
    generalize s.portRead p nets out pt = q at hr ⊢
    exact ih _ _ _ _ hr

theorem State.bramCycle_passes {r₀ : State} (s : State) (p : Nat) (h : r₀.Passes s) : r₀.Passes (State.bramCycle s p) := by
  unfold State.bramCycle
  dsimp only
  have hr := State.portReads_passes (s.plot p).image.ports s p (s.plot p).nets (s.plot p).nets h
  generalize s.portReads p (s.plot p).nets (s.plot p).nets (s.plot p).image.ports = q at hr ⊢
  obtain ⟨out, s1⟩ := q
  apply State.modPlot_passes
  split
  · exact State.Passes.foldl (h := hr) (fun s pt h => State.portWrite_passes _ _ _ _ h)
  · exact hr

theorem State.latchPlot_passes {r₀ : State} (s : State) (p : Nat) (h : r₀.Passes s) : r₀.Passes (State.latchPlot s p) := by
  unfold State.latchPlot
  exact State.modPlot_passes (h := h) ..

theorem State.plotCycle_passes {r₀ : State} (s : State) (p : Nat) (h : r₀.Passes s) : r₀.Passes (State.plotCycle s p) := by
  unfold State.plotCycle
  split
  · exact h
  · exact State.bramCycle_passes _ _ (State.latchPlot_passes _ _ h)

theorem State.fabricCycle_passes {r₀ : State} (s : State) (d : Die) (h : r₀.Passes s) :
    r₀.Passes (State.fabricCycle s d) := by
  unfold State.fabricCycle
  repeat' (first
    | with_reducible (first
      | assumption | apply State.Passes.foldl | apply State.plotCycle_passes))

theorem State.fabricStep_passes {r₀ : State} (s : State) (h : r₀.Passes s) :
    r₀.Passes (State.fabricStep s) := by
  unfold State.fabricStep
  repeat' (first
    | with_reducible (first
      | assumption | apply State.Passes.foldl | apply State.fabricCycle_passes)
    | intro _ | split
    | with_reducible (first
      | apply State.Passes.snd (by assumption) | apply State.Passes.with))

theorem State.groupWaits_passes {r₀ : State} (s : State) (m : Nat) (y : YokeFlight) (f : EngFault) (hazard : Bool) (h : r₀.Passes s) :
    r₀.Passes (State.groupWaits s m y f hazard).2 := by
  unfold State.groupWaits
  try dsimp only
  repeat' (first
    | with_reducible (first
      | assumption | apply State.Passes.foldl | apply State.Passes.foldlPair | apply State.setMill_passes
      | apply State.modMill_passes | apply State.tallyMill_passes | apply State.recordSched_passes
      | apply State.timeFault_passes)
    | intro _ | split
    | with_reducible (first
      | apply State.Passes.snd3 (by assumption) | apply State.Passes.snd (by assumption)
      | apply State.OPPasses.get (by assumption) | apply State.Passes.with))

theorem State.groupRows_passes {r₀ : State} (s : State) (m c : Nat) (y : YokeFlight) (base : Nat) (h : r₀.Passes s) :
    r₀.Passes (State.groupRows s m c y base).2 := by
  unfold State.groupRows
  try dsimp only
  repeat' (first
    | with_reducible (first
      | assumption | apply State.Passes.foldl | apply State.Passes.foldlPair | apply State.setArith_passes
      | apply State.tallyMill_passes | apply State.countSoft_passes | apply State.timeFault_passes)
    | intro _ | split
    | with_reducible (first
      | apply State.Passes.snd3 (by assumption) | apply State.Passes.snd (by assumption)
      | apply State.OPPasses.get (by assumption) | apply State.Passes.with))

theorem State.enterGroup_passes {r₀ : State} (s : State) (m c : Nat) (y : YokeFlight) (h : r₀.Passes s) :
    r₀.Passes (State.enterGroup s m c y).2 := by
  unfold State.enterGroup
  try dsimp only
  repeat' (first
    | with_reducible (first
      | assumption | apply State.Passes.foldl | apply State.Passes.foldlPair | apply State.setMill_passes
      | apply State.timeFault_passes | apply State.groupWaits_passes | apply State.groupRows_passes)
    | intro _ | split
    | with_reducible (first
      | apply State.Passes.snd3 (by assumption) | apply State.Passes.snd (by assumption)
      | apply State.OPPasses.get (by assumption) | apply State.Passes.with))

theorem State.loadRow_passes {r₀ : State} (s : State) (m c : Nat) (l : LoadFlight) (h : r₀.Passes s) :
    r₀.Passes (State.loadRow s m c l).2 := by
  unfold State.loadRow
  try dsimp only
  repeat' (first
    | with_reducible (first
      | assumption | apply State.Passes.foldl | apply State.Passes.foldlPair | apply State.modMill_passes
      | apply State.countSoft_passes | apply State.timeFault_passes)
    | intro _ | split
    | with_reducible (first
      | apply State.Passes.snd3 (by assumption) | apply State.Passes.snd (by assumption)
      | apply State.OPPasses.get (by assumption) | apply State.Passes.with))

theorem State.loadsStep_passes {r₀ : State} (s : State) (m c : Nat) (h : r₀.Passes s) :
    r₀.Passes (State.loadsStep s m c) := by
  unfold State.loadsStep
  try dsimp only
  repeat' (first
    | with_reducible (first
      | assumption | apply State.Passes.foldl | apply State.Passes.foldlPair | apply State.modMill_passes
      | apply State.loadRow_passes)
    | intro _ | split
    | with_reducible (first
      | apply State.Passes.snd3 (by assumption) | apply State.Passes.snd (by assumption)
      | apply State.OPPasses.get (by assumption) | apply State.Passes.with))

theorem State.writeRow_passes {r₀ : State} (s : State) (m : Nat) (y : YokeFlight) (row : Nat) (codes : List Nat × List Nat) (h : r₀.Passes s) :
    r₀.Passes (State.writeRow s m y row codes) := by
  unfold State.writeRow
  repeat' (first
    | with_reducible (first
      | assumption | apply State.Passes.foldl | apply State.setBytes_passes | apply State.modMill_passes
      | apply State.setArith_passes | apply State.tallyMill_passes)
    | intro _ | split
    | with_reducible (first
      | apply State.Passes.snd (by assumption) | apply State.Passes.with))

theorem State.leaveGroup_passes {r₀ : State} (s : State) (m c : Nat) (y : YokeFlight) (h : r₀.Passes s) :
    r₀.Passes (State.leaveGroup s m c y).2 := by
  unfold State.leaveGroup
  repeat' (first
    | with_reducible (first
      | assumption | apply State.Passes.foldl | apply State.Passes.foldlPair | apply State.writeRow_passes)
    | intro _ | split)

theorem State.flightIncs_passes {r₀ : State} (s : State) (m c : Nat) (y : YokeFlight) (wroteLast : Bool) (h : r₀.Passes s) :
    r₀.Passes (State.flightIncs s m c y wroteLast).2 := by
  unfold State.flightIncs
  try dsimp only
  repeat' (first
    | with_reducible (first
      | assumption | apply State.modMill_passes)
    | split)

theorem State.flightStep_passes {r₀ : State} (s : State) (m c : Nat) (y : YokeFlight) (h : r₀.Passes s) :
    r₀.Passes (State.flightStep s m c y).2 := by
  unfold State.flightStep
  repeat' (first
    | with_reducible (first
      | assumption | apply State.Passes.foldlPair | apply State.enterGroup_passes | apply State.leaveGroup_passes
      | apply State.flightIncs_passes)
    | split
    | with_reducible (first
      | apply State.Passes.snd (by assumption) | fail))

theorem State.foldFlights_passes {r₀ : State} (s : State) (m : Nat) (f : State → YokeFlight → Option YokeFlight × State)
    (hf : ∀ s y, r₀.Passes s → r₀.Passes (f s y).2) (h : r₀.Passes s) : r₀.Passes (State.foldFlights s m f) := by
  unfold State.foldFlights
  refine State.modMill_passes (h := State.Passes.foldlPair h fun p y hp => ?_) ..
  have k := hf p.2 y hp
  split
  · next e => rw [e] at k; exact k
  · next e => rw [e] at k; exact k

theorem State.yokeReads_passes {r₀ : State} (s : State) (m c : Nat) (h : r₀.Passes s) :
    r₀.Passes (State.yokeReads s m c) := by
  unfold State.yokeReads
  repeat' (first
    | with_reducible (first
      | assumption | apply State.Passes.foldl | apply State.modMill_passes | apply State.tallyMill_passes
      | apply State.enterGroup_passes | apply State.loadsStep_passes | apply State.foldFlights_passes)
    | intro _ | split
    | with_reducible (first
      | apply State.Passes.snd (by assumption) | apply State.Passes.with))

theorem State.yokeWrites_passes {r₀ : State} (s : State) (m c : Nat) (h : r₀.Passes s) :
    r₀.Passes (State.yokeWrites s m c) := by
  unfold State.yokeWrites
  repeat' (first
    | with_reducible (first
      | assumption | apply State.Passes.foldl | apply State.flightStep_passes | apply State.foldFlights_passes)
    | intro _ | split
    | with_reducible (first
      | apply State.Passes.snd (by assumption) | apply State.Passes.with))

theorem State.setSlot_passes {r₀ : State} (s : State) (m k : Nat) (sl : Option Slot) (h : r₀.Passes s) :
    r₀.Passes (State.setSlot s m k sl) := by
  unfold State.setSlot
  repeat' (first
    | with_reducible (first
      | assumption | apply State.modMill_passes)
    | split)

theorem State.clearMove_passes {r₀ : State} (s : State) (m c k : Nat) (a : MovArgs) (h : r₀.Passes s) :
    r₀.Passes (State.clearMove s m c k a) := by
  unfold State.clearMove
  repeat' (first
    | with_reducible (first
      | assumption | apply State.modMill_passes | apply State.setSlot_passes)
    | split)

theorem State.moveBytes_passes {r₀ : State} (s : State) (m c : Nat) (cr : Carter) (k : Nat) (sl : Slot) (a : MovArgs) (n : Nat) (h : r₀.Passes s) :
    r₀.Passes (State.moveBytes s m c cr k sl a n) := by
  unfold State.moveBytes
  try dsimp only
  repeat' (first
    | with_reducible (first
      | assumption | apply State.Passes.foldl | apply State.Passes.foldlPair | apply State.modMill_passes
      | apply State.tallyMill_passes | apply State.countSoft_passes | apply State.setSlot_passes
      | apply State.clearMove_passes)
    | intro _ | split
    | with_reducible (first
      | apply State.Passes.snd3 (by assumption) | apply State.Passes.snd (by assumption)
      | apply State.OPPasses.get (by assumption) | apply State.Passes.with))

theorem State.carterStep_passes {r₀ : State} (s : State) (m c : Nat) (cr : Carter) (h : r₀.Passes s) :
    r₀.Passes (State.carterStep s m c cr) := by
  unfold State.carterStep
  repeat' (first
    | with_reducible (first
      | assumption | apply State.Passes.foldl | apply State.modMill_passes | apply State.tallyMill_passes
      | apply State.timeFault_passes | apply State.clearMove_passes | apply State.moveBytes_passes)
    | intro _ | split
    | with_reducible (first
      | apply State.Passes.snd (by assumption) | apply State.Passes.with))

theorem State.cartersStep_passes {r₀ : State} (s : State) (m c : Nat) (h : r₀.Passes s) :
    r₀.Passes (State.cartersStep s m c) := by
  unfold State.cartersStep
  repeat' (first
    | with_reducible (first
      | assumption | apply State.carterStep_passes)
    | split)

theorem State.land_passes {r₀ : State} (s : State) (m c : Nat) (l : Land) (h : r₀.Passes s) :
    r₀.Passes (State.land s m c l) := by
  unfold State.land
  repeat' (first
    | with_reducible (first
      | assumption | apply State.setBytes_passes | apply State.modMill_passes | apply State.evBits_passes
      | apply State.tallyMill_passes)
    | split)

theorem State.landTurn_passes {r₀ : State} (s : State) (m c : Nat) (l : Land) (h : r₀.Passes s) :
    r₀.Passes (State.landTurn s m c l) := by
  unfold State.landTurn
  repeat' (first
    | with_reducible (first
      | assumption | apply State.modMill_passes | apply State.tallyMill_passes | apply State.land_passes)
    | split)

theorem State.landDue_passes {r₀ : State} (s : State) (m c : Nat) (stores : Bool) (h : r₀.Passes s) :
    r₀.Passes (State.landDue s m c stores) := by
  unfold State.landDue
  repeat' (first
    | with_reducible (first
      | assumption | apply State.Passes.foldl | apply State.modMill_passes | apply State.landTurn_passes)
    | intro _ | split
    | with_reducible (first
      | apply State.Passes.snd (by assumption) | apply State.Passes.with))

theorem State.millStep_passes {r₀ : State} (s : State) (m c : Nat) (h : r₀.Passes s) :
    r₀.Passes (State.millStep s m c) := by
  unfold State.millStep
  repeat' (first
    | with_reducible (first
      | assumption | apply State.modMill_passes | apply State.yokeReads_passes | apply State.yokeWrites_passes
      | apply State.cartersStep_passes | apply State.landDue_passes)
    | split)

theorem State.landFlight_passes {r₀ : State} (s : State) (f : CartFlight) (h : r₀.Passes s) :
    r₀.Passes (State.landFlight s f) := by
  unfold State.landFlight
  repeat' (first
    | with_reducible (first
      | assumption | apply State.modMill_passes | apply State.landCart_passes | apply State.postRing_passes)
    | split
    | with_reducible (first
      | apply State.Passes.snd (by assumption) | fail))

theorem State.landCarts_passes {r₀ : State} (s : State) (h : r₀.Passes s) :
    r₀.Passes (State.landCarts s) := by
  unfold State.landCarts
  repeat' (first
    | with_reducible (first
      | assumption | apply State.Passes.foldl | apply State.landFlight_passes)
    | split
    | with_reducible (first
      | apply State.Passes.with))

theorem State.countCycles_passes {r₀ : State} (s : State) (n : Nat) (h : r₀.Passes s) :
    r₀.Passes (State.countCycles s n) := by
  unfold State.countCycles
  repeat' (first
    | with_reducible (first
      | assumption | apply State.Passes.foldl)
    | intro _ | split
    | with_reducible (first
      | apply State.Passes.snd (by assumption) | apply State.Passes.with))

theorem State.agenFaults_passes {r₀ : State} (s : State) (h : r₀.Passes s) : r₀.Passes s.agenFaults := by
  unfold State.agenFaults
  refine State.Passes.foldl h fun s m h => State.Passes.foldl h fun s f h => ?_
  split
  · exact State.timeFault_passes _ _ _ _ h
  · exact h

/-! ### Ticks -/

/-- A bell as the passing of time leaves it: a lock that was due has come, a marker that did not come is counted, and requests and items
of crossings go their way; what the host has set and what records hold stands. -/
def Bell.Onward (a b : Bell) : Prop :=
  b = { a with
    state := b.state, depth := b.depth, ports := b.ports, seq := b.seq, seen := b.seen, missed := b.missed, h := b.h
    jumped := b.jumped, lockNext := b.lockNext, store := b.store } ∧
  (a.state ≠ .calibrating → b.state = a.state ∧ b.depth = a.depth) ∧
  ∀ p, b.port p = { a.port p with reqs := (b.port p).reqs, answer := (b.port p).answer }

theorem Bell.Onward.refl (a : Bell) : a.Onward a := ⟨rfl, fun _ => ⟨rfl, rfl⟩, fun _ => rfl⟩
theorem Bell.Onward.trans {a b c : Bell} (h : a.Onward b) (k : b.Onward c) : a.Onward c := by
  obtain ⟨h1, h2, h3⟩ := h
  obtain ⟨k1, k2, k3⟩ := k
  refine ⟨by rw [k1, h1], fun e => ?_, fun p => by rw [k3, h3]⟩
  obtain ⟨e1, e2⟩ := h2 e
  obtain ⟨f1, f2⟩ := k2 (by rw [e1]; exact e)
  exact ⟨f1.trans e1, f2.trans e2⟩

/-- What the passing of time leaves alone, ticks among it. -/
structure State.Goes (s t : State) : Prop where
  pending : t.pending = s.pending
  ident : t.ident = s.ident
  cwPend : t.cwPend = s.cwPend
  cwf : t.cwf = s.cwf
  collector : t.collector = s.collector
  level : t.level = s.level
  cadence : t.cadence = s.cadence
  groups : ∀ k, (s.group k).ButHalt (t.group k)
  node : t.node = s.node
  routes : t.routes = s.routes
  torW : t.torW = s.torW
  torE : t.torE = s.torE
  cfg : t.cfg = s.cfg
  bw : t.bw = s.bw
  reeveW : t.reeveW = s.reeveW
  reeveE : t.reeveE = s.reeveE
  rst : t.rst = s.rst
  sec : t.sec = s.sec
  board : t.board = s.board
  pb : t.pb = s.pb
  dbg : t.dbg = s.dbg
  cwUpset : t.cwUpset = s.cwUpset
  cwHeld : t.cwHeld = s.cwHeld
  bell : s.bell.Onward t.bell
  pwr : t.pwr = { s.pwr with fresh := t.pwr.fresh }

theorem State.Goes.refl (s : State) : s.Goes s :=
  ⟨rfl, rfl, rfl, rfl, rfl, rfl, rfl, fun _ => .refl _, rfl, rfl, rfl, rfl, rfl, rfl, rfl, rfl, rfl, rfl, rfl, rfl, rfl,
    rfl, rfl, .refl _, rfl⟩
theorem State.Goes.trans {s t u : State} (h : s.Goes t) (k : t.Goes u) : s.Goes u :=
  ⟨k.pending.trans h.pending, k.ident.trans h.ident, k.cwPend.trans h.cwPend, k.cwf.trans h.cwf, k.collector.trans
    h.collector, k.level.trans h.level, k.cadence.trans h.cadence, fun n => (h.groups n).trans (k.groups n), k.node.trans
    h.node, k.routes.trans h.routes, k.torW.trans h.torW, k.torE.trans h.torE, k.cfg.trans h.cfg, k.bw.trans h.bw,
    k.reeveW.trans h.reeveW, k.reeveE.trans h.reeveE, k.rst.trans h.rst, k.sec.trans h.sec, k.board.trans h.board,
    k.pb.trans h.pb, k.dbg.trans h.dbg, k.cwUpset.trans h.cwUpset, k.cwHeld.trans h.cwHeld, h.bell.trans k.bell, by rw
    [k.pwr, h.pwr]⟩

/-- What leaves the clock too alone goes on. -/
theorem State.Passes.goes {s t : State} (h : s.Passes t) : s.Goes t :=
  ⟨h.pending, h.ident, h.cwPend, h.cwf, h.collector, h.level, h.cadence, h.groups, h.node, h.routes, h.torW, h.torE,
    h.cfg, h.bw, h.reeveW, h.reeveE, h.rst, h.sec, h.board, h.pb, h.dbg, h.cwUpset, h.cwHeld, h.bell ▸ .refl _, by rw
    [h.pwr]⟩

/-- A change of the clock and the bell. -/
theorem State.Goes.tick {s : State} (k : Clock) (b : Bell) (w : Power) (h : s.bell.Onward b) (e : w = { s.pwr with fresh := w.fresh }) :
    s.Goes { s with clock := k, bell := b, pwr := w } :=
  ⟨rfl, rfl, rfl, rfl, rfl, rfl, rfl, fun _ => .refl _, rfl, rfl, rfl, rfl, rfl, rfl, rfl, rfl, rfl, rfl, rfl, rfl, rfl,
    rfl, rfl, h, e⟩

theorem Bell.atTick_onward (b : Bell) : b.Onward b.atTick := by
  unfold Bell.atTick
  refine ⟨?_, fun e => ?_, fun p => ?_⟩
  · dsimp only; repeat' split
    all_goals rfl
  · dsimp only; rw [if_neg e]; split <;> exact ⟨rfl, rfl⟩
  · dsimp only; repeat' split
    all_goals rfl

theorem State.tally__goes {r₀ : State} (s : State) (t : Tly) (d : Die) (unit n : Nat) (h : r₀.Goes s) : r₀.Goes (s.tally_ t d unit n) :=
  h.trans (State.tally__passes s t d unit n (.refl s)).goes

theorem State.tallyPort_goes {r₀ : State} (s : State) (t : Tly) (p : Nat) (h : r₀.Goes s) : r₀.Goes (s.tallyPort t p) :=
  State.tally__goes (h := h) ..

theorem State.Goes.foldl {α : Type} {r s : State} {f : State → α → State} {l : List α} (h : r.Goes s)
    (hf : ∀ s a, r.Goes s → r.Goes (f s a)) : r.Goes (l.foldl f s) := by
  induction l generalizing s with
  | nil => exact h
  | cons a l ih => exact ih (hf s a h)

theorem State.modBell_goes {r₀ : State} (s : State) (f : Bell → Bell) (hf : s.bell.Onward (f s.bell)) (h : r₀.Goes s) :
    r₀.Goes (s.modBell f) := h.trans (State.Goes.tick _ _ _ hf rfl)

/-- Requests, answers and the sequence numbers of echoes go their way with the bell frames. -/
theorem State.launchBell_goes {r₀ : State} (s : State) (p : Nat) (h : r₀.Goes s) : r₀.Goes (s.launchBell p) := by
  have seq : ∀ b : Bell, ∀ n, b.Onward { b with seq := n } := fun b n => ⟨rfl, fun _ => ⟨rfl, rfl⟩, fun _ => rfl⟩
  have port : ∀ (b : Bell) (f : BellPort → BellPort), (∀ y : BellPort, f y = { y with reqs := (f y).reqs, answer := (f y).answer }) →
      b.Onward { b with ports := Table.upd {} b.ports p f } := by
    intro b f hf
    refine ⟨rfl, fun _ => ⟨rfl, rfl⟩, fun q => ?_⟩
    by_cases e : p = q
    · subst e; unfold Bell.port; dsimp only; rw [Table.get_upd_same]; exact hf _
    · unfold Bell.port; dsimp only; rw [Table.get_upd_ne _ _ _ e]
  unfold State.launchBell
  dsimp only
  split
  · exact h
  have h1 : ∀ o, r₀.Goes (s.send o) := fun o => h.trans (State.send_passes s o (.refl s)).goes
  refine State.modBell_goes _ _ (port _ _ fun y => rfl) ?_
  split
  · exact State.modBell_goes _ _ (seq _ _) (h1 _)
  · exact h1 _

theorem State.launchBell_clock (s : State) (p : Nat) : (s.launchBell p).clock = s.clock := by
  unfold State.launchBell; dsimp only; split
  · rfl
  · split <;> rfl

theorem State.tickStart_goes {r₀ : State} (s : State) (h : r₀.Goes s) : r₀.Goes s.tickStart := by
  unfold State.tickStart
  extract_lets c p u v w x y
  have h1 : r₀.Goes u := h.trans (State.Goes.tick (s := s) _ s.bell _ (.refl _) rfl)
  have h2 : r₀.Goes v := by
    unfold v; split
    · exact h1.trans (State.Passes.with (h := .refl _) ..).goes
    · exact h1
  have h3 : r₀.Goes w := State.tally__goes (h := State.tally__goes (h := h2) ..) ..
  have h4 : r₀.Goes x := by
    unfold x; split
    · exact State.tallyPort_goes (h := h3) ..
    · exact h3
  exact State.Goes.foldl (State.modBell_goes _ _ (Bell.atTick_onward _) h4) fun s p h => State.launchBell_goes s p h

theorem State.foldl_clock {α : Type} {f : State → α → State} (hf : ∀ s a, (f s a).clock = s.clock) (l : List α) (s : State) :
    (l.foldl f s).clock = s.clock := by
  induction l generalizing s with
  | nil => rfl
  | cons a l ih => exact (ih (f s a)).trans (hf s a)

theorem State.tickStart_clock (s : State) : s.tickStart.clock = { s.clock with tick := s.clock.tick + 1, cyc := 0 } := by
  unfold State.tickStart
  dsimp only
  rw [State.foldl_clock State.launchBell_clock]
  unfold State.modBell
  dsimp only
  split <;> split <;> simp [State.epochMills]

/-- The clock `n` cycles on (R167). -/
def Clock.after (k : Clock) (n : Nat) : Clock :=
  { now := k.now + n, tick := k.tick + BitVec.ofNat 64 ((k.cyc + n) / 1248), cyc := (k.cyc + n) % 1248 }

theorem Clock.after_zero (k : Clock) (h : k.cyc ≤ 1247) : k.after 0 = k := by
  unfold Clock.after
  rw [Nat.add_zero, Nat.add_zero, Nat.div_eq_of_lt (by omega), Nat.mod_eq_of_lt (by omega)]
  simp

theorem Clock.after_add (k : Clock) (m n : Nat) : (k.after m).after n = k.after (m + n) := by
  unfold Clock.after
  have e : (k.cyc + (m + n)) / 1248 = (k.cyc + m) / 1248 + ((k.cyc + m) % 1248 + n) / 1248 := by omega
  have f : (k.cyc + (m + n)) % 1248 = ((k.cyc + m) % 1248 + n) % 1248 := by omega
  rw [e, f, BitVec.ofNat_add, ← BitVec.add_assoc, Nat.add_assoc]

theorem State.tickOver_clock (t : State) (k : Clock) (n : Nat) (e : t.clock = k.pass n) (h : k.cyc + n ≤ 1248) :
    t.tickOver.clock = k.after n := by
  unfold State.tickOver
  split
  · next c =>
    rw [e] at c ⊢
    unfold Clock.pass at c ⊢
    unfold Clock.after
    rw [Nat.div_eq_of_lt c, Nat.mod_eq_of_lt c]
    simp
  · next c =>
    rw [State.tickStart_clock, e]
    rw [e] at c
    unfold Clock.pass at c ⊢
    unfold Clock.after
    dsimp only at c ⊢
    rw [show k.cyc + n = 1248 by omega]
    rfl

theorem State.tickOver_goes {r₀ : State} (s : State) (h : r₀.Goes s) : r₀.Goes s.tickOver := by
  unfold State.tickOver
  split
  · exact h
  · exact State.tickStart_goes s h

theorem State.releaseItems_goes {r₀ : State} (s : State) (h : r₀.Goes s) : r₀.Goes s.releaseItems := by
  unfold State.releaseItems
  dsimp only
  split
  · exact h
  · exact State.Goes.foldl (State.modBell_goes _ _ ⟨rfl, fun _ => ⟨rfl, rfl⟩, fun _ => rfl⟩ h) fun s i h =>
      h.trans (State.send_passes s _ (.refl s)).goes

theorem State.releaseItems_clock (s : State) : s.releaseItems.clock = s.clock := by
  unfold State.releaseItems
  dsimp only
  split
  · rfl
  · refine (State.foldl_clock ?_ _ _).trans rfl
    intro s i; rfl

/-- One cycle takes the clock on by one and leaves alone what time leaves alone. -/
theorem State.cycle_goes (s : State) : s.Goes s.cycle ∧ (s.clock.cyc ≤ 1247 → s.cycle.clock = s.clock.after 1) := by
  unfold State.cycle
  dsimp only
  have a : ∀ (l : List Nat) (c : Nat) (s : State), s.Passes (l.foldl (fun s m => s.millStep m c) s) :=
    fun l c s => State.Passes.foldl (State.Passes.refl s) (fun s m h => State.millStep_passes (h := h) ..)
  have h1 := State.fabricStep_passes _ (State.countCycles_passes _ 1 (a s.activeMills s.clock.now s))
  generalize ((s.activeMills.foldl (fun s_1 m => s_1.millStep m s.clock.now) s).countCycles 1).fabricStep = u at h1 ⊢
  have h2 : s.Goes { u with clock := u.clock.pass 1 } := h1.goes.trans (State.Goes.tick _ u.bell u.pwr (.refl _) rfl)
  have h3 := State.tickOver_goes _ h2
  have c3 : s.clock.cyc ≤ 1247 → ({ u with clock := u.clock.pass 1 } : State).tickOver.clock = s.clock.after 1 := fun h =>
    State.tickOver_clock _ _ _ (by rw [h1.clock]) (by omega)
  generalize ({ u with clock := u.clock.pass 1 } : State).tickOver = v at h3 c3 ⊢
  have h4 := State.drainRouters_passes _ (State.landCarts_passes _ (State.agenFaults_passes v (.refl v)))
  exact ⟨State.releaseItems_goes _ (h3.trans h4.goes), fun h => by rw [State.releaseItems_clock, h4.clock]; exact c3 h⟩

theorem State.leap_goes (s : State) (n : Nat) :
    s.Goes (s.leap n) ∧ (s.clock.cyc + n ≤ 1248 → (s.leap n).clock = s.clock.after n) := by
  unfold State.leap
  have h1 := State.countCycles_passes s n (.refl s)
  generalize s.countCycles n = u at h1 ⊢
  exact ⟨State.tickOver_goes _ (h1.goes.trans (State.Goes.tick _ u.bell u.pwr (.refl _) rfl)),
    fun h => State.tickOver_clock _ _ _ rfl h⟩

theorem State.passFor_goes (fuel : Nat) : ∀ (n : Nat) (s : State), s.Goes (s.passFor fuel n) ∧
    (s.clock.cyc ≤ 1247 → n ≤ fuel → (s.passFor fuel n).clock = s.clock.after n) := by
  induction fuel with
  | zero =>
    intro n s
    exact ⟨.refl s, fun h k => by rw [Nat.le_zero.1 k, Clock.after_zero _ h]; rfl⟩
  | succ f ih =>
    intro n s
    unfold State.passFor
    split
    · next e => subst e; exact ⟨.refl s, fun h _ => by rw [Clock.after_zero _ h]⟩
    · have inside : ∀ (k : Clock) (n : Nat), (k.after n).cyc ≤ 1247 := fun k n => by
        have := Nat.mod_lt (k.cyc + n) (show 1248 > 0 by decide)
        exact Nat.le_of_lt_succ this
      split
      · dsimp only
        generalize hk : max 1 (min n (1248 - s.clock.cyc)) = k
        obtain ⟨g1, c1⟩ := State.leap_goes s k
        obtain ⟨g2, c2⟩ := ih (n - k) (s.leap k)
        refine ⟨g1.trans g2, fun h e => ?_⟩
        have c1 := c1 (by omega)
        rw [c2 (by rw [c1]; exact inside _ _) (by omega), c1, Clock.after_add]
        congr 1; omega
      · obtain ⟨g1, c1⟩ := State.cycle_goes s
        obtain ⟨g2, c2⟩ := ih (n - 1) s.cycle
        refine ⟨g1.trans g2, fun h e => ?_⟩
        rw [c2 (by rw [c1 h]; exact inside _ _) (by omega), c1 h, Clock.after_add]
        congr 1; omega

/-- `n` cycles take the clock on by `n`. -/
theorem State.pass_clock (s : State) (n : Nat) (h : s.clock.cyc ≤ 1247) : (s.pass n).clock = s.clock.after n :=
  (State.passFor_goes n n s).2 h (Nat.le_refl n)

/-- Time leaves alone what the passing of time leaves alone. -/
theorem State.pass_goes (s : State) (n : Nat) : s.Goes (s.pass n) := (State.passFor_goes n n s).1

theorem State.advanceTo_goes (s : State) (n : Nat) : s.Goes (s.advanceTo n) := State.pass_goes s _

theorem State.advanceTo_clock (s : State) (n : Nat) (h : s.clock.cyc ≤ 1247) :
    (s.advanceTo n).clock = s.clock.after (n - s.clock.now) := State.pass_clock s _ h

theorem State.advanceTo_now (s : State) (n : Nat) (h : s.clock.cyc ≤ 1247) : (s.advanceTo n).clock.now = max s.clock.now n := by
  rw [State.advanceTo_clock s n h]
  show s.clock.now + (n - s.clock.now) = _
  omega

end Sys2Proof.Machine
end

