-- ==== Sys2Proof/Laws/Security.lean ====
section
/-! SUPPORT. Laws of the security block and of failed CW writes. -/

namespace Sys2Proof.Machine

open Sys2Proof

/-- A failed complement is recorded as a failed CW write is, and changes no other pending value. -/
theorem State.complementFail_keeps (s : State) (w : Writer) (off k : Nat) :
    (s.complementFail w off k).cwPend = s.cwPend ∧ (s.complementFail w off k).cwf = (s.cwFail w off k).cwf ∧
      (s.complementFail w off k).clock = s.clock := by
  unfold State.complementFail
  dsimp only
  split
  · simp [State.doorbellFail, State.discardDoorbell, State.qsErr]
  · simp

/-- The first-error record of failed CW writes: the first event is kept, a later one sets more. -/
theorem State.cwFail_cwf (s : State) (w : Writer) (off k : Nat) :
    (s.cwFail w off k).cwf =
      if s.cwf.w1.getLsbD 31 then { s.cwf with w1 := s.cwf.w1 ||| 0x40000000 }
      else { w0 := BitVec.ofNat 32 (off % 2 ^ 28), w1 := 0x80000000 ||| BitVec.ofNat 32 (w.code * 16 + k),
             w2 := s.clock.tick.truncate 32, w3 := 0 } := by
  unfold State.cwFail
  simp

/-- A signed request that fails a check ends with that check's status and reason. -/
theorem State.signed_fails (s : State) (f : List Byte → State → State) (st : Status) (n : Nat)
    (h : s.requestFails (s.sec.bytes 0 3860) = some (st, n)) : s.signed f = s.secEnd st n := by
  unfold State.signed
  dsimp only
  rw [h]

/-- A signed request that passes its checks has its effect and ends OK. -/
theorem State.signed_passes (s : State) (f : List Byte → State → State) (h : s.requestFails (s.sec.bytes 0 3860) = none) :
    s.signed f = (f (s.sec.bytes 0 3860) s).secEnd .ok 0 := by
  unfold State.signed
  dsimp only
  rw [h]

/-- What each byte reads as after a level 3 has zeroed the byte stores. -/
theorem State.read_zeroAll (s : State) (a : Nat) :
    Memory.read s.zeroAll.mem a = if s.wipes a then 0 else Memory.read s.mem a := by
  unfold State.zeroAll Memory.read
  dsimp only
  rw [Table.get_filter _ _ (fun k => !s.wipes k)]
  cases s.wipes a <;> rfl

theorem Sec.get_putFold (l : List Byte) (off k : Nat) (t : Table Byte) (a : Nat) :
    Table.get 0 (((List.range' k l.length).zip l).foldl (fun t e => Table.put 0 t (off + e.1) e.2) t) a =
      if off + k ≤ a ∧ a < off + k + l.length then l.getD (a - off - k) 0 else Table.get 0 t a := by
  induction l generalizing k t with
  | nil =>
    show Table.get 0 t a = _
    rw [List.length_nil, if_neg (by omega)]
  | cons b l ih =>
    simp only [List.length_cons, List.range'_succ, List.zip_cons_cons, List.foldl_cons]
    rw [ih]
    by_cases h1 : a = off + k
    · subst h1
      rw [if_neg (by omega), if_pos (by omega), Table.get_put_same]
      simp
    · by_cases h2 : off + (k + 1) ≤ a ∧ a < off + (k + 1) + l.length
      · rw [if_pos h2, if_pos (by omega)]
        obtain ⟨j, rfl⟩ : ∃ j, a = off + k + 1 + j := ⟨a - (off + k + 1), by omega⟩
        rw [show off + k + 1 + j - off - (k + 1) = j by omega, show off + k + 1 + j - off - k = j + 1 by omega]
        simp
      · rw [if_neg h2, if_neg (by omega), Table.get_put_ne _ _ _ (by omega)]

/-- The mailbox reads back what was written to it. -/
theorem Sec.bytes_putBytes (x : Sec) (l : List Byte) (off n : Nat) (h : off + n ≤ l.length) :
    (x.putBytes 0 l).bytes off n = (l.drop off).take n := by
  unfold Sec.bytes Sec.putBytes
  dsimp only
  rw [List.range_eq_range' (n := l.length)]
  apply List.ext_getElem
  · simp; omega
  · intro i h1 h2
    simp at h1
    simp only [List.getElem_map, List.getElem_range, Sec.get_putFold]
    rw [if_pos (by omega)]
    simp
    rw [List.getElem?_eq_getElem (by omega)]; rfl

/-- A debug space of an engine names that engine. -/
theorem dbgWho_eng (m : MillIx) (e : Eng) (x : BitVec 13) (h : x.toNat = m.toNat * 5 + e.num) (hm : m.toNat < 1152) :
    dbgWho x.toNat = some (.eng m.toNat e) := by
  have he : e.num < 5 := by cases e <;> decide
  unfold dbgWho
  rw [if_pos (by omega), show x.toNat % 5 = e.num by omega, show x.toNat / 5 = m.toNat by omega]
  cases e <;> rfl

/-- A live mill is one of the 1,152. -/
theorem State.millLive_lt (s : State) (k : Nat) (h : s.millLive k = true) : k < 1152 := by
  simp [State.millLive, State.millPresent] at h; exact h.1.1.1

end Sys2Proof.Machine
end

