-- ==== Sys2Proof/Tests/Slice0.lean ====
section
/-! SUPPORT. Smoke tests of well-formedness, the worked numbers of the spec, and witnesses of the statements' hypotheses. -/

namespace Sys2Proof.Tests

open Sys2Proof Sys2Proof.Machine

/-- A device whose reeve of W runs, so that every register answers. -/
def up : State := { reeveW := { state := .follower } }

/-- A device with one mill. -/
def withMill (m : Nat) (x : Mill) : State := { up with mills := [(m, x)] }

/-- A device with one plot. -/
def withPlot (p : Nat) (x : Plot) : State := { up with fab := { clkW := 1, plots := [(p, x)] } }

/-- A device with one field port. -/
def withPort (p : Nat) (x : Port) : State := { up with ports := [(p, x)] }

/-- A device with one queue. -/
def withQueue (q : Nat) (x : Queue) : State := { up with qs := { queues := [(q, x)] } }

/-- A device with one granary. -/
def withGranary (k : Nat) (g : Granary) : State := { up with granaries := [(k, g)] }

/-- A device with one group. -/
def withGroup (g : Nat) (x : Group) : State := { up with groups := [(g, x)] }

/-- A device whose host port is as given. -/
def withHost (x : HostPort) : State := { up with hp := x }

/-- A device whose loader is as given. -/
def withCfg (x : Cfg) : State := { up with cfg := x }

/-- An almanac of group 5 with plot 31 and mill 0. -/
def alm : Almanac :=
  { group := 5, lgSpan := 6, hot := false, ports := [], mills := [0], plots := [31], bookings := [], marks := [], epochs := []
    pages := [], masks := [], hops := 0 }

/-- An invocation with no arguments. -/
def inv : Invocation := { entry := 0, args := [] }

/-- Mill `m` runs an invocation on engine `e`, whose first instruction word is not zero. -/
def runs (m : Nat) (e : Eng) (x : Mill := {}) : State :=
  { withMill m (x.setEng e { x.eng e with running := some inv }) with mem := [(imemCell m e 0, 1)] }

/-- An operation of engine `e` waits in mill `m`. -/
def waits (m : Nat) (e : Eng) (op : EngOp) (x : Mill := {}) : State :=
  withMill m (x.setEng e { x.eng e with held := some op, running := some inv })

/-- A host link that is up. -/
def link : HostPort := { state := .up }

/-- A ledger with an entry of ctl and frame at page 0 in both copies. -/
def ledger (ctl frame : Word) : Ledger :=
  { copyW := [(0, mkEntry ctl frame)], copyE := [(0, mkEntry ctl frame)] }

/-- A device whose page 0 maps the first frame of granary 0, which is open. -/
def paged (ctl : Word) : State := { withGranary 0 { state := 2, opened := true } with ledger := ledger ctl 0 }

/-- A read from the relay table's control register, as a host sends it. -/
def readReq : List Byte := transHdr 1 0 0 0 4 0x13C00020

/-- A tap of a packet in the queue of those sent. -/
def sent : SentPkt := { seq := 0, bytes := [], at_ := 0, resends := 0 }

/-- An alert that packet `q` carries. -/
def alerted (q : Nat) : Alert := { code := 1, ovf := false, serial := 0, tick := 0, detail := [], seq := some q }

/-- A read of host memory that is out. -/
def devRead : DevRead := { tag := 1, addr := 0, len := 4, at_ := 0, mill := 0, slot := 0, data := none }

/-- A fault report. -/
def rep : Report :=
  { block := 10, unit := 0, cls := .contained, status := 4, tick := 0, addrKind := 4, addr := 0, page := none, covered := false }

/-- A relay request on a return route, from head 1. -/
def relayHdr : List Byte := routeHeader 0 1 0 0 ++ toLe 12 0 ++ toLe 1 1 ++ toLe 1 0 ++ toLe 2 1 ++ toLe 24 0

/-- A one-by-one yoke, a load and a product on it. -/
def yoke1 : Yoke := { shape := .s1, row := 0, col := 0 }
/-- A load of e4m3 codes from offset 0. -/
def ldsA : LdsArgs := { yoke := yoke1, src := { base := 0, rowBits := 32, elemBits := 8 }, fmt := .e4m3, scales := none }
/-- A product of one row. -/
def mmA : MmArgs :=
  { yoke := yoke1, src := { base := 0, rowBits := 32, elemBits := 8 }, afifo := false, scales := none, rows := 1, dst := .loft 0x8000
    acc := false, fmtA := .e4m3, fmtB := .e4m3, readInc := none, writeInc := none }
/-- A product in flight. -/
def flt : YokeFlight :=
  { col := false, args := mmA, issue := 0, waits := 0, entered := 0, tile := {}, groups := [], written := 0, readAmt := 0
    writeAmt := 0, readDone := false, writeDone := false }
/-- A move within the loft. -/
def mvA : MovArgs := { src := .loft 0, dst := .loft 0x8000, len := 256, afifo := false, inc := none }
/-- A slot with a move. -/
def mvSlot : Slot := { work := .move mvA }

/-- The record of a ring or SQ of 16 entries whose body stands at the start of the loft of mill 1. -/
def qRec (more : Nat) : BitVec 192 := BitVec.ofNat 192 (2 ^ 44 + 2 ^ 20 + 4 * 2 ^ 48 + more)
/-- A queue of that record that holds `n` entries. -/
def qHolds (more n : Nat) : Queue := { record := qRec more, written := true, en := true, tail := Count.mk' (BitVec.ofNat 17 n) }
/-- A cart whose buffer stands in the loft of mill 2. -/
def crt : List Byte := mkCart (2 ^ 44 + 2 * 2 ^ 20) 64 64 0 0 0
/-- A ring that holds a cart, and its empty return ring. -/
def ringed (s : State) (more : Nat := 0) : State :=
  { s with qs := { queues := [(8192, qHolds (8194 * 2 ^ 64 + more) 1), (8194, qHolds (8192 * 2 ^ 64) 0)] }
           mem := Memory.writeN s.mem (loftCell 1 0) crt }

/-- A bell marker of tick 5. -/
def marker : List Byte := toLe 8 5 ++ toLe 8 (2 ^ 64 - 6) ++ toLe 1 1 ++ List.replicate 47 0
/-- A port that is up at 64 Gbaud. -/
def upPort : Port := { state := .up, rate := 4 }
/-- A fixed crossing. -/
def xing : Crossing := { typ := 1, src := .arith .w, dst := .arith .e, delay := 5, fixed := true, gslot := none }
/-- The almanac with one booking at position 0, cycle 0. -/
def almB (a : Action) : Almanac := { alm with bookings := [{ tick := 0, cycle := 0, act := a, restore := none }] }
/-- A checkpoint mark at position 0. -/
def mark0 : MarkDef := { num := 0, pos := 0, window := 0, sync := [], posts := [] }
/-- A halt that is due. -/
def haltD : HaltDue :=
  { cause := 1, detail := 0, originTick := 0, originCycle := 0, originNode := 0, originCause := 1, dist := 0, more := false }
/-- A halt notice of group 5 with a complement field. -/
def notice (n : Nat) : List Byte := toLe 2 0 ++ toLe 2 5 ++ toLe 12 0 ++ toLe 8 n ++ List.replicate 40 0
/-- The symbols of a message with its parity. -/
def symsOf (m : List Byte) : List (Option Byte) := (m ++ rsParity m).map some
/-- A booked frame of group 5 that goes on through port 1. -/
def transitMsg : List Byte :=
  [0x80] ++ toLe 1 1 ++ toLe 2 0 ++ toLe 1 1 ++ toLe 2 5 ++ toLe 2 0 ++ toLe 1 1 ++ List.replicate 55 0

/-- A packet header. -/
def pkt (kind dst addr : Nat) (flits : Nat := 0) (pepoch : Nat := 0) : PktHdr :=
  { prio := 1, vc := false, flits := flits, kind := kind, dst := dst, src := 0, pepoch := pepoch, gmask := 0, addr := addr, tag := 7
    age := 0 }
/-- A plain descriptor of one row of 64 bytes. -/
def descB (mode src dst : Nat) : List Byte :=
  let b := toLe 1 mode ++ toLe 7 0 ++ toLe 6 src ++ toLe 6 dst ++ toLe 4 64 ++ toLe 4 1 ++ toLe 2 1 ++ toLe 2 1 ++ List.replicate 28 0
  b ++ toLe 4 (~~~ xorWords5 b).toNat
/-- A descriptor from the loft of mill 1 to that of mill 0. -/
def desc0 (mode : Nat) : List Byte := descB mode (2 ^ 44 + 2 ^ 20) (2 ^ 44)
/-- A slot that streams. -/
def strmSlot (d : List Byte) : Slot := { work := .stream (2 ^ 44), descs := [d], fetched := 1 }
/-- Mill 0 with a slot. -/
def slotted (sl : Slot) (now : Nat := 12) : State := { withMill 0 { slots := [(0, some sl)] } with clock := { now := now } }

/-- A short word with more errors than the code corrects. -/
def bad4 : List (Option Byte) := [some 1, some 2, some 4, some 8, some 16, some 3]


/-- A reading that answers `v` and leaves `s` does so. -/
theorem okEq {ε α : Type} [DecidableEq α] {x : Except ε α × State} {v : α} {s : State}
    (h : (match x with | (.ok a, t) => decide (a = v ∧ t = s) | _ => false) = true) : x = (.ok v, s) := by
  obtain ⟨_ | a, t⟩ := x
  · cases h
  · obtain ⟨rfl, rfl⟩ := of_decide_eq_true h; rfl

/-- A reading that fails with `e` and leaves `s` does so. -/
theorem errEq {ε α : Type} [DecidableEq ε] {x : Except ε α × State} {e : ε} {s : State}
    (h : (match x with | (.error a, t) => decide (a = e ∧ t = s) | _ => false) = true) : x = (.error e, s) := by
  obtain ⟨a | _, t⟩ := x
  · obtain ⟨rfl, rfl⟩ := of_decide_eq_true h; rfl
  · cases h

/-- An answer that is `v` is `v`. -/
theorem okIs {ε α : Type} [DecidableEq α] {x : Except ε α} {v : α}
    (h : (match x with | .ok a => decide (a = v) | _ => false) = true) : x = .ok v := by
  cases x with
  | error _ => cases h
  | ok a => exact congrArg Except.ok (of_decide_eq_true h)

/-- A queue entry with its complement word. -/
def ent (op mill entry : Nat) (args : List Byte := []) : List Byte :=
  let b := padTo 60 (toLe 1 op ++ toLe 3 0 ++ toLe 2 mill ++ toLe 2 0 ++ toLe 8 0 ++ toLe 4 entry ++ args)
  b ++ toLe 4 (~~~ xorWords5 b).toNat
/-- Queue 0 holds one entry that has been read. -/
def served (e : List Byte) (more : Nat := 0) : State :=
  { up with qs := { queues := [(0, { qHolds more 1 with fetched := [e] })] }
            mills := [(0, { configured := true, program := true })] }
/-- A port takes carts from a ring with a route. -/
def carted : State :=
  ringed { withPort 0 upPort with cfg := { fullOk := true }, routes := { paths := [(1, { left := 0, hops := 1, node := 0 })] } }
    (4 * 2 ^ 13 * 2 ^ 112 + 65536 * 2 ^ 128)
/-- A cart transfer at a port. -/
def psend (n : Nat) : PortSend := { ring := 8192, cart := crt, sent := n, booked := false }
/-- A parcel of 64 bytes for a ring. -/
def parcel (q f : Nat) : Parcel :=
  { hdr := List.replicate 24 0 ++ toLe 2 q ++ [0] ++ toLe 1 f ++ toLe 4 0 ++ toLe 2 64 ++ List.replicate 30 0
    data := List.replicate 64 7, since := 0 }
/-- A granule request. -/
def greq (w : Bool) : GrnReq := { addr := 0, src := 0, tag := 0, write := w, mask := 0, data := List.replicate 64 0 }
/-- A granary that is open. -/
def openG : Granary := { state := 2, opened := true }
/-- A completion for queue 4096. -/
def cpl : Completion := { cq := 4096, status := .ok, kind := 0 }
/-- A command's place in queue 0. -/
def cref : CmdRef := { sq := 0, idx := 0, tag := 0, cq := none, mill := 0 }
/-- A withdraw. -/
def wdr : WithdrawRun :=
  { ref := cref, sq := none, mill := none, force := false, deadline := 0, cancelled := 0, aborted := 0, expired := false }
/-- A ledger update of page 0 from an entry. -/
def upd (ctl : Word) : LedgerUpdate := { page := 0, old := mkEntry ctl 0, fresh := mkEntry 0 0, zero := [], term := none }
/-- What a step answers. -/
def after (s : State) : State := match step s with | .next t => t | _ => s

/-- Plot 31's neighbour: plot 0 live. -/
def liveP : State := withPlot 0 { state := .live }
/-- Plot 0 is live and page 0 maps a granary frame, writable. -/
def tapPaged : State := { paged 0x23 with fab := { clkW := 1, plots := [(0, { state := .live })] } }
/-- A ring that tap 0 of die W consumes. -/
def tapRing (x : Plot) : State := ringed (withPlot 0 x) (3 * 2 ^ 13 * 2 ^ 112)
/-- A loader run. -/
def loads (r : LoadRun) : State := withCfg { run := some r }
/-- A chain run. -/
def chains (r : LoadRun) (k : ChainRun) : State := withCfg { run := some r, chain := some k }
/-- The head of a sheaf of 17 bytes. -/
def head17 : List Byte := List.replicate 8 0 ++ toLe 8 17
/-- Lanes 0 to `n` - 1 in frame lock. -/
def locks (n : Nat) : Table PhysLane := (List.range n).map (fun l => (l, ({ align := 3 } : PhysLane)))
/-- A port on the ladder. -/
def ladderP : Port := { state := .ladder }
/-- A ladder message that asks for a rate. -/
def asksRate (n : Nat) : List Byte := [0x10, 1] ++ toLe 1 n ++ List.replicate 61 0
/-- An acknowledgement frame whose byte 8 is `n`. -/
def ackFrame (n : Nat) : List Byte := List.replicate 8 0 ++ toLe 1 n ++ List.replicate 55 0
/-- A sequenced frame sent. -/
def txF : TxFrame := { no := 0, first := true, data := [] }
/-- A frame of the fabric. -/
def frm : FrameRec := { data := [], crc := 0, syn := 0 }
/-- The first frame slot of logical lane 0. -/
def slot0 : FrameSlot := { lane := 0, start := 0 }
/-- The code groups of bytes from a running disparity. -/
def lineOf : Bool → List Byte → List (BitVec 10)
  | _, [] => []
  | rd, b :: t => groupFor rd b :: lineOf (disparity rd (groupFor rd b)) t
/-- The code groups of a data frame's header and bytes. -/
def dataGroups (b : List Byte) : List (BitVec 10) := 0xF9 :: lineOf (disparity false 0xF9) b
/-- The running disparity after a data frame's code groups. -/
def rdAfter (b : List Byte) : Bool := (frameOfGroups false (dataGroups b)).2.2
/-- A message of zeros with its parity. -/
def zeroMsg : List Byte := List.replicate 65 0 ++ rsParity (List.replicate 65 0)
/-- A bell frame of tick 5. -/
def bellF (kind req rep hold : Nat) : List Byte :=
  toLe 8 5 ++ toLe 8 (2 ^ 64 - 6) ++ toLe 1 kind ++ toLe 3 0 ++ toLe 4 req ++ toLe 4 rep ++ toLe 4 hold ++ toLe 32 0
/-- A device with one crossing. -/
def crossing (x : Crossing) : State := { bell := { crossings := [(1, x)] } }
/-- A group that runs an almanac of one booking. -/
def books (a : Action) (st : GroupState := .running) : State := withGroup 2 { state := st, almanac := some (almB a) }
/-- A packet that waits in router 0 of die W for output `out`. -/
def waitsFor (out prio : Nat) : Waiting :=
  { inp := 4, out := out, hdr := ({ pkt 0 0 0 with prio := prio } : PktHdr).bytes, data := [], vc := false, ready := 0, lost := 0 }
/-- A device with packets in router 0 of die W. -/
def routes0 (q : List Waiting) (n : Nat := 0) : State := { up with routers := [(0, { queue := q, counts := [(2, n)] })] }
/-- A bundle of no operation. -/
def noOp : Bundle := { op := .none, moves := [] }
/-- A power request that waits while plot 0 has a stream. -/
def delayed (now : Nat) : State :=
  { pwr := { delay := some 5, domain := 0, target := 3, busy := true }, clock := { now := now, cyc := now }
    fab := { plots := [(0, { streams := [{ tag := 0, bytes := 0 }] })] } }
/-- A booked frame that waits for its slot. -/
def waitsTx : BookedTx := { no := 0, src := .ring 8192, first := true, data := [] }
/-- The same with a ring in tilled use. -/
def cartedT : State :=
  ringed { withPort 0 upPort with cfg := { fullOk := true }, routes := { paths := [(1, { left := 0, hops := 1, node := 0 })] } }
    (2 ^ 59 + 4 * 2 ^ 13 * 2 ^ 112 + 65536 * 2 ^ 128)
/-- The same where a group books the ring's frames. -/
def cartedG : State := { cartedT with groups := [(2, { state := .running, almanac := some (almB (.send 0 slot0 (.ring 8192))) })] }

/-! ## Smoke tests of well-formedness: one ill-formed command for each check -/

theorem test_wf_mill : (Instr.stRet 1152).wf = false := by decide
theorem test_wf_mill_good : (Instr.stRet 1151).wf = true := by decide
theorem test_wf_site : (Instr.granaryReadReturn 12 0).wf = false := by decide
theorem test_wf_lane : (Instr.laneSignalDetect 0 9).wf = false := by decide
theorem test_wf_lane34 : (Instr.trainingDelayWrite 0 34 0 0).wf = false := by decide
theorem test_wf_hash : (Instr.grnHashWrite .hostP 0 12 false 0).wf = false := by decide
theorem test_wf_coord : (Instr.spareColumnSubstitution 0 .w 24).wf = false := by decide
theorem test_wf_dbg : (Instr.engineHalt 5762).wf = false := by decide
theorem test_wf_record_word : (Instr.queueRecordWrite .hostP 0 6 0).wf = false := by decide
theorem test_wf_domain : (Instr.idleWake 94).wf = false := by decide
theorem test_wf_die : (Instr.pwrRstDie (.reg .hostP) 2).wf = false := by decide
theorem test_wf_plot : (Instr.pwrRstPlot (.reg .hostP) 32).wf = false := by decide
theorem test_wf_aligned4 : (Instr.registerWrite .hostP 2 0).wf = false := by decide
theorem test_wf_aligned8 : (Instr.cwPendingWrite .hostP 4 0).wf = false := by decide
theorem test_wf_payload : (Instr.ackReceive 0 []).wf = false := by decide
theorem test_wf_groups : (Instr.frameReceive 0 0 0 []).wf = false ∧ (Instr.bookedFrameReceive 0 slot0 []).wf = false := by decide
theorem test_wf_header : (Instr.readRequestArrive []).wf = false := by decide
theorem test_wf_trans : (Instr.relayRequest []).wf = false := by decide
theorem test_wf_counter : (Instr.tallyClear .hostP true).wf = true ∧ (Instr.tallyLoRead .hostP (.mc 9216)).wf = false := by decide
theorem test_wf_tally_word : (Instr.tallyParityFail (.counter (.mc 9216))).wf = false := by decide
theorem test_wf_record : (Instr.errorRecordClear .hostP (.grn 12)).wf = false := by decide

/-! ## The worked examples of the spec -/

/-- The cart of chapter 08 (after R275): its check byte is 0xBE. -/
theorem test_cart : mkCart 0x100012540000 0x1000 0x1000 2 5 0x10 =
    [0x00, 0x00, 0x54, 0x12, 0x00, 0x10, 0x00, 0x10, 0x00, 0x00, 0x10, 0x00, 0x02, 0x05, 0x10, 0xBE] := by decide
/-- The first words of the descriptor of chapter 08: their XOR is 0x101A0294. -/
theorem test_descriptor_crit : xorWords5 (toLe 4 0x000500C0 ++ toLe 4 0x1004 ++ toLe 4 0x1F0000 ++ toLe 4 4 ++ toLe 4 0x10001254) =
    0x101A0294 := by decide
/-- The X2 crossing of chapter 05: sent in cycle 1,240, released in cycle 2 of the next tick. -/
theorem test_crossing : ({ fab := { clkW := 6 } } : State).releaseAt
    { typ := 2, src := .arith .w, dst := .fabric .w, delay := 8, fixed := true, gslot := none } 1240 = some (2, 1251) := by decide
/-- The granary address of chapter 10: channel 21, pseudo-channel 0, bank 15; 4 MiB higher pseudo-channel 1. -/
theorem test_stack : ({} : Granary).pcOf 0x2C8A3F1C0 = 42 ∧ ({} : Granary).bankOf 0x2C8A3F1C0 = 15 ∧
    ({} : Granary).pcOf 0x2C8E3F1C0 = 43 ∧ ({} : Granary).bankOf 0x2C8E3F1C0 = 15 := by decide
/-- The placement epochs of chapter 06: 41 at 42 is superseded, 42 lands. -/
theorem test_epochs : epochCheck 42 41 = some .superseded ∧ epochCheck 42 42 = none := by decide
/-- The ledger entry of chapter 11: ctl_n, and the frame's site. -/
theorem test_entry : (mkEntry 0x21 0x18091).ctlN = 0xFFFFFFDE ∧ frameSite 0x18091 = 3 ∧ (mkEntry 0x21 0x18091).present = true ∧
    (mkEntry 0x21 0x18091).target = 1 := by decide
/-- Mill E(5, 12) of chapter 00. -/
theorem test_mill : millDie 869 = .e ∧ millRow 869 = 12 ∧ millCol 869 = 5 := by decide
/-- The identity words of chapter 21, on a device whose die E has replaced column 5. -/
theorem test_identity : (({ up with ident := { spareE := some 5 } } : State).regRead .hostP 0xAC8).1 = 0x0D860D84 ∧
    (({ up with ident := { spareE := some 5 } } : State).regRead .hostP 0x10).1 = 0x8500 := by decide
/-- The monitor readings of chapter 20. -/
theorem test_monitor : ∃ t : State, exec (.powerMonitorUpdate 720 300 93 88 91) up = .next t ∧
    (t.regRead .hostP 0x100300).1 = 0x012C02D0 ∧ (t.regRead .hostP 0x100304).1 = 0x5D5B5800 :=
  ⟨_, rfl, by decide +kernel, by decide +kernel⟩
/-- Tile W of chapter 02, with its column scales. -/
def tileW : Tile :=
  { fmt := .e4m3, codes := [(0, 0x38), (1, 0x40), (3, 0xB8), (33, 0x38), (34, 0x44), (35, 0x40), (64, 0x40), (66, 0x38), (67, 0x38),
      (96, 0xB8), (97, 0x38), (99, 0x48)]
    scaled := true, scales := [(0, 127), (2, 128), (4, 127), (6, 126)] }
/-- The operation of that example. -/
def mmW : MmArgs := { mmA with scales := some { base := 0, line := 0, block := 0 } }
/-- The forward pass of chapter 02: y = (4, 6, 2, 2.5). -/
theorem test_yoke_row : (List.range 4).map (fun n => (yokeElem mmW tileW false n ([0x38, 0, 0x40, 0x38], [127]) none).word) =
    [0x40800000, 0x40C00000, 0x40000000, 0x40200000] := by decide +kernel
/-- The backward pass of chapter 02: dx = (-4, 0, 3, 1). -/
theorem test_yoke_col : (List.range 4).map (fun n => (yokeElem mmW tileW true n ([0x38, 0xB8, 0, 0x40], [127]) none).word) =
    [0xC0800000, 0, 0x40400000, 0x3F800000] := by decide +kernel
/-- The reduction of chapter 04, Table 7: the words of its four contributions, and the sum's value. -/
theorem test_reduction : rexpCode 0x3FE00000 = 127 ∧ ralignWord 127 0x3F800000 = (2147483648, 0) ∧
    ralignWord 127 0x33800000 = (128, 0) ∧ ralignWord 127 0xB0200000 = (-1, 0) ∧ rfinWord 127 2147483903 = 0x3F800001 := by
  decide +kernel
/-- A device whose mill 869 has counted on counter 2 (chapter 19). -/
def counted : State := { up with tally := { mc := [(6954, { sel := 0x80000003, count := 13589879808 })] } }
/-- The tally read of chapter 19: LO, then HI from the capture. -/
theorem test_tally : (counted.regRead .hostU 0x411B2D0).1 = 0x2A051C00 ∧
    (((counted.regRead .hostU 0x411B2D0).2).regRead .hostU 0x411B2D4).1 = 3 := by decide +kernel
/-- The doorbells of chapter 09: SQ 12 from 5 to 8, and QS_DB4100 at 33 with both counts from 30. -/
theorem test_doorbell :
    ∃ t u : State, exec (.doorbell .hostP 12 8) (withQueue 12 { qHolds 0 5 with head := Count.mk' 5 }) = .next t ∧
      (t.queue 12).tail = Count.mk' 8 ∧
      exec (.doorbell .hostP 4100 33) (withQueue 4100 { qHolds 0 33 with head := Count.mk' 30 }) = .next u ∧
      (u.queue 4100).head = Count.mk' 33 :=
  ⟨_, _, rfl, by decide +kernel, rfl, by decide +kernel⟩
/-- The host's two words of chapter 18, Table 2: GRN_CAD takes the hot cadence, and the change waits. -/
theorem test_cw : ∃ t u : State, exec (.cwPendingWrite .hostP 0xCF0000 1) up = .next t ∧
    exec (.registerWrite .hostP 0xCF0004 0xFFFFFFFE) t = .next u ∧ u.cadence.next = some true ∧ u.cwPend = [] :=
  ⟨_, _, rfl, rfl, by decide +kernel, by decide +kernel⟩
/-- Word 100 of a block memory in aspect 1K by 36 stands in bits 3,600 to 3,635 (chapter 12). -/
theorem test_block_memory : ∃ t : State,
    exec (.blockMemoryUserPortRead 0 0 false 100)
      { withPlot 0 { state := .live, brams := [(0, { aspect := 1 })] } with
        mem := [(bramCell 0 0 450, 0x21), (bramCell 0 0 454, 0xF3)] } = .next t ∧
      ((t.plot 0).brams.map (fun b => b.2.portA)) = [0x300000021] :=
  ⟨_, rfl, by decide +kernel⟩
/-- The comma code groups of Clause 36 that begin a frame of chapter 14: K28.1, K28.5 and K28.7 at negative running disparity. -/
theorem test_commas : (groupOf false 0b0011111001).header = .data ∧ (groupOf false 0b0011111010).header = .control ∧
    (groupOf false 0b0011111000).header = .bell ∧ groupFor false 0 = 0b1001110100 ∧ groupFor true 0 = 0b0110001011 := by decide

/-! ## Witnesses of the statements: for each clause with hypotheses, a state and operands that meet them -/

/-- Witnesses of StepRunsFrontCommand, clause by clause. -/
theorem wit_StepRunsFrontCommand :
    ∃ (c : Instr) (rest : List Instr) (s : State), s.pending = c :: rest :=
  ⟨.bellTick, [], { pending := [.bellTick] }, by decide⟩

/-- Witnesses of CwValueAndComplementWords, clause by clause. -/
theorem wit_CwValueAndComplementWords :
    (∃ (w : Writer) (off : BitVec 28) (_v : Word) (s : State) (r : CwReg), off.toNat % 8 = 0 ∧ s.cwOf w off.toNat = some r ∧
      s.writeBarred w off.toNat = false ∧ s.cwUpset = [(r.off, true)] ∧ s.pendingOf w off.toNat = none) ∧
    (∃ (w : Writer) (off : BitVec 28) (_v : Word) (s : State) (r : CwReg), off.toNat % 8 = 0 ∧ s.cwOf w off.toNat = some r ∧
      s.writeBarred w off.toNat = false ∧ s.cwUpset = [] ∧ s.pendingOf w off.toNat = none) ∧
    (∃ (w : Writer) (off : BitVec 28) (_v : Word) (s : State) (r : CwReg) (p : _), off.toNat % 8 = 0 ∧ s.cwOf w off.toNat =
      some r ∧ s.writeBarred w off.toNat = false ∧ s.cwUpset = [] ∧ s.pendingOf w off.toNat = some p ∧ s.clock.now < p.at_ +
      hundredUs) ∧
    (∃ (w : Writer) (off : BitVec 28) (_v : Word) (s : State) (r : CwReg) (p : _), off.toNat % 8 = 0 ∧ s.cwOf w off.toNat =
      some r ∧ s.writeBarred w off.toNat = false ∧ s.inTick ∧ s.pendingOf w off.toNat = some p) ∧
    (∃ (w : Writer) (off : BitVec 28) (_v : Word) (s : State) (r : CwReg) (up : BitVec 28), off.toNat % 8 = 0 ∧ s.cwOf w
      off.toNat = some r ∧ s.writeBarred w off.toNat = false ∧ up.toNat = off.toNat + 4 ∧ s.cwUpset = [] ∧ s.pendingOf w
      off.toNat = none ∧ s.cwf.w1.getLsbD 31 = false) ∧
    (∃ (w : Writer) (off : BitVec 28) (v : Word) (s : State) (r : CwReg) (up : BitVec 28) (p : _), off.toNat % 8 = 0 ∧
      s.cwOf w off.toNat = some r ∧ s.writeBarred w off.toNat = false ∧ up.toNat = off.toNat + 4 ∧ s.cwUpset = [] ∧
      s.pendingOf w off.toNat = some p ∧ s.clock.now < p.at_ + hundredUs ∧ v ≠ ~~~p.value ∧ s.cwf.w1.getLsbD 31 = false) :=
  ⟨⟨.hostP, 0x3C00020, 0, { up with cwUpset := [(CwReg.hpRctl.off, true)] }, .hpRctl, by decide⟩,
   ⟨.hostP, 0x3C00020, 0, up, .hpRctl, by decide⟩,
   ⟨.hostP, 0x3C00020, 0, { up with cwPend := [{ off := 0x3C00020, writer := .hostP, value := 7, at_ := 0 }] }, .hpRctl,
     { off := 0x3C00020, writer := .hostP, value := 7, at_ := 0 }, by decide⟩,
   ⟨.hostP, 0x400000, 0, { up with cwPend := [{ off := 0x400000, writer := .hostP, value := 7, at_ := 0 }] }, .doorbell 0,
     { off := 0x400000, writer := .hostP, value := 7, at_ := 0 }, by unfold State.inTick; decide⟩,
   ⟨.hostP, 0x3C00020, 0, up, .hpRctl, 0x3C00024, by decide⟩,
   ⟨.hostP, 0x3C00020, 0, { up with cwPend := [{ off := 0x3C00020, writer := .hostP, value := 7, at_ := 0 }] }, .hpRctl,
     0x3C00024, { off := 0x3C00020, writer := .hostP, value := 7, at_ := 0 }, by decide⟩⟩

/-- Witnesses of RegisterAndErrorRecordWrites, clause by clause. -/
theorem wit_RegisterAndErrorRecordWrites :
    (∃ (s : State) (p : PendingCw), s.cwUpset = [] ∧ s.pendingOf .hostP 0x3C00020 = some p ∧ s.clock.now < p.at_ +
      hundredUs) ∧
    (∃ (s : State) (_n : BitVec 13) (_v : Word), s.quietCycle) ∧
    (∃ (_s : State) (_w : Writer) (off : BitVec 28) (_v : Word), 0x4A00000 ≤ off.toNat) ∧
    (∃ (_s : State) (w : Writer) (off : BitVec 28) (_v : Word), w.reeve = true ∧ managed off.toNat = false) ∧
    (∃ (_w : Writer) (s : State) (r : ErrRecId), Table.get 0 s.w1c (32 * recordOff r + 31) = s.clock.now + 1) ∧
    (∃ (w : Writer) (_s : State) (r : ErrRecId), w.reeve = true ∧ managed (recordOff r) = false) ∧
    (∃ (w : Writer) (s : State), s.quietCycle ∧ s.may w = true ∧ w.reeve = false ∧ s.bootRom = false) ∧
    (∃ (w : Writer) (s : State), s.quietCycle ∧ s.may w = true ∧ w.reeve = false) ∧
    (∃ (w : Writer) (s : State) (k : SiteIx), s.quietCycle ∧ s.may w = true ∧ w.reeve = false ∧ s.bootRom = false ∧
      s.hasGranary k.toNat = true) :=
  ⟨⟨{ up with cwPend := [{ off := 0x3C00020, writer := .hostP, value := 7, at_ := 0 }] },
     { off := 0x3C00020, writer := .hostP, value := 7, at_ := 0 }, by decide⟩,
   ⟨up, 0, 0, by unfold State.quietCycle; decide⟩,
   ⟨State.reset, .hostP, 0x4A00000, 0, by decide⟩,
   ⟨up, .reeveW, 0x3C00020, 0, by decide⟩,
   ⟨.hostP, { up with w1c := [(32 * recordOff .cwf + 31, 1)] }, .cwf, by decide⟩,
   ⟨.reeveW, up, .hp, by decide⟩,
   ⟨.hostP, up, by unfold State.quietCycle; decide⟩,
   ⟨.hostP, up, by unfold State.quietCycle; decide⟩,
   ⟨.hostP, up, 11, by unfold State.quietCycle; decide⟩⟩

/-- Witnesses of TallyAndProbeBuffer, clause by clause. -/
theorem wit_TallyAndProbeBuffer :
    (∃ (w : Writer) (c : TalCtr) (x : Counter) (s : State) (_v : Word), s.counter c = some x ∧ s.mayReg w = true) ∧
    (∃ (w : Writer) (c : TalCtr) (x : Counter) (s : State) (_f : Bool), s.counter c = some x ∧ s.mayReg w = true) ∧
    (∃ (w : Writer) (c : TalCtr) (x : Counter) (s : State), s.counter c = some x ∧ s.mayRead w = true ∧ s.bootRom = false) ∧
    (∃ (_w : Writer) (c : TalCtr) (x : Counter) (s : State), s.counter c = some x ∧ s.tally.freeze = true) ∧
    (∃ (_w : Writer) (c : TalCtr) (x : Counter) (s : State), s.counter c = some x ∧ s.tally.freeze = false) ∧
    (∃ (w : Writer) (v : Word) (s : State), s.mayReg w = true ∧ v.getLsbD 31 = true ∧ s.pb.ctl.getLsbD 31 = false) ∧
    (∃ (s : State), s.pb.runs = true ∧ s.pb.chg = false ∧ s.pb.ring = false ∧ s.fabN s.pb.die ≠ 0 ∧ s.pb.count < 65536 ∧
      s.pb.trig1.getLsbD 31 = false) ∧
    (∃ (s : State), s.pb.runs = true ∧ s.fabN s.pb.die ≠ 0 ∧ s.pb.trig1.getLsbD 31 = true ∧ s.pb.trig = false ∧
      s.clock.tick.truncate 32 = s.pb.trig0 ∧ s.pb.trig1.toNat % 2048 ≤ s.clock.cyc ∧ s.inTick ∧ s.pb.count < 65536) ∧
    (∃ (s : State) (i : BitVec 16) (_w : BitVec 2) (e : List Byte), Table.get [] s.pb.entries i.toNat = e ∧ e.length = 16) :=
  ⟨⟨.hostP, .mc 0, {}, up, 0, by decide⟩,
   ⟨.hostP, .mc 9215, {}, up, true, by decide⟩,
   ⟨.hostP, .dc 127, {}, up, by decide⟩,
   ⟨.hostP, .dc 0, {}, { up with tally := { freeze := true } }, by decide⟩,
   ⟨.hostP, .dc 0, {}, up, by decide⟩,
   ⟨.hostP, 0x80000000, up, by decide⟩,
   ⟨{ up with fab := { clkW := 1 }, pb := { ctl := 0x80000000 } }, by decide⟩,
   ⟨{ up with fab := { clkW := 7 }, pb := { ctl := 0x80000000, trig1 := 0x80000000 } }, by unfold State.inTick; decide⟩,
   ⟨{ up with pb := { entries := [(65535, List.replicate 16 1)] } }, 65535, 3, List.replicate 16 1, by decide⟩⟩

/-- Witnesses of TapLevelOneAndScoreboard, clause by clause. -/
theorem wit_TapLevelOneAndScoreboard :
    (∃ (s : State) (_cells : BitVec 15), 2 ≤ s.level.toNat) ∧
    (∃ (s : State) (_cells : BitVec 15), s.level.toNat < 2) ∧
    (∃ (s : State), s.sec.l1Allow = true ∧ s.level = 0) ∧
    (∃ (s : State), s.sec.l1Allow = false) ∧
    (∃ (w : Writer) (_m : MillIx) (_v : Bool) (_s : State), w.reeve = true) ∧
    (∃ (w : Writer) (m : MillIx) (s : State) (_v : Bool), s.mayHost w = true ∧ s.millLive m.toNat = true ∧ 2 ≤
      s.level.toNat) ∧
    (∃ (w : Writer) (m : MillIx) (s : State) (_v : Bool), s.mayHost w = true ∧ s.millLive m.toNat = true ∧ s.level.toNat <
      2) ∧
    (∃ (w : Writer) (m : MillIx) (s : State), s.mayHost w = true ∧ s.millLive m.toNat = true) :=
  ⟨⟨{ level := 2 }, 0, by decide⟩,
   ⟨{ level := 1 }, 0, by decide⟩,
   ⟨{ sec := { l1Allow := true } }, by decide⟩,
   ⟨State.reset, by decide⟩,
   ⟨.reeveW, 0, true, up, by decide⟩,
   ⟨.hostP, 1151, { up with level := 2 }, true, by decide⟩,
   ⟨.hostP, 0, { up with level := 1 }, true, by decide⟩,
   ⟨.hostP, 0, up, by decide⟩⟩

/-- Witnesses of DebugHaltsAndBreakpoints, clause by clause. -/
theorem wit_DebugHaltsAndBreakpoints :
    (∃ (m : MillIx) (e : Eng) (x : BitVec 13) (s : State), x.toNat = m.toNat * 5 + e.num ∧ 2 ≤ s.level.toNat ∧ s.millLive
      m.toNat = true ∧ s.groupRuns m.toNat = false ∧ s.groupHalted m.toNat = false ∧ (s.mill m.toNat).frozen = false ∧
      (s.mill m.toNat).stopped = none ∧ ((s.mill m.toNat).eng e).stopped = none ∧ ((s.mill m.toNat).eng e).dbg.halt = .none
      ∧ (e ≠ .sv ∨ (s.mill m.toNat).sv.running = none)) ∧
    (∃ (m : MillIx) (e : Eng) (x : BitVec 13) (s : State), x.toNat = m.toNat * 5 + e.num ∧ 2 ≤ s.level.toNat ∧ s.millLive
      m.toNat = true ∧ s.groupRuns m.toNat = false ∧ s.groupHalted m.toNat = false ∧ ((s.mill m.toNat).eng e).dbg.halt =
      .halted) ∧
    (∃ (m : MillIx) (e : Eng) (x : BitVec 13) (k : BitVec 2) (b : Breakpoint) (s : State), x.toNat = m.toNat * 5 + e.num ∧
      s.millLive m.toNat = true ∧ s.groupRuns m.toNat = false ∧ Table.get {} ((s.mill m.toNat).eng e).dbg.bps k.toNat = b ∧
      b.en = true ∧ b.bell = false ∧ ((s.mill m.toNat).eng e).running.isSome = true ∧ ((s.mill m.toNat).eng e).pc = b.val ∧
      e ≠ .sv ∧ (s.mill m.toNat).frozen = false ∧ (s.mill m.toNat).stopped = none ∧ ((s.mill m.toNat).eng e).stopped = none
      ∧ ((s.mill m.toNat).eng e).dbg.halt = .none) ∧
    (∃ (m : MillIx) (e : Eng) (x : BitVec 13) (g : Nat) (s : State), x.toNat = m.toNat * 5 + e.num ∧ 2 ≤ s.level.toNat ∧
      s.millLive m.toNat = true ∧ (s.mill m.toNat).gslot = some g ∧ (s.group g).state = .running ∧ (s.group g).due = none) ∧
    (∃ (d : Die) (s : State), (s.reeve d).dbg.halt = .halted) :=
  ⟨⟨1, .sv, 7, { up with level := 2 }, by decide⟩,
   ⟨0, .st, 0, { withMill 0 { st := { dbg := { halt := .halted } } } with level := 2 }, by decide⟩,
   ⟨0, .cb, 4, 3, { val := 8, en := true },
     withMill 0 { cb := { pc := 8, running := some { entry := 0, args := [] }, dbg := { bps := [(3, { val := 8, en := true })] } } },
     by decide⟩,
   ⟨0, .st, 0, 2, { withMill 0 { gslot := some 2 } with level := 3, groups := [(2, { state := .running })] }, by decide⟩,
   ⟨.e, { reeveE := { dbg := { halt := .halted } } }, by decide⟩⟩

/-- Witnesses of DebugAccesses, clause by clause. -/
theorem wit_DebugAccesses :
    (∃ (_space : BitVec 4) (_addr : BitVec 40) (_data : Word) (op : BitVec 4) (s : State), s.dbg.run = none ∧ 3 ≤ op.toNat) ∧
    (∃ (addr : BitVec 40) (_data : Word) (s : State), s.dbg.run = none ∧ s.level = 0 ∧ addr.toNat % 2 ^ 28 = 0x3C00020) ∧
    (∃ (addr : BitVec 40) (_data : Word) (s : State), s.cwUpset = [] ∧ s.dbg.run = none ∧ s.level ≠ 0 ∧ addr.toNat % 2 ^ 28
      = 0x3C00020) ∧
    (∃ (_op _space : BitVec 4) (_addr : BitVec 40) (_data : Word) (s : State), s.dbg.run.isSome = true) ∧
    (∃ (r : DbgRun) (s : State), s.dbg.run = some r) :=
  ⟨⟨0, 0, 0, 3, State.reset, by decide⟩,
   ⟨0x3C00020, 0, State.reset, by decide⟩,
   ⟨0xF3C00020, 0, { level := 1 }, by decide⟩,
   ⟨1, 0, 0, 0, { dbg := { run := some { op := 1, space := 0, addr := 0, data := 0, at_ := 0 } } }, by decide⟩,
   ⟨{ op := 1, space := 2, addr := 0, data := 0, at_ := 0 },
     { dbg := { run := some { op := 1, space := 2, addr := 0, data := 0, at_ := 0 } } }, by decide⟩⟩

/-- Witnesses of SecurityMailboxAndChallenge, clause by clause. -/
theorem wit_SecurityMailboxAndChallenge :
    (∃ (w : Writer) (s : State), w.priv = true ∧ s.sec.cmd = none) ∧
    (∃ (w : Writer) (s : State) (_i : BitVec 10) (_v : Word), w.priv = true ∧ s.sec.cmd = none) ∧
    (∃ (w : Writer) (s : State) (_i : BitVec 10) (_v : Word), w.priv = true ∧ s.sec.cmd.isSome = true) :=
  ⟨⟨.reeveE, State.reset, by decide⟩,
   ⟨.hostP, State.reset, 1023, 1, by decide⟩,
   ⟨.hostP, { sec := { cmd := some (2, 0) } }, 0, 1, by decide⟩⟩

/-- Witnesses of ClaimProgramsSlotZero, clause by clause. -/
theorem wit_ClaimProgramsSlotZero :
    (∃ (w : Writer) (s : State), w.priv = true ∧ s.sec.cmd = none ∧ s.sec.slots = [] ∧ allZero (s.sec.bytes 0 32) = false) ∧
    (∃ (w : Writer) (s : State), w.priv = true ∧ s.sec.cmd = none ∧ s.sec.slots = [] ∧ allZero (s.sec.bytes 0 32) = true) ∧
    (∃ (w : Writer) (s : State), w.priv = true ∧ s.sec.cmd = none ∧ s.sec.slots ≠ []) :=
  ⟨⟨.hostP, { sec := { mbx := [(31, 1)] } }, by decide⟩,
   ⟨.hostP, State.reset, by decide⟩,
   ⟨.hostP, { sec := { slots := [{ hash := [] }] } }, by decide⟩⟩

/-- Witnesses of SignedRequests, clause by clause. -/
theorem wit_SignedRequests :
    ∃ (w : Writer) (s : State) (q : State) (k : Nat) (st : Status) (n : Nat) (c : Instr), w.priv = true ∧ s.sec.cmd = none ∧
      q =
      { s.cwHold 0x200000 0 with sec := { s.sec with cmd := some (2, 0), done := false, op := 2, used := s.sec.nonce, nonce := none } }
      ∧ s.sec.asks k = true ∧ q.requestFails (s.sec.bytes 0 3860) = some (st, n) ∧ (k, c) ∈ [(1, Instr.signedDebugLevel2 w),
      (2, .signedDebugLevel3 w), (3, .signedProgramSlot w), (4, .signedRevokeSlot w), (5, .signedRevokeFrarelKey0 w)] :=
  ⟨.hostP, {}, { sec := { cmd := some (2, 0), op := 2 } }, 1, .mismatch, 1, .signedDebugLevel2 .hostP, by decide +kernel⟩

/-- Witnesses of LevelsAndAttestation, clause by clause. -/
theorem wit_LevelsAndAttestation :
    (∃ (w : Writer) (s : State) (l : BitVec 2), w.priv = true ∧ s.sec.cmd = none ∧ l.toNat < s.level.toNat) ∧
    (∃ (w : Writer) (s : State), w.priv = true ∧ s.sec.cmd = none ∧ s.may w = true) ∧
    (∃ (w : Writer) (s : State), w.priv = true ∧ s.sec.cmd = none ∧ s.sec.killed = false) ∧
    (∃ (w : Writer) (s : State), w.priv = true ∧ s.sec.cmd = none ∧ s.sec.killed = true) :=
  ⟨⟨.hostP, { level := 3 }, 2, by decide⟩,
   ⟨.hostP, State.reset, by decide⟩,
   ⟨.hostP, State.reset, by decide⟩,
   ⟨.debug, { sec := { killed := true } }, by decide⟩⟩

/-- Witnesses of ManagementMemoryErrors, clause by clause. -/
theorem wit_ManagementMemoryErrors :
    ∃ (r : LoadRun) (s : State), s.cfg.run = some r ∧ r.keys.isSome = true :=
  ⟨{ src := 1, keys := some [] }, withCfg { run := some { src := 1, keys := some [] } }, by decide⟩

/-- Witnesses of BootMessages, clause by clause. -/
theorem wit_BootMessages :
    (∃ (d : Die) (_tag : BitVec 16) (s : State) (_total : BitVec 64), (s.reeve d).state = .boot ∧ (s.reeve d).verify = none
      ∧ (s.reeve d).testing = false) ∧
    (∃ (d : Die) (_tag : BitVec 16) (s : State) (u : ImageUp) (seq : Word) (off : BitVec 64) (data : List Byte), (s.reeve
      d).state = .boot ∧ (s.reeve d).verify = none ∧ (s.reeve d).testing = false ∧ (s.reeve d).up = some u ∧ seq.toNat =
      u.seq + 1 ∧ off.toNat = u.got ∧ 0 < data.length ∧ u.got + data.length ≤ u.total) ∧
    (∃ (d : Die) (_tag : BitVec 16) (s : State) (u : ImageUp) (seq : Word) (off : BitVec 64) (_data : List Byte), (s.reeve
      d).state = .boot ∧ (s.reeve d).verify = none ∧ (s.reeve d).testing = false ∧ (s.reeve d).up = some u ∧ (seq.toNat ≠
      u.seq + 1 ∨ off.toNat ≠ u.got)) ∧
    (∃ (d : Die) (_tag : BitVec 16) (s : State) (u : ImageUp) (seq : Word), (s.reeve d).state = .boot ∧ (s.reeve d).verify =
      none ∧ (s.reeve d).testing = false ∧ (s.reeve d).up = some u ∧ seq.toNat = u.seq + 1 ∧ u.got = u.total) :=
  ⟨⟨.e, 0, State.reset, 0, by decide⟩,
   ⟨.w, 0, { reeveW := { up := some { total := 4, got := 2, seq := 0 } } }, { total := 4, got := 2, seq := 0 }, 1, 2,
     [7, 8], by decide⟩,
   ⟨.w, 0, { reeveW := { up := some { total := 4, got := 2, seq := 0 } } }, { total := 4, got := 2, seq := 0 }, 1, 3, [],
     by decide⟩,
   ⟨.w, 0, { reeveW := { up := some { total := 4, got := 4, seq := 1 } } }, { total := 4, got := 4, seq := 1 }, 2,
     by decide⟩⟩

/-- Witnesses of ImageAndSelfTest, clause by clause. -/
theorem wit_ImageAndSelfTest :
    (∃ (d : Die) (s : State), (s.reeve d).testing = true) ∧
    (∃ (d : Die) (s : State), (s.reeve d).testing = true ∧ s.leaseNow = true) ∧
    (∃ (d : Die) (s : State), (s.reeve d).testing = true ∧ s.leaseNow = false ∧ (s.reeve (otherDie d)).state = .boot) :=
  ⟨⟨.w, { reeveW := { testing := true } }, by decide⟩,
   ⟨.w, { reeveW := { testing := true }, bw := { lead := some .e, lease := some 0 } }, by decide⟩,
   ⟨.w, { reeveW := { testing := true } }, by decide⟩⟩

/-- Witnesses of SwapAndTerm, clause by clause. -/
theorem wit_SwapAndTerm :
    (∃ (d : Die) (expected : Word) (s : State), (s.reeve d).acts = true ∧ ((s.reeve d).state = .follower ∨ (s.reeve d).state
      = .leader) ∧ expected = s.bw.term ∧ (s.bw.lead = some d ∨ s.leaseNow = false)) ∧
    (∃ (d : Die) (expected : Word) (s : State), (s.reeve d).acts = true ∧ ((s.reeve d).state = .follower ∨ (s.reeve d).state
      = .leader) ∧ (expected ≠ s.bw.term ∨ (s.bw.lead ≠ some d ∧ s.leaseNow = true))) :=
  ⟨⟨.w, 0, up, by decide⟩,
   ⟨.w, 1, up, by decide⟩⟩

/-- Witnesses of LeaseRules, clause by clause. -/
theorem wit_LeaseRules :
    (∃ (d : Die) (s : State), s.inTick ∧ (s.reeve d).state = .leader ∧ (s.reeve d).acts = true ∧ (s.reeve d).term =
      s.bw.term ∧ s.bw.lead = some d) ∧
    (∃ (d : Die) (s : State), s.inTick ∧ (s.reeve d).state = .leader ∧ (s.reeve d).acts = true ∧ (s.reeve d).term ≠
      s.bw.term) ∧
    (∃ (_d : Die) (s : State) (l : _), s.inTick ∧ s.bw.lease = some l) ∧
    (∃ (d : Die) (s : State), s.inTick ∧ (s.reeve d).state = .leader ∧ (s.reeve d).acts = true) ∧
    (∃ (d : Die) (s : State), s.inTick ∧ (s.reeve d).state = .hold ∧ (s.reeve d).acts = true ∧ (s.reeve d).term = s.bw.term
      ∧ s.bw.lead = some d) ∧
    (∃ (d : Die) (s : State), s.inTick ∧ (s.reeve d).state = .hold ∧ (s.reeve d).acts = true ∧ ¬((s.reeve d).term =
      s.bw.term ∧ s.bw.lead = some d)) :=
  ⟨⟨.w, { reeveW := { state := .leader }, bw := { lead := some .w } }, by unfold State.inTick; decide⟩,
   ⟨.e, { reeveE := { state := .leader }, bw := { term := 1 } }, by unfold State.inTick; decide⟩,
   ⟨.w, { bw := { lease := some 0 } }, 0, by unfold State.inTick; decide⟩,
   ⟨.e, { reeveE := { state := .leader } }, by unfold State.inTick; decide⟩,
   ⟨.w, { reeveW := { state := .hold }, bw := { lead := some .w } }, by unfold State.inTick; decide⟩,
   ⟨.w, { reeveW := { state := .hold }, bw := { lead := some .e } }, by unfold State.inTick; decide⟩⟩

/-- Witnesses of HeartbeatsAndLoss, clause by clause. -/
theorem wit_HeartbeatsAndLoss :
    (∃ (d : Die) (s : State), s.inTick ∧ (s.reeve d).acts = true) ∧
    (∃ (d : Die) (s : State), s.inTick ∧ (s.reeve d).acts = true ∧ (s.reeve d).peerLost = false) ∧
    (∃ (d : Die) (s : State), s.inTick ∧ (s.reeve d).acts = true ∧ (s.reeve d).state = .follower ∧ (s.reeve d).peerLost =
      true ∧ s.bw.lead = some (otherDie d) ∧ s.bw.lease = none) ∧
    (∃ (d : Die) (s : State), s.inTick ∧ (s.reeve d).acts = true ∧ (s.reeve d).state = .follower ∧ (s.reeve d).peerLost =
      true ∧ s.bw.lead = some (otherDie d)) ∧
    (∃ (_d : Die) (s : State) (l : _), s.inTick ∧ s.bw.alive = some l) :=
  ⟨⟨.w, up, by unfold State.inTick; decide⟩,
   ⟨.w, up, by unfold State.inTick; decide⟩,
   ⟨.w, { reeveW := { state := .follower, peerLost := true }, bw := { lead := some .e } }, by unfold State.inTick; decide⟩,
   ⟨.w, { reeveW := { state := .follower, peerLost := true }, bw := { lead := some .e, lease := some 0 } },
     by unfold State.inTick; decide⟩,
   ⟨.w, { bw := { alive := some 0 } }, 0, by unfold State.inTick; decide⟩⟩

/-- Witnesses of ReeveRestartAndYield, clause by clause. -/
theorem wit_ReeveRestartAndYield :
    (∃ (w : Writer) (v : Word) (s : State), s.may w = true ∧ v.getLsbD 0 = true ∧ v.getLsbD 1 = false) ∧
    (∃ (w : Writer) (v : Word) (s : State), s.may w = true ∧ v.getLsbD 0 = false ∧ v.getLsbD 1 = true) ∧
    (∃ (w : Writer) (v : Word) (s : State), s.may w = true ∧ v.getLsbD 0 = true ∧ v.getLsbD 1 = true) ∧
    (∃ (w : Writer) (_v : Word) (s : State) (d : Die), s.may w = true ∧ (s.reeve d).state = .leader ∧ (s.reeve (otherDie
      d)).state = .follower ∧ s.ledger.reeve = none) :=
  ⟨⟨.hostP, 1, State.reset, by decide⟩,
   ⟨.hostP, 2, State.reset, by decide⟩,
   ⟨.hostP, 3, State.reset, by decide⟩,
   ⟨.hostP, 3, { reeveW := { state := .leader }, reeveE := { state := .follower } }, .w, by decide⟩⟩

/-- Witnesses of PowerRequests, clause by clause. -/
theorem wit_PowerRequests :
    (∃ (w : Writer) (_v : Word) (s : State), s.may w = true ∧ s.pwr.busy = true) ∧
    (∃ (w : Writer) (v : Word) (s : State), s.may w = true ∧ s.pwr.busy = false ∧ v.toNat % 128 < 94 ∧ s.domFitted (v.toNat
      % 128) = false) ∧
    (∃ (w : Writer) (v : Word) (s : State), s.may w = true ∧ s.pwr.busy = false ∧ v.toNat % 128 < 32 ∧ (v.toNat / 256) % 4 =
      1 ∧ s.domState (v.toNat % 128) = 0 ∧ s.domGroup (v.toNat % 128) = none ∧ s.loadNamesPlot (v.toNat % 128) = false ∧
      (s.plot (v.toNat % 128)).carts = [] ∧ (s.plot (v.toNat % 128)).streams = []) ∧
    (∃ (w : Writer) (v : Word) (s : State), s.may w = true ∧ s.pwr.busy = false ∧ v.toNat % 128 < 32 ∧ (v.toNat / 256) % 4 =
      0 ∧ s.domState (v.toNat % 128) = 1 ∧ s.domGroup (v.toNat % 128) = none) ∧
    (∃ (w : Writer) (_v : Word) (s : State) (term : Word), s.may w = true ∧ term ≠ s.bw.term) :=
  ⟨⟨.hostP, 0, { pwr := { busy := true } }, by decide⟩,
   ⟨.hostP, 32, { ident := { rowsW := [] } }, by decide⟩,
   ⟨.hostP, 0x11F, State.reset, by decide⟩,
   ⟨.hostP, 0, { pwr := { dom := [(0, 1)] } }, by decide⟩,
   ⟨.hostP, 0, State.reset, 1, by decide⟩⟩

/-- Witnesses of PowerDelayAndReturn, clause by clause. -/
theorem wit_PowerDelayAndReturn :
    (∃ (d : Nat) (s : State), s.pwr.delay = some d ∧ s.clock.now < d ∧ s.inTick ∧ (s.domAnswer s.pwr.domain s.pwr.target).1
      ≠ .accept ∧ ((s.advanceTo d).domAnswer s.pwr.domain s.pwr.target).1 ≠ .accept ∧ s.pwr.force = false) ∧
    (∃ (d : Nat) (s : State), s.pwr.delay = some d ∧ d ≤ s.clock.now ∧ (s.domAnswer s.pwr.domain s.pwr.target).1 ≠ .accept ∧
      s.pwr.force = false) ∧
    (∃ (i : BitVec 7) (s : State), s.domState i.toNat = 1) ∧
    (∃ (s : State), s.pwr.busy = true ∧ s.pwr.result = 4 ∧ s.domGroup s.pwr.domain = none ∧ s.domState s.pwr.domain =
      s.pwr.target) ∧
    (∃ (s : State), s.pwr.step ≠ 0 ∧ s.inTick ∧ s.pwr.step < 4) ∧
    (∃ (s : State), s.pwr.step ≠ 0 ∧ s.inTick ∧ s.pwr.step = 4 ∧ 80 ≤ s.pwr.domain ∧ s.pwr.domain < 92 ∧ s.hasGranary
      (s.pwr.domain - 80) = true ∧ s.domState s.pwr.domain = 2 ∧ s.pwr.target = 0) ∧
    (∃ (s : State), s.pwr.step ≠ 0 ∧ s.inTick) :=
  ⟨⟨5, delayed 0, by unfold State.inTick; decide⟩,
   ⟨5, delayed 6, by decide⟩,
   ⟨93, { pwr := { dom := [(93, 1)] } }, by decide⟩,
   ⟨{ pwr := { busy := true, result := 4, domain := 31 } }, by decide⟩,
   ⟨{ pwr := { step := 3 } }, by unfold State.inTick; decide⟩,
   ⟨{ pwr := { step := 4, domain := 91, target := 0, dom := [(91, 2)] } }, by unfold State.inTick; decide⟩,
   ⟨{ pwr := { step := 1 } }, by unfold State.inTick; decide⟩⟩

/-- Witnesses of WarmResetKeepsAndClears, clause by clause. -/
theorem wit_WarmResetKeepsAndClears :
    ∃ (s : State) (w : Writer) (c : Instr), s.board.held = false ∧ s.may w = true ∧ (c = .warmReset ∨ c = .pwrRstWarm (.reg
      w) ∨ c = .pwrRstWarm (.reeve s.bw.term)) :=
  ⟨State.reset, .hostP, .pwrRstWarm (.reeve 0), by decide⟩

/-- Witnesses of NarrowResets, clause by clause. -/
theorem wit_NarrowResets :
    (∃ (w : Writer) (s : State) (m : BitVec 11), s.may w = true ∧ s.rst.warm = false ∧ s.rstAbsent
      { scope := 4, target := m.toNat, slot := 0 } = false ∧ s.rstRefused { scope := 4, target := m.toNat, slot := 0 } =
      false) ∧
    (∃ (w : Writer) (s : State) (p : BitVec 11), s.may w = true ∧ s.rst.warm = false ∧ p.toNat < 32 ∧ s.rstRefused
      { scope := 3, target := p.toNat, slot := 0 } = false) ∧
    (∃ (w : Writer) (s : State) (m : BitVec 11) (k : BitVec 3), s.may w = true ∧ s.rst.warm = false ∧ s.rstAbsent
      { scope := 5, target := m.toNat, slot := k.toNat } = false ∧ s.rstRefused
      { scope := 5, target := m.toNat, slot := k.toNat } = false) ∧
    (∃ (w : Writer) (s : State) (d : BitVec 11), s.may w = true ∧ s.rst.warm = false ∧ d.toNat < 2 ∧ s.rstRefused
      { scope := 2, target := d.toNat, slot := 0 } = false) ∧
    (∃ (w : Writer) (s : State) (m : BitVec 11), s.may w = true ∧ s.rst.warm = false ∧ s.rstAbsent
      { scope := 4, target := m.toNat, slot := 0 } = true) ∧
    (∃ (w : Writer) (s : State) (p : BitVec 11), s.may w = true ∧ s.rst.warm = false ∧ p.toNat < 32 ∧ s.plotHeld p.toNat =
      true) ∧
    (∃ (w : Writer) (s : State) (_m : BitVec 11), s.may w = true ∧ s.rst.warm = true) ∧
    (∃ (w : Writer) (s : State), s.may w = true) ∧
    (∃ (w : Writer) (s : State) (r : RstReq) (rest : List RstReq), s.may w = true ∧ s.rst.warm = false ∧ s.rst.waiting = r
      :: rest ∧ r.scope ≠ 1 ∧ s.rstAbsent r = true) ∧
    (∃ (w : Writer) (s : State) (r : RstReq) (rest : List RstReq), s.may w = true ∧ s.rst.warm = false ∧ s.rst.waiting = r
      :: rest ∧ r.scope = 4 ∧ s.rstAbsent r = false ∧ s.rstRefused r = false) :=
  ⟨⟨.hostP, State.reset, 1151, by decide⟩,
   ⟨.hostP, State.reset, 31, by decide⟩,
   ⟨.hostP, State.reset, 1151, 7, by decide⟩,
   ⟨.hostP, State.reset, 1, by decide⟩,
   ⟨.hostP, State.reset, 1152, by decide⟩,
   ⟨.hostP, withGroup 0 { state := .halted, almanac := some alm }, 31, by decide⟩,
   ⟨.hostP, { rst := { warm := true } }, 0, by decide⟩,
   ⟨.hostP, State.reset, by decide⟩,
   ⟨.hostP, { rst := { waiting := [{ scope := 4, target := 1152, slot := 0 }] } },
     { scope := 4, target := 1152, slot := 0 }, [], by decide⟩,
   ⟨.hostP, { rst := { waiting := [{ scope := 4, target := 0, slot := 0 }] } }, { scope := 4, target := 0, slot := 0 }, [],
     by decide⟩⟩

/-- Witnesses of ColdResetAndRelease, clause by clause. -/
theorem wit_ColdResetAndRelease :
    (∃ (s : State), s.board.powered = true) ∧
    (∃ (s : State) (tj : Byte), s.board.held = true ∧ s.board.powered = true ∧ s.board.low = true ∧ (s.board.trip = false ∨
      tj.toNat ≤ 100)) ∧
    (∃ (s : State) (tj : Byte), s.board.trip = true ∧ 100 < tj.toNat) :=
  ⟨⟨State.reset, by decide⟩,
   ⟨{ board := { held := true, trip := true } }, 100, by decide⟩,
   ⟨{ board := { trip := true } }, 101, by decide⟩⟩

/-- Witnesses of BoardPowerAndMonitor, clause by clause. -/
theorem wit_BoardPowerAndMonitor :
    (∃ (s : State), s.board.powered = false) ∧
    (∃ (s : State), s.board.powered = true) ∧
    (∃ (s : State), s.board.hot = true) ∧
    (∃ (s : State), s.board.hot = false ∧ s.hp.alerts.length < 64 ∧ s.hp.state ≠ .up ∧ s.hp.home = none) ∧
    (∃ (s : State) (_vin _iin : BitVec 10) (_tjMax _tjW _tjE : Byte), s.inTick ∧ s.board.held = false) :=
  ⟨⟨{ board := { powered := false } }, by decide⟩,
   ⟨State.reset, by decide⟩,
   ⟨{ board := { hot := true } }, by decide⟩,
   ⟨State.reset, by decide⟩,
   ⟨State.reset, 0, 0, 0, 0, 0, by unfold State.inTick; decide⟩⟩

/-- Witnesses of SpareColumnSubstitution, clause by clause. -/
theorem wit_SpareColumnSubstitution :
    (∃ (d : Die) (x : BitVec 5) (l : Die) (s : State), s.bw.lead = some l ∧ s.canSubstitute d x.toNat = true) ∧
    (∃ (_d : Die) (_x : BitVec 5) (_l : Die) (s : State) (term : Word), term ≠ s.bw.term) :=
  ⟨⟨.w, 0, .w, { bw := { lead := some .w }, mills := [(0, { oos := true })], clock := { tick := 64 } }, by decide +kernel⟩,
   ⟨.w, 0, .w, State.reset, 1, by decide⟩⟩

/-- Witnesses of LinkLayer, clause by clause. -/
theorem wit_LinkLayer :
    (∃ (b : List Byte) (s : State), s.hp.state = .up ∧ s.hp.packetOk b = false) ∧
    (∃ (_b : List Byte) (s : State), s.hp.state = .up) ∧
    (∃ (b : List Byte) (s : State), s.hp.state = .up ∧ s.hp.packetOk b = true ∧ s.hp.held.get ((transOf ((b.drop 4).take
      (leAt b 2 2))).pool) = some 0) ∧
    (∃ (b : List Byte) (s : State) (n : Nat) (seq : List Byte), s.hp.state = .up ∧ s.hp.packetOk b = true ∧ (b.drop 4).take
      (leAt b 2 2) = seq ∧ (transOf seq).kind = 1 ∧ (transOf seq).flags = 0 ∧ (transOf seq).ok = true ∧ (transOf seq).len =
      4 ∧ (transOf seq).addr = 0x13C00020 ∧ s.hp.held.n = n + 1) ∧
    (∃ (s : State) (rate : BitVec 3) (p : List Byte), s.hp.state ≠ .up ∧ rate.toNat ≤ s.hp.maxRate.toNat ∧ leAt p 0 1 = 0x40
      ∧ s.hp.waitSend = [] ∧ s.hp.alerts = []) ∧
    (∃ (s : State) (p : List Byte), s.hp.state = .up ∧ leAt p 0 1 = 0x41 ∧ leAt p 1 1 = 0 ∧ s.hp.waitSend = [] ∧ (∀ a ∈
      s.hp.alerts, a.seq.isSome = true)) ∧
    (∃ (s : State), s.hp.state = .up ∧ (32 ≤ s.hp.unacked ∨ s.hp.nak = true)) ∧
    (∃ (s : State) (p : SentPkt) (rest : List SentPkt), s.hp.state = .up ∧ s.hp.sent = p :: rest ∧ (∀ q ∈ s.hp.sent,
      q.resends < 8) ∧ p.at_ + 5200 ≤ s.clock.now) ∧
    (∃ (s : State) (p : SentPkt) (rest : List SentPkt), s.hp.state = .up ∧ s.hp.sent = p :: rest ∧ 8 ≤ p.resends ∧ p.at_ +
      5200 ≤ s.clock.now) ∧
    (∃ (_s : State) (w : Writer) (_v : Word), w.reeve = true) ∧
    (∃ (s : State) (w : Writer) (v : Word), s.may w = true ∧ w.reeve = false ∧ v.getLsbD 0 = true ∧ (v.toNat / 32) % 8 < 5 ∧
      s.hp.outReads = []) :=
  ⟨⟨[], withHost link, by decide⟩,
   ⟨[], withHost link, by decide⟩,
   ⟨linkPacket 0 readReq, withHost { link with held := { n := 0 } }, by decide +kernel⟩,
   ⟨linkPacket 0 readReq, withHost { link with held := { n := 1 } }, 0, readReq, by decide +kernel⟩,
   ⟨State.reset, 4, [0x40], by decide⟩,
   ⟨withHost { link with alerts := [alerted 0] }, [0x41], by decide⟩,
   ⟨withHost { link with unacked := 32 }, by decide⟩,
   ⟨{ withHost { link with sent := [sent] } with clock := { now := 5200 } }, sent, [], by decide⟩,
   ⟨{ withHost { link with sent := [{ sent with resends := 8 }] } with clock := { now := 5200 } },
     { sent with resends := 8 }, [], by decide⟩,
   ⟨up, .reeveW, 0, by decide⟩,
   ⟨State.reset, .hostP, 0x81, by decide⟩⟩

/-- Witnesses of WindowAccessesAndFlush, clause by clause. -/
theorem wit_WindowAccessesAndFlush :
    (∃ (s : State) (va : BitVec 40) (e : LedgerEntry) (_tag : BitVec 16) (len : BitVec 16) (a : Nat), s.ledger.updating
      (va.toNat / 2 ^ 21) = false ∧ s.ledger.caches = [] ∧ Table.get {} s.ledger.copyW (va.toNat / 2 ^ 21) = e ∧ e.ok = true
      ∧ e.present = true ∧ e.sealed = false ∧ s.entryPlace e va.toNat = .cell a ∧ 0 < len.toNat ∧ va.toNat % 4096 +
      len.toNat ≤ 4096 ∧ s.hp.posted = [] ∧ s.badIn a len.toNat = false ∧ s.soft = []) ∧
    (∃ (s : State) (va : BitVec 40) (e : LedgerEntry) (_tag : BitVec 16) (len : BitVec 16), s.ledger.updating (va.toNat / 2
      ^ 21) = false ∧ s.ledger.caches = [] ∧ Table.get {} s.ledger.copyW (va.toNat / 2 ^ 21) = e ∧ e.ok = true ∧ e.sealed =
      true ∧ 0 < len.toNat ∧ va.toNat % 4096 + len.toNat ≤ 4096 ∧ s.hp.posted = []) ∧
    (∃ (s : State) (va : BitVec 40) (e : LedgerEntry) (data : List Byte) (a : Nat), s.ledger.updating (va.toNat / 2 ^ 21) =
      false ∧ s.ledger.caches = [] ∧ Table.get {} s.ledger.copyW (va.toNat / 2 ^ 21) = e ∧ e.ok = true ∧ e.present = true ∧
      e.writable = true ∧ e.sealed = false ∧ s.entryPlace e va.toNat = .cell a ∧ 0 < data.length ∧ va.toNat % 4096 +
      data.length ≤ 4096 ∧ s.hp.posted = [] ∧ s.narrowBad a data.length = false) ∧
    (∃ (s : State) (va : BitVec 40) (e : LedgerEntry) (_tag : BitVec 16) (len : BitVec 16), s.ledger.updating (va.toNat / 2
      ^ 21) = false ∧ s.ledger.caches = [] ∧ Table.get {} s.ledger.copyW (va.toNat / 2 ^ 21) = e ∧ e.ok = true ∧ (len.toNat
      = 0 ∨ 4096 < len.toNat)) ∧
    (∃ (s : State) (va : BitVec 40) (e : LedgerEntry) (tag : BitVec 16) (r : HostRead), s.ledger.updating (va.toNat / 2 ^
      21) = false ∧ s.ledger.caches = [] ∧ Table.get {} s.ledger.copyW (va.toNat / 2 ^ 21) = e ∧ e.ok = true ∧
      s.hp.reads.find? (fun q => decide (q.tag = tag.toNat)) = some r ∧ s.inTick ∧ s.clock.now ≤ r.at_ + 9100) ∧
    (∃ (_tag : BitVec 16) (s : State), s.hp.state = .up ∧ s.hp.waitSend = [] ∧ s.hp.sent.length < 1024 ∧ (s.hp.sent.map (fun
      p => p.bytes.length)).foldl (· + ·) 0 ≤ 2 ^ 19 ∧ (∀ a ∈ s.hp.alerts, a.seq.isSome = true)) :=
  ⟨⟨paged 0x21, 4095, mkEntry 0x21 0, 0, 1, stackCell 4095, by decide⟩,
   ⟨paged 0x25, 0, mkEntry 0x25 0, 0, 4096, by decide⟩,
   ⟨paged 0x23, 4095, mkEntry 0x23 0, [7], stackCell 4095, by decide⟩,
   ⟨paged 0x21, 0, mkEntry 0x21 0, 0, 4097, by decide⟩,
   ⟨{ paged 0x21 with hp := { reads := [{ tag := 3, va := 0, len := 4, at_ := 0, via := none }] }, clock := { now := 9100 } },
     0, mkEntry 0x21 0, 3, { tag := 3, va := 0, len := 4, at_ := 0, via := none }, by unfold State.inTick; decide⟩,
   ⟨0, withHost link, by decide⟩⟩

/-- Witnesses of DeviceReadsAndMessages, clause by clause. -/
theorem wit_DeviceReadsAndMessages :
    (∃ (r : DevRead) (s : State) (st : Byte) (_data : List Byte), s.hp.outReads.find? (fun q => decide (q.tag = r.tag %
      65536)) = some r ∧ r.tag < 65536 ∧ st ≠ 0) ∧
    (∃ (r : DevRead) (s : State) (data : List Byte), s.hp.outReads.find? (fun q => decide (q.tag = r.tag % 65536)) = some r
      ∧ r.tag < 65536 ∧ data.length = r.len ∧ s.runningSlot r.mill r.slot = none) ∧
    (∃ (r : DevRead) (s : State) (rest : _), s.hp.outReads = r :: rest ∧ s.inTick ∧ s.clock.now ≤ r.at_ + 10400) ∧
    (∃ (r : DevRead) (s : State) (rest : _), s.hp.outReads = r :: rest ∧ r.at_ + 10400 ≤ s.clock.now) ∧
    (∃ (_tag : BitVec 16) (data : List Byte) (s : State), data.length % 16 = 0 ∧ 16 ≤ data.length ∧ data.length ≤ 4096 ∧
      (s.hp.box0).length < 16) ∧
    (∃ (_tag : BitVec 16) (data : List Byte) (s : State), data.length % 16 = 0 ∧ 16 ≤ data.length ∧ data.length ≤ 4096 ∧ 16
      ≤ (s.hp.box0).length) ∧
    (∃ (_tag : BitVec 16) (data : List Byte) (s : State) (box : _) (m : Msg) (rest : _), data.length % 16 = 0 ∧ 16 ≤
      data.length ∧ data.length ≤ 4096 ∧ s.hp.boxWait = (box, m) :: rest ∧ s.inTick ∧ s.clock.now ≤ m.at_ + 1950) :=
  ⟨⟨devRead, withHost { devReads := [devRead] }, 1, [], by decide⟩,
   ⟨devRead, withHost { devReads := [devRead] }, [1, 2, 3, 4], by decide⟩,
   ⟨devRead, { withHost { devReads := [devRead] } with clock := { now := 10400 } }, [], by unfold State.inTick; decide⟩,
   ⟨devRead, { withHost { devReads := [devRead] } with clock := { now := 10400 } }, [], by decide⟩,
   ⟨0, List.replicate 16 1, withHost { box0 := List.replicate 15 { tag := 0, data := [], at_ := 0, via := none } },
     by decide⟩,
   ⟨0, List.replicate 16 1, withHost { box0 := List.replicate 16 { tag := 0, data := [], at_ := 0, via := none } },
     by decide⟩,
   ⟨0, List.replicate 32 1,
     { withHost { boxWait := [(2, { tag := 0, data := [], at_ := 0, via := none })] } with clock := { now := 1950 } }, 2,
     { tag := 0, data := [], at_ := 0, via := none }, [], by unfold State.inTick; decide⟩⟩

/-- Witnesses of AlertsAndReports, clause by clause. -/
theorem wit_AlertsAndReports :
    (∃ (s : State) (a : Alert) (rest : List Alert) (q : Nat), s.hp.alerts = a :: rest ∧ a.seq = some q ∧ 4096 ≤ q) ∧
    (∃ (s : State) (a : Alert) (p : SentPkt), s.hp.alerts = [a] ∧ a.seq = some p.seq ∧ p.seq < 4096 ∧ s.hp.sent = [p] ∧
      s.hp.waitSend = []) ∧
    (∃ (s : State), s.hp.alerts ≠ [] ∧ s.hp.upSince = none) ∧
    (∃ (s : State), s.hp.alerts = []) ∧
    (∃ (s : State) (r : Report) (rest : List Report), s.reports = r :: rest ∧ s.collector = [] ∧ s.bw.lead.isSome = true ∧
      r.page = none ∧ r.covered = false ∧ r.cls = .contained ∧ s.hp.alerts.length < 64 ∧ s.hp.state ≠ .up ∧ s.hp.home =
      none) ∧
    (∃ (s : State) (r : Report) (rest : List Report), s.reports = r :: rest ∧ 256 ≤ s.collector.length) :=
  ⟨⟨withHost { alerts := [alerted 4096] }, alerted 4096, [], 4096, by decide⟩,
   ⟨withHost { alerts := [alerted 0], sent := [sent] }, alerted 0, sent, by decide⟩,
   ⟨withHost { alerts := [alerted 0] }, by decide⟩,
   ⟨State.reset, by decide⟩,
   ⟨{ reports := [rep], bw := { lead := some .w } }, rep, [], by decide⟩,
   ⟨{ reports := [rep], collector := List.replicate 256 rep }, rep, [], by decide +kernel⟩⟩

/-- Witnesses of RelayRules, clause by clause. -/
theorem wit_RelayRules :
    (∃ (s : State) (req : List Byte), (transOf req).ok = true ∧ (transOf req).flags = 1 ∧ (transOf req).kind = 1 ∧
      s.hp.relayEn = false) ∧
    (∃ (s : State) (req : List Byte), (transOf req).ok = true ∧ (transOf req).flags = 1 ∧ (transOf req).kind = 1 ∧
      s.hp.relayEn = true ∧ bitOf (s.hp.route (transOf req).node 3) 31 = true) ∧
    (∃ (s : State) (p : PortIx) (x : Parcel), (s.port p.toNat).arrived = [x] ∧ leAt x.hdr 1 1 = 1 ∧ leAt x.data 0 1 = 1 ∧
      s.hp.accept = false ∧ s.hp.latch = false) ∧
    (∃ (s : State) (p : PortIx) (x : Parcel), (s.port p.toNat).arrived = [x] ∧ leAt x.hdr 1 1 = 1 ∧ leAt x.data 0 1 = 1 ∧
      s.hp.accept = false ∧ s.hp.latch = true ∧ relayOk x.hdr = true ∧ (transOf (transBytes x.data)).ok = true ∧ leAt x.hdr
      38 2 < 1024 ∧ (transOf (transBytes x.data)).addr = 2 ^ 29) ∧
    (∃ (s : State) (p : PortIx) (x : Parcel) (r : RelayReq), (s.port p.toNat).arrived = [x] ∧ leAt x.hdr 1 1 = 1 ∧ leAt
      x.data 0 1 = 4 ∧ s.hp.relays = [r] ∧ r.tag = (transOf (transBytes x.data)).tag ∧ r.node = (transOf (transBytes
      x.data)).node) ∧
    (∃ (s : State) (tag : BitVec 16) (r : RelayReq), s.hp.relays.find? (fun q => decide (q.tag = tag.toNat)) = some r ∧
      s.inTick ∧ s.clock.now ≤ r.at_ + 9100) ∧
    (∃ (s : State), s.hp.fell = false ∧ s.hp.state ≠ .up ∧ s.hp.coldAt + 65000000 ≤ s.clock.now ∧ (∀ p, s.portFitted p =
      true → (s.port p).maxRate.toNat < 5)) :=
  ⟨⟨State.reset, transHdr 1 1 0 0 4 0, by decide⟩,
   ⟨withHost { relayEn := true, rt := [(3, 0x80000000)] }, transHdr 1 1 0 0 4 0, by decide⟩,
   ⟨withPort 0 { arrived := [{ hdr := relayHdr, data := [1], since := 0 }] }, 0,
     { hdr := relayHdr, data := [1], since := 0 }, by decide⟩,
   ⟨{ withPort 0 { arrived := [{ hdr := relayHdr, data := transHdr 1 0 0 0 4 (2 ^ 29), since := 0 }] } with hp := { latch := true } },
     0, { hdr := relayHdr, data := transHdr 1 0 0 0 4 (2 ^ 29), since := 0 }, by decide⟩,
   ⟨{ withPort 0 { arrived := [{ hdr := relayHdr, data := transHdr 4 0 7 3 0 0, since := 0 }] } with hp := { relays := [{ tag := 7, node := 3, read := true, at_ := 0 }] } },
     0, { hdr := relayHdr, data := transHdr 4 0 7 3 0 0, since := 0 }, { tag := 7, node := 3, read := true, at_ := 0 },
     by decide⟩,
   ⟨{ withHost { relays := [{ tag := 7, node := 3, read := true, at_ := 0 }] } with clock := { now := 9100 } }, 7,
     { tag := 7, node := 3, read := true, at_ := 0 }, by unfold State.inTick; decide⟩,
   ⟨{ clock := { now := 65000000 } }, by decide, by decide, by decide, fun _ _ => (by decide : (4 : Nat) < 5)⟩⟩

/-- Witnesses of StewardResults, clause by clause. -/
theorem wit_StewardResults :
    (∃ (m : MillIx) (f : AluFn) (rd : BitVec 5) (a : Src) (b : AluSrc) (s : State), s.due m.toNat .st (.alu (.fn f rd a b))) ∧
    (∃ (m : MillIx) (rd c : BitVec 5) (a b : Src) (s : State), s.due m.toNat .st (.alu (.select rd c a b))) ∧
    (∃ (m : MillIx) (sgn : Bool) (rd : BitVec 5) (a b : Src) (s : State), s.due m.toNat .st (.mul sgn rd a b) ∧ rd.toNat % 2
      = 0) ∧
    (∃ (m : MillIx) (sgn : Bool) (rd : BitVec 5) (a b : Src) (s : State), s.due m.toNat .st (.mul sgn rd a b) ∧ rd.toNat % 2
      = 1) ∧
    (∃ (m : MillIx) (rd rc : BitVec 5) (s : State), s.due m.toNat .st (.rbell rd rc)) :=
  ⟨⟨0, .add, 31, .reg 31, .imm16 0xFFFF, runs 0 .st, by unfold State.due; decide⟩,
   ⟨0, 0, 31, .arg 7, .imm 5, runs 0 .st, by unfold State.due; decide⟩,
   ⟨0, true, 30, .reg 1, .reg 2, runs 0 .st, by unfold State.due; decide⟩,
   ⟨0, true, 31, .reg 1, .reg 2, runs 0 .st, by unfold State.due; decide⟩,
   ⟨1151, 31, 31, runs 1151 .st, by unfold State.due; decide⟩⟩

/-- Witnesses of StewardControlFlow, clause by clause. -/
theorem wit_StewardControlFlow :
    (∃ (m : MillIx) (target : Word) (s : State), s.due m.toNat .st (.br none target)) ∧
    (∃ (m : MillIx) (c : Cond) (a b : Src) (target : Word) (s : State), s.due m.toNat .st (.br (some (c, a, b)) target)) ∧
    (∃ (m : MillIx) (target : Word) (s : State), s.due m.toNat .st (.call target) ∧ (s.mill m.toNat).st.stack.length < 16) ∧
    (∃ (m : MillIx) (target : Word) (s : State), s.due m.toNat .st (.call target) ∧ 16 ≤ (s.mill m.toNat).st.stack.length) ∧
    (∃ (m : MillIx) (s : State) (a : _) (st : _), s.due m.toNat .st .ret ∧ (s.mill m.toNat).st.stack = a :: st) ∧
    (∃ (m : MillIx) (s : State), s.due m.toNat .st .ret ∧ (s.mill m.toNat).st.stack = []) ∧
    (∃ (m : MillIx) (d : Eng) (en : Src) (as : List Src) (s : State), s.due m.toNat .st (.post d en as) ∧ ((s.mill
      m.toNat).eng d).queue.length < 16) ∧
    (∃ (m : MillIx) (d : Eng) (en : Src) (as : List Src) (s : State), s.due m.toNat .st (.post d en as) ∧ 16 ≤ ((s.mill
      m.toNat).eng d).queue.length ∧ (s.mill m.toNat).tilled = false) ∧
    (∃ (m : MillIx) (v : Src) (s : State), s.due m.toNat .st (.done v)) ∧
    (∃ (m : MillIx) (e : Eng) (i : Invocation) (s : State), e ≠ .sv ∧ s.due m.toNat e .endInv ∧ ((s.mill m.toNat).eng
      e).running = some i ∧ i.work = none ∧ ((s.mill m.toNat).eng e).queue = [] ∧ (s.mill m.toNat).reshape = none ∧ (s.mill
      m.toNat).st.held = none ∧ (∀ q ∈ s.qs.queues, q.2.post = false)) ∧
    (∃ (m : MillIx) (e : Eng) (i : Invocation) (q : List Invocation) (s : State), s.millLive m.toNat = true ∧ (s.mill
      m.toNat).parity = [] ∧ ((s.mill m.toNat).eng e).queue = i :: q ∧ ((s.mill m.toNat).eng e).running = none ∧ ((s.mill
      m.toNat).eng e).stopped = none ∧ (s.mill m.toNat).stopped = none ∧ (s.mill m.toNat).frozen = false ∧ ((s.mill
      m.toNat).eng e).deferred = none ∧ ((s.mill m.toNat).eng e).nextIssue ≤ s.clock.now ∧ i.posted + 4 ≤ s.clock.now ∧ (∀ q
      ∈ s.qs.queues, q.2.post = false)) :=
  ⟨⟨0, 16, runs 0 .st, by unfold State.due; decide⟩,
   ⟨0, .ltu, .reg 0, .imm 1, 16, runs 0 .st, by unfold State.due; decide⟩,
   ⟨0, 16, runs 0 .st { st := { stack := List.replicate 15 8 } }, by unfold State.due; decide⟩,
   ⟨0, 16, runs 0 .st { st := { stack := List.replicate 16 8 } }, by unfold State.due; decide⟩,
   ⟨0, runs 0 .st { st := { stack := [8] } }, 8, [], by unfold State.due; decide⟩,
   ⟨0, runs 0 .st, by unfold State.due; decide⟩,
   ⟨0, .cb, .imm 0, [], runs 0 .st { cb := { queue := List.replicate 15 inv } }, by unfold State.due; decide⟩,
   ⟨0, .cb, .imm 0, [], runs 0 .st { cb := { queue := List.replicate 16 inv } }, by unfold State.due; decide⟩,
   ⟨0, .reg 31, runs 0 .st, by unfold State.due; decide⟩,
   ⟨0, .cb, inv, runs 0 .cb, by unfold State.due; decide⟩,
   ⟨0, .sv, { inv with posted := 0 }, [], { withMill 0 { sv := { queue := [inv] } } with clock := { now := 4 } }, by decide⟩⟩

/-- Witnesses of SyncAndAddressFifos, clause by clause. -/
theorem wit_SyncAndAddressFifos :
    (∃ (m : MillIx) (e : Eng) (c : BitVec 4) (a : Src) (s : State), e ≠ .sv ∧ s.due m.toNat e (.sinc c a) ∧ (s.mill
      m.toNat).reshape = none ∧ 1 ≤ (((s.mill m.toNat).eng e).src a).toNat ∧ (((s.mill m.toNat).eng e).src a).toNat ≤ 255) ∧
    (∃ (m : MillIx) (e : Eng) (c : BitVec 4) (a : Src) (s : State), e ≠ .sv ∧ s.due m.toNat e (.sinc c a) ∧ (s.mill
      m.toNat).reshape = none ∧ ((((s.mill m.toNat).eng e).src a).toNat = 0 ∨ 255 < (((s.mill m.toNat).eng e).src a).toNat)) ∧
    (∃ (m : MillIx) (e : Eng) (c : BitVec 4) (v : Src) (s : State), e ≠ .sv ∧ s.due m.toNat e (.swait c v) ∧ (s.mill
      m.toNat).reshape = none ∧ (s.mill m.toNat).portLate s.clock.now [waitKey c.toNat] e.num = false ∧ (((s.mill
      m.toNat).eng e).src v).toNat ≤ (s.mill m.toNat).cnt c.toNat) ∧
    (∃ (m : MillIx) (e : Eng) (c : BitVec 4) (v : Src) (s : State), e ≠ .sv ∧ s.due m.toNat e (.swait c v) ∧ (s.mill
      m.toNat).reshape = none ∧ (s.mill m.toNat).portLate s.clock.now [waitKey c.toNat] e.num = false ∧ (s.mill m.toNat).cnt
      c.toNat < (((s.mill m.toNat).eng e).src v).toNat ∧ (s.mill m.toNat).tilled = false) ∧
    (∃ (m : MillIx) (e : Eng) (c : BitVec 4) (v : Src) (s : State), e ≠ .sv ∧ s.holds m.toNat e (.swait c v) ∧ (s.mill
      m.toNat).reshape = none ∧ (s.mill m.toNat).portLate s.clock.now [waitKey c.toNat] e.num = false ∧ (((s.mill
      m.toNat).eng e).src v).toNat ≤ (s.mill m.toNat).cnt c.toNat) ∧
    (∃ (m : MillIx) (f : Af) (v : Src) (s : State), ((s.mill m.toNat).fifo f).words.length < 64 ∧ s.due m.toNat .st (.awr f
      v)) ∧
    (∃ (m : MillIx) (f : Af) (v : Src) (s : State), ((s.mill m.toNat).fifo f).words.length < 64 ∧ s.holds m.toNat .st (.awr
      f v)) ∧
    (∃ (m : MillIx) (f : Af) (v : Src) (s : State), 64 ≤ ((s.mill m.toNat).fifo f).words.length ∧ s.due m.toNat .st (.awr f
      v) ∧ (s.mill m.toNat).tilled = false) ∧
    (∃ (m : MillIx) (f : Af) (a : AgenArgs) (s : State), ((s.mill m.toNat).fifo f).words.length < 64 ∧ ((s.mill
      m.toNat).fifo f).agen = none ∧ 0 < agenTotal a.dims ∧ s.due m.toNat .st (.agen f a)) :=
  ⟨⟨0, .mx, 15, .imm 255, runs 0 .mx, by unfold State.due; decide⟩,
   ⟨0, .mx, 15, .imm 256, runs 0 .mx, by unfold State.due; decide⟩,
   ⟨0, .ca, 3, .imm 7, runs 0 .ca { sync := [(3, 7)] }, by unfold State.due; decide⟩,
   ⟨0, .ca, 3, .imm 8, runs 0 .ca { sync := [(3, 7)] }, by unfold State.due; decide⟩,
   ⟨0, .ca, 3, .imm 7, waits 0 .ca (.swait 3 (.imm 7)) { sync := [(3, 7)] }, by unfold State.holds; decide⟩,
   ⟨0, .ca, .imm 7, runs 0 .st, by unfold State.due; decide⟩,
   ⟨0, .ca, .imm 7, waits 0 .st (.awr .ca (.imm 7)), by unfold State.holds; decide⟩,
   ⟨0, .mx, .imm 7, runs 0 .st { fifos := [(0, { words := List.replicate 64 (0, 1) })] }, by unfold State.due; decide⟩,
   ⟨0, .cb, { base := .imm 0, dims := [(1, 4)] }, runs 0 .st, by unfold State.due; decide⟩⟩

/-- Witnesses of LoftAccesses, clause by clause. -/
theorem wit_LoftAccesses :
    (∃ (m : MillIx) (rd : BitVec 5) (b : Src) (off : Word) (w : Bool) (s : State), ((s.mill m.toNat).st.loftAddr b off + (if
      w then 8 else 4) ≤ 2 ^ 20) ∧ (∀ r ∈ loftRes ((s.mill m.toNat).st.loftAddr b off) (if w then 8 else 4), (s.mill
      m.toNat).mark r = {}) ∧ ((s.mill m.toNat).portLost s.clock.now (loftKeys ((s.mill m.toNat).st.loftAddr b off) (if w
      then 8 else 4) false) (portRankOf .st) = false) ∧ ((s.mill m.toNat).portLate s.clock.now (loftKeys ((s.mill
      m.toNat).st.loftAddr b off) (if w then 8 else 4) false) (portRankOf .st) = false) ∧ (s.badIn (loftCell m.toNat
      ((s.mill m.toNat).st.loftAddr b off)) (if w then 8 else 4) = false) ∧ s.soft = [] ∧ s.due m.toNat .st (.ldl rd b off
      w)) ∧
    (∃ (m : MillIx) (rd : BitVec 5) (b : Src) (off : Word) (w : Bool) (s : State), ((s.mill m.toNat).st.loftAddr b off + (if
      w then 8 else 4) ≤ 2 ^ 20) ∧ (∀ r ∈ loftRes ((s.mill m.toNat).st.loftAddr b off) (if w then 8 else 4), (s.mill
      m.toNat).mark r = {}) ∧ ((s.mill m.toNat).portLost s.clock.now (loftKeys ((s.mill m.toNat).st.loftAddr b off) (if w
      then 8 else 4) false) (portRankOf .st) = false) ∧ ((s.mill m.toNat).portLate s.clock.now (loftKeys ((s.mill
      m.toNat).st.loftAddr b off) (if w then 8 else 4) false) (portRankOf .st) = false) ∧ (s.badIn (loftCell m.toNat
      ((s.mill m.toNat).st.loftAddr b off)) (if w then 8 else 4) = false) ∧ s.soft = [] ∧ s.holds m.toNat .st (.ldl rd b off
      w)) ∧
    (∃ (m : MillIx) (rs : BitVec 5) (b : Src) (off : Word) (w : Bool) (s : State), ((s.mill m.toNat).st.loftAddr b off + (if
      w then 8 else 4) ≤ 2 ^ 20) ∧ (∀ r ∈ loftRes ((s.mill m.toNat).st.loftAddr b off) (if w then 8 else 4), (s.mill
      m.toNat).mark r = {}) ∧ s.due m.toNat .st (.stl rs b off w)) ∧
    (∃ (m : MillIx) (b : Src) (off : Word) (w : Bool) (r : BitVec 5) (s : State), (2 ^ 20 < (s.mill m.toNat).st.loftAddr b
      off + (if w then 8 else 4)) ∧ s.due m.toNat .st (.ldl r b off w)) ∧
    (∃ (m : MillIx) (b : Src) (off : Word) (w : Bool) (r : BitVec 5) (s : State), (2 ^ 20 < (s.mill m.toNat).st.loftAddr b
      off + (if w then 8 else 4)) ∧ s.due m.toNat .st (.stl r b off w)) ∧
    (∃ (m off _c : Nat) (bs : List Byte) (_e : Eng) (s : State), s.narrowBad (loftCell m off) bs.length = false) ∧
    (∃ (m off _c : Nat) (bs : List Byte) (_e : Eng) (s : State) (i : _), s.narrowBad (loftCell m off) bs.length = false ∧ i
      < bs.length) ∧
    (∃ (m off _c : Nat) (bs : List Byte) (_e : Eng) (s : State) (a : _), s.narrowBad (loftCell m off) bs.length = false ∧ (a
      < loftCell m off ∨ loftCell m off + bs.length ≤ a)) :=
  ⟨⟨0, 31, .imm 0xFFFF8, 0, true, runs 0 .st, by unfold State.due; decide⟩,
   ⟨0, 31, .imm 0xFFFFC, 0, false, waits 0 .st (.ldl 31 (.imm 0xFFFFC) 0 false), by unfold State.holds; decide⟩,
   ⟨0, 30, .imm 0xFFFF8, 0, true, runs 0 .st, by unfold State.due; decide⟩,
   ⟨0, .imm 0xFFFF9, 0, true, 0, runs 0 .st, by unfold State.due; decide⟩,
   ⟨0, .imm 0xFFFFD, 0, false, 0, runs 0 .st, by unfold State.due; decide⟩,
   ⟨0, 0, 0, [1], .st, up, by decide⟩,
   ⟨0, 0, 0, [1], .st, up, 0, by decide⟩,
   ⟨0, 1, 0, [1], .st, up, loftCell 0 2, by decide⟩⟩

/-- Witnesses of MatrixEngine, clause by clause. -/
theorem wit_MatrixEngine :
    (∃ (m : MillIx) (a : LdsArgs) (s : State), s.due m.toNat .mx (.lds a) ∧ ldsForm (s.mill m.toNat) a = true ∧ (s.mill
      m.toNat).mxGate (s.mill m.toNat).mx s.clock.now (.lds a) = .go) ∧
    (∃ (_m c : Nat) (l : LoadFlight) (s : State), l.issue + l.row ≤ c ∧ s.bad = []) ∧
    (∃ (m : MillIx) (col : Bool) (a : MmArgs) (s : State), s.due m.toNat .mx (.mm col a) ∧ mmForm (s.mill m.toNat) (s.mill
      m.toNat).mx col a = true ∧ (s.mill m.toNat).mxGate (s.mill m.toNat).mx s.clock.now (.mm col a) = .go) ∧
    (∃ (m : MillIx) (col : Bool) (a : MmArgs) (s : State), s.due m.toNat .mx (.mm col a) ∧ mmForm (s.mill m.toNat) (s.mill
      m.toNat).mx col a = false) ∧
    (∃ (m : MillIx) (y : Yoke) (f : YokeFlight) (s : State), (s.mill m.toNat).frozen = false ∧ (s.mill m.toNat).flightOf y
      false = some f) ∧
    (∃ (m : MillIx) (y : Yoke) (f : YokeFlight) (s : State), (s.mill m.toNat).frozen = false ∧ (s.mill m.toNat).flightOf y
      true = some f) ∧
    (∃ (_m : Nat) (y : YokeFlight) (i : Inc) (_s : State), y.entered = y.args.groups ∧ y.readDone = false ∧ y.args.readInc =
      some i) ∧
    (∃ (m : MillIx) (p : Partition) (s : State), s.due m.toNat .mx (.rshp p) ∧ p.legal = true ∧ (s.mill m.toNat).reshape =
      none) ∧
    (∃ (m : MillIx) (p : Partition) (s : State), s.due m.toNat .mx (.rshp p) ∧ p.legal = false) ∧
    (∃ (m : MillIx) (q : BitVec 5) (r : BitVec 3) (s : State), s.millLive m.toNat = true ∧ s.idleFor m.toNat 4 = true ∧
      s.bw.lead.isSome = true ∧ r.toNat < 4 ∧ ((s.mill m.toNat).spare q.toNat).used = false ∧ s.hp.alerts.length < 64) :=
  ⟨⟨0, ldsA, runs 0 .mx, by unfold State.due; decide⟩,
   ⟨0, 0, { args := ldsA, issue := 0 }, up, by decide⟩,
   ⟨0, false, mmA, runs 0 .mx, by unfold State.due; decide⟩,
   ⟨0, true, { mmA with fmtB := .bf16 }, runs 0 .mx, by unfold State.due; decide⟩,
   ⟨0, yoke1, flt, withMill 0 { flights := [flt] }, by decide⟩,
   ⟨0, yoke1, flt, withMill 0 { flights := [flt] }, by decide⟩,
   ⟨0, { flt with entered := mmA.groups, args := { mmA with readInc := some { counter := 0, amount := .imm 1 } } },
     { counter := 0, amount := .imm 1 }, up, by decide⟩,
   ⟨0, {}, runs 0 .mx, by unfold State.due; decide⟩,
   ⟨0, { west := 3 }, runs 0 .mx, by unfold State.due; decide⟩,
   ⟨0, 31, 3, { up with bw := { lead := some .w }, clock := { tick := 4 } }, by decide⟩⟩

/-- Witnesses of SieveBundles, clause by clause. -/
theorem wit_SieveBundles :
    (∃ (m : MillIx) (f : XopFn) (d : BitVec 3) (a b : ESrc) (s : State), s.due m.toNat .sv (.bundle
      { op := .xop f d a b, moves := [] }) ∧ s.stopDue m.toNat = none) ∧
    (∃ (m : MillIx) (b : Bundle) (s : State), s.due m.toNat .sv (.bundle b) ∧ s.stopDue m.toNat = none ∧ s.bundleForm
      m.toNat b = true ∧ (s.mill m.toNat).bundleGate s.clock.now b = .go ∧ (∀ c v, b.op = .swait c v → (s.mill
      m.toNat).portLate s.clock.now [waitKey c.toNat] Eng.sv.num = false) ∧ (s.mill m.toNat).portLost s.clock.now
      (bundleKeys (bundleAccs (s.mill m.toNat).sieve b)) (portRankOf .sv) = false ∧ (s.mill m.toNat).portLate s.clock.now
      (bundleKeys (bundleAccs (s.mill m.toNat).sieve b)) (portRankOf .sv) = false ∧ s.bundleBad m.toNat (bundleAccs (s.mill
      m.toNat).sieve b) = none ∧ b.op ≠ .endInv) ∧
    (∃ (m : MillIx) (b : Bundle) (s : State), s.holds m.toNat .sv (.bundle b) ∧ s.stopDue m.toNat = none ∧ s.bundleForm
      m.toNat b = true ∧ (s.mill m.toNat).bundleGate s.clock.now b = .go ∧ (∀ c v, b.op = .swait c v → (s.mill
      m.toNat).portLate s.clock.now [waitKey c.toNat] Eng.sv.num = false) ∧ (s.mill m.toNat).portLost s.clock.now
      (bundleKeys (bundleAccs (s.mill m.toNat).sieve b)) (portRankOf .sv) = false ∧ (s.mill m.toNat).portLate s.clock.now
      (bundleKeys (bundleAccs (s.mill m.toNat).sieve b)) (portRankOf .sv) = false ∧ s.bundleBad m.toNat (bundleAccs (s.mill
      m.toNat).sieve b) = none ∧ b.op ≠ .endInv) ∧
    (∃ (m : MillIx) (b : Bundle) (s : State), s.due m.toNat .sv (.bundle b) ∧ s.stopDue m.toNat = none ∧ s.bundleForm
      m.toNat b = false) ∧
    (∃ (m : MillIx) (i : Invocation) (s : State), s.due m.toNat .sv (.bundle { op := .endInv, moves := [] }) ∧ s.stopDue
      m.toNat = none ∧ (s.mill m.toNat).sieve.rpt = none ∧ (s.mill m.toNat).sieve.delay = none ∧ (s.mill m.toNat).sv.running
      = some i ∧ i.work = none ∧ (s.mill m.toNat).sv.queue = [] ∧ (s.mill m.toNat).st.held = none ∧ (∀ q ∈ s.qs.queues,
      q.2.post = false)) ∧
    (∃ (m : MillIx) (target : Word) (s : State), s.due m.toNat .sv (.bundle { op := .br target, moves := [] }) ∧ s.stopDue
      m.toNat = none ∧ (s.mill m.toNat).sieve.rpt = none ∧ (s.mill m.toNat).sieve.delay = none) ∧
    (∃ (m : MillIx) (at_ : Nat) (r : StopReq) (s : State), (s.mill m.toNat).sieve.req = some (at_, r) ∧ (s.mill
      m.toNat).sieve.accepted (s.mill m.toNat).sv.fifoHeld = true ∧ at_ + 1 ≤ s.clock.now) :=
  ⟨⟨0, .add, 7, .e 0, .imm 1, runs 0 .sv, by unfold State.due; decide⟩,
   ⟨0, noOp, runs 0 .sv, by unfold State.due; decide, by decide, by decide, by decide, (fun _ _ h => nomatch h), by decide,
     by decide, by decide, by decide⟩,
   ⟨0, noOp, waits 0 .sv (.bundle noOp), by unfold State.holds; decide, by decide, by decide, by decide,
     (fun _ _ h => nomatch h), by decide, by decide, by decide, by decide⟩,
   ⟨0, { op := .none, moves := [(.x, .st .fifo 0), (.x, .st .fifo 0)] }, runs 0 .sv, by unfold State.due; decide⟩,
   ⟨0, inv, runs 0 .sv, by unfold State.due; decide⟩,
   ⟨0, 16, runs 0 .sv, by unfold State.due; decide⟩,
   ⟨0, 0, .halt 1 0, { withMill 0 { sieve := { req := some (0, .halt 1 0) } } with clock := { now := 1 } }, by decide⟩⟩

/-- Witnesses of CarterOperations, clause by clause. -/
theorem wit_CarterOperations :
    (∃ (m : MillIx) (c : Carter) (l : StreamAddr) (k : Nat) (s : State), listOk l.toNat = true ∧ (s.mill m.toNat).listSlot c
      l.toNat = none ∧ (s.mill m.toNat).freeSlot c = some k ∧ s.due m.toNat c.eng (.strm l none)) ∧
    (∃ (m : MillIx) (c : Carter) (l : StreamAddr) (k : Nat) (s : State), listOk l.toNat = true ∧ (s.mill m.toNat).listSlot c
      l.toNat = none ∧ (s.mill m.toNat).freeSlot c = some k ∧ s.holds m.toNat c.eng (.strm l none)) ∧
    (∃ (m : MillIx) (c : Carter) (l : StreamAddr) (s : State), s.due m.toNat c.eng (.strm l none) ∧ listOk l.toNat = false) ∧
    (∃ (m : MillIx) (c : Carter) (l : StreamAddr) (s : State), s.due m.toNat c.eng (.strm l none) ∧ listOk l.toNat = true ∧
      (s.mill m.toNat).listSlot c l.toNat = none ∧ (s.mill m.toNat).freeSlot c = none ∧ (s.mill m.toNat).tilled = false) ∧
    (∃ (m : MillIx) (c : Carter) (a : MovArgs) (k : Nat) (s : State), a.afifo = false ∧ a.inc = none ∧ movForm a = true ∧ (∀
      r ∈ movRes a.src a.len ++ movRes a.dst a.len, (s.mill m.toNat).mark r = {}) ∧ (s.mill m.toNat).freeSlot c = some k ∧
      s.due m.toNat c.eng (.mov a)) ∧
    (∃ (_w : Who) (a n : Nat) (s : State), field a 44 4 = 1 ∧ s.millLive (addrMill a) = true ∧ a % 2 ^ 20 + n ≤ 2 ^ 20 ∧
      s.bad = [] ∧ s.soft = []) ∧
    (∃ (m : MillIx) (e : Eng) (q : QueueIx) (rd : BitVec 5) (b : List Byte) (s : State), (e = .st ∨ e = .ca ∨ e = .cb) ∧
      rd.toNat + 4 ≤ engRegs e ∧ s.canTake q.toNat = .ok ∧ (s.queue q.toNat).countsOk = true ∧ s.streamRead (.queue
      (queueDie q.toNat)) ((s.queue q.toNat).base + 16 * ((s.queue q.toNat).head.v.toNat % (s.queue q.toNat).size)) 16 =
      (.ok (some b), s) ∧ s.due m.toNat e (.ctake q rd)) ∧
    (∃ (m : MillIx) (e : Eng) (q : QueueIx) (rd : BitVec 5) (b : List Byte) (s : State), (e = .st ∨ e = .ca ∨ e = .cb) ∧
      rd.toNat + 4 ≤ engRegs e ∧ s.canTake q.toNat = .ok ∧ (s.queue q.toNat).countsOk = true ∧ s.streamRead (.queue
      (queueDie q.toNat)) ((s.queue q.toNat).base + 16 * ((s.queue q.toNat).head.v.toNat % (s.queue q.toNat).size)) 16 =
      (.ok (some b), s) ∧ s.holds m.toNat e (.ctake q rd)) ∧
    (∃ (m : MillIx) (e : Eng) (q : QueueIx) (rd : BitVec 5) (s : State), (e = .st ∨ e = .ca ∨ e = .cb) ∧ rd.toNat + 4 ≤
      engRegs e ∧ s.due m.toNat e (.ctake q rd) ∧ (s.mill m.toNat).tilled = false ∧ s.canTake q.toNat = .wait) ∧
    (∃ (m : MillIx) (e : Eng) (q : QueueIx) (rs : BitVec 5) (s : State), (e = .st ∨ e = .ca ∨ e = .cb) ∧ rs.toNat + 4 ≤
      engRegs e ∧ s.due m.toNat e (.cput q rs) ∧ s.canPut q.toNat = .ok ∧ s.ringAbsent q.toNat = false ∧ (s.ringLocal
      m.toNat q.toNat = true ∨ field (s.queue q.toNat).base 44 4 = 1)) ∧
    (∃ (m : MillIx) (s : State), s.millLive m.toNat = true ∧ (s.mill m.toNat).patrolNext ≤ s.clock.now ∧ s.bad = [] ∧ (∀ k,
      (s.mill m.toNat).portUser s.clock.now k = none)) :=
  ⟨⟨0, .ca, 0x100000000000, 0, runs 0 .ca, by unfold State.due; decide⟩,
   ⟨0, .cb, 0x100000000000, 4, waits 0 .cb (.strm 0x100000000000 none), by unfold State.holds; decide⟩,
   ⟨0, .ca, 1, runs 0 .ca, by unfold State.due; decide⟩,
   ⟨0, .ca, 0x100000000000,
     runs 0 .ca { slots := [(0, some mvSlot), (1, some mvSlot), (2, some mvSlot), (3, some mvSlot)] },
     by unfold State.due; decide⟩,
   ⟨0, .ca, mvA, 0, runs 0 .ca, by unfold State.due; decide⟩,
   ⟨.port, 2 ^ 44, 64, up, by decide⟩,
   ⟨0, .ca, 8192, 12, crt, ringed (runs 0 .ca),
     by unfold State.due; and_intros <;> first | exact okEq (by decide +kernel) | exact errEq (by decide +kernel) | decide +kernel⟩,
   ⟨0, .st, 8192, 28, crt, ringed (waits 0 .st (.ctake 8192 28)),
     by unfold State.holds; and_intros <;> first | exact okEq (by decide +kernel) | exact errEq (by decide +kernel) | decide +kernel⟩,
   ⟨0, .cb, 8194, 12, ringed (runs 0 .cb), by unfold State.due; decide +kernel⟩,
   ⟨0, .cb, 8194, 12, ringed (runs 0 .cb), by unfold State.due; decide +kernel⟩,
   ⟨1151, up, by decide, by decide, by decide, fun _ => rfl⟩⟩

/-- Witnesses of BellRules, clause by clause. -/
theorem wit_BellRules :
    (∃ (s : State), s.inTick) ∧
    (∃ (s : State), s.bell.state = .calibrating ∧ s.bell.lockNext.isSome = true) ∧
    (∃ (p : PortIx) (_f : List Byte) (s : State), s.portUp p.toNat = false) ∧
    (∃ (p : PortIx) (f : List Byte) (s : State), s.portUp p.toNat = true ∧ f.length = 64 ∧ (leAt f 8 8 ≠ 2 ^ 64 - 1 - leAt f
      0 8 ∨ leAt f 18 2 ≠ s.bell.tag.toNat ∨ (leAt f 16 1 ≠ 1 ∧ leAt f 16 1 ≠ 2))) ∧
    (∃ (p : PortIx) (f : List Byte) (s : State), s.portUp p.toNat = true ∧ f.length = 64 ∧ leAt f 8 8 = 2 ^ 64 - 1 - leAt f
      0 8 ∧ leAt f 18 2 = s.bell.tag.toNat ∧ leAt f 16 1 = 2 ∧ leAt f 24 4 = 0) ∧
    (∃ (p : PortIx) (f : List Byte) (s : State), s.portUp p.toNat = true ∧ f.length = 64 ∧ leAt f 8 8 = 2 ^ 64 - 1 - leAt f
      0 8 ∧ leAt f 18 2 = s.bell.tag.toNat ∧ leAt f 16 1 = 1 ∧ leAt f 20 4 = 0 ∧ leAt f 24 4 = 0 ∧ (s.bell.role ≠ 2 ∨ p ≠
      s.bell.upPort)) ∧
    (∃ (p : PortIx) (f : List Byte) (s : State) (q : _) (t0 : _), s.portUp p.toNat = true ∧ f.length = 64 ∧ leAt f 8 8 = 2 ^
      64 - 1 - leAt f 0 8 ∧ leAt f 18 2 = s.bell.tag.toNat ∧ leAt f 16 1 = 2 ∧ leAt f 20 4 = 0 ∧ leAt f 24 4 ≠ 0 ∧
      s.bell.state = .calibrating ∧ s.bell.jumped = none ∧ p = s.bell.upPort ∧ (s.bell.port p.toNat).reqs.find? (fun r =>
      decide (r.1 = leAt f 24 4)) = some (q, t0) ∧ leAt f 28 4 ≤ s.clock.now - t0 ∧ (s.clock.now - t0 - leAt f 28 4) % 2 = 0
      ∧ (s.clock.now - t0 - leAt f 28 4) / 2 ≤ 65535) ∧
    (∃ (p : PortIx) (f : List Byte) (s : State) (h : _), s.portUp p.toNat = true ∧ f.length = 64 ∧ leAt f 8 8 = 2 ^ 64 - 1 -
      leAt f 0 8 ∧ leAt f 18 2 = s.bell.tag.toNat ∧ leAt f 16 1 = 1 ∧ leAt f 20 4 = 0 ∧ leAt f 24 4 = 0 ∧ s.bell.role = 2 ∧
      p = s.bell.upPort ∧ s.bell.state = .calibrating ∧ s.bell.h = some h ∧ s.bell.jumped = none) ∧
    (∃ (p : PortIx) (f : List Byte) (s : State) (h : _) (k : _), s.portUp p.toNat = true ∧ f.length = 64 ∧ leAt f 8 8 = 2 ^
      64 - 1 - leAt f 0 8 ∧ leAt f 18 2 = s.bell.tag.toNat ∧ leAt f 16 1 = 1 ∧ leAt f 20 4 = 0 ∧ leAt f 24 4 = 0 ∧
      s.bell.role = 2 ∧ p = s.bell.upPort ∧ s.bell.state = .calibrating ∧ s.bell.h = some h ∧ s.bell.jumped = some k) ∧
    (∃ (p : PortIx) (f : List Byte) (s : State), s.portUp p.toNat = true ∧ f.length = 64 ∧ leAt f 8 8 = 2 ^ 64 - 1 - leAt f
      0 8 ∧ leAt f 18 2 = s.bell.tag.toNat ∧ leAt f 16 1 = 1 ∧ leAt f 20 4 = 0 ∧ leAt f 24 4 = 0 ∧ s.bell.role = 2 ∧ p =
      s.bell.upPort ∧ (s.bell.state = .locked ∨ s.bell.state = .holdover) ∧ s.clock.cyc = (s.bell.port p.toNat).hop % 1248 ∧
      leAt f 0 8 + (s.bell.port p.toNat).hop / 1248 = s.clock.tick.toNat) ∧
    (∃ (p : PortIx) (f : List Byte) (s : State), s.portUp p.toNat = true ∧ f.length = 64 ∧ leAt f 8 8 = 2 ^ 64 - 1 - leAt f
      0 8 ∧ leAt f 18 2 = s.bell.tag.toNat ∧ leAt f 16 1 = 1 ∧ leAt f 20 4 = 0 ∧ leAt f 24 4 = 0 ∧ s.bell.role = 2 ∧ p =
      s.bell.upPort ∧ (s.bell.state = .locked ∨ s.bell.state = .holdover) ∧ (s.clock.cyc ≠ (s.bell.port p.toNat).hop % 1248
      ∨ leAt f 0 8 + (s.bell.port p.toNat).hop / 1248 ≠ s.clock.tick.toNat)) ∧
    (∃ (s : State), s.bell.role = 2 ∧ (s.bell.state = .locked ∨ s.bell.state = .holdover) ∧ 4 ≤ s.bell.missed) ∧
    (∃ (w : Writer) (v : Word) (s : State), s.mayReg w = true ∧ v.toNat % 4 = 3) ∧
    (∃ (w : Writer) (v : Word) (s : State), s.mayReg w = true ∧ v.toNat % 4 = 2 ∧ s.anyHeld = false) ∧
    (∃ (w : Writer) (v : Word) (s : State), s.mayReg w = true ∧ v.toNat % 4 = 2 ∧ s.anyHeld = true ∧ s.bell.state ≠ .source) ∧
    (∃ (w : Writer) (v : Word) (s : State), s.mayReg w = true ∧ v.toNat % 4 = 1 ∧ v.getLsbD 8 = false ∧ s.bell.state ≠
      .source ∧ s.bell.state ≠ .holdover) ∧
    (∃ (w : Writer) (v : Word) (s : State), s.mayReg w = true ∧ v.toNat % 4 = 1 ∧ s.bell.state = .holdover ∧ v.getLsbD 8 =
      false) ∧
    (∃ (w : Writer) (v : Word) (s : State), s.mayReg w = true ∧ v.toNat % 4 = 1 ∧ s.bell.state = .holdover ∧ s.bell.refclk =
      true ∧ s.bell.plls = true) ∧
    (∃ (w : Writer) (v : Word) (s : State), s.mayReg w = true ∧ v.toNat % 4 = 0 ∧ v.getLsbD 8 = false) ∧
    (∃ (s : State), s.bootRom = false) ∧
    (∃ (s : State), s.bell.refclk = true) ∧
    (∃ (s : State) (k : BitVec 64), s.inTick ∧ s.still = true ∧ s.bell.state = .calibrating ∧ s.bell.lockNext = some k) :=
  ⟨⟨up, by unfold State.inTick; decide⟩,
   ⟨{ bell := { state := .calibrating, lockNext := some 1 } }, by decide⟩,
   ⟨0, List.replicate 64 0, up, by decide⟩,
   ⟨0, List.replicate 64 0, withPort 0 upPort, by decide⟩,
   ⟨0, bellF 2 0 0 0, withPort 0 upPort, by decide⟩,
   ⟨0, marker, withPort 0 upPort, by decide⟩,
   ⟨0, bellF 2 0 1 0,
     { withPort 0 upPort with bell := { state := .calibrating, ports := [(0, { reqs := [(1, 0)] })] }, clock := { now := 10, cyc := 10 } },
     1, 0, by decide⟩,
   ⟨0, marker, { withPort 0 upPort with bell := { role := 2, state := .calibrating, h := some 5 } }, 5, by decide⟩,
   ⟨0, marker, { withPort 0 upPort with bell := { role := 2, state := .calibrating, h := some 5, jumped := some 3 } }, 5, 3,
     by decide⟩,
   ⟨0, marker, { withPort 0 upPort with bell := { role := 2, state := .locked }, clock := { tick := 5 } }, by decide⟩,
   ⟨0, marker, { withPort 0 upPort with bell := { role := 2, state := .locked }, clock := { tick := 5, cyc := 1 } },
     by decide⟩,
   ⟨{ bell := { role := 2, state := .locked, missed := 4 } }, by decide⟩,
   ⟨.hostP, 3, up, by decide⟩,
   ⟨.hostP, 2, up, by decide⟩,
   ⟨.hostP, 2, withGroup 0 { state := .seated }, by decide⟩,
   ⟨.hostP, 1, up, by decide⟩,
   ⟨.hostP, 1, { up with bell := { role := 1, state := .holdover } }, by decide⟩,
   ⟨.hostP, 1, { up with bell := { role := 1, state := .holdover } }, by decide⟩,
   ⟨.hostP, 4, up, by decide⟩,
   ⟨up, by decide⟩,
   ⟨State.reset, by decide⟩,
   ⟨{ up with bell := { state := .calibrating, lockNext := some 1 } }, 1, by unfold State.inTick; decide⟩⟩

/-- Witnesses of CrossingRules, clause by clause. -/
theorem wit_CrossingRules :
    (∃ (xid : BitVec 16) (_c : BitVec 13) (_item : List Byte) (x : Crossing) (s : State), s.bell.crossings.find? (fun e =>
      decide (e.1 = xid.toNat)) = some (xid.toNat, x) ∧ s.islandTakes x = true ∧ x.isFixed = false) ∧
    (∃ (xid : BitVec 16) (c : BitVec 13) (_item : List Byte) (x : Crossing) (s : State) (r : _) (due : _),
      s.bell.crossings.find? (fun e => decide (e.1 = xid.toNat)) = some (xid.toNat, x) ∧ s.islandTakes x = true ∧ x.isFixed
      = true ∧ s.releaseAt x c.toNat = some (r, due) ∧ s.clock.now < due ∧ (s.bell.store.filter (fun i => decide (i.xid =
      xid.toNat))).length < 64 ∧ (∀ i ∈ s.bell.store, s.clock.now < i.due)) ∧
    (∃ (xid : BitVec 16) (_c : BitVec 13) (_item : List Byte) (x : Crossing) (s : State), s.bell.crossings.find? (fun e =>
      decide (e.1 = xid.toNat)) = some (xid.toNat, x) ∧ s.islandTakes x = false) ∧
    (∃ (x : Crossing) (c ns nd : Nat) (s : State), s.perTick x.src = some ns ∧ s.perTick x.dst = some nd ∧ 0 < ns ∧ 0 < nd ∧
      x.typ ≠ 5 ∧ s.inTick ∧ ((if ns = nd then c else (c * nd + ns - 1) / ns) + x.delay < nd)) ∧
    (∃ (x : Crossing) (c ns nd : Nat) (s : State), s.perTick x.src = some ns ∧ s.perTick x.dst = some nd ∧ 0 < ns ∧ 0 < nd ∧
      x.typ ≠ 5 ∧ s.inTick ∧ (nd ≤ (if ns = nd then c else (c * nd + ns - 1) / ns) + x.delay)) ∧
    (∃ (xid : BitVec 16) (c a : BitVec 13) (_item : List Byte) (x : Crossing) (r due nd : Nat) (s : State),
      s.bell.crossings.find? (fun e => decide (e.1 = xid.toNat)) = some (xid.toNat, x) ∧ s.islandTakes x = true ∧ x.isFixed
      = true ∧ s.releaseAt x c.toNat = some (r, due) ∧ s.perTick x.dst = some nd ∧ r < a.toNat ∧ x.gslot = none) ∧
    (∃ (_d : Die) (n : Nat) (_l : CrossLoss) (_s : State), n ≤ 3) ∧
    (∃ (_d : Die) (n : Nat) (_l : CrossLoss) (_s : State), 3 < n) ∧
    (∃ (_d : Die) (n : Nat) (_l : CrossLoss) (_s : State) (c : EntryRef), 3 < n ∧ c.cq = none) ∧
    (∃ (_d : Die) (n : Nat) (_l : CrossLoss) (_s : State)  , 3 < n) :=
  ⟨⟨1, 0, [], { xing with fixed := false }, crossing { xing with fixed := false }, by decide⟩,
   ⟨1, 0, [], xing, crossing xing, 5, 5, by decide⟩,
   ⟨1, 0, [], { xing with island := some 0 }, { crossing { xing with island := some 0 } with pwr := { dom := [(0, 1)] } },
     by decide⟩,
   ⟨xing, 0, 1248, 1248, up, by unfold State.inTick; decide⟩,
   ⟨xing, 1245, 1248, 1248, up, by unfold State.inTick; decide⟩,
   ⟨1, 0, 6, [], xing, 5, 5, 1248, crossing xing, by decide⟩,
   ⟨.w, 3, .registerRead, up, by decide⟩,
   ⟨.w, 4, .registerRead, up, by decide⟩,
   ⟨.w, 4, .registerRead, up, { sq := 0, idx := 0, tag := 0, cq := none }, by decide⟩,
   ⟨.w, 4, .registerRead, up, by decide⟩⟩

/-- Witnesses of TilledGroups, clause by clause. -/
theorem wit_TilledGroups :
    (∃ (g : SlotIx) (i : Nat) (b : Booking) (al : Almanac) (s : State), (s.group g.toNat).almanac = some al ∧
      al.bookings[i]? = some b ∧ (s.group g.toNat).state = .running ∧ s.bookedTick (s.group g.toNat) b = true ∧ s.clock.cyc
      ≤ b.cycle ∧ b.cycle < 1248) ∧
    (∃ (g i : Nat) (_a : Action) (s : State), (∀ p ∈ (s.group g).badBook, p.1 ≠ i)) ∧
    (∃ (g : Nat) (i : Nat) (_m : MillIx) (_e : Eng) (_en : Word) (_as : List Word) (p : Nat × Nat) (s : State), (s.group
      g).badBook.find? (fun p => decide (p.1 = i)) = some p) ∧
    (∃ (m : MillIx) (e : Eng) (_entry : Word) (_args : List Word) (s : State), s.millLive m.toNat = true ∧ (s.mill
      m.toNat).frozen = false ∧ ((s.mill m.toNat).eng e).queue.length < 16) ∧
    (∃ (w : Writer) (g : SlotIx) (e : BitVec 16) (k : BitVec 4) (s : State), s.mayHost w = true ∧ s.seatErr (s.group
      g.toNat) e.toNat k.toNat = 0) ∧
    (∃ (w : Writer) (g : SlotIx) (e : BitVec 16) (k : BitVec 4) (s : State), s.mayHost w = true ∧ s.seatErr (s.group
      g.toNat) e.toNat k.toNat ≠ 0) ∧
    (∃ (w : Writer) (g : SlotIx) (s : State), s.mayHost w = true ∧ (s.group g.toNat).state = .halted) ∧
    (∃ (w : Writer) (g : SlotIx) (s : State), s.mayHost w = true ∧ (s.group g.toNat).state ≠ .halted) ∧
    (∃ (w : Writer) (g : SlotIx) (s : State), s.mayHost w = true ∧ (s.group g.toNat).state = .running ∧ (s.group
      g.toNat).due = none) ∧
    (∃ (g : SlotIx) (s : State), s.clock.tick.toNat % 65536 = 0 ∧ s.clock.cyc = 0 ∧ (s.group g.toNat).unseat = true ∧
      (s.group g.toNat).state = .halted) ∧
    (∃ (g : SlotIx) (al : Almanac) (s : State), (s.group g.toNat).almanac = some al ∧ (s.group g.toNat).state = .seated ∧
      s.clock.tick = (s.group g.toNat).target ∧ s.clock.cyc = 0 ∧ (s.group g.toNat).markDef (s.group g.toNat).seatMark.toNat
      = none) ∧
    (∃ (g : SlotIx) (al : Almanac) (s : State) (d : _), (s.group g.toNat).almanac = some al ∧ (s.group g.toNat).state =
      .seated ∧ s.clock.tick = (s.group g.toNat).target ∧ s.clock.cyc = 0 ∧ (s.group g.toNat).markDef (s.group
      g.toNat).seatMark.toNat = some d) ∧
    (∃ (g : SlotIx) (d : MarkDef) (s : State), (s.group g.toNat).markDef (s.group g.toNat).seatMark.toNat = some d ∧
      (s.group g.toNat).state = .restoring ∧ s.clock.tick = (s.group g.toNat).resume ∧ d.posts = []) ∧
    (∃ (g : SlotIx) (k : BitVec 3) (d : MarkDef) (s : State), (s.group g.toNat).markDef k.toNat = some d ∧ (s.group
      g.toNat).state = .running ∧ s.posOf (s.group g.toNat) = d.pos % (s.group g.toNat).span ∧ s.clock.cyc = 0) ∧
    (∃ (g : SlotIx) (h : HaltDue) (al : Almanac) (s : State), (s.group g.toNat).due = some h ∧ (s.group g.toNat).almanac =
      some al ∧ (s.group g.toNat).state = .running ∧ (s.group g.toNat).halt = none ∧ (s.group g.toNat).dueTick <
      s.clock.tick ∧ s.hp.alerts.length < 64) ∧
    (∃ (p : PortIx) (b : List Byte) (k : Nat) (x : Group) (s : State), s.portUp p.toNat = true ∧ b.length = 64 ∧
      s.groups.find? (fun g => decide (g.2.almanac.map (fun a => a.group.toNat) = some (leAt b 2 2)) && decide (g.2.state ≠
      .empty)) = some (k, x) ∧ leAt b 16 8 ≠ 2 ^ 64 - 1 - leAt b 8 8) ∧
    (∃ (p : PortIx) (b : List Byte) (k : Nat) (x : Group) (s : State), s.portUp p.toNat = true ∧ b.length = 64 ∧
      s.groups.find? (fun g => decide (g.2.almanac.map (fun a => a.group.toNat) = some (leAt b 2 2)) && decide (g.2.state ≠
      .empty)) = some (k, x) ∧ leAt b 16 8 = 2 ^ 64 - 1 - leAt b 8 8 ∧ x.state = .running ∧ x.due = none) ∧
    (∃ (p : PortIx) (f : FrameSlot) (_gs : List (BitVec 10)) (s : State), ((s.port p.toNat).serving f.lane.toNat = none ∨
      s.portSlots p.toNat = false)) ∧
    (∃ (p : PortIx) (f : FrameSlot) (gs : List (BitVec 10)) (s : State) (l : Nat) (syms : List (Option Byte)) (rd : Bool),
      (s.port p.toNat).serving f.lane.toNat = some l ∧ s.portSlots p.toNat = true ∧ frameOfGroups ((s.port p.toNat).lane
      l).rd gs = (.data, syms, rd) ∧ rsDecode (symBytes syms) ≠ none ∧ (((s.port p.toNat).lane l).heads.filter (fun b =>
      !b)).length < 4 ∧ ((s.port p.toNat).link f.lane.toNat).bad.length < 4) ∧
    (∃ (p : PortIx) (f : FrameSlot) (_r : Option (List Byte × Nat)) (s : State), s.bookedGroup p f = none) ∧
    (∃ (p : PortIx) (f : FrameSlot) (_r : Option (List Byte × Nat)) (s : State) (k : _), s.bookedGroup p f = some k ∧
      (s.group k).live = false) ∧
    (∃ (p : PortIx) (f : FrameSlot) (r : Option (List Byte × Nat)) (s : State) (k : _), s.bookedGroup p f = some k ∧
      (s.group k).state = .running ∧ (s.group k).due = none ∧ r = none) ∧
    (∃ (p : PortIx) (f : FrameSlot) (r : Option (List Byte × Nat)) (s : State) (k : _) (al : _) (msg : _) (out : _),
      s.bookedGroup p f = some k ∧ (s.group k).state = .running ∧ (s.group k).almanac = some al ∧ r = some (msg, 0) ∧
      s.expects (s.group k) p f = some (.port out) ∧ bitOf (leAt msg 0 1) 7 = true ∧ leAt (msg.drop 1) 4 2 = al.group.toNat
      ∧ bitOf (leAt (msg.drop 1) 3 1) 0 = true ∧ 0 < leAt (msg.drop 1) 0 1 ∧ leAt (msg.drop 1) 0 1 ≤ 19 ∧ leAt (msg.drop 1)
      1 1 ≤ 2 ∧ leAt (msg.drop 1) 8 12 % 32 = out.toNat ∧ s.portUp out.toNat = true) ∧
    (∃ (p : PortIx) (_f : FrameSlot) (src : FrameSrc) (x : BookedTx) (s : State), s.portSlots p.toNat = true ∧ (s.port
      p.toNat).bookedTx.find? (fun t => decide (t.src = src)) = some x) ∧
    (∃ (p : PortIx) (f : FrameSlot) (s : State) (k : _) (x : _), s.groups.find? (fun g => g.2.live && (s.expects g.2 p
      f).isSome) = some (k, x) ∧ (s.group k).state = .running ∧ (s.group k).due = none) ∧
    (∃ (p : PortIx) (f : FrameSlot) (s : State), s.groups.find? (fun g => g.2.live && (s.expects g.2 p f).isSome) = none) ∧
    (∃ (p : PortIx) (h : List Byte) (rest : List (Bool × List Byte)) (s : State), s.portUp p.toNat = true ∧ s.userIo = true
      ∧ (s.port p.toNat).stream = (true, h) :: rest ∧ leAt h 1 1 ≤ 2 ∧ leAt h 0 1 = 0 ∧ leAt h 6 2 = s.node.toNat) ∧
    (∃ (p : PortIx) (h : List Byte) (rest : List (Bool × List Byte)) (s : State), s.portUp p.toNat = true ∧ s.userIo = true
      ∧ (s.port p.toNat).stream = (false, h) :: rest) :=
  ⟨⟨0, 0, { tick := 0, cycle := 0, act := .idle 0 1, restore := none }, almB (.idle 0 1),
     withGroup 0 { state := .running, almanac := some (almB (.idle 0 1)) }, by decide⟩,
   ⟨0, 0, .idle 0 1, withGroup 0 {}, by decide⟩,
   ⟨2, 0, 0, .st, 0, [], (0, 1), withGroup 2 { badBook := [(0, 1)] }, by decide⟩,
   ⟨0, .cb, 0, [], withMill 0 { cb := { queue := List.replicate 15 inv } }, by decide⟩,
   ⟨.hostP, 7, 1, 15, { withGroup 7 { state := .loaded, almanac := some alm } with bell := { state := .locked } },
     by decide⟩,
   ⟨.hostP, 7, 0, 15, { withGroup 7 { state := .loaded, almanac := some alm } with bell := { state := .locked } },
     by decide⟩,
   ⟨.hostP, 0, withGroup 0 { state := .halted }, by decide⟩,
   ⟨.hostP, 0, withGroup 0 {}, by decide⟩,
   ⟨.hostP, 0, withGroup 0 { state := .running }, by decide⟩,
   ⟨0, withGroup 0 { state := .halted, unseat := true }, by decide⟩,
   ⟨0, alm, withGroup 0 { state := .seated, almanac := some alm }, by decide⟩,
   ⟨0, { alm with marks := [mark0] }, withGroup 0 { state := .seated, almanac := some { alm with marks := [mark0] } },
     mark0, by decide⟩,
   ⟨0, mark0, withGroup 0 { state := .restoring, almanac := some { alm with marks := [mark0] } }, by decide⟩,
   ⟨0, 0, mark0, withGroup 0 { state := .running, almanac := some { alm with marks := [mark0] } }, by decide⟩,
   ⟨0, haltD, alm,
     { withGroup 0 { state := .running, almanac := some alm, due := some haltD } with clock := { tick := 1 } }, by decide⟩,
   ⟨0, notice 0, 2, { state := .loaded, almanac := some alm },
     { withGroup 2 { state := .loaded, almanac := some alm } with ports := [(0, upPort)] }, by decide⟩,
   ⟨0, notice (2 ^ 64 - 1), 2, { state := .running, almanac := some alm },
     { withGroup 2 { state := .running, almanac := some alm } with ports := [(0, upPort)] }, by decide⟩,
   ⟨0, slot0, [], up, by decide⟩,
   ⟨0, slot0, dataGroups zeroMsg, { withPort 0 { upPort with lanes := [(0, { align := 3 })] } with groups := [] }, 0,
     zeroMsg.map some, rdAfter zeroMsg, by decide +kernel⟩,
   ⟨0, slot0, none, withPort 0 upPort, by decide⟩,
   ⟨0, slot0, none, books (.expect 0 slot0 8192) .halted, 2, by decide⟩,
   ⟨0, slot0, none, { books (.expect 0 slot0 8192) with ports := [(0, upPort)] }, 2, by decide⟩,
   ⟨0, slot0, some (transitMsg, 0), { books (.transit 0 slot0 1) with ports := [(1, upPort)] }, 2,
     almB (.transit 0 slot0 1), transitMsg, 1, by decide +kernel⟩,
   ⟨0, slot0, .ring 8192, waitsTx, withPort 0 { upPort with bookedTx := [waitsTx] }, by decide⟩,
   ⟨0, slot0, books (.expect 0 slot0 8192), 2, { state := .running, almanac := some (almB (.expect 0 slot0 8192)) },
     by decide⟩,
   ⟨0, slot0, up, by decide⟩,
   ⟨0, List.replicate 64 0, [],
     { withPort 0 { upPort with stream := [(true, List.replicate 64 0)] } with cfg := { fullOk := true } }, by decide⟩,
   ⟨0, [], [], { withPort 0 { upPort with stream := [(false, [])] } with cfg := { fullOk := true } }, by decide⟩⟩

/-- Witnesses of TorusPackets, clause by clause. -/
theorem wit_TorusPackets :
    (∃ (d : Die) (x y : BitVec 5) (i : BitVec 3) (hdr data : List Byte) (_soft : Nat) (_o : Option (MillIx × BitVec 3)) (s :
      State), x.toNat < 24 ∧ y.toNat < s.rows ∧ s.hasPort x.toNat y.toNat i.toNat = true ∧ s.hdrOk hdr = true ∧ (pktHdr
      hdr).prio ≠ 3 ∧ s.canArrive d x.toNat y.toNat i.toNat (pktHdr hdr) data.length = true) ∧
    (∃ (d : Die) (x y : BitVec 5) (i : BitVec 3) (hdr data : List Byte) (_soft : Nat) (_o : Option (MillIx × BitVec 3)) (s :
      State), x.toNat < 24 ∧ y.toNat < s.rows ∧ s.hasPort x.toNat y.toNat i.toNat = true ∧ s.hdrOk hdr = true ∧ s.canArrive
      d x.toNat y.toNat i.toNat (pktHdr hdr) data.length = false) ∧
    (∃ (_d : Die) (x y : BitVec 5) (i : BitVec 3) (hdr _data : List Byte) (_soft : Nat) (_o : Option (MillIx × BitVec 3)) (s
      : State), x.toNat < 24 ∧ y.toNat < s.rows ∧ s.hasPort x.toNat y.toNat i.toNat = true ∧ s.hdrOk hdr = false ∧ (pktHdr
      hdr).slot = none ∧ (pktHdr hdr).tag % 8 ≠ 5) ∧
    (∃ (k : Nat) (w : Waiting) (s : State), (s.router k).queue = [w] ∧ w.ready ≤ s.clock.now ∧ w.out < 8 ∧ s.groups = [] ∧
      Table.get 0 (s.router k).freeAt (w.out * 2) ≤ s.clock.now ∧ Table.get 0 (s.router k).freeAt (w.out * 2 + 1) ≤
      s.clock.now ∧ s.hasCredit k w = true) ∧
    (∃ (k : Nat) (v w : Waiting) (s : State), (s.router k).queue = [v, w] ∧ v.out = w.out ∧ outLanes w.out = 1 ∧ w.out < 8 ∧
      v.prio ≠ 0 ∧ v.prio ≠ 3 ∧ w.prio = 0 ∧ v.ready ≤ s.clock.now ∧ w.ready ≤ s.clock.now ∧ s.groups = [] ∧ Table.get 0
      (s.router k).freeAt (w.out * 2) ≤ s.clock.now ∧ s.hasCredit k v = true ∧ s.hasCredit k w = true ∧ 63 ≤ Table.get 0
      (s.router k).counts w.out) ∧
    (∃ (k : Nat) (v w : Waiting) (s : State), (s.router k).queue = [v, w] ∧ v.out = w.out ∧ outLanes w.out = 1 ∧ w.out < 8 ∧
      v.prio ≠ 0 ∧ v.prio ≠ 3 ∧ w.prio = 0 ∧ v.ready ≤ s.clock.now ∧ w.ready ≤ s.clock.now ∧ s.groups = [] ∧ Table.get 0
      (s.router k).freeAt (w.out * 2) ≤ s.clock.now ∧ s.hasCredit k v = true ∧ s.hasCredit k w = true ∧ Table.get 0
      (s.router k).counts w.out < 63) ∧
    (∃ (_d : Die) (_x _y : BitVec 5) (_o : BitVec 3) (s : State), s.inTick) ∧
    (∃ (hdr data : List Byte) (c : Nat) (s : State), s.hdrOk hdr = true ∧ (pktHdr hdr).kind = 0 ∧ nodeEnd (pktHdr hdr).dst <
      4 ∧ s.atEnd (pktHdr hdr) = true ∧ (pktHdr hdr).addr % 2 ^ 20 + data.length ≤ 2 ^ 20 ∧ s.packetCell (pktHdr hdr) = .ok
      c ∧ (1 < nodeEnd (pktHdr hdr).dst ∨ (s.mill (nodeMill (pktHdr hdr).dst)).accepted.toNat = (pktHdr hdr).pepoch)) ∧
    (∃ (hdr data : List Byte) (c : Nat) (s : State), s.hdrOk hdr = true ∧ (pktHdr hdr).kind = 0 ∧ nodeEnd (pktHdr hdr).dst <
      4 ∧ s.atEnd (pktHdr hdr) = true ∧ (pktHdr hdr).addr % 2 ^ 20 + data.length ≤ 2 ^ 20 ∧ s.packetCell (pktHdr hdr) = .ok
      c ∧ nodeEnd (pktHdr hdr).dst ≤ 1 ∧ (pktHdr hdr).slot = none ∧ (pktHdr hdr).tag % 8 ≠ 5 ∧ epochCheck (s.mill (nodeMill
      (pktHdr hdr).dst)).accepted.toNat (pktHdr hdr).pepoch = some .superseded) ∧
    (∃ (hdr : List Byte) (c : Nat) (s : State), s.hdrOk hdr = true ∧ (pktHdr hdr).kind = 1 ∧ nodeEnd (pktHdr hdr).dst < 4 ∧
      s.atEnd (pktHdr hdr) = true ∧ (pktHdr hdr).addr % 2 ^ 20 + 128 * max 1 (pktHdr hdr).flits ≤ 2 ^ 20 ∧ s.packetCell
      (pktHdr hdr) = .ok c ∧ s.badIn c (128 * max 1 (pktHdr hdr).flits) = false ∧ s.soft = []) ∧
    (∃ (m : MillIx) (_c : BitVec 4) (n : Byte) (s : State), s.millLive m.toNat = true ∧ n ≠ 0 ∧ (s.mill m.toNat).frozen =
      false) ∧
    (∃ (q : QueueIx) (f : CartFlight) (s : State), s.qs.flights.find? (fun f => decide (f.ring = q.toNat) && !f.local_) =
      some f ∧ (∀ e, f.epoch = some e → e = (s.queue q.toNat).pepoch)) ∧
    (∃ (q : QueueIx) (f : CartFlight) (s : State) (e : _), s.qs.flights.find? (fun f => decide (f.ring = q.toNat) &&
      !f.local_) = some f ∧ f.epoch = some e ∧ epochCheck (s.queue q.toNat).pepoch e = some .superseded ∧ f.slot = none) ∧
    (∃ (q : QueueIx) (f : CartFlight) (s : State) (e : _) (g : _), s.qs.flights.find? (fun f => decide (f.ring = q.toNat) &&
      !f.local_) = some f ∧ f.epoch = some e ∧ epochCheck (s.queue q.toNat).pepoch e = some .mismatch ∧ s.ringGroup q.toNat
      = some g) ∧
    (∃ (m : MillIx) (k : BitVec 3) (_absent : Bool) (sl : Slot) (l : Nat) (d : DescBytes) (s : State), (s.mill m.toNat).slot
      k.toNat = some sl ∧ sl.work = .stream l ∧ sl.descs = [d] ∧ descCq d = none ∧ sl.inCart = none ∧ sl.outCart = none ∧
      sl.shadow = none ∧ sl.heldRearm = false ∧ sl.refused = 0) :=
  ⟨⟨.w, 0, 0, 0, (pkt 0 0 0).bytes, [], 0, none, up, by decide⟩,
   ⟨.w, 0, 0, 0, (pkt 0 0 0).bytes, [0], 0, none, up, by decide⟩,
   ⟨.w, 0, 0, 0, (pkt 7 0 0).bytes, [], 0, none, up, by decide⟩,
   ⟨0, waitsFor 0 1, routes0 [waitsFor 0 1], by decide⟩,
   ⟨0, waitsFor 2 1, waitsFor 2 0, routes0 [waitsFor 2 1, waitsFor 2 0] 63, by decide⟩,
   ⟨0, waitsFor 2 1, waitsFor 2 0, routes0 [waitsFor 2 1, waitsFor 2 0], by decide⟩,
   ⟨.w, 0, 0, 0, up, by unfold State.inTick; decide⟩,
   ⟨(pkt 0 0 0xFFFFF).bytes, [7], loftCell 0 0xFFFFF, up,
     by and_intros <;> first | exact okIs (by decide +kernel) | decide +kernel⟩,
   ⟨(pkt 0 0 0xFFFFF).bytes, [7], loftCell 0 0xFFFFF, withMill 0 { accepted := 127 },
     by and_intros <;> first | exact okIs (by decide +kernel) | decide +kernel⟩,
   ⟨(pkt 1 0 0xFFF80 1).bytes, loftCell 0 0xFFF80, up,
     by and_intros <;> first | exact okIs (by decide +kernel) | decide +kernel⟩,
   ⟨0, 15, 255, up, by decide⟩,
   ⟨8192, { ring := 8192, cart := [], at_ := 0, local_ := false },
     { qs := { flights := [{ ring := 8192, cart := [], at_ := 0, local_ := false }] } }, by decide, fun _ h => nomatch h⟩,
   ⟨8192, { ring := 8192, cart := [], at_ := 0, local_ := false, epoch := some 0 },
     { qs := { queues := [(8192, { record := 127 * 2 ^ 80 })], flights := [{ ring := 8192, cart := [], at_ := 0, local_ := false, epoch := some 0 }] } },
     0, by decide +kernel⟩,
   ⟨8192, { ring := 8192, cart := [], at_ := 0, local_ := false, epoch := some 1 },
     { withGroup 2 { state := .running, almanac := some { alm with epochs := [(.ring 8192, 0)] } } with qs := { flights := [{ ring := 8192, cart := [], at_ := 0, local_ := false, epoch := some 1 }] } },
     1, 2, by decide⟩,
   ⟨0, 0, true, strmSlot (desc0 0), 2 ^ 44, desc0 0, slotted (strmSlot (desc0 0)), by decide⟩⟩

/-- Witnesses of StreamSlots, clause by clause. -/
theorem wit_StreamSlots :
    (∃ (m : MillIx) (k : BitVec 3) (sl : Slot) (l : Nat) (s : State) (ds : _), (s.mill m.toNat).slot k.toNat = some sl ∧
      sl.work = .stream l ∧ (s.mill m.toNat).frozen = false ∧ sl.asked = true ∧ sl.halted = false ∧ (s.mill m.toNat).parity
      = [] ∧ (sl.fetched = 0 → sl.start + 8 ≤ s.clock.now) ∧ s.readBurst m.toNat l sl.fetched = (.ok (some ds), s)) ∧
    (∃ (m : MillIx) (k : BitVec 3) (sl : Slot) (l : Nat) (s : State), (s.mill m.toNat).slot k.toNat = some sl ∧ sl.work =
      .stream l ∧ (s.mill m.toNat).frozen = false ∧ sl.asked = true ∧ sl.halted = false ∧ (s.mill m.toNat).parity = [] ∧
      (sl.fetched = 0 → sl.start + 8 ≤ s.clock.now) ∧ s.readBurst m.toNat l sl.fetched = (.error .faultPage, s) ∧ sl.descs =
      [] ∧ s.tilledRuns m.toNat = false) ∧
    (∃ (m : MillIx) (k : BitVec 3) (sl : Slot) (d : DescBytes) (rest : List DescBytes) (s : State), (s.mill m.toNat).slot
      k.toNat = some sl ∧ sl.descs = d :: rest ∧ sl.run = false ∧ sl.halted = false ∧ (s.mill m.toNat).frozen = false ∧
      (s.mill m.toNat).parity = [] ∧ (sl.ended = 0 → sl.firstAccess m.toNat ≤ s.clock.now) ∧ descOk m.toNat d = true ∧
      startHazards (s.mill m.toNat) m.toNat s.clock.now d = []) ∧
    (∃ (m : MillIx) (k : BitVec 3) (sl : Slot) (d : DescBytes) (rest : List DescBytes) (s : State), (s.mill m.toNat).slot
      k.toNat = some sl ∧ sl.descs = d :: rest ∧ sl.run = false ∧ sl.halted = false ∧ (s.mill m.toNat).frozen = false ∧
      (s.mill m.toNat).parity = [] ∧ (sl.ended = 0 → sl.firstAccess m.toNat ≤ s.clock.now) ∧ descOk m.toNat d = true ∧
      startHazards (s.mill m.toNat) m.toNat s.clock.now d ≠ [] ∧ (s.mill m.toNat).tilled = false) ∧
    (∃ (m : MillIx) (k : BitVec 3) (sl : Slot) (d : DescBytes) (rest : List DescBytes) (s : State), (s.mill m.toNat).slot
      k.toNat = some sl ∧ sl.descs = d :: rest ∧ sl.run = false ∧ sl.halted = false ∧ (s.mill m.toNat).frozen = false ∧
      (s.mill m.toNat).parity = [] ∧ (sl.ended = 0 → sl.firstAccess m.toNat ≤ s.clock.now) ∧ descOk m.toNat d = false) ∧
    (∃ (m : MillIx) (k : BitVec 3) (sl x : Slot) (d : DescBytes) (a f : Nat) (s u : State), s.runningSlot m.toNat k.toNat =
      some (sl, d) ∧ (s.mill m.toNat).parity = [] ∧ s.pieces m.toNat k.toNat sl d (pieceBound d) = (.page a f, x, u) ∧
      x.descs = [d] ∧ descCq d = none ∧ u.tilledRuns m.toNat = false) ∧
    (∃ (m : MillIx) (k : BitVec 3) (sl : Slot) (l : Nat) (d : DescBytes) (rest : List DescBytes) (s : State), (s.mill
      m.toNat).slot k.toNat = some sl ∧ sl.work = .stream l ∧ sl.descs = d :: rest ∧ sl.run = true ∧ sl.halted = false ∧
      sl.fin = true ∧ (s.mill m.toNat).frozen = false ∧ (s.mill m.toNat).parity = [] ∧ descCq d = none ∧ descLast d = true ∧
      sl.shadow = none ∧ sl.heldRearm = false ∧ sl.refused = 0) ∧
    (∃ (m : MillIx) (k : BitVec 3) (sl : Slot) (l : Nat) (d : DescBytes) (rest : List DescBytes) (s : State), (s.mill
      m.toNat).slot k.toNat = some sl ∧ sl.work = .stream l ∧ sl.descs = d :: rest ∧ sl.run = true ∧ sl.halted = false ∧
      sl.fin = true ∧ (s.mill m.toNat).frozen = false ∧ (s.mill m.toNat).parity = [] ∧ descCq d = none ∧ descLast d = false) ∧
    (∃ (m : MillIx) (k : BitVec 3) (sl : Slot) (d : DescBytes) (a b n : Nat) (s : State), s.runningSlot m.toNat k.toNat =
      some (sl, d) ∧ descMode d = 0 ∧ descIn d = false ∧ descOut d = false ∧ descAf d = false ∧ sl.outCart = none ∧ (s.mill
      m.toNat).parity = [] ∧ Table.get 0 (s.mill m.toNat).moveFree (carterIx (slotCarter k.toNat)) ≤ s.clock.now ∧ (rowAddr
      d sl.pos).map (· + sl.pos.off) = some a ∧ (addrAdd (descDst d) (flatRow d sl.pos * descStep d) (descDstRow d)).map (·
      + sl.pos.off) = some b ∧ field a 44 4 = 1 ∧ field b 44 4 = 1 ∧ addrMill a ≠ m.toNat ∧ s.millLive (addrMill a) = true ∧
      addrMill b = m.toNat ∧ s.millLive m.toNat = true ∧ n = min (min (descRow d - sl.pos.off) (descDstRow d - sl.pos.off))
      (min (ioRoom a) (ioRoom b)) ∧ 0 < n ∧ a % 2 ^ 20 + n ≤ 2 ^ 20 ∧ b % 2 ^ 20 + n ≤ 2 ^ 20 ∧ s.bad = [] ∧ s.soft = [] ∧
      (s.mill m.toNat).portLost s.clock.now (loftKeys (b % 2 ^ 20) n true) (portRankOf (slotCarter k.toNat).eng) = false ∧
      (s.mill m.toNat).portLate s.clock.now (loftKeys (b % 2 ^ 20) n true) (portRankOf (slotCarter k.toNat).eng) = false) ∧
    (∃ (m _c k _n o p : Nat) (_cr : Carter) (sl : Slot) (a : MovArgs) (s : State), (s.mill m).slot k = some sl ∧ a.src =
      .loft o ∧ a.dst = .loft p ∧ s.bad = []) ∧
    (∃ (m : MillIx) (k : BitVec 3) (sl : Slot) (a : MovArgs) (s u : State), (s.mill m.toNat).slot k.toNat = some sl ∧
      sl.work = .move a ∧ (s.mill m.toNat).frozen = false ∧ (s.mill m.toNat).parity = [] ∧ u = s.advanceTo (max s.clock.now
      (sl.start + 8) + (s.mill m.toNat).moveLoad (slotCarter k.toNat)) ∧ (u.mill m.toNat).slot k.toNat = none) ∧
    (∃ (m : MillIx) (k : BitVec 3) (sl : Slot) (a : MovArgs) (s u : State) (x : _), (s.mill m.toNat).slot k.toNat = some sl
      ∧ sl.work = .move a ∧ (s.mill m.toNat).frozen = false ∧ (s.mill m.toNat).parity = [] ∧ u = s.advanceTo (max
      s.clock.now (sl.start + 8) + (s.mill m.toNat).moveLoad (slotCarter k.toNat)) ∧ (u.mill m.toNat).slot k.toNat = some x) ∧
    (∃ (w : Writer) (m : MillIx) (v : Word) (s : State), s.mayHost w = true ∧ s.millLive m.toNat = true ∧ 65536 ≤ v.toNat) ∧
    (∃ (w : Writer) (m : MillIx) (v : Word) (s : State), s.mayHost w = true ∧ s.millLive m.toNat = true ∧ v.toNat < 256) ∧
    (∃ (w : Writer) (m : MillIx) (k l : Nat) (sl : Slot) (d : DescBytes) (s : State), s.mayHost w = true ∧ s.millLive
      m.toNat = true ∧ k < 8 ∧ (s.mill m.toNat).slot k = some sl ∧ sl.work = .stream l ∧ sl.halted = true ∧ sl.descs = [d] ∧
      descCq d = none ∧ sl.inCart = none ∧ sl.outCart = none ∧ sl.shadow = none ∧ sl.heldRearm = false ∧ sl.refused = 0) :=
  ⟨⟨0, 0, { work := .stream (2 ^ 44), asked := true }, 2 ^ 44, slotted { work := .stream (2 ^ 44), asked := true },
     cutDescs (burstLen (2 ^ 44) 0) (List.replicate (64 * burstLen (2 ^ 44) 0) 0),
     by and_intros <;> first | exact okEq (by decide +kernel) | exact errEq (by decide +kernel) | decide +kernel⟩,
   ⟨0, 0, { work := .stream 0, asked := true }, 0, slotted { work := .stream 0, asked := true },
     by and_intros <;> first | exact okEq (by decide +kernel) | exact errEq (by decide +kernel) | decide +kernel⟩,
   ⟨0, 0, strmSlot (desc0 0), desc0 0, [], slotted (strmSlot (desc0 0)), by decide⟩,
   ⟨0, 0, strmSlot (desc0 0), desc0 0, [],
     { withMill 0 { slots := [(0, some (strmSlot (desc0 0)))], marks := [(16, { pending := 1 })] } with clock := { now := 12 } },
     by decide⟩,
   ⟨0, 0, strmSlot [], [], [], slotted (strmSlot []), by decide⟩,
   ⟨0, 0, { strmSlot (descB 0 0 (2 ^ 44)) with run := true }, { strmSlot (descB 0 0 (2 ^ 44)) with run := true },
     descB 0 0 (2 ^ 44), 0, 1, slotted { strmSlot (descB 0 0 (2 ^ 44)) with run := true },
     slotted { strmSlot (descB 0 0 (2 ^ 44)) with run := true }, by decide +kernel⟩,
   ⟨0, 0, { strmSlot (desc0 64) with run := true, fin := true }, 2 ^ 44, desc0 64, [],
     slotted { strmSlot (desc0 64) with run := true, fin := true }, by decide⟩,
   ⟨0, 0, { strmSlot (desc0 0) with run := true, fin := true }, 2 ^ 44, desc0 0, [],
     slotted { strmSlot (desc0 0) with run := true, fin := true }, by decide⟩,
   ⟨0, 0, { strmSlot (desc0 0) with run := true }, desc0 0, 2 ^ 44 + 2 ^ 20, 2 ^ 44, 64,
     slotted { strmSlot (desc0 0) with run := true }, by decide +kernel⟩,
   ⟨0, 0, 0, 1, 0, 0x8000, .ca, mvSlot, mvA, withMill 0 { slots := [(0, some mvSlot)] }, by decide⟩,
   ⟨0, 0, mvSlot, mvA, slotted mvSlot 0, _, rfl, rfl, rfl, rfl, rfl, by decide +kernel⟩,
   ⟨0, 0, { work := .move { mvA with src := .fifo } }, { mvA with src := .fifo },
     slotted { work := .move { mvA with src := .fifo } } 0, _, _, rfl, rfl, rfl, rfl, rfl, rfl⟩,
   ⟨.hostP, 0, 65536, up, by decide⟩,
   ⟨.hostP, 0, 255, up, by decide⟩,
   ⟨.hostP, 0, 0, 2 ^ 44, { strmSlot (desc0 0) with halted := true }, desc0 0,
     slotted { strmSlot (desc0 0) with halted := true }, by decide⟩⟩

/-- Witnesses of FieldPortCarts, clause by clause. -/
theorem wit_FieldPortCarts :
    (∃ (p : PortIx) (q : QueueIx) (r : Route) (n : Nat) (c b : List Byte) (s u : State), s.portUp p.toNat = true ∧ s.userIo
      = true ∧ (s.queue q.toNat).portIs p.toNat = true ∧ (s.queue q.toNat).tilled = false ∧ s.canTake q.toNat = .ok ∧
      s.routes.paths.find? (fun r => decide (r.1 = (s.queue q.toNat).arg / 65536)) = some (n, r) ∧ s.takeCart q.toNat =
      (some c, u) ∧ cartOk c = true ∧ u.streamRead .port (cartAddr c) (cartFill c) = (.ok (some b), u)) ∧
    (∃ (p : PortIx) (q : QueueIx) (r : Route) (n : Nat) (_c _b : List Byte) (s _u : State), s.portUp p.toNat = true ∧
      s.userIo = true ∧ (s.queue q.toNat).portIs p.toNat = true ∧ (s.queue q.toNat).tilled = true ∧ s.canTake q.toNat = .ok
      ∧ s.routes.paths.find? (fun r => decide (r.1 = (s.queue q.toNat).arg / 65536)) = some (n, r) ∧ s.sendGroup p q = none) ∧
    (∃ (p : PortIx) (q : QueueIx) (r : Route) (n : Nat) (c b : List Byte) (s u : State) (g : Nat), s.portUp p.toNat = true ∧
      s.userIo = true ∧ (s.queue q.toNat).portIs p.toNat = true ∧ (s.queue q.toNat).tilled = true ∧ s.canTake q.toNat = .ok
      ∧ s.routes.paths.find? (fun r => decide (r.1 = (s.queue q.toNat).arg / 65536)) = some (n, r) ∧ s.sendGroup p q = some
      g ∧ s.takeCart q.toNat = (some c, u) ∧ cartOk c = true ∧ u.streamRead .port (cartAddr c) (cartFill c) = (.ok (some b),
      u)) ∧
    (∃ (p : PortIx) (y : PortSend) (rest : List PortSend) (s : State), (s.port p.toNat).sends = y :: rest ∧ (s.port
      p.toNat).bookedTx = [] ∧ (s.port p.toNat).waiting = [] ∧ (s.port p.toNat).replay = [] ∧ s.canPut (s.queue y.ring).pair
      = .ok) ∧
    (∃ (p : PortIx) (y : PortSend) (_rest : List PortSend) (s : State), (s.port p.toNat).sends = [y] ∧ y.booked = false ∧ (∃
      g ∈ (s.port p.toNat).waiting ++ (s.port p.toNat).replay, g.no < y.sent)) ∧
    (∃ (p : PortIx) (x : Parcel) (s : State), (s.port p.toNat).parked = none ∧ (s.port p.toNat).arrived = [x] ∧ leAt x.hdr 1
      1 = 0 ∧ s.ingressOk (leAt x.hdr 24 2) = false) ∧
    (∃ (p : PortIx) (x : Parcel) (s : State) (i : Ingress), (s.port p.toNat).parked = none ∧ (s.port p.toNat).arrived = [x]
      ∧ leAt x.hdr 1 1 = 0 ∧ s.ingressOk (leAt x.hdr 24 2) = true ∧ (s.queue (leAt x.hdr 24 2)).pepoch = leAt x.hdr 2 1 ∧
      (s.port p.toNat).ingress = [i] ∧ i.ring = leAt x.hdr 24 2 ∧ i.cart ≠ [] ∧ leAt x.hdr 28 4 = i.next ∧ leAt x.hdr 34 2 =
      i.src ∧ i.next + leAt x.hdr 32 2 ≤ cartLen i.cart ∧ 0 < leAt x.hdr 32 2 ∧ leAt x.hdr 32 2 ≤ 4096 ∧ x.data.length =
      leAt x.hdr 32 2 ∧ bitOf (leAt x.hdr 27 1) 1 = false ∧ field (cartAddr i.cart + i.next) 44 4 = 1 ∧ s.millLive (addrMill
      (cartAddr i.cart + i.next)) = true ∧ (cartAddr i.cart + i.next) % 2 ^ 20 + x.data.length ≤ 2 ^ 20 ∧ s.bad = []) ∧
    (∃ (p : PortIx) (x : Parcel) (s : State), (s.port p.toNat).parked = none ∧ (s.port p.toNat).arrived = [x] ∧ leAt x.hdr 1
      1 = 0 ∧ s.ingressOk (leAt x.hdr 24 2) = true ∧ (s.queue (leAt x.hdr 24 2)).pepoch = leAt x.hdr 2 1 ∧ (s.port
      p.toNat).ingress = [] ∧ bitOf (leAt x.hdr 27 1) 0 = true ∧ s.canTake (s.queue (leAt x.hdr 24 2)).pair = .wait) ∧
    (∃ (_p : PortIx) (_ring : BitVec 16) (st : Status) (_s : State), (st = .ok ∨ st = .absent)) ∧
    (∃ (_p : PortIx) (_ring : BitVec 16) (st : Status) (s : State), (st = .denied ∨ st = .timeout) ∧ s.mills = []) ∧
    (∃ (p : PortIx) (x : Parcel) (s : State), (s.port p.toNat).parked = some x ∧ (∀ i ∈ (s.port p.toNat).ingress, i.ring ≠
      leAt x.hdr 24 2) ∧ s.canTake (s.queue (leAt x.hdr 24 2)).pair = .wait) ∧
    (∃ (p : PortIx) (x : Parcel) (s : State), (s.port p.toNat).parked = some x ∧ s.canTake (s.queue (leAt x.hdr 24 2)).pair
      ≠ .wait ∧ s.ingressOk (leAt x.hdr 24 2) = false) ∧
    (∃ (p : PortIx) (x : Parcel) (s : State), (s.port p.toNat).parked = some x ∧ x.since + 130000 ≤ s.clock.now) :=
  ⟨⟨0, 8192, { left := 0, hops := 1, node := 0 }, 1, crt, List.replicate 64 0, carted, (carted.takeCart 8192).2,
     by and_intros <;> first | exact okEq (by decide +kernel) | decide +kernel⟩,
   ⟨0, 8192, { left := 0, hops := 1, node := 0 }, 1, crt, List.replicate 64 0, cartedT, (cartedT.takeCart 8192).2,
     by and_intros <;> first | exact okEq (by decide +kernel) | decide +kernel⟩,
   ⟨0, 8192, { left := 0, hops := 1, node := 0 }, 1, crt, List.replicate 64 0, cartedG, (cartedG.takeCart 8192).2, 5,
     by and_intros <;> first | exact okEq (by decide +kernel) | decide +kernel⟩,
   ⟨0, psend 64, [], ringed (withPort 0 { upPort with sends := [psend 64] }), by decide⟩,
   ⟨0, psend 1, [], withPort 0 { upPort with sends := [psend 1], replay := [{ no := 0, first := true, data := [] }] },
     by decide⟩,
   ⟨0, parcel 8191 0, withPort 0 { upPort with arrived := [parcel 8191 0] }, by decide⟩,
   ⟨0, parcel 8192 0,
     ringed (withPort 0 { upPort with arrived := [parcel 8192 0], ingress := [{ ring := 8192, cart := crt, next := 0, src := 0 }] }) (2 ^ 56),
     { ring := 8192, cart := crt, next := 0, src := 0 }, by decide +kernel⟩,
   ⟨0, parcel 8192 1, ringed (withPort 0 { upPort with arrived := [parcel 8192 1] }) (2 ^ 56), by decide +kernel⟩,
   ⟨0, 0, .ok, {}, by decide⟩,
   ⟨0, 0, .denied, {}, by decide⟩,
   ⟨0, parcel 8192 0, ringed (withPort 0 { upPort with parked := some (parcel 8192 0) }), by decide⟩,
   ⟨0, parcel 8191 0, withPort 0 { upPort with parked := some (parcel 8191 0) }, by decide⟩,
   ⟨0, parcel 8192 0, { withPort 0 { upPort with parked := some (parcel 8192 0) } with clock := { now := 130000 } },
     by decide⟩⟩

/-- Witnesses of QueueControl, clause by clause. -/
theorem wit_QueueControl :
    (∃ (w : Writer) (q : QueueIx) (v : BitVec 17) (s : State), w.priv = true ∧ w.reeve = false ∧ s.shutOut w = false ∧
      s.bootRom = false ∧ (s.queue q.toNat).en = true ∧ (s.queue q.toNat).fault = false ∧ (s.queue q.toNat).reeve = false ∧
      (s.queue q.toNat).countsOk = true ∧ q.toNat < 4096 ∧ (v - (s.queue q.toNat).head.v).toNat ≤ (s.queue q.toNat).size) ∧
    (∃ (w : Writer) (q : QueueIx) (v : BitVec 17) (s : State), w.priv = true ∧ w.reeve = false ∧ s.shutOut w = false ∧
      s.bootRom = false ∧ (s.queue q.toNat).en = true ∧ (s.queue q.toNat).fault = false ∧ (s.queue q.toNat).reeve = false ∧
      (s.queue q.toNat).countsOk = true ∧ q.toNat < 4096 ∧ (s.queue q.toNat).size < (v - (s.queue q.toNat).head.v).toNat) ∧
    (∃ (w : Writer) (q : QueueIx) (_v : BitVec 17) (s : State), w.priv = true ∧ w.reeve = false ∧ s.shutOut w = false ∧
      s.bootRom = false ∧ (s.queue q.toNat).en = false) ∧
    (∃ (q : QueueIx) (_v : BitVec 17) (s : State), s.bootRom = false ∧ q.toNat < 8192 ∧ (s.queue q.toNat).en = true ∧
      (s.queue q.toNat).fault = false ∧ (s.queue q.toNat).priv = true) ∧
    (∃ (q : QueueIx) (v : BitVec 17) (s : State), 4096 ≤ q.toNat ∧ q.toNat < 8192 ∧ (s.queue q.toNat).en = true ∧ (s.queue
      q.toNat).fault = false ∧ (s.queue q.toNat).reeve = true ∧ (s.queue q.toNat).countsOk = true ∧ (v - (s.queue
      q.toNat).head.v).toNat ≤ (s.queue q.toNat).occ) ∧
    (∃ (q : QueueIx) (s : State) (a : _) (b : _), q.toNat < 4096 ∧ (s.queue q.toNat).en = true ∧ (s.queue q.toNat).fault =
      false ∧ (s.queue q.toNat).fetch = false ∧ (s.queue q.toNat).wdr = false ∧ (s.queue q.toNat).disabling = false ∧
      (s.queue q.toNat).burst ≠ 0 ∧ (s.queue q.toNat).countsOk = true ∧ a = (s.queue q.toNat).base + 64 * (((s.queue
      q.toNat).head.v.toNat + (s.queue q.toNat).fetched.length) % (s.queue q.toNat).size) ∧ field a 44 4 = 1 ∧ s.millLive
      (addrMill a) = true ∧ a % 2 ^ 20 + 64 * (s.queue q.toNat).burst ≤ 2 ^ 20 ∧ s.bad = [] ∧ s.soft = [] ∧ b = Memory.readN
      s.mem (loftCell (addrMill a) (a % 2 ^ 20)) (64 * (s.queue q.toNat).burst)) ∧
    (∃ (q : QueueIx) (s : State) (b : _), q.toNat < 4096 ∧ (s.queue q.toNat).en = true ∧ (s.queue q.toNat).fault = false ∧
      (s.queue q.toNat).fetch = false ∧ (s.queue q.toNat).wdr = false ∧ (s.queue q.toNat).disabling = false ∧ (s.queue
      q.toNat).burst ≠ 0 ∧ (s.queue q.toNat).countsOk = true ∧ s.streamRead (.queue (queueDie q.toNat)) ((s.queue
      q.toNat).base + 64 * (((s.queue q.toNat).head.v.toNat + (s.queue q.toNat).fetched.length) % (s.queue q.toNat).size))
      (64 * (s.queue q.toNat).burst) = (.ok (some b), s)) ∧
    (∃ (q : QueueIx) (s : State) (st : _), q.toNat < 4096 ∧ (s.queue q.toNat).en = true ∧ (s.queue q.toNat).fault = false ∧
      (s.queue q.toNat).fetch = false ∧ (s.queue q.toNat).wdr = false ∧ (s.queue q.toNat).disabling = false ∧ (s.queue
      q.toNat).burst ≠ 0 ∧ (s.queue q.toNat).countsOk = true ∧ s.streamRead (.queue (queueDie q.toNat)) ((s.queue
      q.toNat).base + 64 * (((s.queue q.toNat).head.v.toNat + (s.queue q.toNat).fetched.length) % (s.queue q.toNat).size))
      (64 * (s.queue q.toNat).burst) = (.error st, s)) ∧
    (∃ (w : Writer) (q : QueueIx) (_clr : Bool) (s : State), s.mayHost w = true ∧ q.toNat < 8192 ∧ 4 ≤ (s.queue q.toNat).lg
      ∧ (s.queue q.toNat).lg ≤ 16) ∧
    (∃ (w : Writer) (q : QueueIx) (_clr : Bool) (s : State), s.mayHost w = true ∧ q.toNat < 8192 ∧ (s.queue q.toNat).lg < 4) ∧
    (∃ (w : Writer) (q : QueueIx) (s : State), s.mayHost w = true ∧ (s.queue q.toNat).fetched = []) ∧
    (∃ (w : Writer) (q : QueueIx) (s : State), s.mayHost w = true ∧ (s.queue q.toNat).fetched ≠ [] ∧ (s.queue q.toNat).en =
      true) ∧
    (∃ (w : Writer) (q : QueueIx) (s : State), s.mayHost w = true ∧ (s.queue q.toNat).en = false) ∧
    (∃ (w : Writer) (q : BitVec 13) (i : BitVec 3) (_v : Word) (s : State), s.mayHost w = true ∧ i.toNat < 6 ∧ (s.queue
      q.toNat).en = false) ∧
    (∃ (w : Writer) (q : BitVec 13) (i : BitVec 3) (_v : Word) (s : State), s.mayHost w = true ∧ i.toNat < 6 ∧ (s.queue
      q.toNat).en = true) :=
  ⟨⟨.hostP, 4095, 16, withQueue 4095 (qHolds 0 0), by decide⟩,
   ⟨.hostP, 4095, 17, withQueue 4095 (qHolds 0 0), by decide⟩,
   ⟨.hostP, 4096, 0, withQueue 4096 {}, by decide⟩,
   ⟨8191, 0, withQueue 8191 (qHolds (2 ^ 56) 0), by decide⟩,
   ⟨4096, 1, withQueue 4096 (qHolds (2 ^ 57) 1), by decide⟩,
   ⟨4094, withQueue 4094 (qHolds 0 1), 2 ^ 44 + 2 ^ 20, List.replicate 64 0, by decide +kernel⟩,
   ⟨4094, withQueue 4094 (qHolds 0 1), List.replicate 64 0,
     by and_intros <;> first | exact okEq (by decide +kernel) | decide +kernel⟩,
   ⟨0, withQueue 0 (qHolds (2 ^ 45) 1), .absent, by and_intros <;> first | exact errEq (by decide +kernel) | decide +kernel⟩,
   ⟨.hostP, 8191, true, withQueue 8191 (qHolds 0 0), by decide⟩,
   ⟨.hostP, 0, false, withQueue 0 {}, by decide⟩,
   ⟨.hostP, 0, withQueue 0 {}, by decide⟩,
   ⟨.hostP, 0, withQueue 0 { en := true, fetched := [[]] }, by decide⟩,
   ⟨.hostP, 0, withQueue 0 {}, by decide⟩,
   ⟨.hostP, 0, 5, 0, withQueue 0 {}, by decide⟩,
   ⟨.hostP, 0, 0, 0, withQueue 0 { en := true }, by decide⟩⟩

/-- Witnesses of QueueService, clause by clause. -/
theorem wit_QueueService :
    (∃ (d : Die) (q : Nat) (e : List Byte) (s : State), s.nextEntry d q e ∧ entryOp e = 1 ∧ entryAny e = false ∧
      s.cannotTake (entryMill e) = none ∧ s.eligible (entryMill e) = true) ∧
    (∃ (d : Die) (q : Nat) (e : List Byte) (s : State) (a : _), s.nextEntry d q e ∧ entryOp e = 1 ∧ entryAny e = false ∧
      s.cannotTake (entryMill e) = some a) ∧
    (∃ (d : Die) (q : Nat) (e : List Byte) (s : State), s.nextCommand d q 2 e ∧ s.cannotTake (entryMill e) = none ∧
      entryEntry e ≠ 0 ∧ entryMill e + entryEntry e ≤ 1152) ∧
    (∃ (d : Die) (q : Nat) (e : List Byte) (s : State), s.nextCommand d q 3 e ∧ s.cannotTake (entryMill e) = none ∧
      entryEntry e % 4 = 1 ∧ 1 ≤ entryArg e 1 ∧ entryArg e 1 ≤ 1000 ∧ (∀ x, ((s.mill (entryMill e)).eng x).queue = []) ∧
      (s.mill (entryMill e)).parity = [] ∧ (∀ k, (s.mill (entryMill e)).slot k = none)) ∧
    (∃ (d : Die) (q : Nat) (e : List Byte) (s : State), s.nextCommand d q 4 e ∧ entryEntry e % 4 = 0 ∧ s.cannotTake
      (entryArg e 0) = none ∧ s.millHeld (entryArg e 0) = false ∧ (s.mill (entryArg e 0)).held.toNat = entryArg e 1 % 256) ∧
    (∃ (d : Die) (q : Nat) (e : List Byte) (x : Queue) (s : State), s.nextCommand d q 5 e ∧ 8192 ≤ entryEntry e ∧ entryEntry
      e < 32768 ∧ q < 4096 ∧ x = { record := BitVec.ofNat 192 (leAt e 20 24), written := true, en := true } ∧ x.ringRecordOk
      = true ∧ x.tilled = false ∧ (s.queue (entryEntry e)).occ = 0 ∧ (s.queue x.pair).occ = 0 ∧ s.qs.flights = [] ∧ s.groups
      = []) ∧
    (∃ (d : Die) (q : Nat) (e : List Byte) (s : State), s.nextCommand d q 6 e ∧ s.cannotTake (entryMill e) = none ∧ entryArg
      e 0 < 256) ∧
    (∃ (d : Die) (c : Completion) (s : State) (a : _), s.qs.pend d = [c] ∧ (s.queue c.cq).en = true ∧ (s.queue c.cq).fault =
      false ∧ (s.queue c.cq).countsOk = true ∧ (s.queue c.cq).occ < (s.queue c.cq).size ∧ (s.queue c.cq).alert = false ∧ a =
      (s.queue c.cq).base + 32 * ((s.queue c.cq).tail.v.toNat % (s.queue c.cq).size) ∧ field a 44 4 = 1 ∧ s.millLive
      (addrMill a) = true ∧ a % 2 ^ 20 + 32 ≤ 2 ^ 20 ∧ s.bad = []) ∧
    (∃ (q : QueueIx) (f : FenceRun) (s : State), s.qs.fences.find? (fun f => decide (f.ref.sq = q.toNat) && s.fenceMet f) =
      some f ∧ f.ref.cq = none) ∧
    (∃ (q : QueueIx) (w : WithdrawRun) (s : State), s.qs.withdraws.find? (fun w => decide (w.ref.sq = q.toNat) &&
      !w.expired) = some w ∧ w.deadline ≤ s.clock.now ∧ w.force = false) ∧
    (∃ (q : QueueIx) (w : WithdrawRun) (s : State), s.qs.withdraws.find? (fun w => decide (w.ref.sq = q.toNat) &&
      s.withdrawMet w) = some w ∧ w.ref.cq = none) :=
  ⟨⟨.w, 0, ent 1 0 0, served (ent 1 0 0), by unfold State.nextEntry; decide +kernel⟩,
   ⟨.w, 0, ent 1 1 0, served (ent 1 1 0), (.absent, 2), by unfold State.nextEntry; decide +kernel⟩,
   ⟨.w, 0, ent 2 0 1152, served (ent 2 0 1152) (2 ^ 56), by unfold State.nextCommand State.nextEntry; decide +kernel⟩,
   ⟨.w, 0, ent 3 0 1 (toLe 8 (1000 * 2 ^ 32)), served (ent 3 0 1 (toLe 8 (1000 * 2 ^ 32))) (2 ^ 56),
     by unfold State.nextCommand State.nextEntry; decide +kernel, by decide +kernel, by decide +kernel, by decide +kernel,
     by decide +kernel, (fun x => by cases x <;> decide), rfl, (fun _ => rfl)⟩,
   ⟨.w, 0, ent 4 0 0, served (ent 4 0 0) (2 ^ 56), by unfold State.nextCommand State.nextEntry; decide +kernel⟩,
   ⟨.w, 0, ent 5 0 8192 (toLe 24 (qRec (8194 * 2 ^ 64)).toNat),
     { record := qRec (8194 * 2 ^ 64), written := true, en := true },
     served (ent 5 0 8192 (toLe 24 (qRec (8194 * 2 ^ 64)).toNat)) (2 ^ 56),
     by unfold State.nextCommand State.nextEntry; decide +kernel⟩,
   ⟨.w, 0, ent 6 0 0 (toLe 4 255), served (ent 6 0 0 (toLe 4 255)) (2 ^ 56),
     by unfold State.nextCommand State.nextEntry; decide +kernel⟩,
   ⟨.w, cpl, { up with qs := { queues := [(4096, qHolds 0 15)], pendW := [cpl] } }, 2 ^ 44 + 2 ^ 20 + 480, by decide⟩,
   ⟨0, { ref := cref, first := 0, count := 0, engs := [] },
     { qs := { fences := [{ ref := cref, first := 0, count := 0, engs := [] }] } }, by decide⟩,
   ⟨0, wdr, { qs := { withdraws := [wdr] } }, by decide⟩,
   ⟨0, wdr, { qs := { withdraws := [wdr] } }, by decide⟩⟩

/-- Witnesses of Granaries, clause by clause. -/
theorem wit_Granaries :
    (∃ (k : SiteIx) (_a : BitVec 36) (_src : BitVec 16) (_tag : Byte) (_wr : Bool) (_mask : BitVec 64) (_data : List Byte)
      (s : State), s.siteOpen k.toNat = false) ∧
    (∃ (k : SiteIx) (a : BitVec 36) (_src : BitVec 16) (_tag : Byte) (_wr : Bool) (_mask : BitVec 64) (_data : List Byte) (s
      : State), s.siteOpen k.toNat = true ∧ ((s.granary k.toNat).pc ((s.granary k.toNat).pcOf a.toNat)).wr = [] ∧
      ((s.granary k.toNat).pc ((s.granary k.toNat).pcOf a.toNat)).rd.length < 64) ∧
    (∃ (k : SiteIx) (p i : BitVec 6) (r : GrnReq) (s : State), s.siteOpen k.toNat = true ∧ (s.granary k.toNat).window = none
      ∧ s.groups = [] ∧ s.bad = [] ∧ s.soft = [] ∧ r.data.length = 64 ∧ ((s.granary k.toNat).pc p.toNat).wr[i.toNat]? = some
      r ∧ (∀ w ∈ ((s.granary k.toNat).pc p.toNat).wr.take i.toNat, w.same r = false)) ∧
    (∃ (k : SiteIx) (p i : BitVec 6) (r : GrnReq) (s : State), s.siteOpen k.toNat = true ∧ (s.granary k.toNat).window = none
      ∧ s.groups = [] ∧ s.bad = [] ∧ s.soft = [] ∧ r.data.length = 64 ∧ ((s.granary k.toNat).pc p.toNat).rd[i.toNat]? = some
      r ∧ r.waits = none) ∧
    (∃ (k : SiteIx) (p : BitVec 6) (r : GrnRead) (s : State), (s.granary k.toNat).reads.find? (fun r => decide (r.pc =
      p.toNat)) = some r ∧ r.code = 0 ∧ r.due ≤ s.clock.now) ∧
    (∃ (k : SiteIx) (c : GrnCmd) (rest : List GrnCmd) (s : State), s.siteOpen k.toNat = true ∧ (s.granary k.toNat).booked =
      c :: rest ∧ c.data.length = 64) ∧
    (∃ (s : State), s.clock.cyc = 0 ∧ s.clock.tick.toNat % s.cadence.interval = 0 ∧ s.clock.tick.toNat % 1024 ≠ 0) ∧
    (∃ (s : State), s.clock.cyc = 0 ∧ s.clock.tick.toNat % 1024 = 0) ∧
    (∃ (n : Nat) (s : State), s.granaries.findSome? (fun g => g.2.window) = some n ∧ n ≤ s.clock.now) ∧
    (∃ (k : SiteIx) (temp : Byte) (s : State), s.hasGranary k.toNat = true ∧ (s.granary k.toNat).powered = true ∧
      s.clock.tick.toNat % 256 = 0 ∧ temp.toNat ≤ 85) ∧
    (∃ (k : SiteIx) (temp : Byte) (s : State), s.hasGranary k.toNat = true ∧ (s.granary k.toNat).powered = true ∧
      s.clock.tick.toNat % 256 = 0 ∧ 85 < temp.toNat ∧ s.cadence.hot = false ∧ s.cadence.next ≠ some true ∧
      s.hp.alerts.length < 64) ∧
    (∃ (b : Bool) (s : State), s.cadence.next = some b ∧ s.clock.tick.toNat % 65536 = 0 ∧ s.clock.cyc = 0) ∧
    (∃ (w : Writer) (hot : Bool) (s : State), s.mayHost w = true ∧ s.almanacOf (!hot) = true) ∧
    (∃ (w : Writer) (hot : Bool) (s : State), s.mayHost w = true ∧ hot = false ∧ (∃ k, k < 12 ∧ s.hasGranary k = true ∧ 80 <
      (s.granary k).temp.toNat)) ∧
    (∃ (w : Writer) (hot : Bool) (s : State), s.mayHost w = true ∧ hot = true ∧ s.almanacOf false = false) ∧
    (∃ (w : Writer) (k : SiteIx) (s : State), s.mayHost w = true ∧ s.hasGranary k.toNat = true ∧ (s.granary k.toNat).state =
      2) ∧
    (∃ (w : Writer) (k : SiteIx) (s : State), s.mayHost w = true ∧ s.hasGranary k.toNat = true ∧ (s.granary k.toNat).state ≠
      2) ∧
    (∃ (w : Writer) (k : SiteIx) (s : State) (h : BitVec 4) (v o : Word) (n : Nat), s.mayHost w = true ∧ s.hasGranary
      k.toNat = true ∧ h.toNat < 12 ∧ (s.granary k.toNat).opened = false ∧ (s.granary k.toNat).stageL.find? (fun e => decide
      (e.1 = h.toNat)) = some (n, o) ∧ maskOk h.toNat ((v &&& 0xFF).toNat * 2 ^ 32 + o.toNat) = true) ∧
    (∃ (k : SiteIx) (lg : BitVec 5) (_pt : BitVec 2) (_dir _pc : Bool) (_ch : BitVec 5) (s : State), s.hasGranary k.toNat =
      true ∧ (s.granary k.toNat).busy = false ∧ (s.granary k.toNat).state ≤ 2 ∧ (s.granary k.toNat).opened = false ∧
      lg.toNat ≤ 16) ∧
    (∃ (k : SiteIx) (_errs : List (BitVec 16)) (s : State), (s.granary k.toNat).busy = true ∧ (s.granary k.toNat).opened =
      false) ∧
    (∃ (k : SiteIx) (l : BitVec 6) (_a _b : BitVec 7) (s : State), s.hasGranary k.toNat = true ∧ l.toNat < 34 ∧ (s.granary
      k.toNat).opened = false) ∧
    (∃ (k : SiteIx) (_ok : Bool) (_ls : List (BitVec 16)) (s : State), s.hasGranary k.toNat = true ∧ (s.granary
      k.toNat).opened = false ∧ (s.granary k.toNat).state ≤ 1) ∧
    (∃ (k : SiteIx) (_a : BitVec 36) (s : State), s.hasGranary k.toNat = true ∧ (s.granary k.toNat).powered = true ∧
      s.clock.tick.toNat % 65536 < 4 ∧ s.groups = []) :=
  ⟨⟨0, 0, 0, 0, true, 0, [], up, by decide⟩,
   ⟨11, 0, 0, 0, true, 0, [], withGranary 11 openG, by decide⟩,
   ⟨0, 63, 0, greq true, withGranary 0 { openG with queues := [(63, { wr := [greq true] })] }, by decide⟩,
   ⟨0, 63, 0, greq false, withGranary 0 { openG with queues := [(63, { rd := [greq false] })] }, by decide⟩,
   ⟨0, 0, { pc := 0, req := greq false, data := [], code := 0 },
     withGranary 0 { openG with reads := [{ pc := 0, req := greq false, data := [], code := 0 }] }, by decide⟩,
   ⟨0, { site := 0, addr := 0, write := true, data := List.replicate 64 0 }, [],
     withGranary 0 { openG with booked := [{ site := 0, addr := 0, write := true, data := List.replicate 64 0 }] },
     by decide⟩,
   ⟨{ clock := { tick := 4 } }, by decide⟩,
   ⟨{ clock := { tick := 1024 } }, by decide⟩,
   ⟨0, withGranary 0 { openG with window := some 0 }, by decide⟩,
   ⟨0, 85, { withGranary 0 openG with clock := { tick := 256 } }, by decide⟩,
   ⟨0, 86, { withGranary 0 openG with clock := { tick := 256 } }, by decide⟩,
   ⟨false, { cadence := { next := some false }, clock := { tick := 65536 } }, by decide⟩,
   ⟨.hostP, true, withGroup 0 { state := .seated, almanac := some alm }, by decide⟩,
   ⟨.hostP, false, withGranary 0 { temp := 81 }, by decide⟩,
   ⟨.hostP, true, up, by decide⟩,
   ⟨.hostP, 0, withGranary 0 openG, by decide⟩,
   ⟨.hostP, 0, up, by decide⟩,
   ⟨.hostP, 0, withGranary 0 { stageL := [(11, 2 ^ 21)] }, 11, 0, 2 ^ 21, 11, by decide +kernel⟩,
   ⟨0, 16, 0, true, true, 0, withGranary 0 { state := 1 }, by decide⟩,
   ⟨0, [], withGranary 0 { state := 1, busy := true }, by decide⟩,
   ⟨0, 33, 0, 0, up, by decide⟩,
   ⟨0, true, [], withGranary 0 { state := 1 }, by decide⟩,
   ⟨0, 0, { withGranary 0 openG with clock := { tick := 3 } }, by decide⟩⟩

/-- Witnesses of LedgerUpdates, clause by clause. -/
theorem wit_LedgerUpdates :
    (∃ (w : Writer) (page : BitVec 19) (e : LedgerEntry) (s : State), s.mayHost w = true ∧ s.ledger.host = none ∧ e =
      s.ledger.copy .w page.toNat ∧ e.ok = true ∧ (s.ledger.copy .e page.toNat).ok = true ∧ s.refusal page.toNat e
      s.ledger.upd0 s.ledger.upd1 = none) ∧
    (∃ (w : Writer) (page : BitVec 19) (e : LedgerEntry) (s : State) (st : _), s.mayHost w = true ∧ s.ledger.host = none ∧ e
      = s.ledger.copy .w page.toNat ∧ e.ok = true ∧ (s.ledger.copy .e page.toNat).ok = true ∧ s.refusal page.toNat e
      s.ledger.upd0 s.ledger.upd1 = some st) ∧
    (∃ (w : Writer) (_page : BitVec 19) (s : State), s.mayHost w = true ∧ s.ledger.host.isSome = true) ∧
    (∃ (term _ctl _frame : Word) (_page : BitVec 19) (s : State), s.ledger.reeve = none ∧ term ≠ s.bw.term) ∧
    (∃ (term ctl frame : Word) (page : BitVec 19) (s : State) (e : _), s.ledger.reeve = none ∧ term = s.bw.term ∧ e =
      s.ledger.copy .w page.toNat ∧ e.ok = true ∧ (s.ledger.copy .e page.toNat).ok = true ∧ s.refusal page.toNat e ctl frame
      = none) ∧
    (∃ (u : LedgerUpdate) (s : State), s.ledger.host = some u ∧ s.oldAccess u = true) ∧
    (∃ (u : LedgerUpdate) (s : State), s.ledger.host = some u ∧ s.oldAccess u = false ∧ s.hp.posted = [] ∧ s.hp.reads = [] ∧
      s.dbg.run = none) :=
  ⟨⟨.hostP, 0, mkEntry 0 0, { up with ledger := ledger 0 0 }, by decide⟩,
   ⟨.hostP, 0, mkEntry 0 0, { up with ledger := { ledger 0 0 with upd0 := 0x80 } }, .mismatch, by decide⟩,
   ⟨.hostP, 0, { up with ledger := { ledger 0 0 with host := some (upd 0) } }, by decide⟩,
   ⟨1, 0, 0, 0, up, by decide⟩,
   ⟨0, 0, 0, 0, { up with ledger := ledger 0 0 }, mkEntry 0 0, by decide⟩,
   ⟨upd 0x41, { up with ledger := { host := some (upd 0x41) }, hp := { devReads := [devRead] } }, by decide⟩,
   ⟨upd 0, { up with ledger := { host := some (upd 0) } }, by decide⟩⟩

/-- Witnesses of FabricCommands, clause by clause. -/
theorem wit_FabricCommands :
    (∃ (p : PlotIx) (st : PlotState) (s : State), (s.plot p.toNat).closing = some st ∧ ((s.plot p.toNat).state = .live ∨
      (s.plot p.toNat).state = .idle) ∧ (s.plot p.toNat).asked < s.clock.tick ∧ s.clock.cyc = 0 ∧ (s.plot p.toNat).carts =
      []) ∧
    (∃ (p : PlotIx) (k : BitVec 64) (s : State), (s.plot p.toNat).releaseAt = some k ∧ (s.plot p.toNat).state = .configured
      ∧ k < s.clock.tick ∧ s.clock.cyc = 0 ∧ s.fabN (plotDie p.toNat) ≠ 0) ∧
    (∃ (p : PlotIx) (s : State), (s.plot p.toNat).state = .releasing ∧ s.fabN (plotDie p.toNat) ≠ 0 ∧ (s.plot p.toNat).stage
      = 0 ∧ (s.plot p.toNat).stageAt + s.fabCycles (plotDie p.toNat) 16 ≤ s.clock.now) ∧
    (∃ (p : PlotIx) (s : State), (s.plot p.toNat).state = .releasing ∧ s.fabN (plotDie p.toNat) ≠ 0 ∧ (s.plot p.toNat).stage
      ≠ 0 ∧ (s.plot p.toNat).stageAt + s.fabCycles (plotDie p.toNat) 32 ≤ s.clock.now) ∧
    (∃ (p : PlotIx) (s : State), (s.plot p.toNat).state = .releasing ∧ s.fabN (plotDie p.toNat) ≠ 0 ∧ (s.plot p.toNat).stage
      ≠ 0 ∧ s.inTick) ∧
    (∃ (d : Die) (x : BitVec 6) (hdr _data : List Byte) (s : State) (sp : _), x.toNat < 48 ∧ s.hdrOk hdr = true ∧ nodeEnd
      (pktHdr hdr).dst = 5 ∧ ((if sp && decide ((pktHdr hdr).kind ≤ 1) then (s.plot (tapPlot d x.toNat)).serves else (s.plot
      (tapPlot d x.toNat)).answers) = false) ∧ (pktHdr hdr).slot = none ∧ (pktHdr hdr).tag % 8 ≠ 5) ∧
    (∃ (d : Die) (x : BitVec 6) (hdr _data : List Byte) (s : State), x.toNat < 48 ∧ s.hdrOk hdr = true ∧ nodeEnd (pktHdr
      hdr).dst = 5 ∧ (s.plot (tapPlot d x.toNat)).answers = true) ∧
    (∃ (d : Die) (x : BitVec 6) (hdr data : List Byte) (s : State) (b : _) (c : _), x.toNat < 48 ∧ s.hdrOk hdr = true ∧
      nodeEnd (pktHdr hdr).dst = 5 ∧ (s.plot (tapPlot d x.toNat)).serves = true ∧ (pktHdr hdr).kind = 0 ∧ b = field (pktHdr
      hdr).addr 16 8 ∧ b < 192 ∧ c = bramCell (tapPlot d x.toNat) b ((pktHdr hdr).addr % 2 ^ 13) ∧ (pktHdr hdr).addr % 2 ^
      13 + data.length ≤ 4608 ∧ (Table.get {} (s.plot (tapPlot d x.toNat)).brams b).portBUser = false ∧ (pktHdr hdr).pepoch
      = (s.plot (tapPlot d x.toNat)).accepted.toNat ∧ s.bad = []) ∧
    (∃ (d : Die) (x : BitVec 6) (hdr _data : List Byte) (s : State) (g : _), x.toNat < 48 ∧ (s.plot (tapPlot d
      x.toNat)).state = .live ∧ s.hdrOk hdr = true ∧ s.deadMill (pktHdr hdr) = false ∧ g = s.p3Into d (s.tapXY x.toNat).1
      (s.tapXY x.toNat).2 7 ∧ ((pktHdr hdr).prio ≠ 3 ∨ g = none ∨ (s.plot (tapPlot d x.toNat)).tilled = false)) ∧
    (∃ (d : Die) (x : BitVec 6) (hdr _data : List Byte) (s : State) (g : _), x.toNat < 48 ∧ (s.plot (tapPlot d
      x.toNat)).state = .live ∧ s.hdrOk hdr = true ∧ s.deadMill (pktHdr hdr) = false ∧ (pktHdr hdr).prio = 3 ∧ s.p3Into d
      (s.tapXY x.toNat).1 (s.tapXY x.toNat).2 7 = some g ∧ (s.plot (tapPlot d x.toNat)).tilled = true ∧ (s.plot (tapPlot d
      x.toNat)).gslot.toNat = g ∧ (s.group g).state = .running) ∧
    (∃ (d : Die) (x : BitVec 6) (hdr _data : List Byte) (s : State), x.toNat < 48 ∧ (s.plot (tapPlot d x.toNat)).state =
      .live ∧ s.hdrOk hdr = true ∧ s.deadMill (pktHdr hdr) = true) ∧
    (∃ (d : Die) (x : BitVec 6) (hdr _data : List Byte) (s : State), x.toNat < 48 ∧ (s.plot (tapPlot d x.toNat)).state =
      .live ∧ s.hdrOk hdr = false) ∧
    (∃ (p : PlotIx) (va : BitVec 40) (len : BitVec 12) (e : LedgerEntry) (s : State) , (s.plot p.toNat).state = .live ∧
      s.ledger.updating (va.toNat / 2 ^ 21) = false ∧ s.ledger.lines (.tap (plotDie p.toNat)) = [] ∧ e = s.ledger.copy
      (plotDie p.toNat) (va.toNat / 2 ^ 21) ∧ e.ok = true ∧ e.present = false ∧ len.toNat ≤ pageRoom va.toNat) ∧
    (∃ (p : PlotIx) (va : BitVec 40) (_len : BitVec 12) (e : LedgerEntry) (s : State) (b : List Byte) (c : Nat), (s.plot
      p.toNat).state = .live ∧ s.ledger.updating (va.toNat / 2 ^ 21) = false ∧ s.ledger.lines (.tap (plotDie p.toNat)) = []
      ∧ e = s.ledger.copy (plotDie p.toNat) (va.toNat / 2 ^ 21) ∧ e.ok = true ∧ e.present = true ∧ e.writable = true ∧
      s.entryPlace e va.toNat = .cell c ∧ b.length ≤ pageRoom va.toNat ∧ s.bad = []) ∧
    (∃ (p : PlotIx) (va : BitVec 40) (len : BitVec 12) (e : LedgerEntry) (s : State) (c : _), (s.plot p.toNat).state = .live
      ∧ s.ledger.updating (va.toNat / 2 ^ 21) = false ∧ s.ledger.lines (.tap (plotDie p.toNat)) = [] ∧ e = s.ledger.copy
      (plotDie p.toNat) (va.toNat / 2 ^ 21) ∧ e.ok = true ∧ e.present = true ∧ s.entryPlace e va.toNat = .cell c ∧ len.toNat
      ≤ pageRoom va.toNat ∧ s.bad = [] ∧ s.soft = []) ∧
    (∃ (p : PlotIx) (s : State) , (s.plot p.toNat).state = .live) ∧
    (∃ (p : PlotIx) (s : State) (tag : Byte) (x : TapStream), (s.plot p.toNat).state = .live ∧ (s.plot p.toNat).streams =
      [x] ∧ x.tag = tag.toNat) ∧
    (∃ (p : PlotIx) (s : State) (q : QueueIx)  (c : List Byte) (u : State), (s.plot p.toNat).state = .live ∧ stageTap
      (s.queue q.toNat).cons p.toNat = true ∧ s.canTake q.toNat = .ok ∧ s.takeCart q.toNat = (some c, u) ∧ cartOk c = true) ∧
    (∃ (p : PlotIx) (s : State) (i : Nat) (c : TapCart), (s.plot p.toNat).state = .live ∧ (s.plot p.toNat).carts[i]? = some
      c ∧ s.canPut (s.queue c.ring).pair = .ok) ∧
    (∃ (p : PlotIx) (b : Byte) (w : BitVec 12) (m : Bram) (s : State) (v : _) (u : _), b.toNat < 192 ∧ m = Table.get {}
      (s.plot p.toNat).brams b.toNat ∧ w.toNat * aspectWidth m.aspect + aspectWidth m.aspect ≤ 36864 ∧ (s.plot
      p.toNat).state = .live ∧ s.bad = [] ∧ s.soft = [] ∧ (s.plot p.toNat).image.ports = [] ∧ u = s.afterFab (plotDie
      p.toNat) 1 ∧ v = BitVec.ofNat 72 (leNat (Memory.readN s.mem (bramCell p.toNat b.toNat (w.toNat * aspectWidth m.aspect
      / 72 * 9)) 9) / 2 ^ (w.toNat * aspectWidth m.aspect % 72) % 2 ^ aspectWidth m.aspect)) ∧
    (∃ (p : PlotIx) (b : Byte) (w : BitVec 12) (m : Bram) (s : State) (v : _) (u : _), b.toNat < 192 ∧ m = Table.get {}
      (s.plot p.toNat).brams b.toNat ∧ w.toNat * aspectWidth m.aspect + aspectWidth m.aspect ≤ 36864 ∧ (s.plot
      p.toNat).state = .live ∧ s.bad = [] ∧ s.soft = [] ∧ (s.plot p.toNat).image.ports = [] ∧ u = s.afterFab (plotDie
      p.toNat) 1 ∧ v = BitVec.ofNat 72 (leNat (Memory.readN s.mem (bramCell p.toNat b.toNat (w.toNat * aspectWidth m.aspect
      / 72 * 9)) 9) / 2 ^ (w.toNat * aspectWidth m.aspect % 72) % 2 ^ aspectWidth m.aspect) ∧ m.portBUser = true) ∧
    (∃ (p : PlotIx) (b : Byte) (w : BitVec 12) (m : Bram) (s : State) (v : _) (u : _), b.toNat < 192 ∧ m = Table.get {}
      (s.plot p.toNat).brams b.toNat ∧ w.toNat * aspectWidth m.aspect + aspectWidth m.aspect ≤ 36864 ∧ (s.plot
      p.toNat).state = .live ∧ s.bad = [] ∧ s.soft = [] ∧ (s.plot p.toNat).image.ports = [] ∧ u = s.afterFab (plotDie
      p.toNat) 1 ∧ v = BitVec.ofNat 72 (leNat (Memory.readN s.mem (bramCell p.toNat b.toNat (w.toNat * aspectWidth m.aspect
      / 72 * 9)) 9) / 2 ^ (w.toNat * aspectWidth m.aspect % 72) % 2 ^ aspectWidth m.aspect) ∧ m.portBUser = false) ∧
    (∃ (_d : Die) (s : State), s.fab.prbPin.getLsbD 31 = false) ∧
    (∃ (d : Die) (s : State), s.fab.prbPin.getLsbD 31 = true ∧ s.userIo = true ∧ (d = (if s.fab.prbPin.getLsbD 2 then Die.e
      else Die.w))) :=
  ⟨⟨0, .stopped, { withPlot 0 { state := .live, closing := some .stopped } with clock := { tick := 1 } }, by decide⟩,
   ⟨15, 0, { withPlot 15 { state := .configured, releaseAt := some 0 } with clock := { tick := 1 } }, by decide⟩,
   ⟨0, { withPlot 0 { state := .releasing } with clock := { now := 128 } }, by decide⟩,
   ⟨0, { withPlot 0 { state := .releasing, stage := 1 } with clock := { now := 256 } }, by decide⟩,
   ⟨0, withPlot 0 { state := .releasing, stage := 1 }, by unfold State.inTick; decide⟩,
   ⟨.w, 47, (pkt 0 10240 0).bytes, [], up, false, by decide⟩,
   ⟨.w, 0, (pkt 0 10240 0).bytes, [], liveP, by decide⟩,
   ⟨.w, 0, (pkt 0 10240 (191 * 2 ^ 16 + 4607)).bytes, [7], liveP, 191, bramCell 0 191 4607, by decide⟩,
   ⟨.w, 2, (pkt 0 10240 0).bytes, [], liveP, none, by decide⟩,
   ⟨.w, 2, ({ pkt 0 10240 0 with prio := 3 } : PktHdr).bytes, [],
     { books (.slot .w 2 0 0 false 7) with fab := { clkW := 1, plots := [(0, { state := .live, tilled := true, gslot := 2 })] } },
     2, by decide⟩,
   ⟨.w, 2, (pkt 0 0 0).bytes, [], { liveP with mills := [(0, { oos := true })] }, by decide⟩,
   ⟨.w, 2, (pkt 7 0 0).bytes, [], liveP, by decide⟩,
   ⟨0, 0, 4095, {}, liveP, by decide⟩,
   ⟨0, 0, 0, mkEntry 0x23 0, tapPaged, [7], stackCell 0, by decide⟩,
   ⟨0, 0, 4095, mkEntry 0x23 0, tapPaged, stackCell 0, by decide⟩,
   ⟨0, liveP, by decide⟩,
   ⟨0, withPlot 0 { state := .live, streams := [{ tag := 3, bytes := 0 }] }, 3, { tag := 3, bytes := 0 }, by decide⟩,
   ⟨0, tapRing { state := .live }, 8192, crt, ((tapRing { state := .live }).takeCart 8192).2, by decide +kernel⟩,
   ⟨0, tapRing { state := .live, carts := [{ ring := 8192, cart := crt, wrote := 0, reading := true }] }, 0,
     { ring := 8192, cart := crt, wrote := 0, reading := true }, by decide +kernel⟩,
   ⟨0, 191, 511, {}, liveP, 0, liveP.afterFab .w 1,
     by refine ⟨by decide, by decide, by decide, by decide, by decide, by decide, by decide, rfl, by decide⟩⟩,
   ⟨0, 0, 0, { portBUser := true }, withPlot 0 { state := .live, brams := [(0, { portBUser := true })] }, 0,
     (withPlot 0 { state := .live, brams := [(0, { portBUser := true })] }).afterFab .w 1,
     by refine ⟨by decide, by decide, by decide, by decide, by decide, by decide, by decide, rfl, by decide, by decide⟩⟩,
   ⟨0, 191, 511, {}, liveP, 0, liveP.afterFab .w 1,
     by refine ⟨by decide, by decide, by decide, by decide, by decide, by decide, by decide, rfl, by decide, by decide⟩⟩,
   ⟨.e, up, by decide⟩,
   ⟨.w, { fab := { prbPin := 0x80000000 }, cfg := { fullOk := true } }, by decide⟩⟩

/-- Witnesses of LoaderCommands, clause by clause. -/
theorem wit_LoaderCommands :
    (∃ (w : Writer) (s : State), s.may w = true ∧ s.cfg.loading = false) ∧
    (∃ (w : Writer) (s : State), s.may w = true ∧ s.cfg.loading = true) ∧
    (∃ (w : Writer) (s : State), s.may w = true ∧ s.cfg.run = none) ∧
    (∃ (w : Writer) (s : State) (r : _), s.may w = true ∧ s.cfg.run = some r) ∧
    (∃ (why _sect _fa : Nat) (r : LoadRun) (s : State), s.cfg.run = some r ∧ r.passed = false ∧ s.cfg.forwards = false ∧ why
      < 16) ∧
    (∃ (off : BitVec 20) (data : List Byte) (r : LoadRun) (k : ChainRun) (s : State), s.cfg.run = some r ∧ s.cfg.chain =
      some k ∧ r.src = 1 ∧ data ≠ [] ∧ off.toNat ≠ k.got % 2 ^ 20) ∧
    (∃ (off : BitVec 20) (data : List Byte) (r : LoadRun) (k : ChainRun) (s : State), s.cfg.run = some r ∧ s.cfg.chain =
      some k ∧ r.src = 1 ∧ data ≠ [] ∧ off.toNat = k.got % 2 ^ 20 ∧ r.passed = false ∧ k.follow = none ∧ 16 ≤ (r.rx ++
      data).length ∧ (r.rx ++ data).length < sheafLen (r.rx ++ data)) ∧
    (∃ (r : LoadRun) (s : State) (why : _) (i : _), s.cfg.run = some r ∧ r.armed = false ∧ r.passed = false ∧ r.headReady =
      true ∧ s.stageA r.hop r.rx = some (why, i)) ∧
    (∃ (r : LoadRun) (s : State), s.cfg.run = some r ∧ r.armed = false ∧ 16 ≤ r.rx.length ∧ r.rx.length < sheafLen r.rx ∧
      r.lastAt + usCycles 10000 ≤ s.clock.now) ∧
    (∃ (r : LoadRun) (s : State), s.cfg.run = some r ∧ s.cfg.state = 4 ∧ s.stageCBad r = false) ∧
    (∃ (_b : List Byte) (s : State), s.cfg.run = none) ∧
    (∃ (b : List Byte) (s : State) (r : _), s.cfg.run = some r ∧ r.armed = true ∧ leAt b 0 1 = 0x31 ∧ leAt b 16 8 = 2 ^ 64 -
      1 - leAt b 8 8) ∧
    (∃ (data : List Byte) (k : ChainRun) (n : Nat) (s : State), s.cfg.chain = some k ∧ k.follow = some n ∧ s.cfg.run = none
      ∧ k.started = true ∧ k.buf = [] ∧ data.length = 64 ∧ k.got + 64 ≤ n) ∧
    (∃ (data : List Byte) (k : ChainRun) (n : Nat) (s : State), s.cfg.chain = some k ∧ k.follow = some n ∧ s.cfg.run = none
      ∧ k.started = true ∧ k.buf = [] ∧ data.length = 64) ∧
    (∃ (_b : List Byte) (r : LoadRun) (s : State), s.cfg.run = some r ∧ r.src = 2 ∧ r.armed = false) ∧
    (∃ (w : Writer) (s : State), s.may w = true ∧ s.cfg.fullOk = true ∧ s.cfg.run = none ∧ s.quietCycle) ∧
    (∃ (w : Writer) (s : State), s.may w = true ∧ (s.cfg.fullOk = false ∨ s.cfg.run.isSome = true)) ∧
    (∃ (w : Writer) (s : State) (_v : Word), s.may w = true) ∧
    (∃ (w : Writer) (s : State) (fa : Word), s.may w = true ∧ s.withheld fa.toNat = true) ∧
    (∃ (w : Writer) (s : State) (fa : Word) (f : _), s.may w = true ∧ s.withheld fa.toNat = false ∧ s.cfg.frames.find? (fun
      e => decide (e.1 = fa.toNat)) = some (fa.toNat, f)) :=
  ⟨⟨.hostP, up, by decide⟩,
   ⟨.hostP, loads { src := 0 }, by decide⟩,
   ⟨.hostP, up, by decide⟩,
   ⟨.hostP, loads { src := 0 }, { src := 0 }, by decide⟩,
   ⟨15, 0, 0, { src := 0 }, loads { src := 0 }, by decide⟩,
   ⟨1, [0], { src := 1 }, { hop := 0 }, chains { src := 1 } { hop := 0 }, by decide⟩,
   ⟨0, head17, { src := 1 }, { hop := 0 }, chains { src := 1 } { hop := 0 }, by decide⟩,
   ⟨{ src := 0, rx := List.replicate 256 0 }, loads { src := 0, rx := List.replicate 256 0 }, 1, 0, by decide +kernel⟩,
   ⟨{ src := 0, rx := head17 }, { loads { src := 0, rx := head17 } with clock := { now := usCycles 10000 } }, by decide⟩,
   ⟨{ src := 0 }, withCfg { run := some { src := 0 }, state := 4 }, by decide⟩,
   ⟨[], {}, by decide⟩,
   ⟨toLe 8 0x31 ++ toLe 8 5 ++ toLe 8 (2 ^ 64 - 6), loads { src := 0, armed := true }, { src := 0, armed := true },
     by decide⟩,
   ⟨List.replicate 64 7, { hop := 0, follow := some 64, started := true }, 64,
     withCfg { chain := some { hop := 0, follow := some 64, started := true } }, by decide⟩,
   ⟨List.replicate 64 7, { hop := 0, follow := some 0, started := true }, 0,
     withCfg { chain := some { hop := 0, follow := some 0, started := true } }, by decide⟩,
   ⟨[], { src := 2 }, loads { src := 2 }, by decide⟩,
   ⟨.hostP, withCfg { fullOk := true }, by unfold State.quietCycle; decide⟩,
   ⟨.hostP, up, by decide⟩,
   ⟨.hostP, up, by decide⟩,
   ⟨.hostP, withPlot 0 { sealed := true }, 0, by decide⟩,
   ⟨.hostP, withCfg { frames := [(0, frm)] }, 0, frm, by decide⟩⟩

/-- Witnesses of SextonCommands, clause by clause. -/
theorem wit_SextonCommands :
    (∃ (s : State) (f : _), s.cfg.sxt.ptr = none ∧ (s.cfg.sxt.start.map (fun k => k.toNat + 52084)).getD 0 ≤
      s.clock.tick.toNat ∧ s.nextFrame 0 = some f) ∧
    (∃ (s : State), s.cfg.sxt.ptr = none ∧ s.clock.tick.toNat < (s.cfg.sxt.start.map (fun k => k.toNat + 52084)).getD 0) ∧
    (∃ (_us : List (BitVec 12)) (_second : Bool) (s : State), s.inTick ∧ s.cfg.sxt.ptr.isSome = true) ∧
    (∃ (s : State), s.cfg.sxt.repair ≠ 0xFFFFFFFF) ∧
    (∃ (s : State), s.cfg.sxt.repair ≠ 0xFFFFFFFF ∧ s.cfg.sxt.ptr.isSome = true) :=
  ⟨⟨withCfg { frames := [(2 ^ 29, frm)] }, 2 ^ 29, by decide⟩,
   ⟨{ withCfg { sxt := { start := some 0 } } with clock := { tick := 52083 } }, by decide⟩,
   ⟨[], false, { cfg := { sxt := { ptr := some 0 } } }, by unfold State.inTick; decide⟩,
   ⟨{}, by decide⟩,
   ⟨withCfg { sxt := { ptr := some 0 } }, by decide⟩⟩

/-- Witnesses of LanesAndLadder, clause by clause. -/
theorem wit_LanesAndLadder :
    (∃ (p : PortIx) (l : BitVec 4) (s : State), s.laneAt p.toNat l.toNat = true ∧ ((s.port p.toNat).lane l.toNat).align = 0) ∧
    (∃ (p : PortIx) (l : BitVec 4) (s : State), s.laneAt p.toNat l.toNat = true ∧ ((s.port p.toNat).lane l.toNat).align = 1) ∧
    (∃ (p : PortIx) (l : BitVec 4) (s : State), s.laneAt p.toNat l.toNat = true ∧ (s.port p.toNat).state ≠ .up) ∧
    (∃ (p : PortIx) (l : BitVec 4) (s : State), s.laneAt p.toNat l.toNat = true ∧ (s.port p.toNat).state = .up ∧ ((s.port
      p.toNat).lane l.toNat).align = 3 ∧ (s.port p.toNat).role l.toNat < 8 ∧ (s.port p.toNat).sub = none ∧ (s.port
      p.toNat).spareLog = none ∧ (s.port p.toNat).sparePhys.isSome = true) ∧
    (∃ (p : PortIx) (l : BitVec 4) (s : State), s.laneAt p.toNat l.toNat = true ∧ (s.port p.toNat).state = .up ∧ ((s.port
      p.toNat).lane l.toNat).align = 3 ∧ (s.port p.toNat).role l.toNat < 8 ∧ (s.port p.toNat).sub = none ∧ (s.port
      p.toNat).spareLog = none ∧ (s.port p.toNat).sparePhys = none) ∧
    (∃ (l : BitVec 4) (s : State), s.hp.state = .up ∧ l.toNat < 8) ∧
    (∃ (p : PortIx) (l : BitVec 4) (g0 : BitVec 10) (gs : List (BitVec 10)) (hdr : LaneHdr) (syms : List (Option Byte)) (rd
      : Bool) (y : PhysLane) (s : State), s.laneAt p.toNat l.toNat = true ∧ y = (s.port p.toNat).lane l.toNat ∧
      frameOfGroups y.rd (g0 :: gs) = (hdr, syms, rd) ∧ y.align.toNat < 2) ∧
    (∃ (p : PortIx) (l : BitVec 4) (g0 : BitVec 10) (gs : List (BitVec 10)) (hdr : LaneHdr) (syms : List (Option Byte)) (rd
      : Bool) (y : PhysLane) (s : State), s.laneAt p.toNat l.toNat = true ∧ y = (s.port p.toNat).lane l.toNat ∧
      frameOfGroups y.rd (g0 :: gs) = (hdr, syms, rd) ∧ y.align = 2 ∧ badWindow 16 (y.groups ++ (decide (hdr ≠ .invalid) ::
      syms.map Option.isSome)) = false) ∧
    (∃ (p : PortIx) (l : BitVec 4) (g0 : BitVec 10) (gs : List (BitVec 10)) (hdr : LaneHdr) (syms : List (Option Byte)) (rd
      : Bool) (y : PhysLane) (s : State), s.laneAt p.toNat l.toNat = true ∧ y = (s.port p.toNat).lane l.toNat ∧
      frameOfGroups y.rd (g0 :: gs) = (hdr, syms, rd) ∧ y.align = 2 ∧ badWindow 16 (y.groups ++ (decide (hdr ≠ .invalid) ::
      syms.map Option.isSome)) = true ∧ (s.port p.toNat).state ≠ .up) ∧
    (∃ (p : PortIx) (l : BitVec 4) (g0 : BitVec 10) (gs : List (BitVec 10)) (hdr : LaneHdr) (syms : List (Option Byte)) (rd
      : Bool) (y : PhysLane) (s : State), s.laneAt p.toNat l.toNat = true ∧ y = (s.port p.toNat).lane l.toNat ∧
      frameOfGroups y.rd (g0 :: gs) = (hdr, syms, rd) ∧ y.align = 3 ∧ hdr = .invalid ∧ 3 ≤ ((y.heads.drop (y.heads.length -
      63)).filter (fun b => !b)).length ∧ y.heads.length ≤ 63 ∧ (s.port p.toNat).state ≠ .up) ∧
    (∃ (w : Writer) (p : PortIx) (v : Word) (s : State), s.mayHost w = true ∧ s.portFitted p.toNat = true ∧ v.getLsbD 0 =
      true ∧ 5 ≤ (v >>> 5).toNat % 8) ∧
    (∃ (w : Writer) (p : PortIx) (v : Word) (s : State), s.mayHost w = true ∧ s.portFitted p.toNat = true ∧ v.getLsbD 0 =
      true ∧ (v >>> 5).toNat % 8 < 5 ∧ (s.port p.toNat).en = false) ∧
    (∃ (w : Writer) (p : PortIx) (v : Word) (s : State), s.mayHost w = true ∧ s.portFitted p.toNat = true ∧ v.getLsbD 0 =
      false ∧ (v >>> 5).toNat % 8 < 5 ∧ (s.port p.toNat).en = true ∧ (s.port p.toNat).sends = []) ∧
    (∃ (p : PortIx) (b : List Byte) (far : BitVec 10) (tg : Nat) (s : State), s.portFitted p.toNat = true ∧ (s.port
      p.toNat).state = .ladder ∧ 8 ≤ (s.port p.toNat).locked.length ∧ b.length = 64 ∧ leAt b 0 1 = 0x10 ∧ leAt b 1 1 = 1 ∧
      tg = min (min 4 (leAt b 2 1)) (min (s.port p.toNat).maxRate.toNat ((s.port p.toNat).limit.getD 4)) ∧ s.node.toNat ≠
      far.toNat ∧ (s.port p.toNat).rate < tg) ∧
    (∃ (p : PortIx) (b : List Byte) (far : BitVec 10) (tg : Nat) (s : State), s.portFitted p.toNat = true ∧ (s.port
      p.toNat).state = .ladder ∧ 8 ≤ (s.port p.toNat).locked.length ∧ b.length = 64 ∧ leAt b 0 1 = 0x10 ∧ leAt b 1 1 = 1 ∧
      tg = min (min 4 (leAt b 2 1)) (min (s.port p.toNat).maxRate.toNat ((s.port p.toNat).limit.getD 4)) ∧ s.node.toNat ≠
      far.toNat ∧ tg ≤ (s.port p.toNat).rate ∧ (s.port p.toNat).locked.length = 9 ∧ (s.port p.toNat).waiting = []) ∧
    (∃ (p : PortIx) (rate cd : Byte) (s : State), s.portFitted p.toNat = true ∧ (s.port p.toNat).state = .ladder ∧
      rate.toNat = (s.port p.toNat).rate + 1 ∧ rate.toNat ≤ 4 ∧ cd = 0 ∧ (s.port p.toNat).leading = true) ∧
    (∃ (p : PortIx) (rate cd : Byte) (s : State), s.portFitted p.toNat = true ∧ (s.port p.toNat).state = .ladder ∧
      rate.toNat = (s.port p.toNat).rate + 1 ∧ rate.toNat ≤ 4 ∧ cd ≠ 0 ∧ (s.port p.toNat).leading = false) ∧
    (∃ (p : PortIx) (k : Nat) (s : State), (s.port p.toNat).state = .ladder ∧ (s.port p.toNat).deadline = some k ∧ (s.port
      p.toNat).rate ≠ 0 ∧ k ≤ s.clock.now ∧ s.hp.alerts.length < 64 ∧ s.hp.home = none) ∧
    (∃ (p : PortIx) (k : Nat) (s : State), (s.port p.toNat).state = .ladder ∧ (s.port p.toNat).deadline = some k ∧ (s.port
      p.toNat).rate = 0 ∧ k + usCycles 8000 ≤ s.clock.now) ∧
    (∃ (w : Writer) (p : PortIx) (l : BitVec 4) (_v : Word) (s : State), s.mayHost w = true ∧ s.laneAt p.toNat l.toNat =
      true) :=
  ⟨⟨0, 8, withPort 0 {}, by decide⟩,
   ⟨0, 8, withPort 0 { lanes := [(8, { align := 1 })] }, by decide⟩,
   ⟨0, 8, withPort 0 {}, by decide⟩,
   ⟨0, 7, withPort 0 { upPort with lanes := [(7, { align := 3 })] }, by decide⟩,
   ⟨0, 7, withPort 0 { upPort with lanes := [(7, { align := 3 })], sparePhys := none }, by decide⟩,
   ⟨7, withHost link, by decide⟩,
   ⟨0, 0, 0, [], .invalid, [], (frameOfGroups false [0]).2.2, { align := 1 }, withPort 0 { lanes := [(0, { align := 1 })] },
     by decide⟩,
   ⟨0, 0, 0, [], .invalid, [], (frameOfGroups false [0]).2.2, { align := 2 }, withPort 0 { lanes := [(0, { align := 2 })] },
     by decide⟩,
   ⟨0, 0, 0, [], .invalid, [], (frameOfGroups false [0]).2.2, { align := 2, groups := List.replicate 63 false },
     withPort 0 { lanes := [(0, { align := 2, groups := List.replicate 63 false })] }, by decide⟩,
   ⟨0, 0, 0, [], .invalid, [], (frameOfGroups false [0]).2.2, { align := 3, heads := List.replicate 3 false },
     withPort 0 { lanes := [(0, { align := 3, heads := List.replicate 3 false })] }, by decide⟩,
   ⟨.hostP, 0, 0xA1, up, by decide⟩,
   ⟨.hostP, 0, 0x81, up, by decide⟩,
   ⟨.hostP, 0, 0x80, withPort 0 { en := true }, by decide⟩,
   ⟨0, asksRate 4, 1, 4, withPort 0 { ladderP with lanes := locks 8 }, by decide⟩,
   ⟨0, asksRate 0, 1, 0, withPort 0 { ladderP with lanes := locks 9 }, by decide⟩,
   ⟨0, 4, 0, withPort 0 { ladderP with rate := 3, leading := true }, by decide⟩,
   ⟨0, 4, 1, withPort 0 { ladderP with rate := 3 }, by decide⟩,
   ⟨0, 0, withPort 0 { ladderP with rate := 1, deadline := some 0 }, by decide⟩,
   ⟨0, 0, { withPort 0 { ladderP with deadline := some 0 } with clock := { now := usCycles 8000 } }, by decide⟩,
   ⟨.hostP, 0, 8, 0, up, by decide⟩⟩

/-- Witnesses of FramesAndSpares, clause by clause. -/
theorem wit_FramesAndSpares :
    (∃ (p : PortIx) (l : BitVec 4) (g0 : BitVec 10) (gs : List (BitVec 10)) (syms : List (Option Byte)) (rd : Bool) (n :
      Nat) (s : State) (m : _), s.laneAt p.toNat l.toNat = true ∧ ((s.port p.toNat).lane l.toNat).align = 3 ∧ ((s.port
      p.toNat).lane l.toNat).heads = [] ∧ frameOfGroups ((s.port p.toNat).lane l.toNat).rd (g0 :: gs) = (.data, syms, rd) ∧
      n = (s.port p.toNat).role l.toNat ∧ n < 8 ∧ (s.port p.toNat).state = .up ∧ ((s.port p.toNat).link n).bad = [] ∧
      rsDecode (symBytes syms) = some (m, 0) ∧ leAt m 0 1 % 128 = ((s.port p.toNat).link n).expect ∧ s.portMode p.toNat ≠ 1) ∧
    (∃ (p : PortIx) (l : BitVec 4) (g0 : BitVec 10) (gs : List (BitVec 10)) (syms : List (Option Byte)) (rd : Bool) (n :
      Nat) (s : State) (m : _), s.laneAt p.toNat l.toNat = true ∧ ((s.port p.toNat).lane l.toNat).align = 3 ∧ ((s.port
      p.toNat).lane l.toNat).heads = [] ∧ frameOfGroups ((s.port p.toNat).lane l.toNat).rd (g0 :: gs) = (.data, syms, rd) ∧
      n = (s.port p.toNat).role l.toNat ∧ n < 8 ∧ (s.port p.toNat).state = .up ∧ ((s.port p.toNat).link n).bad = [] ∧
      rsDecode (symBytes syms) = some (m, 0) ∧ leAt m 0 1 % 128 ≠ ((s.port p.toNat).link n).expect) ∧
    (∃ (p : PortIx) (l : BitVec 4) (g0 : BitVec 10) (gs : List (BitVec 10)) (syms : List (Option Byte)) (rd : Bool) (n :
      Nat) (s : State), s.laneAt p.toNat l.toNat = true ∧ ((s.port p.toNat).lane l.toNat).align = 3 ∧ ((s.port p.toNat).lane
      l.toNat).heads = [] ∧ frameOfGroups ((s.port p.toNat).lane l.toNat).rd (g0 :: gs) = (.data, syms, rd) ∧ n = (s.port
      p.toNat).role l.toNat ∧ n < 8 ∧ (s.port p.toNat).state = .up ∧ ((s.port p.toNat).link n).bad = [] ∧ rsDecode (symBytes
      syms) = none) ∧
    (∃ (p : PortIx) (b : List Byte) (f : TxFrame) (s : State), s.portUp p.toNat = true ∧ (s.port p.toNat).replay = [f] ∧
      (s.port p.toNat).waiting = [] ∧ b.length = 64 ∧ (∀ n, n < 8 → n ≠ f.no % 8 → leAt b (8 + n) 1 < 128) ∧ leAt b (8 +
      f.no % 8) 1 = (f.no / 8 + 1) % 128) ∧
    (∃ (p : PortIx) (b : List Byte) (f : TxFrame) (s : State) (k : _) (g : _), s.portUp p.toNat = true ∧ (s.port
      p.toNat).replay = [f] ∧ (s.port p.toNat).waiting = [] ∧ b.length = 64 ∧ (∀ n, n < 8 → n ≠ f.no % 8 → leAt b (8 + n) 1
      < 128) ∧ leAt b (8 + f.no % 8) 1 = 128 + f.no / 8 % 128 ∧ (s.takeSlot p.toNat (f.no % 8)).map Prod.fst = some k ∧ g =
      { f with at_ := k, resends := f.resends + 1 }) ∧
    (∃ (p _n : Nat) (s : State), (s.port p).rate ≠ 4) ∧
    (∃ (p : PortIx) (f g : TxFrame) (k : Nat) (s : State), s.portUp p.toNat = true ∧ (s.port p.toNat).replay = [f] ∧ f.at_ +
      usCycles 4 ≤ s.clock.now ∧ (s.takeSlot p.toNat (f.no % 8)).map Prod.fst = some k ∧ g =
      { f with at_ := k, resends := f.resends + 1 }) ∧
    (∃ (p : PortIx) (n : Nat) (s : State), s.portUp p.toNat = true ∧ n < 8 ∧ 32 ≤ ((s.port p.toNat).link n).unacked ∧ (∀ k,
      ((s.port p.toNat).link k).naks < 7)) ∧
    (∃ (p : PortIx) (s : State), s.portSlots p.toNat = true) ∧
    (∃ (p : PortIx) (_n : BitVec 3) (s : State), s.portUp p.toNat = true ∧ (s.port p.toNat).txServes = none) ∧
    (∃ (p : PortIx) (n : BitVec 3) (s : State), (s.port p.toNat).txDup = some n.toNat) ∧
    (∃ (p : PortIx) (n k q : Nat) (s : State), (s.port p.toNat).sub = some (n, k) ∧ (s.port p.toNat).sparePhys = some q ∧ 64
      ≤ k ∧ n < 8 ∧ ((s.port p.toNat).lane q).align = 3 ∧ s.hp.alerts.length < 64) ∧
    (∃ (p : PortIx) (l : BitVec 4) (s : State), s.laneAt p.toNat l.toNat = true ∧ (s.port p.toNat).role l.toNat = 9 ∧
      ((s.port p.toNat).lane l.toNat).align = 3 ∧ 2 ^ 20 ≤ ((s.port p.toNat).lane l.toNat).clean) :=
  ⟨⟨0, 7, (dataGroups zeroMsg).headD 0, (dataGroups zeroMsg).tail, zeroMsg.map some, rdAfter zeroMsg, 7,
     withPort 0 { upPort with lanes := [(7, { align := 3 })] }, List.replicate 65 0, by decide +kernel⟩,
   ⟨0, 7, (dataGroups zeroMsg).headD 0, (dataGroups zeroMsg).tail, zeroMsg.map some, rdAfter zeroMsg, 7,
     withPort 0 { upPort with lanes := [(7, { align := 3 })], links := [(7, { expect := 1 })] }, List.replicate 65 0,
     by decide +kernel⟩,
   ⟨0, 0, (dataGroups [1, 2, 4, 8, 16, 3]).headD 0, (dataGroups [1, 2, 4, 8, 16, 3]).tail, [1, 2, 4, 8, 16, 3].map some,
     rdAfter [1, 2, 4, 8, 16, 3], 0, withPort 0 { upPort with lanes := [(0, { align := 3 })] }, by decide +kernel⟩,
   ⟨0, ackFrame 1, txF, withPort 0 { upPort with replay := [txF] }, by decide⟩,
   ⟨0, ackFrame 128, txF, withPort 0 { upPort with rate := 3, replay := [txF] }, 0, { txF with resends := 1 }, by decide⟩,
   ⟨0, 0, up, by decide⟩,
   ⟨0, txF, { txF with at_ := usCycles 4, resends := 1 }, usCycles 4,
     { withPort 0 { upPort with rate := 3, replay := [txF] } with clock := { now := usCycles 4 } }, by decide⟩,
   ⟨0, 0, withPort 0 { upPort with links := [(0, { unacked := 32, naks := 6 })] }, by decide, by decide, by decide,
     (fun k => show (Table.get {} [(0, ({ unacked := 32, naks := 6 } : LinkLane))] k).naks < 7 by unfold Table.get; split <;> simp [Table.get])⟩,
   ⟨0, withPort 0 upPort, by decide⟩,
   ⟨0, 7, withPort 0 upPort, by decide⟩,
   ⟨0, 7, withPort 0 { upPort with txDup := some 7 }, by decide⟩,
   ⟨0, 7, 64, 8, withPort 0 { upPort with sub := some (7, 64), lanes := [(8, { align := 3 })] }, by decide⟩,
   ⟨0, 8, withPort 0 { upPort with lanes := [(8, { align := 3, role := some 9, clean := 2 ^ 20 })] }, by decide⟩⟩

/-- Witnesses of MemoryFormKept, clause by clause. -/
theorem wit_MemoryFormKept :
    ∃ (s t : State), s.memOk ∧ step s = .next t :=
  ⟨{ up with pending := [.bellNowCapture], mem := [(5, 1)] },
    after { up with pending := [.bellNowCapture], mem := [(5, 1)] }, by and_intros <;> first | rfl | decide⟩

/-- Witnesses of ClockKept, clause by clause. -/
theorem wit_ClockKept :
    ∃ (s t : State), s.clock.cyc ≤ 1247 ∧ step s = .next t :=
  ⟨{ clock := { cyc := 1247 } }, after { clock := { cyc := 1247 } }, by and_intros <;> first | rfl | decide⟩

/-- Witnesses of FusesKept, clause by clause. -/
theorem wit_FusesKept :
    (∃ (s t : State), step s = .next t ∧ s.sec.killed = true) ∧
    (∃ (s t : State), step s = .next t ∧ s.sec.frarel0 = true) ∧
    (∃ (s t : State) (i : Nat) (o : OwnerSlot), step s = .next t ∧ s.sec.slots[i]? = some o) ∧
    (∃ (s t : State), step s = .next t) :=
  ⟨⟨{ sec := { killed := true } }, after { sec := { killed := true } }, by and_intros <;> first | rfl | decide⟩,
   ⟨{ sec := { frarel0 := true } }, after { sec := { frarel0 := true } }, by and_intros <;> first | rfl | decide⟩,
   ⟨{ sec := { slots := [{ hash := [] }] } }, after { sec := { slots := [{ hash := [] }] } }, 0, { hash := [] },
     by and_intros <;> first | rfl | decide⟩,
   ⟨{}, after {}, by and_intros <;> first | rfl | decide⟩⟩

/-- Witnesses of BellNowReads, clause by clause. -/
theorem wit_BellNowReads :
    ∃ (_w : Writer) (s : State), s.bootRom = false :=
  ⟨.hostP, up, by decide⟩

/-- Witnesses of LevelDropReleases, clause by clause. -/
theorem wit_LevelDropReleases :
    (∃ (l : BitVec 2) (s : State), 2 ≤ s.level.toNat ∧ l.toNat < 2) ∧
    (∃ (l : BitVec 2) (s : State) (_m : Nat) (_e : Eng), 2 ≤ s.level.toNat ∧ l.toNat < 2) ∧
    (∃ (l : BitVec 2) (s : State) (_m : Nat), 2 ≤ s.level.toNat ∧ l.toNat < 2) :=
  ⟨⟨1, { level := 2 }, by decide⟩,
   ⟨1, { level := 2 }, 0, .st, by decide⟩,
   ⟨1, { level := 2 }, 0, by decide⟩⟩

/-- Witnesses of ReshapeZeroes, clause by clause. -/
theorem wit_ReshapeZeroes :
    ∃ (m : MillIx) (p : Partition) (s : State), s.clock.tick.toNat % 65536 = 0 ∧ s.clock.cyc = 0 ∧ (s.mill m.toNat).frozen =
      false ∧ (s.mill m.toNat).reshape = some p ∧ (s.mill m.toNat).flights = [] ∧ (s.mill m.toNat).loads = [] ∧ (∀ q,
      ((s.mill m.toNat).quern q).stream ≤ s.clock.now) :=
  ⟨0, {}, { withMill 0 { reshape := some {} } with clock := { tick := 65536 } }, by decide, by decide, by decide, by decide,
    by decide, by decide, (fun _ => Nat.le_refl _)⟩

/-! Witnesses that rest on functions of outside standards, which are opaque: the premises say what those functions answer. -/

/-- A frame whose syndrome is right. -/
def okFrame : FrameRec := { data := [], crc := 0, syn := Config.frameSyn (toLe 4 0) }

theorem okFrame_check : okFrame.check = .same := by
  have h : crc32 [] = 0 := by decide
  simp [FrameRec.check, FrameRec.ok, FrameRec.code, okFrame, h]

/-- A sexton at a frame in use. -/
def sexton (fa : Nat) (f : FrameRec) : State :=
  { withPlot 0 { state := .live } with cfg := { frames := [(fa, f)], sxt := { ptr := some fa } } }

/-- Witness of SextonCommands, a frame that passes. -/
theorem wit_SextonCommands_same : ∃ (fa : Nat) (f : FrameRec) (s : State), s.cfg.sxt.ptr = some fa ∧ s.still = true ∧
    s.clock.cyc + 156 < 1248 ∧
    s.cfg.frames.find? (fun e => decide (e.1 = fa)) = some (fa, f) ∧ s.frameInUse fa = true ∧ fa / 2 ^ 29 ≠ 2 ∧ f.check = .same :=
  ⟨2 ^ 29, okFrame, sexton (2 ^ 29) okFrame, rfl, by decide, by decide, by simp [sexton], by decide, by decide, okFrame_check⟩

/-- Witness of SextonCommands, a frame with one bit wrong, where syndrome 1 is that of the syndrome's own first bit. -/
theorem wit_SextonCommands_fixed (hb : Config.frameBit 1#12 = some 3232) :
    ∃ (fa : Nat) (f : FrameRec) (s : State) (us : List (BitVec 12)) (g : FrameRec), s.cfg.sxt.ptr = some fa ∧ s.still = true ∧
    s.clock.cyc + 156 < 1248 ∧
      s.cfg.frames.find? (fun e => decide (e.1 = fa)) = some (fa, f) ∧ s.frameInUse fa = true ∧ fa / 2 ^ 29 ≠ 2 ∧
      (f.flip (us.map BitVec.toNat)).check = .fixed g ∧ s.cfg.sxt.corr ≠ 0xFFFFFFFF := by
  have h : crc32 [] = 0 := by decide
  refine ⟨2 ^ 29, okFrame, sexton (2 ^ 29) okFrame, [3232], okFrame, rfl, by decide, by decide, by simp [sexton], by decide, by decide, ?_,
    by decide⟩
  have hx : Config.frameSyn (toLe 4 0) ^^^ (Config.frameSyn (toLe 4 0) ^^^ 1#12) = 1#12 := by
    rw [← BitVec.xor_assoc, BitVec.xor_self, BitVec.zero_xor]
  have hn : ¬ Config.frameSyn (toLe 4 0) = Config.frameSyn (toLe 4 0) ^^^ 1#12 := by
    intro e; rw [← e, BitVec.xor_self] at hx; exact absurd hx (by decide)
  simp [FrameRec.check, FrameRec.ok, FrameRec.code, FrameRec.flip, okFrame, hx, hb, hn, h, BitVec.xor_assoc]

/-- Witness of SextonCommands, a frame with more bits wrong, where syndrome 3 is that of no bit. -/
theorem wit_SextonCommands_bad (hb : Config.frameBit 3#12 = none) :
    ∃ (fa : Nat) (f : FrameRec) (s : State) (us : List (BitVec 12)), s.cfg.sxt.ptr = some fa ∧ s.still = true ∧
    s.clock.cyc + 156 < 1248 ∧
      s.cfg.frames.find? (fun e => decide (e.1 = fa)) = some (fa, f) ∧ s.frameInUse fa = true ∧ fa / 2 ^ 29 ≠ 2 ∧
      (f.flip (us.map BitVec.toNat)).check = .bad ∧ fa / 2 ^ 29 = 0 ∧ (s.plot (field fa 24 5)).state = .live ∧
      (s.plot (field fa 24 5)).tilled = false ∧ s.hp.alerts.length < 64 := by
  refine ⟨0, okFrame, sexton 0 okFrame, [3232, 3233], rfl, by decide, by decide, by simp [sexton], by decide, by decide, ?_, by decide,
    by decide, by decide, by decide⟩
  have hx : Config.frameSyn (toLe 4 0) ^^^ (Config.frameSyn (toLe 4 0) ^^^ 3#12) = 3#12 := by
    rw [← BitVec.xor_assoc, BitVec.xor_self, BitVec.zero_xor]
  have hn : ¬ Config.frameSyn (toLe 4 0) = Config.frameSyn (toLe 4 0) ^^^ 3#12 := by
    intro e; rw [← e, BitVec.xor_self] at hx; exact absurd hx (by decide)
  simp [FrameRec.check, FrameRec.ok, FrameRec.code, FrameRec.flip, okFrame, hx, hb, hn, BitVec.xor_assoc]

/-- An image of 16 bytes with its header. -/
def image : List Byte := toLe 4 0x56454552 ++ toLe 4 1 ++ toLe 8 16 ++ List.replicate 48 0
/-- A reeve that checks that image. -/
def checks : State :=
  { reeveW := { verify := some 2500 }, mem := Memory.writeN [] (reeveCell .w 0) image }

/-- Witness of ImageAndSelfTest, an image that verifies. -/
theorem wit_ImageAndSelfTest_ok (hv : ∀ a b, Config.mlDsaVerify (Config.frarelKey true) a b = true) :
    ∃ (d : Die) (s : State) (n : Nat), (s.reeve d).verify = some n ∧ s.imageOk (s.bytes (reeveCell d 0) n) = true := by
  refine ⟨.w, checks, 2500, rfl, ?_⟩
  simp only [State.imageOk, hv, Bool.true_or, Bool.and_true]
  decide +kernel

/-- Witness of ImageAndSelfTest, an image that does not verify. -/
theorem wit_ImageAndSelfTest_bad : ∃ (d : Die) (s : State) (n : Nat), (s.reeve d).verify = some n ∧
    s.imageOk (s.bytes (reeveCell d 0) n) = false ∧ s.otherLeads d = false :=
  ⟨.w, { reeveW := { verify := some 0 } }, 0, by decide +kernel⟩

/-- A public key of zeros. -/
def zeroKey : List Byte := List.replicate 1312 0

/-- A sheaf head of one plot section, a partial load. -/
def sheaf1 : List Byte :=
  toLe 4 0x48534653 ++ toLe 2 1 ++ toLe 2 256 ++ toLe 8 4512 ++ toLe 3 0x017160 ++ [0, 0, 1, 2, 0, 1, 0] ++ toLe 2 1 ++
    List.replicate 228 0 ++ (toLe 2 1 ++ toLe 14 0 ++ toLe 8 4096 ++ toLe 8 416 ++ List.replicate 64 0) ++ [1] ++
    List.replicate 3743 0
/-- A device that has received it, with an owner slot. -/
def stages : State := { loads { src := 0, rx := sheaf1 } with sec := { slots := [{ hash := sha3 zeroKey }] } }

theorem stageA_none {s : State} {hop : Nat} {b : List Byte} (h1 : Machine.headerOk b = true)
    (h2 : badSection (sheafLen b) 0 (headLen b) false (secEntries b) = none)
    (h3 : ¬ (leAt b 16 3 ≠ 0x017160 ∨ leAt b 20 1 ≠ optionCode s.ident.option ∨ leAt b 21 1 ≠ (if s.ident.grade2 then 2 else 1) ∨
      leAt b 23 1 ≠ hop)) (h4 : s.signatureOk b = true)
    (h5 : (secEntries b).findIdx? (fun e => (decide (secType e = 2) || decide (secType e = 3)) &&
      (!s.millPresent (secTarget e) || (s.mill (secTarget e)).oos)) = none) (h6 : s.loadBusy b = false) :
    s.stageA hop b = none := by
  unfold State.stageA
  rw [h2, h5, h1, if_neg h3, h4, h6]; rfl

/-- Witness of LoaderCommands, a partial load whose head passes. -/
theorem wit_LoaderCommands_pass (hv : ∀ a b c, Config.mlDsaVerify a b c = true) :
    ∃ (r : LoadRun) (s : State), s.cfg.run = some r ∧ r.armed = false ∧ r.passed = false ∧ r.headReady = true ∧
      s.stageA r.hop r.rx = none ∧ sheafFull r.rx = false ∧ namedBy r.rx [2, 3] = [] ∧ 0 < nsect r.rx ∧
      r.rx.length < secOff (secEntry r.rx r.secs) + secLen (secEntry r.rx r.secs) ∧ r.secs < nsect r.rx ∧
      (∀ p ∈ namedBy r.rx [1], (s.plot p).state.closed = true ∧ (s.plot p).sealed = false) := by
  refine ⟨{ src := 0, rx := sheaf1 }, stages, rfl, rfl, rfl, by decide +kernel, ?_, by decide +kernel, by decide +kernel,
    by decide +kernel, by decide +kernel, by decide +kernel, by decide +kernel⟩
  refine stageA_none (by decide +kernel) (by decide +kernel) (by decide +kernel) ?_ (by decide +kernel) (by decide +kernel)
  have hp : (((sheaf1.drop (sigAt sheaf1)).take 3744).drop 8).take 1312 = zeroKey := by decide +kernel
  have h0 : leAt ((sheaf1.drop (sigAt sheaf1)).take 3744) 0 1 = 1 := by decide +kernel
  have h1 : leAt ((sheaf1.drop (sigAt sheaf1)).take 3744) 1 1 = 0 := by decide +kernel
  simp only [State.signatureOk, hv, hp, h0, h1, stages]
  simp

/-- A sheaf head of one mill-configuration section. -/
def sheaf2 : List Byte := List.replicate 26 0 ++ toLe 2 1 ++ List.replicate 228 0 ++ toLe 2 2 ++ List.replicate 94 0

/-- Witness of LoaderCommands, a mill image with a delay too short. -/
theorem wit_LoaderCommands_stageC (hi : crossBad (Config.millImage []).crossings = true) :
    ∃ (r : LoadRun) (s : State), s.cfg.run = some r ∧ s.cfg.state = 4 ∧ s.stageCBad r = true := by
  refine ⟨{ src := 0, rx := sheaf2 }, withCfg { run := some { src := 0, rx := sheaf2 }, state := 4 }, rfl, rfl, ?_⟩
  have hn : namedBy sheaf2 [2] = [0] := by decide +kernel
  simp [State.stageCBad, hn, State.millImg, Cfg.framesOf, withCfg, hi]

/-- A signed request in the mailbox, with the nonce that it answers. -/
def asker (op signer target : Byte) (more : Table Byte) (slots : List OwnerSlot) : State :=
  { sec := { mbx := [(0, 0x47), (1, 0x53), (2, 0x52), (3, 0x51), (4, op), (5, signer), (6, target)] ++ more, slots := slots
             nonce := some (List.replicate 32 0) } }
/-- An owner slot of the key of zeros. -/
def ownerZ : OwnerSlot := { hash := sha3 zeroKey }

theorem request_ok {s : State} {b key : List Byte} (h1 : requestForm b = true) (h2 : s.sec.killed = false)
    (h3 : (b.drop 8).take 32 = idHash) (h4 : s.sec.used = some ((b.drop 40).take 32)) (h5 : s.sec.signerKey b = some key)
    (h6 : ∀ x y z, Config.mlDsaVerify x y z = true) (h7 : s.requestMet b = true) : s.requestFails b = none := by
  simp [State.requestFails, h1, h2, h3, h4, h5, h6, h7]

theorem signer_owner {x : Sec} {b : List Byte} {o : OwnerSlot} (h1 : leAt b 4 1 ≠ 2) (h2 : leAt b 4 1 ≠ 5)
    (h3 : x.slots[leAt b 5 1]? = some o) (h4 : o.revoked = false) (h5 : o.hash = sha3 ((b.drop 128).take 1312)) :
    x.signerKey b = some ((b.drop 128).take 1312) := by
  simp [Sec.signerKey, h1, h2, h3, h4, h5]

theorem signer_frarel {x : Sec} {b : List Byte} (h1 : leAt b 4 1 = 2 ∨ leAt b 4 1 = 5) (h2 : leAt b 5 1 = 1) :
    x.signerKey b = some (Config.frarelKey true) := by
  simp [Sec.signerKey, h1, h2]

/-- Witnesses of SignedRequests, one of each op, where the device's identity hashes to zeros and every signature verifies. -/
theorem wit_SignedRequests_ok (hid : idHash = List.replicate 32 0) (hv : ∀ x y z, Config.mlDsaVerify x y z = true) :
    (∀ op ∈ [1, 2, 3, 4, 5], ∃ (w : Writer) (s q : State), w.priv = true ∧ s.sec.cmd = none ∧
      q = { s.cwHold 0x200000 0 with sec := { s.sec with
        cmd := some (2, 0), done := false, op := 2, used := s.sec.nonce, nonce := none } } ∧
      q.requestFails (s.sec.bytes 0 3860) = none ∧ leAt (s.sec.bytes 0 3860) 4 1 = op ∧ s.level ≠ 3) := by
  intro op h
  simp only [List.mem_cons, List.not_mem_nil, or_false] at h
  have hz : ownerZ.hash = sha3 zeroKey := rfl
  rcases h with rfl | rfl | rfl | rfl | rfl
  · refine ⟨.hostP, asker 1 0 0 [] [ownerZ], _, rfl, rfl, rfl, request_ok (by decide +kernel) rfl
      (hid ▸ by decide +kernel) (by decide +kernel) (signer_owner (o := ownerZ) (by decide +kernel) (by decide +kernel) ?_ rfl ?_) hv
      (by decide +kernel), by decide +kernel, by decide⟩
    · rw [show leAt ((asker 1 0 0 [] [ownerZ]).sec.bytes 0 3860) 5 1 = 0 by decide +kernel]; rfl
    · exact hz.trans (congrArg sha3 (by decide +kernel))
  · exact ⟨.hostP, asker 2 1 0 [] [], _, rfl, rfl, rfl, request_ok (by decide +kernel) rfl (hid ▸ by decide +kernel)
      (by decide +kernel) (signer_frarel (.inl (by decide +kernel)) (by decide +kernel)) hv (by decide +kernel),
      by decide +kernel, by decide⟩
  · refine ⟨.hostP, asker 3 0 1 [(72, 1)] [ownerZ], _, rfl, rfl, rfl, request_ok (by decide +kernel) rfl
      (hid ▸ by decide +kernel) (by decide +kernel) (signer_owner (o := ownerZ) (by decide +kernel) (by decide +kernel) ?_ rfl ?_) hv
      (by decide +kernel), by decide +kernel, by decide⟩
    · rw [show leAt ((asker 3 0 1 [(72, 1)] [ownerZ]).sec.bytes 0 3860) 5 1 = 0 by decide +kernel]; rfl
    · exact hz.trans (congrArg sha3 (by decide +kernel))
  · refine ⟨.hostP, asker 4 0 1 [] [ownerZ, ownerZ], _, rfl, rfl, rfl, request_ok (by decide +kernel) rfl
      (hid ▸ by decide +kernel) (by decide +kernel) (signer_owner (o := ownerZ) (by decide +kernel) (by decide +kernel) ?_ rfl ?_) hv
      (by decide +kernel), by decide +kernel, by decide⟩
    · rw [show leAt ((asker 4 0 1 [] [ownerZ, ownerZ]).sec.bytes 0 3860) 5 1 = 0 by decide +kernel]; rfl
    · exact hz.trans (congrArg sha3 (by decide +kernel))
  · exact ⟨.hostP, asker 5 1 0 [] [], _, rfl, rfl, rfl, request_ok (by decide +kernel) rfl (hid ▸ by decide +kernel)
      (by decide +kernel) (signer_frarel (.inr (by decide +kernel)) (by decide +kernel)) hv (by decide +kernel),
      by decide +kernel, by decide⟩


end Sys2Proof.Tests
end

/-! Reshapes at an epoch boundary (R44, R45): which querns a change of partition alters, what a pending reshape does to its mill
when no work is in flight, and the stationary operands that it leaves. -/

namespace Sys2Proof.Machine

/-- The mill after its pending reshape to `p` has taken effect. -/
def Mill.reshaped (x : Mill) (p : Partition) : Mill :=
  { x with part := p, reshape := none, tiles := x.tiles.filter (fun t => !(altered x.part p).contains t.1) }

/-- A change of partition alters a quern exactly when the quern's yoke becomes another one. -/
theorem mem_altered_iff {old new : Partition} {q : Nat} (hq : q < 32) :
    q ∈ altered old new ↔ yokeAt old q ≠ yokeAt new q := by
  simp [altered, hq]

/-- The stationary operand of an altered quern is zero, and every other quern keeps its own (R45). -/
theorem Mill.tile_reshaped (x : Mill) (p : Partition) (q : Nat) :
    Table.get {} (x.reshaped p).tiles q = if q ∈ altered x.part p then {} else Table.get {} x.tiles q := by
  have h := Table.get_filter {} x.tiles (fun k => !(altered x.part p).contains k) q
  by_cases hq : q ∈ altered x.part p
  · rw [if_pos hq]; exact h.trans (if_neg (by simpa using hq))
  · rw [if_neg hq]; exact h.trans (if_pos (by simpa using hq))

/-- With no operation, stationary load or stream of rows in flight, a pending reshape takes effect (R44). -/
theorem State.reshapeNow_of_idle {s : State} {m : Nat} {p : Partition} (hp : (s.mill m).reshape = some p)
    (hf : (s.mill m).flights = []) (hl : (s.mill m).loads = [])
    (hs : ∀ q, ((s.mill m).quern q).stream ≤ s.clock.now) :
    s.reshapeNow m = s.setMill m ((s.mill m).reshaped p) := by
  have hidle : (altered (s.mill m).part p).any (fun q => decide (s.clock.now < ((s.mill m).quern q).stream)) = false := by
    simpa [List.any_eq_false] using fun q _ => hs q
  simp only [State.reshapeNow, hp, hf, hl, hidle, List.any_nil, Bool.or_self, Bool.false_eq_true, if_false, Mill.reshaped]

/-- At an epoch boundary a mill that is not frozen does what its pending reshape asks. -/
theorem execReshapeTakesEffect_atEpoch {s : State} {m : MillIx} (he : s.atEpoch = true)
    (hz : (s.mill m.toNat).frozen = false) : exec (.reshapeTakesEffect m) s = .next (s.reshapeNow m.toNat) := by
  simp [exec, execReshapeTakesEffect, he, hz]

/-- Setting a mill changes that mill alone. -/
theorem State.sameButMill_setMill (s : State) (m : Nat) (x : Mill) : s.sameButMill (s.setMill m x) m :=
  ⟨rfl, fun _ hk => State.mill_setMill_ne s x hk.symm⟩

/-- Settles O60: the mill that the idle reshape leaves is `Mill.reshaped`, whose tiles `Mill.tile_reshaped` reads. -/
theorem reshapeZeroes : Obligations.ReshapeZeroes := by
  intro m p s htick hcyc hz hp hf hl hs
  have he : s.atEpoch = true := by simp [State.atEpoch, htick, hcyc]
  refine ⟨s.setMill m.toNat ((s.mill m.toNat).reshaped p), ?_, State.sameButMill_setMill s _ _, ?_⟩
  · rw [execReshapeTakesEffect_atEpoch he hz, State.reshapeNow_of_idle hp hf hl hs]
  · rw [State.mill_setMill]
    refine ⟨rfl, rfl, fun q hq hne => ?_, fun q hq heq => ?_⟩
    · rw [Mill.tile_reshaped, if_pos ((mem_altered_iff hq).2 hne.symm)]
    · rw [Mill.tile_reshaped, if_neg fun h => (mem_altered_iff hq).1 h heq.symm]

end Sys2Proof.Machine

/-! Reads of the bell registers (R170, R636): which operation answers a read within the BELL block from 0x3B00010 on, where no
complement-word register stands, and what BELL_NOW0 to BELL_NOW2 hold. -/

namespace Sys2Proof.Machine

/-- An offset of the BELL block behind BELL_CTL and BELL_DOWN, the complement-word registers of the block. -/
def inBellRead (off : Nat) : Prop := 0x3B00010 ≤ off ∧ off < 0x3B00180

/-- The steward has taken over from the boot ROM, so every register answers. -/
theorem State.answers_of_booted {s : State} (hs : s.bootRom = false) (off : Nat) : s.answers off = true := by
  simp [State.answers, hs]

/-- The bell belongs to the management plane, so every reader reaches it (R24, R26). -/
theorem inPlane_of_inBellRead (w : Writer) {off : Nat} (h : inBellRead off) : inPlane w off = true := by
  obtain ⟨hlo, hhi⟩ := h
  have hbell : 0x3B00000 ≤ off ∧ off < 0x3B00180 := by omega
  simp [inPlane, managed, hbell]

/-- Behind BELL_DOWN the BELL block holds no complement-word register. -/
theorem State.cwAt_of_inBellRead (s : State) {b : Nat} (h : inBellRead b) : s.cwAt b = none := by
  obtain ⟨hlo, hhi⟩ := h
  unfold State.cwAt
  iterate 5 rw [if_neg (by omega)]
  split <;> simp_all

/-- So no reader is answered with the committed word of a complement-word register there. -/
theorem State.cwOf_of_inBellRead (s : State) (w : Writer) {off : Nat} (h : inBellRead off) : s.cwOf w off = none := by
  have hword : inBellRead (off / 8 * 8) := by
    obtain ⟨hlo, hhi⟩ := h
    constructor <;> omega
  simp [State.cwOf, s.cwAt_of_inBellRead hword]

/-- A plain read in the BELL block is answered by the bell. -/
theorem State.readPlain_of_inBellRead (s : State) {off : Nat} (h : inBellRead off) :
    s.readPlain off = s.bell.read (off - 0x3B00000) := by
  obtain ⟨hlo, hhi⟩ := h
  unfold State.readPlain
  iterate 15 rw [if_neg (by omega)]
  rw [if_pos (by omega)]

/-- A read of BELL_NOW0 returns the cycle and captures the bell, for every reader (R170). -/
theorem State.regRead_bellNow0 (w : Writer) {s : State} (hs : s.bootRom = false) :
    s.regRead w 0x3B00020 = (BitVec.ofNat 32 s.clock.cyc,
      s.modBell (fun b => { b with capCycle := s.clock.cyc, capTick := s.clock.tick })) := by
  have h : inBellRead 0x3B00020 := by simp [inBellRead]
  simp [State.regRead, State.answers_of_booted hs, inPlane_of_inBellRead w h, s.cwOf_of_inBellRead w h, pack]

/-- A read of BELL_NOW1 or BELL_NOW2 is answered by the bell alone and changes nothing, through both apertures (R170, R636). -/
theorem State.regRead_bellNowTick (w : Writer) {s : State} (hs : s.bootRom = false) {off : Nat}
    (hoff : off = 0x3B00024 ∨ off = 0x3B00028) : s.regRead w off = (s.bell.read (off - 0x3B00000), s) := by
  have h : inBellRead off := by
    constructor <;> omega
  have hnow0 : off ≠ 0x3B00020 := by omega
  have htally : ¬ (0x4000000 ≤ off ∧ off < 0x4124000) := by omega
  simp [State.regRead, State.answers_of_booted hs, inPlane_of_inBellRead w h, s.cwOf_of_inBellRead w h,
    s.readPlain_of_inBellRead h, hnow0, htally, hoff]

/-- BELL_NOW1 holds the low half of the captured tick count. -/
theorem Bell.read_bellNow1 (b : Bell) : b.read 0x24 = b.capTick.truncate 32 := rfl

/-- BELL_NOW2 holds the high half of the captured tick count. -/
theorem Bell.read_bellNow2 (b : Bell) : b.read 0x28 = (b.capTick >>> 32).truncate 32 := rfl

/-- BELL_NOW_CAPTURE makes the capture that a read of BELL_NOW0 makes. -/
theorem exec_bellNowCapture {s : State} (hs : s.bootRom = false) : exec .bellNowCapture s =
    .next (s.modBell (fun b => { b with capCycle := s.clock.cyc, capTick := s.clock.tick })) := by
  simp [exec, execBellNowCapture, hs]

/-- Settles O58: the capture changes the bell alone, and the bell answers the two later reads from what was captured. -/
theorem bellNowReads : Obligations.BellNowReads := by
  intro w s hs
  refine ⟨State.regRead_bellNow0 w hs, exec_bellNowCapture hs, ?_, ?_⟩
  · rw [State.regRead_bellNowTick w hs (.inl rfl), Bell.read_bellNow1]
  · rw [State.regRead_bellNowTick w hs (.inr rfl), Bell.read_bellNow2]

end Sys2Proof.Machine

/-! A drop of the debug level below 2 (R608): what the relock of a mill and of the state leaves in the debug parts of its engines
and its reeves, and that the log entry of the new level touches none of them. -/

namespace Sys2Proof.Machine

/-- No debug halt stands and no breakpoint is set (R608). -/
def Dbg.Free (x : Dbg) : Prop := x.halt = .none ∧ x.bps = []

theorem Dbg.released_free (x : Dbg) : x.released.Free := ⟨rfl, rfl⟩

/-- The relock of a mill releases the debug part of each of its engines. -/
theorem Mill.dbg_relocked (x : Mill) (e : Eng) : (x.relocked.eng e).dbg = (x.eng e).dbg.released := by
  cases e <;> rfl

/-- The relock of the device relocks each of its mills; a mill that was never touched needs none. -/
theorem State.mill_relock (s : State) (m : Nat) : s.relock.mill m = (s.mill m).relocked :=
  Table.get_map ({} : Mill) s.mills Mill.relocked rfl m

/-- The device at the new level, its highest level since cold reset (SEC_DBG.max) kept up. -/
def State.atLevel (s : State) (l : BitVec 2) : State :=
  { s with level := l, sec := { s.sec with max := if s.sec.max.toNat < l.toNat then l else s.sec.max } }

/-- A drop below 2 relocks the device at the new level, and logs the level. -/
theorem State.setLevel_of_drop {s : State} {l : BitVec 2} (hs : 2 ≤ s.level.toNat) (hl : l.toNat < 2) :
    s.setLevel l = (s.atLevel l).relock.logEntry 4 l.toNat 0 [] 0 := by
  have hne : l ≠ s.level := by
    rintro rfl
    omega
  simp [State.setLevel, State.atLevel, hne, hs, hl]

/-- A drop below 2 relocks every mill. -/
theorem State.mill_setLevel_of_drop {s : State} {l : BitVec 2} (hs : 2 ≤ s.level.toNat) (hl : l.toNat < 2) (m : Nat) :
    (s.setLevel l).mill m = (s.mill m).relocked := by
  rw [State.setLevel_of_drop hs hl]
  exact State.mill_relock (s.atLevel l) m

/-- A drop below 2 takes the new level and releases the debug parts of both reeves. -/
theorem State.reeves_setLevel_of_drop {s : State} {l : BitVec 2} (hs : 2 ≤ s.level.toNat) (hl : l.toNat < 2) :
    (s.setLevel l).level = l ∧ (s.setLevel l).reeveW.dbg = s.reeveW.dbg.released ∧
      (s.setLevel l).reeveE.dbg = s.reeveE.dbg.released := by
  rw [State.setLevel_of_drop hs hl]
  exact ⟨rfl, rfl, rfl⟩

/-- Settles O59: every engine and reeve is left with a released debug part, and the relock of a mill keeps what froze or stopped
it. -/
theorem levelDropReleases : Obligations.LevelDropReleases := by
  intro l s hs hl
  obtain ⟨hlevel, hW, hE⟩ := State.reeves_setLevel_of_drop hs hl
  have hmill := State.mill_setLevel_of_drop hs hl
  have heng (m : Nat) (e : Eng) : (((s.setLevel l).mill m).eng e).dbg.Free := by
    rw [hmill, Mill.dbg_relocked]
    exact Dbg.released_free _
  obtain ⟨hWhalt, hWbps⟩ : (s.setLevel l).reeveW.dbg.Free := hW ▸ Dbg.released_free _
  obtain ⟨hEhalt, hEbps⟩ : (s.setLevel l).reeveE.dbg.Free := hE ▸ Dbg.released_free _
  have hkept (m : Nat) : ((s.setLevel l).mill m).frozen = (s.mill m).frozen ∧
      ((s.setLevel l).mill m).stopped = (s.mill m).stopped := by
    rw [hmill]
    exact ⟨rfl, rfl⟩
  exact ⟨hlevel, heng, hWhalt, hWbps, hEhalt, hEbps, hkept⟩

end Sys2Proof.Machine
